-- ==== Sys2Proof/Word.lean ====
section
/-! DEFINITION. The word types of the KF4 (02 R22, R30; 02 R19; 14 R268). -/

namespace Sys2Proof

/-- One byte of memory. -/
abbrev Byte := BitVec 8

/-- A 32-bit register or instruction word (R22, R30). -/
abbrev Word := BitVec 32

/-- A 64-bit stream register, queue word or device register (R263, R268). -/
abbrev DWord := BitVec 64

/-- A 56-bit virtual address or PC (R19, R83). -/
abbrev Addr := BitVec 56

end Sys2Proof
end

