-- ==== Sys2Proof/Config.lean ====
section
/-! DEFINITION. The figures of R1 that the rules use, and the free values: what the manual leaves open, as constants without a body. -/

namespace Sys2Proof.Config

/-- Cores of a die (R1). -/
def coresPerDie : Nat := 96
/-- Cores of a package (R1). -/
def cores : Nat := 384
/-- Thread slots of a core (R1, R192). -/
def slotsPerCore : Nat := 2048
/-- Band frames of a core (R192). -/
def framesPerCore : Nat := 64
/-- Lane registers of a core's pool (R1, R123). -/
def poolRegs : Nat := 131072
/-- Bytes of a slice (R1). -/
def sliceBytes : Nat := 2097152
/-- Armed watches of a core (R104). -/
def watchesPerCore : Nat := 64
/-- Accepted, incomplete commands a matrix engine holds (R145). -/
def mxCapacity : Nat := 16
/-- Accepted, incomplete commands a copy engine holds (R145). -/
def cpCapacity : Nat := 32
/-- Recalls a core's queue holds (R175). -/
def recallQueue : Nat := 4
/-- Lines in a task's read log and in its write log (R297). -/
def logLines : Nat := 256
/-- Task entries of a line's consumer list (R292). -/
def consumers : Nat := 8
/-- Records the gathering pool of a package holds (R210). -/
def gatherPool : Nat := 65536
/-- Nodes the node store of a package holds (R381). -/
def nodeStore : Nat := 65536
/-- Bytes of the front end's queue buffer (R267). -/
def queueBuffer : Nat := 8388608
/-- Entries of a level-2 partition's watch table (R327). -/
def watchTable : Nat := 4096
/-- Entries of the input buffer of an update pause (R359). -/
def inputBuffer : Nat := 4096
/-- Bytes of a die's egress hold buffer (R1). -/
def egressBuffer : Nat := 4194304
/-- Bytes of a recovery window's staging (R362). -/
def stagingBytes : Nat := 57344
/-- Clks in the gathering window of 2 microseconds (R211). -/
def defaultWindow : Nat := 5000
/-- Lines of 64 bytes that a core's read-only path cache holds: 256 KiB (R1). -/
def rocLines : Nat := 4096
/-- Entries of a core's micro-TLB (R244). -/
def coreTlb : Nat := 64
/-- Entries of a die's shared TLB (R244). -/
def dieTlb : Nat := 16384
/-- Bytes of device memory: 384 GB (R1). -/
def deviceBytes : Nat := 384000000000
/-- First physical address of the I/O window (R356). -/
def ioWindow : Nat := 0xF0000000000
/-- Physical address of the doorbell of queue pair 0 (R356). -/
def doorbellBase : Nat := 0xF0010000000

/-- The n-th choice that the manual leaves to the machine: a held translation or a fresh walk (R245), an old or a new value of
a racing word (R58). Free value, log 4. -/
opaque freeBool : Nat → Bool

/-- The n-th number that the manual leaves open (the slot a stall sample's LFSR gives, R378). Free value, log 4. -/
opaque freeNat : Nat → Nat

/-- The n-th byte that the manual leaves open. Free value, log 4. -/
opaque freeByte : Nat → Byte

/-- The die whose stacks hold a 64 KiB frame (R216 does not place frames on dies). Free value, log 4. -/
opaque dieOfFrame : Nat → Nat

/-- Whether bytes carry a valid signature under the vendor key whose digest the boot ROM holds (R360). Free value, log 5. -/
opaque authentic : List Byte → Bool

/-- The version number an image carries (R360). Free value, log 5. -/
opaque imageVersion : List Byte → Nat

/-- The offset of a die's 1 GHz counter in 1/16 ns, 0 to 3 the core dies and 4 the I/O die (R379). Free value, log 4. -/
opaque dieOffset : Nat → Nat

/-- The format version of a core context's save image (R323). Free value, log 58. -/
opaque contextVersion : Nat

/-- The size in KiB of a core context's save image, of a welt or not (R323). Free value, log 58. -/
opaque contextKbytes : Bool → Nat

/-- Whether a configuration record is signed and names this device (R361). Free value, log 5. -/
opaque configAuthentic : List Byte → Bool

/-- The settings of a configuration record: MINVER, the launch-frame port, the enabled links of the fabric, ports and PCIe links, and the
spare map as the order in which a die's physical pairs are taken (R361, R366). Free value, log 5. -/
opaque configFields : List Byte → Nat × Nat × (Nat × Nat × Nat) × (Nat → List Nat)

/-- The SHA-512 digest of bytes, by which an image is measured (R360). Free value, log 5. -/
opaque digest : List Byte → List Byte

/-- The boot ROM of the I/O die (R360). Free value, log 5. -/
opaque bootRom : List Byte

/-- The identity certificate (R360). Free value, log 5. -/
opaque certificate : List Byte

/-- The attestation key derived from the identity key and the measurements (R360). Free value, log 5. -/
opaque attestKey : List (List Byte) → List Byte

/-- Measurements and the part's unavailable cores signed with an attestation key, as SPDM returns them (R360, R366). Free value, log 5. -/
opaque spdmSigned : List Byte → List (List Byte) → List Nat → List Byte

/-- The bits of a header flit's ATTR: from the size in bytes, the byte mask, the operation's code, the ordering with its scope, the node and
the block (R357). Free value, log 19. -/
opaque attrBits : Nat → DWord → Nat → Nat → Nat → Word → BitVec 118

/-- The hash of R358 over a destination package and a line's address. Free value, log 4. -/
opaque planeHash : Nat → Nat → Nat

end Sys2Proof.Config
end

