-- ==== Sys2Proof/Machine/Bits.lean ====
section
/-! DEFINITION. Bit fields, sign extension and byte order (R6, R36). -/

namespace Sys2Proof

/-- Bits [hi:lo] of a number (R6). -/
def bits (w hi lo : Nat) : Nat := w / 2 ^ lo % 2 ^ (hi + 1 - lo)

/-- One bit of a number. -/
def bitAt (w i : Nat) : Bool := w / 2 ^ i % 2 == 1

/-- A number below 2^n read as two's complement of n bits. -/
def sextNat (n w : Nat) : Int := if w % 2 ^ n < 2 ^ (n - 1) then (w % 2 ^ n : Int) else (w % 2 ^ n : Int) - 2 ^ n

/-- 0 or 1. -/
def boolNat (b : Bool) : Nat := if b then 1 else 0

/-- 0 or 1 as a register value. -/
def boolWord (b : Bool) : Word := if b then 1 else 0

/-- The value of bytes in little-endian order (R36). -/
def leNat : List Byte → Nat
  | [] => 0
  | b :: bs => b.toNat + 256 * leNat bs

/-- The n bytes of a number in little-endian order (R36). -/
def leBytes : Nat → Nat → List Byte
  | 0, _ => []
  | n + 1, w => BitVec.ofNat 8 w :: leBytes n (w / 256)

/-- The 32-bit words of a byte list, the first at the lowest address (R36). -/
def wordsOfBytes : List Byte → List Word
  | b0 :: b1 :: b2 :: b3 :: bs => BitVec.ofNat 32 (leNat [b0, b1, b2, b3]) :: wordsOfBytes bs
  | _ => []

/-- Number of set bits among the low n bits. -/
def popcount : Nat → Nat → Nat
  | 0, _ => 0
  | n + 1, w => w % 2 + popcount n (w / 2)

/-- The positions of the set bits among the low n bits, ascending. -/
def setBits (n w : Nat) : List Nat := (List.range n).filter (bitAt w)

end Sys2Proof
end

