-- ==== Sys2Proof/Machine/Flags.lean ====
section
/-! DEFINITION. The conditions of FSTAT (R44) and the flag computations of integer arithmetic. A set of conditions is a word laid out
as FSTAT is, so that a meaning ORs it in. -/

namespace Sys2Proof.Machine

/-- NV, bit 0 (R44). -/
def fNV : Word := 1
/-- DZ, bit 1. -/
def fDZ : Word := 2
/-- OF, bit 2. -/
def fOF : Word := 4
/-- UF, bit 3. -/
def fUF : Word := 8
/-- NX, bit 4. -/
def fNX : Word := 16
/-- SAT, bit 5. -/
def fSAT : Word := 32

/-- A condition that holds or not. -/
def flagIf (b : Bool) (f : Word) : Word := if b then f else 0

/-- FSTAT's six implemented bits (R44). -/
def fstatMask : Word := 0x3F

/-- A result with the conditions it records. -/
abbrev FRes := Word × Word

/-- Clamp an exact integer and record SAT where it was clamped (R63). -/
def clampSat (lo hi x : Int) : FRes :=
  if x < lo then (BitVec.ofInt 32 lo, fSAT)
  else if hi < x then (BitVec.ofInt 32 hi, fSAT)
  else (BitVec.ofInt 32 x, 0)

end Sys2Proof.Machine
end

