-- ==== Sys2Proof/Syntax.lean ====
section
/-! DEFINITION. The operands of the KF4's instructions, commands and events, and `Instr`: one constructor for each row
of spec/opcode_table.json. Decode turns the encoded fields into these operands; the machine never sees raw fields. -/

namespace Sys2Proof

/-- A lane source field (R26): v0-v159, the band's s0-s31, or an entry of the constant table. -/
inductive LaneSrc where
  | v (n : Fin 160)
  | s (n : Fin 32)
  | k (n : Fin 64)
deriving DecidableEq, Repr

/-- A lane destination field (R26): v0-v159, or 255, which discards. -/
inductive LaneDst where
  | v (n : Fin 160)
  | discard
deriving DecidableEq, Repr

/-- A uniform source field (R26): s0-s31, a special register, or a constant. -/
inductive UniSrc where
  | s (n : Fin 32)
  | sp (n : Fin 32)
  | k (n : Fin 64)
deriving DecidableEq, Repr

/-- A uniform destination field (R26): s0-s31, or 255, which discards. -/
inductive UniDst where
  | s (n : Fin 32)
  | discard
deriving DecidableEq, Repr

/-- The cross-lane modifier of source A (R25). -/
inductive Xl where
  | none
  | idx (n : Fin 32)
  | xor (n : Fin 32)
  | up (n : Fin 32)
  | down (n : Fin 32)
deriving DecidableEq, Repr

/-- Rounding modes (R23). -/
inductive Rm where
  | nearest | zero | down | up
deriving DecidableEq, Repr

/-- IMAD's SAT field (R59, R63). -/
inductive Sat where
  | wrap | signed | unsigned
deriving DecidableEq, Repr

/-- Integer conditions (R59). -/
inductive ICond where
  | eq | ne | lt | le | gt | ge
deriving DecidableEq, Repr

/-- Float conditions (R59, R69). -/
inductive FCond where
  | eq | ne | lt | le | gt | ge | un | ord
deriving DecidableEq, Repr

/-- The functions of FTRN (R71). -/
inductive TrnFn where
  | exp2 | log2 | sinpi | cospi
deriving DecidableEq, Repr

/-- The packed 16-bit formats (R59, R72). -/
inductive PFmt where
  | f16 | bf16
deriving DecidableEq, Repr

/-- The type codes 0-12 of CVT (R74). -/
inductive NumType where
  | f32 | f16 | bf16 | e4m3 | e5m2 | e2m1 | e8m0 | s8 | s16 | s32 | u8 | u16 | u32
deriving DecidableEq, Repr

/-- The 8-bit element types of PCVT4 (R77). -/
inductive T8 where
  | e4m3 | e5m2 | s8
deriving DecidableEq, Repr

/-- PCVT2's pack and unpack forms (R76). -/
inductive Pcvt2Form where
  | pack (fmt : PFmt) (rm : Rm) (b : LaneSrc)
  | unpack (fmt : PFmt) (hi : Bool)
deriving DecidableEq, Repr

/-- PCVT4's pack and unpack forms (R77). -/
inductive Pcvt4Form where
  | pack (t : T8) (fmt : PFmt) (rm : Rm) (b : LaneSrc)
  | unpack (t : T8) (fmt : PFmt) (hi : Bool) (rm : Rm)
deriving DecidableEq, Repr

/-- PCVT8's forms (R78): pack reads the run vN to vN+3, N at most 156. -/
inductive Pcvt8Form where
  | pack (fmt : PFmt) (rm : Rm) (n : Fin 157)
  | unpack (fmt : PFmt) (q : Fin 4) (rm : Rm) (a : LaneSrc) (x : Xl)
deriving DecidableEq, Repr

/-- The operators of XRED and XSCN (R106). -/
inductive XOp where
  | add | smin | smax | umin | umax | and | or | xor | fadd | fmin | fmax
deriving DecidableEq, Repr

/-- Access sizes (R86). -/
inductive Sz where
  | u8 | s8 | u16 | s16 | u32 | b64 | b128
deriving DecidableEq, Repr

/-- The five memory scopes (R2). -/
inductive Scope where
  | blk | pair | die | pkg | dom
deriving DecidableEq, Repr

/-- The ordering codes of one access (R86). -/
inductive Ord16 where
  | relaxed
  | acq (s : Scope)
  | rel (s : Scope)
  | ar (s : Scope)
deriving DecidableEq, Repr

/-- The choice AB of SETA or SETB (R23). -/
inductive Ab where
  | a | b
deriving DecidableEq, Repr

/-- Grades (R7, R291), ordered NONE < GUESS < PROV < FINAL. -/
inductive Grade where
  | none | guess | prov | final
deriving DecidableEq, Repr

/-- The operations of ATOM and RED (R93). -/
inductive AtomOp where
  | add | smin | smax | umin | umax | and | or | xor | exch | fadd
deriving DecidableEq, Repr

/-- The kinds of FENCE (R95). -/
inductive FenceKind where
  | acq | rel | sc
deriving DecidableEq, Repr

/-- A core's two sequencers (R132). -/
inductive Seq where
  | mx | cp
deriving DecidableEq, Repr

/-- The matrix formats (R47, R153). -/
inductive MFmt where
  | mxfp4 | s8 | e4m3 | bf16
deriving DecidableEq, Repr

/-- A stream register c0-c15 (R268). -/
abbrev CReg := Fin 16

/-- The second operand of CADD to CSHR (R270): a register or a 13-bit signed immediate. -/
inductive COp where
  | c (n : CReg)
  | imm (x : BitVec 13)
deriving DecidableEq, Repr

/-- CBR's conditions (R272). -/
inductive CCond where
  | eq | ne | lt | ge | ltu | geu
deriving DecidableEq, Repr

/-- A stream (R268): a queue of a level-1 partition, or the command program of a graph run. -/
inductive StreamId where
  | queue (lp1 : Fin 16) (q : Fin 1024)
  | prog (inst : Nat)
deriving DecidableEq, Repr

/-- How an access ends at its port (R91, R149): performed, refused there, or lost through a dead link. -/
inductive Fate where
  | performed | refused | lost
deriving DecidableEq, Repr

/-- A resume record (R249), field by field. -/
structure ResumeRec where
  pgl  : BitVec 16
  res0 : BitVec 14
  psz  : Fin 4
  act  : Fin 16
  res1 : BitVec 4
  pgh  : BitVec 24
  res2 : BitVec 26
  part : Fin 64
  res3 : Word
deriving DecidableEq, Repr

/-- The key that groups continuation records (R210). -/
structure GatherKey where
  inst  : Nat
  node  : Nat
  role  : Nat
  entry : Nat
deriving DecidableEq, Repr

/-- A launch frame and the Ethernet port on which it arrives (R285). -/
structure Frame where
  port    : Fin 6
  src     : Nat
  magic   : BitVec 16
  version : Byte
  n       : Byte
  lp1     : Byte
  zero    : BitVec 24
  tag     : DWord
  words   : List DWord
deriving DecidableEq, Repr

/-- A register of the device by its place (R264, R352, R370, R377): a level-1 partition's block or a port of BAR2 through its own virtual
function, PF0's BAR0, or a partition's port through PF0's BAR2. -/
inductive RegAddr where
  | block (lp1 : Fin 16) (ofs : Nat)
  | pf0 (ofs : Nat)
  | port (lp1 : Fin 16) (ofs : Nat)
  | pf0Port (lp1 : Fin 16) (ofs : Nat)
deriving DecidableEq, Repr

/-- What patrol scrub finds in a line (R363, R365). -/
inductive ScrubFind where
  | clean | corrected | uncorrectable
deriving DecidableEq, Repr

/-- A message of the Tuitur fabric as it reaches this package (R357), with the parts of ATTR the rules name. Bit i of the byte
mask says that data byte i is written. -/
structure Msg where
  spkg  : Byte
  tag   : BitVec 16
  addr  : Addr
  part  : Fin 64
  ginst : Nat
  grade : Grade
  n     : Nat
  data  : List Byte
  mask  : DWord
  op    : Option AtomOp
  cas   : Option DWord
  ord   : Ord16
  node  : Nat
  block : Word
  core  : Nat
  amdep : Nat
  fate  : Fate
deriving DecidableEq, Repr

/-- An incoming RoCE request and the Ethernet port on which it arrives (R355, R361). -/
structure RdmaPkt where
  port : Fin 6
  qpn  : Nat
  key  : Word
  va   : Addr
  len  : Nat
  data : List Byte
  imm  : Word
deriving DecidableEq, Repr

/-- The steps of the KF4: device instructions (rows 0-142 of the opcode table), command-set words (143-170) and the
part's events. -/
inductive Instr where
  /-- IADD (R62): Adds A and B modulo 2^32 into vD. -/
  | iadd (d : LaneDst) (a b : LaneSrc)
  /-- ISUB (R62): Subtracts B from A modulo 2^32 into vD. -/
  | isub (d : LaneDst) (a b : LaneSrc)
  /-- IMUL (R62): Writes the low 32 bits of A times B to vD. -/
  | imul (d : LaneDst) (a b : LaneSrc)
  /-- IMULH (R62): Writes the high 32 bits of the signed product of A and B to vD. -/
  | imulh (d : LaneDst) (a b : LaneSrc)
  /-- IMULHU (R62): Writes the high 32 bits of the unsigned product of A and B to vD. -/
  | imulhu (d : LaneDst) (a b : LaneSrc)
  /-- IMAD (R63): Multiplies A by B and adds C, with wrap or saturation. -/
  | imad (sat : Sat) (d : LaneDst) (a : LaneSrc) (x : Xl) (b c : LaneSrc)
  /-- IMIN (R62): Writes the signed minimum of A and B. -/
  | imin (d : LaneDst) (a b : LaneSrc)
  /-- IMAX (R62): Writes the signed maximum of A and B. -/
  | imax (d : LaneDst) (a b : LaneSrc)
  /-- IMINU (R62): Writes the unsigned minimum of A and B. -/
  | iminu (d : LaneDst) (a b : LaneSrc)
  /-- IMAXU (R62): Writes the unsigned maximum of A and B. -/
  | imaxu (d : LaneDst) (a b : LaneSrc)
  /-- AND (R62): Writes A AND B. -/
  | and (d : LaneDst) (a b : LaneSrc)
  /-- OR (R62): Writes A OR B. -/
  | or (d : LaneDst) (a b : LaneSrc)
  /-- XOR (R62): Writes A XOR B. -/
  | xor (d : LaneDst) (a b : LaneSrc)
  /-- ANDN (R62): Writes A AND NOT B. -/
  | andn (d : LaneDst) (a b : LaneSrc)
  /-- SHL (R62): Shifts A left by u(B), or gives 0 at 32 or more. -/
  | shl (d : LaneDst) (a b : LaneSrc)
  /-- SHR (R62): Shifts A right with zero fill by u(B). -/
  | shr (d : LaneDst) (a b : LaneSrc)
  /-- SAR (R62): Shifts A right with sign fill by u(B). -/
  | sar (d : LaneDst) (a b : LaneSrc)
  /-- POPC (R62): Counts the set bits of A. -/
  | popc (d : LaneDst) (a : LaneSrc)
  /-- CLZ (R62): Counts the zero bits above the highest set bit of A. -/
  | clz (d : LaneDst) (a : LaneSrc)
  /-- BFE (R64): Extracts a bit field of A, zero- or sign-extended. -/
  | bfe (sgn : Bool) (d : LaneDst) (a : LaneSrc) (x : Xl) (b : LaneSrc)
  /-- BFI (R64): Inserts a bit field of B into A. -/
  | bfi (d : LaneDst) (a : LaneSrc) (x : Xl) (b c : LaneSrc)
  /-- ICMP (R65): Compares A with B as integers and writes 1 or 0. -/
  | icmp (cc : ICond) (u : Bool) (d : LaneDst) (a : LaneSrc) (x : Xl) (b : LaneSrc)
  /-- FADD (R66): Adds two FP32 values with one rounding. -/
  | fadd (rm : Rm) (d : LaneDst) (a : LaneSrc) (x : Xl) (b : LaneSrc)
  /-- FSUB (R66): Subtracts two FP32 values with one rounding. -/
  | fsub (rm : Rm) (d : LaneDst) (a : LaneSrc) (x : Xl) (b : LaneSrc)
  /-- FMUL (R66): Multiplies two FP32 values with one rounding. -/
  | fmul (rm : Rm) (d : LaneDst) (a : LaneSrc) (x : Xl) (b : LaneSrc)
  /-- FFMA (R66): Computes A times B plus C in FP32 with one rounding. -/
  | ffma (rm : Rm) (d : LaneDst) (a : LaneSrc) (x : Xl) (b c : LaneSrc)
  /-- FMIN (R68): Writes the smaller of two FP32 values. -/
  | fmin (d : LaneDst) (a b : LaneSrc)
  /-- FMAX (R68): Writes the larger of two FP32 values. -/
  | fmax (d : LaneDst) (a b : LaneSrc)
  /-- FABS (R68): Clears bit 31 of A. -/
  | fabs (d : LaneDst) (a : LaneSrc)
  /-- FNEG (R68): Inverts bit 31 of A. -/
  | fneg (d : LaneDst) (a : LaneSrc)
  /-- FCMP (R69): Compares two FP32 values and writes 1 or 0. -/
  | fcmp (cc : FCond) (d : LaneDst) (a : LaneSrc) (x : Xl) (b : LaneSrc)
  /-- FCLASS (R70): Writes a one-hot class mask of an FP32 value. -/
  | fclass (d : LaneDst) (a : LaneSrc)
  /-- FRCP (R67): Computes the correctly rounded reciprocal of A. -/
  | frcp (rm : Rm) (d : LaneDst) (a : LaneSrc) (x : Xl)
  /-- FRSQ (R67): Computes the correctly rounded reciprocal square root of A. -/
  | frsq (rm : Rm) (d : LaneDst) (a : LaneSrc) (x : Xl)
  /-- FSQRT (R67): Computes the correctly rounded square root of A. -/
  | fsqrt (rm : Rm) (d : LaneDst) (a : LaneSrc) (x : Xl)
  /-- FTRN (R71): Evaluates exp2, log2, sinpi or cospi with one rounding. -/
  | ftrn (fn : TrnFn) (rm : Rm) (d : LaneDst) (a : LaneSrc) (x : Xl)
  /-- PADD (R72): Adds two packed 16-bit float pairs. -/
  | padd (fmt : PFmt) (rm : Rm) (d : LaneDst) (a : LaneSrc) (x : Xl) (b : LaneSrc)
  /-- PMUL (R72): Multiplies two packed 16-bit float pairs. -/
  | pmul (fmt : PFmt) (rm : Rm) (d : LaneDst) (a : LaneSrc) (x : Xl) (b : LaneSrc)
  /-- PFMA (R72): Fused multiply-add on packed 16-bit float pairs. -/
  | pfma (fmt : PFmt) (rm : Rm) (d : LaneDst) (a : LaneSrc) (x : Xl) (b c : LaneSrc)
  /-- PMIN (R72): Minimum of packed 16-bit float pairs. -/
  | pmin (fmt : PFmt) (d : LaneDst) (a : LaneSrc) (x : Xl) (b : LaneSrc)
  /-- PMAX (R72): Maximum of packed 16-bit float pairs. -/
  | pmax (fmt : PFmt) (d : LaneDst) (a : LaneSrc) (x : Xl) (b : LaneSrc)
  /-- PDOT (R73): Dot product of two packed pairs plus an FP32 value, rounded once. -/
  | pdot (fmt : PFmt) (rm : Rm) (d : LaneDst) (a : LaneSrc) (x : Xl) (b c : LaneSrc)
  /-- CVT (R74): Converts A from type ST to type DT. -/
  | cvt (dt st : NumType) (rm : Rm) (d : LaneDst) (a : LaneSrc) (x : Xl)
  /-- FRND (R75): Rounds an FP32 value to an integral FP32 value. -/
  | frnd (rm : Rm) (d : LaneDst) (a : LaneSrc) (x : Xl)
  /-- PCVT2 (R76): Packs or unpacks between FP32 and a 16-bit float format. -/
  | pcvt2 (f : Pcvt2Form) (d : LaneDst) (a : LaneSrc) (x : Xl)
  /-- PCVT4 (R77): Converts between four 8-bit elements and 16-bit elements under a block scale. -/
  | pcvt4 (f : Pcvt4Form) (d : LaneDst) (a : LaneSrc) (x : Xl) (c : LaneSrc)
  /-- PCVT8 (R78): Converts between eight FP4 elements and 16-bit elements under a block scale. -/
  | pcvt8 (f : Pcvt8Form) (d : LaneDst) (c : LaneSrc)
  /-- MOV (R79): Copies a register, optionally from another lane. -/
  | mov (d : LaneDst) (a : LaneSrc) (x : Xl)
  /-- MOVI (R80): Loads a 32-bit literal into vD. -/
  | movi (d : LaneDst) (imm : Word)
  /-- SEL (R81): Selects A if C is nonzero, else B. -/
  | sel (d : LaneDst) (a : LaneSrc) (x : Xl) (b c : LaneSrc)
  /-- RDSP (R82): Reads a special register into vD. -/
  | rdsp (d : LaneDst) (n : Fin 19)
  /-- RDSP_CLR (R82): Returns FSTAT and clears it as one action. -/
  | rdspClr (d : LaneDst)
  /-- XSHF (R105): Band shuffle reading A from the lane named by B. -/
  | xshf (d : LaneDst) (a b : LaneSrc)
  /-- XBAL (R105): Band ballot of lanes whose A is nonzero. -/
  | xbal (d : LaneDst) (a : LaneSrc)
  /-- XRED (R105): Band reduction of A over the participating lanes. -/
  | xred (op : XOp) (rm : Rm) (d : LaneDst) (a : LaneSrc)
  /-- XSCN (R105): Band inclusive or exclusive scan of A. -/
  | xscn (op : XOp) (rm : Rm) (exc : Bool) (d : LaneDst) (a : LaneSrc)
  /-- LD (R88): Issues a load of 1 to 16 bytes, optionally acquiring, raising its flag. -/
  | ld (sz : Sz) (ord : Ord16) (ab : Ab) (d : LaneDst) (a : LaneSrc) (ofs : BitVec 22)
  /-- LDRO (R89): Issues a load through the read-only path cache. -/
  | ldro (sz : Sz) (ab : Ab) (d : LaneDst) (a : LaneSrc) (ofs : BitVec 22)
  /-- ST (R90): Issues a posted store, plain or graded, optionally releasing. -/
  | st (g : Grade) (sz : Sz) (ord : Ord16) (ab : Ab) (a : LaneSrc) (ofs : BitVec 22) (b : LaneSrc)
  /-- ATOM (R93): Issues an atomic read-modify-write at the home port returning the old value. -/
  | atom (op : AtomOp) (w : Bool) (ord : Ord16) (ab : Ab) (d : LaneDst) (a : LaneSrc) (ofs : BitVec 22) (b : LaneSrc)
  /-- ATOMCAS (R93): Issues an atomic compare-and-swap. -/
  | atomcas (w : Bool) (ord : Ord16) (ab : Ab) (d : LaneDst) (a : LaneSrc) (ofs : BitVec 22) (b : LaneSrc)
  /-- RED (R93): Issues an atomic reduction that returns nothing. -/
  | red (op : AtomOp) (w : Bool) (ord : Ord16) (ab : Ab) (a : LaneSrc) (ofs : BitVec 22) (b : LaneSrc)
  /-- CPA (R96): Issues a 32-byte copy from memory to the slice with zero fill. -/
  | cpa (ab : Ab) (d : Fin 160) (a : LaneSrc) (ofs : BitVec 22) (b : LaneSrc)
  /-- FENCE (R95): Orders the thread's accesses and reports store failures. -/
  | fence (kind : FenceKind) (scope : Scope) (ab : Ab) (d : LaneDst)
  /-- GRD (R97): Reads the grade metadata of a line. -/
  | grd (ab : Ab) (d : LaneDst) (a : LaneSrc) (ofs : BitVec 22)
  /-- GCONF (R98): Confirms a graded line to a grade without writing data. -/
  | gconf (g : Grade) (ab : Ab) (d : LaneDst) (a : LaneSrc) (ofs : BitVec 22)
  /-- HARR (R100): Arrives on a hasp, plain or in sequence on a ring, as a release. -/
  | harr (seq : Option LaneSrc) (d : LaneDst) (h : Fin 32)
  /-- HWAIT (R102): Blocks the thread until a hasp phase completes. -/
  | hwait (d : LaneDst) (h : Fin 32) (b : LaneSrc)
  /-- HWAITS (R102): Blocks the thread until a sequence phase of a ring completes. -/
  | hwaits (d : LaneDst) (h : Fin 32) (b : LaneSrc)
  /-- HTEST (R103): Judges a hasp phase once without blocking. -/
  | htest (d : LaneDst) (h : Fin 32) (b : LaneSrc)
  /-- HMON (R104): Arms a watch on a line that arrives on a hasp when it fires. -/
  | hmon (d : LaneDst) (h : Fin 32) (a : LaneSrc) (ofs : BitVec 22)
  /-- BRA (R107): Branches to a clause offset. -/
  | bra (imm : Word)
  /-- BRZ (R107): Branches if A is zero. -/
  | brz (a : LaneSrc) (imm : Word)
  /-- BRNZ (R107): Branches if A is nonzero. -/
  | brnz (a : LaneSrc) (imm : Word)
  /-- JMPI (R107): Jumps to the code base plus u(A). -/
  | jmpi (a : LaneSrc)
  /-- CALL (R108): Pushes the next clause and branches, spilling the stack if full. -/
  | call (imm : Word)
  /-- CALLI (R108): Pushes the next clause and jumps to the code base plus u(A). -/
  | calli (a : LaneSrc)
  /-- RET (R108): Pops the return stack into the PC, filling from a spilled chunk if empty. -/
  | ret
  /-- EXIT (R109): Ends the thread and clears its PM bit. -/
  | exit
  /-- NOP (R107): Does nothing. -/
  | nop
  /-- BRK (R110): Raises the breakpoint trap or halts for a debugger. -/
  | brk
  /-- TRAP (R110): Raises the TRAP trap with number n. -/
  | trap (n : Byte)
  /-- CONT (R111): Emits a continuation record to the gathering pool. -/
  | cont (ab : Ab) (d : LaneDst) (n : Fin 145)
  /-- ENQ (R112): Appends an 8-byte entry to a queue. -/
  | enq (ab : Ab) (d : LaneDst) (a : LaneSrc) (b : Fin 159)
  /-- SADD (R119): Uniform add. -/
  | sadd (d : UniDst) (a b : UniSrc)
  /-- SSUB (R119): Uniform subtract. -/
  | ssub (d : UniDst) (a b : UniSrc)
  /-- SMUL (R119): Uniform multiply, low 32 bits. -/
  | smul (d : UniDst) (a b : UniSrc)
  /-- SMIN (R119): Uniform signed minimum. -/
  | smin (d : UniDst) (a b : UniSrc)
  /-- SMAX (R119): Uniform signed maximum. -/
  | smax (d : UniDst) (a b : UniSrc)
  /-- SAND (R119): Uniform AND. -/
  | sand (d : UniDst) (a b : UniSrc)
  /-- SOR (R119): Uniform OR. -/
  | sor (d : UniDst) (a b : UniSrc)
  /-- SXOR (R119): Uniform XOR. -/
  | sxor (d : UniDst) (a b : UniSrc)
  /-- SSHL (R119): Uniform shift left. -/
  | sshl (d : UniDst) (a b : UniSrc)
  /-- SSHR (R119): Uniform logical shift right. -/
  | sshr (d : UniDst) (a b : UniSrc)
  /-- SSAR (R119): Uniform arithmetic shift right. -/
  | ssar (d : UniDst) (a b : UniSrc)
  /-- SCMP (R120): Uniform compare writing 1 or 0. -/
  | scmp (cc : ICond) (u : Bool) (d : UniDst) (a b : UniSrc)
  /-- SSEL (R120): Uniform select. -/
  | ssel (d : UniDst) (a b c : UniSrc)
  /-- SMOV (R119): Uniform move. -/
  | smov (d : UniDst) (a : UniSrc)
  /-- SMOVI (R119): Uniform load of a 32-bit literal. -/
  | smovi (d : UniDst) (imm : Word)
  /-- SPOPC (R119): Uniform population count. -/
  | spopc (d : UniDst) (a : UniSrc)
  /-- SBRA (R121): Uniform branch. -/
  | sbra (imm : Word)
  /-- SBRZ (R121): Uniform branch if zero. -/
  | sbrz (a : UniSrc) (imm : Word)
  /-- SBRNZ (R121): Uniform branch if nonzero. -/
  | sbrnz (a : UniSrc) (imm : Word)
  /-- SLOOP (R121): Decrements a uniform counter and branches while nonzero. -/
  | sloop (d : Fin 31) (imm : Word)
  /-- SDONE (R122): Ends the strand. -/
  | sdone
  /-- GROW (R124): Posts a request for a larger register budget. -/
  | grow (d : UniDst) (h : Fin 32) (a : UniSrc)
  /-- SHRINK (R125): Lowers the band's register budget and returns registers to the pool. -/
  | shrink (a : UniSrc)
  /-- ATTACH (R127): Makes a free band join a block and its membership hasps. -/
  | attach (d : UniDst) (a b : UniSrc)
  /-- DETACH (R129): Makes a band leave its block and adjusts membership hasps. -/
  | detach (d : UniDst)
  /-- FORK (R132): Starts a strand on the matrix or copy sequencer. -/
  | fork (seq : Seq) (d : UniDst) (imm : Word)
  /-- SRD (R133): Reads a register of a sequencer's strand register file. -/
  | srd (seq : Seq) (d : UniDst) (n : Fin 32)
  /-- SWR (R133): Writes a register of a sequencer's strand register file. -/
  | swr (seq : Seq) (n : Fin 32) (a : UniSrc)
  /-- HINIT (R139): Initialises a hasp with an expected arrival count. -/
  | hinit (h : Fin 32) (a : UniSrc)
  /-- HSRC (R140): Activates a hasp byte source slot with its source core and byte count. -/
  | hsrc (h : Fin 32) (k : Fin 4) (a b : UniSrc)
  /-- HSRC_CLR (R140): Deactivates a hasp source slot and tries completion. -/
  | hsrcClr (h : Fin 32) (k : Fin 4)
  /-- HEXP (R141): Adds byte and arrival expectations to the current hasp phase. -/
  | hexp (h : Fin 32) (k : Fin 4) (a b : UniSrc)
  /-- HRING (R142): Makes a run of hasps a ring of k stages. -/
  | hring (h : Fin 32) (a b : UniSrc)
  /-- HINV (R143): Invalidates a hasp, disarms its watches and releases its waiters. -/
  | hinv (h : Fin 32)
  /-- SHARR (R144): Strand arrival on a hasp after its earlier operations complete. -/
  | sharr (h : Fin 32)
  /-- SHWAIT (R144): Holds the strand until a hasp phase completes. -/
  | shwait (h : Fin 32) (a : UniSrc)
  /-- MXLD (R153): Loads weight blocks into a matrix plane. -/
  | mxld (fmt : MFmt) (p : Fin 2) (ab : Ab) (a : UniSrc) (ofs : BitVec 22) (d b : UniSrc)
  /-- MXSW (R155): Selects the active weight plane. -/
  | mxsw (p : Fin 2)
  /-- MXSC_W (R156): Sets a weight tile scale of a plane. -/
  | mxscW (p : Fin 2) (t : Fin 8) (a : UniSrc)
  /-- MXSC_A (R156): Sets the activation scale table address. -/
  | mxscA (a : UniSrc) (ofs : BitVec 22)
  /-- MXSC_A_NONE (R156): Clears the activation scale table address. -/
  | mxscANone
  /-- MXMM (R158): Streams activation rows through the active plane into accumulator rows. -/
  | mxmm (fmt : MFmt) (u : Fin 128) (ab : Ab) (a : UniSrc) (ofs : BitVec 22) (d b : UniSrc)
  /-- ACCZ (R161): Zeroes accumulator rows. -/
  | accz (d b : UniSrc)
  /-- ACCLD (R161): Loads accumulator rows from memory. -/
  | accld (bf16 : Bool) (acq : Option Scope) (ab : Ab) (a : UniSrc) (ofs : BitVec 22) (d b : UniSrc)
  /-- ACCMV (R161): Moves accumulator rows to memory as FP32 or BF16. -/
  | accmv (bf16 : Bool) (rel : Option Scope) (ab : Ab) (a : UniSrc) (ofs : BitVec 22) (d b : UniSrc)
  /-- ACCMV_ADD (R161): Adds accumulator rows onto memory as indivisible row updates. -/
  | accmvAdd (rel : Option Scope) (ab : Ab) (a : UniSrc) (ofs : BitVec 22) (d b : UniSrc)
  /-- CPT (R166): Copies a tensor box into the slice with zero fill. -/
  | cpt (cnt : Option (Fin 32)) (ab : Ab) (d a : UniSrc) (ofs : BitVec 22) (b : Fin 32)
  /-- CPG (R166): Gathers a tensor box into the slice through an index list. -/
  | cpg (cnt : Option (Fin 32)) (ab : Ab) (d a : UniSrc) (ofs : BitVec 22) (b : Fin 32)
  /-- CPS (R166): Scatters a slice box into a tensor. -/
  | cps (cnt : Option (Fin 32)) (ab : Ab) (d a : UniSrc) (ofs : BitVec 22) (b : Fin 32)
  /-- CPZ (R166): Writes zero into every element of a slice box. -/
  | cpz (cnt : Option (Fin 32)) (ab : Ab) (d a : UniSrc) (ofs : BitVec 22)
  /-- SURR (R169): Registers the block's surrender routine. -/
  | surr (d : UniDst) (imm : Word) (a : UniSrc)
  /-- YIELD_DONE (R172): Ends the surrender routine and resumes the block, to release the core at exit. -/
  | yieldDone
  /-- YIELD_SUMM (R172): Ends the surrender routine and ends the block once CONT statuses are in. -/
  | yieldSumm
  /-- YIELD_REFUSE (R172): Refuses the recall if refusals remain, else lets it save the block. -/
  | yieldRefuse
  /-- RCLQ (R174): Reads the recall state. -/
  | rclq (d : UniDst)
  /-- TRET_REDO (R176): Returns from trap mode to the trapped slot. -/
  | tretRedo
  /-- TRET_SKIP (R176): Returns from trap mode past the trapped instruction. -/
  | tretSkip
  /-- SNOP (R177): A rendezvous with no effect. -/
  | snop
  /-- SBRK (R178): Raises the breakpoint trap at the rendezvous or halts for a debugger. -/
  | sbrk
  /-- CLI (R270): Loads a sign-extended immediate into a stream register. -/
  | cli (d : CReg) (imm : Word)
  /-- CLI_U (R270): Loads a zero-extended immediate into a stream register. -/
  | cliU (d : CReg) (imm : Word)
  /-- CLI_HI (R270): Loads an immediate into the high half of a stream register. -/
  | cliHi (d : CReg) (imm : Word)
  /-- CADD (R270): Stream register add. -/
  | cadd (d a : CReg) (y : COp)
  /-- CSUB (R270): Stream register subtract. -/
  | csub (d a : CReg) (y : COp)
  /-- CAND (R270): Stream register AND. -/
  | cand (d a : CReg) (y : COp)
  /-- COR (R270): Stream register OR. -/
  | cor (d a : CReg) (y : COp)
  /-- CSHL (R270): Stream register shift left. -/
  | cshl (d a : CReg) (y : COp)
  /-- CSHR (R270): Stream register shift right. -/
  | cshr (d a : CReg) (y : COp)
  /-- CLD (R271): Loads a 64-bit word into a stream register, waiting on a sub-final graded line. -/
  | cld (ord : Fin 3) (d a : CReg) (x : BitVec 14)
  /-- CST (R271): Stores a stream register to memory. -/
  | cst (ord : Fin 3) (a : CReg) (x : BitVec 14) (b : CReg)
  /-- CBR (R272): Conditional branch in a command program. -/
  | cbr (cc : CCond) (a b : CReg) (imm : Word)
  /-- CJMP (R272): Branch in a command program. -/
  | cjmp (imm : Word)
  /-- CCALL (R272): Call in a command program. -/
  | ccall (imm : Word)
  /-- CRET (R272): Return in a command program. -/
  | cret
  /-- CLOOP (R272): Decrements a stream register and branches while nonzero. -/
  | cloop (d : CReg) (imm : Word)
  /-- LAUNCH (R273): Opens the gate of a gated node. -/
  | launch (d a b : CReg)
  /-- GRAPH (R274): Starts a graph run from a stream. -/
  | graph (d a : CReg) (handle : BitVec 16) (flags idx : Byte)
  /-- CWAIT_NODE (R275): Holds the stream until a node completes, faults or its run ends. -/
  | cwaitNode (d a : CReg)
  /-- CWAIT_INST (R275): Holds the stream until an run ends. -/
  | cwaitInst (d a : CReg)
  /-- CWAIT_MEM (R275): Holds the stream until a memory word reaches a value. -/
  | cwaitMem (d a b : CReg)
  /-- CWAIT_TIME (R275): Holds the stream until the I/O die counter reaches a value. -/
  | cwaitTime (d b : CReg)
  /-- CWAIT_CONDITION_MET (R275): A waiting stream's condition holds and it resumes with its result. -/
  | cwaitConditionMet (stream : StreamId)
  /-- AMEND (R276): Writes a value with a grade on behalf of the stream. -/
  | amend (wide : Bool) (g : Grade) (d a b : CReg)
  /-- SIGNAL (R277): Writes a type 5 event record and optionally raises an MSI-X vector. -/
  | signal (vec : BitVec 11) (rse : Bool) (a : CReg) (imm : Word)
  /-- CFENCE (R277): Holds the stream until its earlier CSTs and AMENDs are performed. -/
  | cfence
  /-- CTIME (R277): Reads the I/O die counter into a stream register. -/
  | ctime (d : CReg)
  /-- CHALT (R277): Stops a queue or ends a command program. -/
  | chalt
  /-- CLAUSE_START (R9): A thread's clause starts once its WAIT flags are zero and set-field counts allow. -/
  | clauseStart
  /-- LOAD_COMPLETE (R88): A load's data returns to its destination and its flag falls. -/
  | loadComplete (op : Nat)
  /-- LOAD_REFUSED_OR_LOST (R237): A load or atomic is refused remotely or lost, writing nothing and lowering its flag. -/
  | loadRefusedOrLost (op : Nat) (lost : Bool)
  /-- STORE_COMPLETE (R90): A store is performed, enters the egress hold buffer or fails, and its flag falls. -/
  | storeComplete (op : Nat) (fate : Fate)
  /-- ATOMIC_COMPLETE (R93): An atomic or RED is performed at its port and its flag falls. -/
  | atomicComplete (op : Nat)
  /-- CPA_COMPLETE (R96): All 32 bytes of a CPA are in the slice and its flag falls. -/
  | cpaComplete (op : Nat) (fate : Fate)
  /-- FENCE_COMPLETE (R95): A FENCE's waits end and its status word is written. -/
  | fenceComplete (op : Nat)
  /-- GCONF_COMPLETE (R98): The tumbler acts on a GCONF and returns its status. -/
  | gconfComplete (op : Nat)
  /-- CONT_COMPLETE (R111): The front end accepts, discards or refuses a continuation record and returns its status. -/
  | contComplete (op : Nat)
  /-- ENQ_COMPLETE (R289): The front end places an ENQ entry in the queue, its spill area or refuses it. -/
  | enqComplete (op : Nat)
  /-- RESUME_RETRY (R249): A resume record with ACT 0 makes matched parked threads and commands re-issue. -/
  | resumeRetry (lp1 : Fin 16) (rec : ResumeRec)
  /-- RESUME_FAIL (R249): A resume record with ACT 1 makes matched threads trap and commands stop. -/
  | resumeFail (lp1 : Fin 16) (rec : ResumeRec)
  /-- COPY_BYTES_LANDED (R167): A copy's bytes land and are counted on the named hasp's source slot: of its box,
  units.2 bytes from units.1. -/
  | copyBytesLanded (cmd : Nat) (units : Nat × Nat) (fate : Fate)
  /-- MONITOR_FIRE (R104): An armed watch fires once on a write or lost entry and arrives on its hasp. -/
  | monitorFire (watch : Nat) (lost : Bool)
  /-- GROW_GRANT (R124): The head GROW request is granted when the pool has room and arrives on its hasp. -/
  | growGrant (core : Nat)
  /-- ENGINE_COMMAND_COMPLETE (R146): An accepted matrix or copy command completes and lowers its flags, or performs
  ended.1's count of elements from its first. -/
  | engineCommandComplete (cmd : Nat) (ended : Option (Nat × Nat) × Fate)
  /-- BLOCK_START (R199): Dispatch starts a block as a gang on a core with room, after any stagger. -/
  | blockStart (core : Nat)
  /-- BLOCK_END (R203): A block with no band, running strand or incomplete command ends and frees its hasps. -/
  | blockEnd (block : Nat)
  /-- INSTANCE_COMPLETE (R286): A graph run ends complete and its completion record is written. -/
  | instanceComplete (inst : Nat)
  /-- GATHERING_WINDOW_EXPIRY (R211): A partial band's gathering window runs out and the band is released. -/
  | gatheringWindowExpiry (key : GatherKey)
  /-- RECORD_BAND_START (R212): A released band of records starts as a free band on the lowest core with room. -/
  | recordBandStart (inst : Nat)
  /-- GCLR_START (R293): Writing GO starts a grade clear of a page range or refuses it. -/
  | gclrStart (lp1 : Fin 16) (w3 : Word)
  /-- GCLR_DONE (R293): A grade clear completes with every line of the range at NONE. -/
  | gclrDone (lp1 : Fin 16)
  /-- QUEUE_ENABLE (R263): Writing ENABLE 1 checks the descriptor and starts the queue. -/
  | queueEnable (lp1 : Fin 16) (q : Fin 1024)
  /-- QUEUE_DISABLE (R263): Writing ENABLE 0 turns the queue off and discards unexecuted entries. -/
  | queueDisable (lp1 : Fin 16) (q : Fin 1024)
  /-- QUEUE_RESTART (R263): Writing RESTART sets a halted or stopped queue running. -/
  | queueRestart (lp1 : Fin 16) (q : Fin 1024)
  /-- TAIL_WRITE (R265): A tail port write snapshots ring bytes into the queue's stream or halts it. -/
  | tailWrite (lp1 : Fin 16) (q : Fin 1024) (t : DWord)
  /-- QUEUE_SWAP_READBACK (R267): Evicted or spilled entries are read back before they execute. -/
  | queueSwapReadback (lp1 : Fin 16) (q : Fin 1024)
  /-- LAUNCH_WORD (R284): A launch port write starts a graph run or is refused. -/
  | launchWord (lp1 : Fin 16) (w : DWord)
  /-- LAUNCH_FRAME (R285): A UDP launch frame is accepted and its launch words processed, or dropped. -/
  | launchFrame (f : Frame)
  /-- REGISTER (R282): A REGISTER doorbell write asks firmware to validate and register a graph image. -/
  | register (lp1 : Fin 16) (bytes : Nat) (w : DWord)
  /-- REGISTRATION_RESULT (R282): Firmware finishes validation and writes the type 2 event record; the code area
  is at place.1 for tenants and place.2 in device memory (log 44). -/
  | registrationResult (lp1 : Fin 16) (place : Addr × Nat)
  /-- UNREGISTER (R282): An UNREGISTER doorbell write removes a graph or is refused. -/
  | unregister (lp1 : Fin 16) (bytes : Nat) (w : DWord)
  /-- TLB_INVALIDATE (R353): Writing GO starts a TLB invalidation or refuses it. -/
  | tlbInvalidate (lp1 : Fin 16) (w3 : Word)
  /-- TLB_INVALIDATE_DONE (R245): An invalidation completes once every TLB has dropped the entries and their accesses are performed. -/
  | tlbInvalidateDone (lp1 : Fin 16)
  /-- BAR4_READ (R354): A host read through the BAR4 window is translated and served; win is the PCIe link and the window. -/
  | bar4Read (win : Fin 2 × Fin 17) (ofs n : Nat)
  /-- BAR4_WRITE (R354): A host write through the BAR4 window is translated and performed or dropped; win is the PCIe link and the window. -/
  | bar4Write (win : Fin 2 × Fin 17) (ofs : Nat) (data : List Byte)
  /-- REGISTER_WRITE (R352): A write to a register without behaviour of its own updates or is ignored; r is the PCIe link and
  the register. -/
  | registerWrite (r : Fin 2 × RegAddr) (n : Nat) (w : BitVec 128)
  /-- BIND_RECORD_WRITE (R314): Firmware writes a bind record, which is checked and taken or refused. -/
  | bindRecordWrite (slot : Fin 128) (words : List Word)
  /-- UNBIND (R319): Clearing VALID unbinds a slot and recalls its cores. -/
  | unbind (slot : Fin 128)
  /-- SLICE_END (R316): A slot's slice ends and the core switches to the next slot with work. -/
  | sliceEnd (core : Nat)
  /-- STARVATION_BIND (R318): At 1.5 ms without a binding, hardware binds Interactive work to a slot. -/
  | starvationBind (lp1 : Fin 16) (isGraph : Bool) (handle : Nat)
  /-- RECALL_COMMAND (R320): Firmware requests a recall of a core. -/
  | recallCommand (core tag : Nat)
  /-- ROUTINE_BOUND_EXPIRY (R171): The routine count reaches its bound and the block is saved. -/
  | routineBoundExpiry (core : Nat)
  /-- FINISH_BOUND_EXPIRY (R320): FINB runs out after YIELD.done and the block is saved. -/
  | finishBoundExpiry (core : Nat)
  /-- FRAME_GRANT (R330): Firmware grants a frame, making it pending-zero for a new owner. -/
  | frameGrant (lp1 : Fin 16) (frame : Nat)
  /-- FRAME_SCRUB (R330): The scrub engine zeroes a pending-zero frame line. -/
  | frameScrub (line : Nat)
  /-- PATROL_SCRUB (R365): Patrol scrub reads a line and corrects it. -/
  | patrolScrub (line : Nat) (found : ScrubFind)
  /-- TUITUR_READ (R357): A read message arrives at its home package. -/
  | tuiturRead (m : Msg)
  /-- TUITUR_WRITE (R357): A write message arrives and is performed. -/
  | tuiturWrite (m : Msg)
  /-- TUITUR_ATOMIC (R357): An atomic or RED message arrives and is performed. -/
  | tuiturAtomic (m : Msg)
  /-- TUITUR_RESPONSE (R357): A response message returns to its requester. -/
  | tuiturResponse (m : Msg)
  /-- TUITUR_GRADED_WRITE (R306): A graded write message is checked by the owning tumbler. -/
  | tuiturGradedWrite (m : Msg)
  /-- TUITUR_REFIRE (R307): A re-fire message reaches a remote consumer's front end. -/
  | tuiturRefire (m : Msg)
  /-- TUITUR_ACK (R307): An acknowledge message reaches the owning tumbler. -/
  | tuiturAck (m : Msg)
  /-- TUITUR_CANCEL_TOKEN (R309): A cancel token reaches another package. -/
  | tuiturCancelToken (m : Msg)
  /-- TUITUR_COPY_DATA (R357): Copy data arrives at its destination slice. -/
  | tuiturCopyData (m : Msg)
  /-- LINK_DEAD (R358): Retry fails for 10 µs or training fails and the link is declared dead. -/
  | linkDead (link : Fin 18)
  /-- LINK_REJOIN (R358): A retrained link rejoins when no message is in flight. -/
  | linkRejoin (link : Fin 18)
  /-- ROCE_DOORBELL (R356): A doorbell store posts a RoCE requester work request. -/
  | roceDoorbell (qp : Nat) (pi : DWord)
  /-- RDMA_COMPLETION (R356): A requester operation completes and its completion entry is written. -/
  | rdmaCompletion (qp : Nat) (data : List Byte) (ok : Bool)
  /-- RDMA_WRITE (R355): An incoming RDMA WRITE is performed by the responder. -/
  | rdmaWrite (p : RdmaPkt)
  /-- RDMA_WRITE_WITH_IMMEDIATE (R355): An incoming write with immediate is performed and its immediate delivered as an event record. -/
  | rdmaWriteWithImmediate (p : RdmaPkt)
  /-- RDMA_READ (R355): An incoming RDMA READ is served by the responder. -/
  | rdmaRead (p : RdmaPkt)
  /-- STANDBY_TAKEOVER (R359): No heartbeat for 10 ms makes the standby complex active. -/
  | standbyTakeover
  /-- LIVE_UPDATE (R359): The update doorbell starts authentication and boot of a new image on standby. -/
  | liveUpdate (image : List Byte) (readable : Bool)
  /-- UPDATE_TAKEOVER (R359): At a quiescent boundary the new image becomes active. -/
  | updateTakeover
  /-- RESET (R360): Reset runs the boot ROM sequence. -/
  | reset
  /-- RECOVERY_APPEND (R362): Recovery CMD 1 appends the staging bytes. -/
  | recoveryAppend
  /-- RECOVERY_COMMIT_A (R362): Recovery CMD 2 authenticates and commits the image to slot A. -/
  | recoveryCommitA
  /-- RECOVERY_COMMIT_B (R362): Recovery CMD 3 authenticates and commits the image to slot B. -/
  | recoveryCommitB
  /-- RECOVERY_RESET (R362): Recovery CMD 4 resets the device. -/
  | recoveryReset
  /-- THROTTLE (R368): A core above 95 °C or its current limit inserts idle clks. -/
  | throttle (core : Nat)
  /-- THERMAL_SHUTDOWN (R368): A core above 105 °C shuts the package down. -/
  | thermalShutdown (core : Nat)
  /-- DEBUG_HALT (R370): Debug CMD 1 halts a target thread or strand. -/
  | debugHalt (core : Nat) (tgt : BitVec 12)
  /-- DEBUG_RESUME (R370): Debug CMD 2 resumes a halted target. -/
  | debugResume (core : Nat) (tgt : BitVec 12)
  /-- DEBUG_STEP (R373): Debug CMD 3 issues one instruction of the target and halts it. -/
  | debugStep (core : Nat) (tgt : BitVec 12)
  /-- DEBUG_READ_REGISTER (R374): Debug CMD 4 reads a register of a halted target. -/
  | debugReadRegister (core : Nat) (tgt : BitVec 12)
  /-- DEBUG_WRITE_REGISTER (R374): Debug CMD 5 writes a register of a halted target and flags the edit. -/
  | debugWriteRegister (core : Nat) (tgt : BitVec 12)
  /-- DEBUG_HALT_ALL (R370): Debug CMD 6 halts every thread and strand of a partition on the core. -/
  | debugHaltAll (core : Nat) (part : Fin 64)
  /-- DEBUG_RESUME_ALL (R370): Debug CMD 7 resumes every thread and strand of a partition on the core. -/
  | debugResumeAll (core : Nat) (part : Fin 64)
  /-- DEBUG_RIGHT_GRANT (R369): Firmware grants a partition's debug right. -/
  | debugRightGrant (part : Fin 64)
  /-- DEBUG_RIGHT_REVOKE (R375): Firmware revokes a debug right, clearing breakpoints and resuming halted targets. -/
  | debugRightRevoke (part : Fin 64)
  /-- STALL_SAMPLE (R378): Every 2^STALLP clk a core samples one thread and writes a stall record. -/
  | stallSample (core : Nat)
  /-- SKEW_MEASURE (R379): Each 1 ms hardware measures counter offsets between dies and links. -/
  | skewMeasure (entry : Fin 28) (ofs : Word) (unc : BitVec 15)
  /-- GRD_COMPLETE (R97): A GRD's grade metadata read returns its status word to the destination and its flag falls. -/
  | grdComplete (op : Nat)
  /-- LAYOUT_RECORD_READ (R164): The 64-byte layout record read for a copy instruction returns, and the instruction is accepted or traps on an invalid record. -/
  | layoutRecordRead (op : Nat)
  /-- THROTTLE_END (R368): A throttled core's hotspot temperature and supply current fall back within limits, and it stops inserting idle clks. -/
  | throttleEnd (core : Nat)
  /-- IN_SERVICE_SELF_TEST_FAILURE (R366): A pair fails its self-test in service beyond the spares, and its exposed pair is marked unavailable, logged and removed from core sets. -/
  | inServiceSelfTestFailure (die : Fin 4) (pair : Fin 48)
  /-- SPDM_REQUEST (R360): An SPDM request over DOE returns the identity certificate and signed measurements. -/
  | spdmRequest
  /-- DEBUG_HIT_READ (R370): A read of word 35 of a core's debug block returns HIT and clears it. -/
  | debugHitRead (core : Nat)
deriving DecidableEq, Repr

end Sys2Proof
end

