-- ==== Sys2Proof/Machine/Float.lean ====
section
/-! DEFINITION. Float values as exact dyadic numbers, the formats of R37 and R38, and the one rounding of R41, R42 and R45. Every
float meaning reads its operands into `FVal`, computes exactly, and rounds once. -/

namespace Sys2Proof.Machine

/-- The value of a float pattern: a NaN, an infinity, or (-1)^s * m * 2^e. -/
inductive FVal where
  | nan
  | inf (s : Bool)
  | fin (s : Bool) (m : Nat) (e : Int)
deriving DecidableEq, Repr

/-- How a format treats what lies beyond its largest finite value (R45). -/
inductive FKind where
  | ieee | e4m3 | e2m1
deriving DecidableEq, Repr

/-- A float format (R37): widths of the exponent and fraction, bias, kind, largest finite code and canonical NaN. -/
structure FFmt where
  eb     : Nat
  mb     : Nat
  bias   : Nat
  kind   : FKind
  maxFin : Nat
  nan    : Nat
deriving DecidableEq, Repr

/-- FP32 (R37). -/
def fp32 : FFmt := ⟨8, 23, 127, .ieee, 0x7F7FFFFF, 0x7FC00000⟩
/-- FP16 (R37). -/
def fp16 : FFmt := ⟨5, 10, 15, .ieee, 0x7BFF, 0x7E00⟩
/-- BF16 (R37). -/
def bf16 : FFmt := ⟨8, 7, 127, .ieee, 0x7F7F, 0x7FC0⟩
/-- FP8 E5M2 (R37). -/
def fe5m2 : FFmt := ⟨5, 2, 15, .ieee, 0x7B, 0x7E⟩
/-- FP8 E4M3 (R37): no infinities, one NaN magnitude. -/
def fe4m3 : FFmt := ⟨4, 3, 7, .e4m3, 0x7E, 0x7F⟩
/-- FP4 E2M1 (R37): neither infinities nor NaNs. -/
def fe2m1 : FFmt := ⟨2, 1, 1, .e2m1, 0x7, 0x0⟩

/-- The format of a packed selector (R59). -/
def pfmt : PFmt → FFmt
  | .f16 => fp16
  | .bf16 => bf16

/-- Exponent of the format's smallest quantum. -/
def FFmt.qmin (f : FFmt) : Int := 1 - (f.bias : Int) - f.mb

/-- The sign bit of a pattern. -/
def FFmt.signOf (f : FFmt) (w : Nat) : Bool := bitAt w (f.eb + f.mb)

/-- The magnitude bits of a pattern. -/
def FFmt.magOf (f : FFmt) (w : Nat) : Nat := w % 2 ^ (f.eb + f.mb)

/-- Is the pattern a NaN (R37)? -/
def FFmt.isNan (f : FFmt) (w : Nat) : Bool :=
  match f.kind with
  | .ieee => (2 ^ f.eb - 1) * 2 ^ f.mb < f.magOf w
  | .e4m3 => f.magOf w == 0x7F
  | .e2m1 => false

/-- Is the pattern an infinity (R37)? -/
def FFmt.isInf (f : FFmt) (w : Nat) : Bool :=
  match f.kind with
  | .ieee => f.magOf w == (2 ^ f.eb - 1) * 2 ^ f.mb
  | _ => false

/-- The value of a pattern (R37). -/
def FFmt.read (f : FFmt) (w : Nat) : FVal :=
  if f.isNan w then .nan
  else if f.isInf w then .inf (f.signOf w)
  else
    let e := f.magOf w / 2 ^ f.mb
    let m := f.magOf w % 2 ^ f.mb
    if e == 0 then .fin (f.signOf w) m f.qmin
    else .fin (f.signOf w) (m + 2 ^ f.mb) (f.qmin + e - 1)

/-- An FP32 register value. -/
def rd32 (w : Word) : FVal := fp32.read w.toNat

/-- The number of bits of a number (0 for 0). -/
def bitLen (n : Nat) : Nat := if n == 0 then 0 else n.log2 + 1

/-- Is the magnitude rounded away from zero? `low` is the last kept bit, `half` and `rest` what lies below it (R23). -/
def roundsUp (rm : Rm) (s low half rest : Bool) : Bool :=
  match rm with
  | .nearest => half && (rest || low)
  | .zero => false
  | .down => s && (half || rest)
  | .up => !s && (half || rest)

/-- (m + d) * 2^e rounded to a multiple of 2^q, as a multiple, with whether that was inexact; `sticky` says 0 < d < 1. -/
def roundAt (rm : Rm) (s : Bool) (m : Nat) (e : Int) (sticky : Bool) (q : Int) : Nat × Bool :=
  if q ≤ e then (m * 2 ^ (e - q).toNat, sticky)
  else
    let k := (q - e).toNat
    let r := m / 2 ^ k
    let rem := m % 2 ^ k
    let half := decide (2 ^ (k - 1) ≤ rem)
    let rest := sticky || decide (rem % 2 ^ (k - 1) ≠ 0)
    (r + boolNat (roundsUp rm s (r % 2 == 1) half rest), half || rest)

/-- A magnitude code with its sign put above it. -/
def FFmt.withSign (f : FFmt) (s : Bool) (c : Nat) : Nat := c + boolNat s * 2 ^ (f.eb + f.mb)

/-- The infinity code of a format that has infinities. -/
def FFmt.infCode (f : FFmt) : Nat := f.maxFin + 1

/-- What a finite overflow delivers (R45). -/
def FFmt.overflow (f : FFmt) (rm : Rm) (s : Bool) : Nat × Word :=
  match f.kind with
  | .ieee =>
    let toInf := match rm with
      | .nearest => true
      | .zero => false
      | .down => s
      | .up => !s
    (f.withSign s (if toInf then f.infCode else f.maxFin), fOF ||| fNX)
  | _ => (f.withSign s f.maxFin, fOF ||| fNX ||| fSAT)

/-- Round (-1)^s * (m + d) * 2^e once (R41, R42, R45). Where `sticky`, m must have at least mb + 3 bits. -/
def FFmt.round (f : FFmt) (rm : Rm) (s : Bool) (m : Nat) (e : Int) (sticky : Bool) : Nat × Word :=
  if m == 0 && !sticky then (f.withSign s 0, 0)
  else
    let qu := e + bitLen m - (f.mb + 1)
    let (ru, _) := roundAt rm s m e sticky qu
    let cu : Int := ru + (qu - f.qmin) * 2 ^ f.mb
    if f.qmin ≤ qu && (f.maxFin : Int) < cu then f.overflow rm s
    else
      let q := max qu f.qmin
      let (r, nx) := roundAt rm s m e sticky q
      let tiny := decide (qu < f.qmin) && decide (ru * 2 ^ (qu - min qu f.qmin).toNat < 2 ^ (f.mb + (f.qmin - min qu f.qmin).toNat))
      (f.withSign s (r + (q - f.qmin).toNat * 2 ^ f.mb), flagIf nx fNX ||| flagIf (nx && tiny) fUF)

/-- A value delivered in a format: R45's rows for a NaN and an infinity, and the one rounding of a finite value. -/
def FFmt.deliver (f : FFmt) (rm : Rm) : FVal → Nat × Word
  | .nan =>
    match f.kind with
    | .e2m1 => (0, fNV)
    | _ => (f.nan, 0)
  | .inf s =>
    match f.kind with
    | .ieee => (f.withSign s f.infCode, 0)
    | _ => (f.withSign s f.maxFin, fSAT)
  | .fin s m e => f.round rm s m e false

/-- An exact intermediate with the invalid condition it raised. -/
abbrev FEx := FVal × Word

/-- Exact product (R43, R67): 0 * infinity is invalid. -/
def fmulEx (a b : FVal) : FEx :=
  match a, b with
  | .nan, _ => (.nan, 0)
  | _, .nan => (.nan, 0)
  | .inf s, .inf t => (.inf (s ^^ t), 0)
  | .inf s, .fin t m _ => if m == 0 then (.nan, fNV) else (.inf (s ^^ t), 0)
  | .fin t m _, .inf s => if m == 0 then (.nan, fNV) else (.inf (s ^^ t), 0)
  | .fin s m e, .fin t n g => (.fin (s ^^ t) (m * n) (e + g), 0)

/-- A finite value as an integer multiple of 2^q, for q no larger than its exponent. -/
def FVal.scaled (q : Int) : FVal → Int
  | .fin s m e => (if s then -1 else 1) * ((m * 2 ^ (e - q).toNat : Nat) : Int)
  | _ => 0

/-- The exponent of a finite value. -/
def FVal.expo : FVal → Int
  | .fin _ _ e => e
  | _ => 0

/-- Is the value a NaN? -/
def FVal.isNan : FVal → Bool
  | .nan => true
  | _ => false

/-- Is it an infinity of this sign? -/
def FVal.isInf (v : FVal) (s : Bool) : Bool := v == .inf s

/-- The sign of a value (false for a NaN). -/
def FVal.sign : FVal → Bool
  | .nan => false
  | .inf s => s
  | .fin s _ _ => s

/-- Is it a zero of either sign? -/
def FVal.isZero : FVal → Bool
  | .fin _ m _ => m == 0
  | _ => false

/-- Exact sum of two values (R67): infinities of both signs are invalid; an exact zero is +0, or -0 toward minus infinity,
and keeps the common sign of two zeros. -/
def faddEx (rm : Rm) (a b : FVal) : FEx :=
  match a, b with
  | .nan, _ => (.nan, 0)
  | _, .nan => (.nan, 0)
  | .inf s, .inf t => if s == t then (.inf s, 0) else (.nan, fNV)
  | .inf s, .fin .. => (.inf s, 0)
  | .fin .., .inf t => (.inf t, 0)
  | .fin s m e, .fin t n g =>
    let q := min e g
    let x := (FVal.fin s m e).scaled q + (FVal.fin t n g).scaled q
    if x == 0 then (.fin (if s == t then s else rm == .down) 0 q, 0)
    else (.fin (decide (x < 0)) x.natAbs q, 0)

/-- A product and a third term summed exactly (FFMA, PFMA; R67: 0 * infinity is invalid even when C is a NaN). -/
def ffmaEx (rm : Rm) (a b c : FVal) : FEx :=
  let (p, f) := fmulEx a b
  let (r, g) := faddEx rm p c
  (r, f ||| g)

/-- The sum of two products and a third term with no rounding between (PDOT, R73). Terms that are infinities of both signs are an invalid
operation, also beside a NaN, which alone would set no NV (R43, R73). An exact zero of three finite terms keeps a sign that all three share
and is else -0 only toward minus infinity, as R67 has it of two; R73 does not say. DEDUCED, log 12. -/
def fdotEx (rm : Rm) (a0 b0 a1 b1 c : FVal) : FEx :=
  let (p, f) := fmulEx a0 b0
  let (q, g) := fmulEx a1 b1
  let clash := [p, q, c].any (·.isInf true) && [p, q, c].any (·.isInf false)
  let t := (faddEx rm (faddEx rm p q).1 c).1
  if f ||| g != 0 then (.nan, fNV)
  else if clash then (.nan, fNV)
  else
    match p, q, c with
    | .fin s _ _, .fin u _ _, .fin v _ _ =>
      if t.isZero then (.fin (if s == u && u == v then s else rm == .down) 0 0, 0) else (t, 0)
    | _, _, _ => (t, 0)

/-- Deliver an exact result in a format, with the invalid condition it carried. -/
def FFmt.finish (f : FFmt) (rm : Rm) (x : FEx) : Nat × Word :=
  let (r, fl) := f.deliver rm x.1
  (r, fl ||| x.2)

/-- Deliver in FP32 as a register value. -/
def fin32 (rm : Rm) (x : FEx) : FRes :=
  let (r, fl) := fp32.finish rm x
  (BitVec.ofNat 32 r, fl)

/-- The canonical NaN of FP32. -/
def nan32 : Word := 0x7FC00000

/-- Bit-by-bit integer square root: the largest r with r*r at most n, tried over k bits. -/
def isqrt : Nat → Nat → Nat → Nat
  | 0, _, r => r
  | k + 1, n, r =>
    let r' := r + 2 ^ k
    isqrt k n (if r' * r' ≤ n then r' else r)

/-- FRCP (R67). -/
def frcpVal (rm : Rm) (a : FVal) : FRes :=
  match a with
  | .nan => (nan32, 0)
  | .inf s => fin32 rm (.fin s 0 0, 0)
  | .fin s m e =>
    if m == 0 then fin32 rm (.inf s, fDZ)
    else
      let k := bitLen m + 32
      let (r, fl) := fp32.round rm s (2 ^ k / m) (-(k : Int) - e) (2 ^ k % m != 0)
      (BitVec.ofNat 32 r, fl)

/-- FSQRT (R67). -/
def fsqrtVal (rm : Rm) (a : FVal) : FRes :=
  match a with
  | .nan => (nan32, 0)
  | .inf s => if s then (nan32, fNV) else fin32 rm (.inf false, 0)
  | .fin s m e =>
    if m == 0 then fin32 rm (.fin s 0 0, 0)
    else if s then (nan32, fNV)
    else
      let m1 := if e % 2 == 0 then m else 2 * m
      let e1 := if e % 2 == 0 then e else e - 1
      let n := m1 * 2 ^ 64
      let r := isqrt 46 n 0
      let (w, fl) := fp32.round rm false r (e1 / 2 - 32) (r * r != n)
      (BitVec.ofNat 32 w, fl)

/-- FRSQ (R67). -/
def frsqVal (rm : Rm) (a : FVal) : FRes :=
  match a with
  | .nan => (nan32, 0)
  | .inf s => if s then (nan32, fNV) else fin32 rm (.fin false 0 0, 0)
  | .fin s m e =>
    if m == 0 then fin32 rm (.inf s, fDZ)
    else if s then (nan32, fNV)
    else
      let m1 := if e % 2 == 0 then m else 2 * m
      let e1 := if e % 2 == 0 then e else e - 1
      let n := 2 ^ 128 / m1
      let r := isqrt 65 n 0
      let (w, fl) := fp32.round rm false r (-64 - e1 / 2) (r * r * m1 != 2 ^ 128)
      (BitVec.ofNat 32 w, fl)

/-- -1, 0 or 1: the order of two values that are no NaN; zeros of both signs are equal. -/
def FVal.cmp (a b : FVal) : Int :=
  match a, b with
  | .inf s, .inf t => if s == t then 0 else if s then -1 else 1
  | .inf s, _ => if s then -1 else 1
  | _, .inf t => if t then 1 else -1
  | _, _ => (a.scaled (min a.expo b.expo) - b.scaled (min a.expo b.expo)).sign

/-- Is a the smaller under R68, where -0 counts as smaller than +0? -/
def FVal.leMin (a b : FVal) : Bool :=
  a.cmp b < 0 || (a.cmp b == 0 && (a.sign || !b.sign))

/-- FMIN and PMIN (R68), on patterns of a format. -/
def FFmt.fmin (f : FFmt) (a b : Nat) : Nat :=
  match f.isNan a, f.isNan b with
  | true, true => f.nan
  | true, false => b
  | false, true => a
  | false, false => if (f.read a).leMin (f.read b) then a else b

/-- FMAX and PMAX (R68). -/
def FFmt.fmax (f : FFmt) (a b : Nat) : Nat :=
  match f.isNan a, f.isNan b with
  | true, true => f.nan
  | true, false => b
  | false, true => a
  | false, false => if (f.read a).leMin (f.read b) then b else a

/-- FCMP (R69): the truth of the condition, and NV where an ordering meets a NaN. -/
def fcmpVal (cc : FCond) (a b : FVal) : Bool × Word :=
  let un := a.isNan || b.isNan
  let c := a.cmp b
  match cc with
  | .eq => (!un && c == 0, 0)
  | .ne => (un || c != 0, 0)
  | .lt => (!un && decide (c < 0), flagIf un fNV)
  | .le => (!un && decide (c ≤ 0), flagIf un fNV)
  | .gt => (!un && decide (0 < c), flagIf un fNV)
  | .ge => (!un && decide (0 ≤ c), flagIf un fNV)
  | .un => (un, 0)
  | .ord => (!un, 0)

/-- FCLASS (R70). -/
def fclassVal (w : Word) : Word :=
  match rd32 w with
  | .nan => 0x100
  | .inf s => if s then 0x1 else 0x80
  | .fin s m _ =>
    if m == 0 then (if s then 0x8 else 0x10)
    else if m < 2 ^ 23 then (if s then 0x4 else 0x20)
    else (if s then 0x2 else 0x40)

/-- A finite value rounded to an integer of its sign (R45, R75): the magnitude and whether a fraction was dropped. -/
def roundInt (rm : Rm) (s : Bool) (m : Nat) (e : Int) : Nat × Bool := roundAt rm s m e false 0

/-- FRND (R75). -/
def frndVal (rm : Rm) (w : Word) : Word :=
  match rd32 w with
  | .nan => nan32
  | .inf _ => w
  | .fin s m e => BitVec.ofNat 32 (fp32.round .nearest s (roundInt rm s m e).1 0 false).1

/-- A conversion into an integer target with limits lo and hi (R45), as a 32-bit pattern (R74). -/
def toIntFmt (lo hi : Int) (rm : Rm) : FVal → FRes
  | .nan => (0, fNV)
  | .inf s => (BitVec.ofInt 32 (if s then lo else hi), fNV ||| fSAT)
  | .fin s m e =>
    let (r, nx) := roundInt rm s m e
    let x : Int := if s then -(r : Int) else r
    if x < lo then (BitVec.ofInt 32 lo, fNV ||| fSAT)
    else if hi < x then (BitVec.ofInt 32 hi, fNV ||| fSAT)
    else (BitVec.ofInt 32 x, flagIf nx fNX)

/-- A conversion into E8M0 (R46). -/
def toE8m0 (rm : Rm) : FVal → FRes
  | .nan => (0xFF, fNV)
  | .inf _ => (0xFF, fNV)
  | .fin s m e =>
    if s || m == 0 then (0xFF, fNV)
    else
      let q := e + bitLen m - 1
      let (r, _) := roundAt rm false m e false q
      let p := q + (if r == 2 then 1 else 0)
      if p < -127 then (0, fSAT)
      else if 127 < p then (0xFE, fSAT)
      else (BitVec.ofInt 32 (p + 127), 0)

/-- The value of an E8M0 code (R38). -/
def rdE8m0 (w : Nat) : FVal := if w % 256 == 255 then .nan else .fin false 1 ((w % 256 : Nat) - 127)

/-- An integer as a float value. -/
def ofIntVal (x : Int) : FVal := .fin (decide (x < 0)) x.natAbs 0

/-- CVT's reading of a source (R74). -/
def NumType.read (t : NumType) (w : Word) : FVal :=
  match t with
  | .f32 => rd32 w
  | .f16 => fp16.read (w.toNat % 2 ^ 16)
  | .bf16 => bf16.read (w.toNat % 2 ^ 16)
  | .e4m3 => fe4m3.read (w.toNat % 2 ^ 8)
  | .e5m2 => fe5m2.read (w.toNat % 2 ^ 8)
  | .e2m1 => fe2m1.read (w.toNat % 2 ^ 4)
  | .e8m0 => rdE8m0 w.toNat
  | .s8 => ofIntVal (sextNat 8 w.toNat)
  | .s16 => ofIntVal (sextNat 16 w.toNat)
  | .s32 => ofIntVal w.toInt
  | .u8 => ofIntVal (w.toNat % 2 ^ 8 : Nat)
  | .u16 => ofIntVal (w.toNat % 2 ^ 16 : Nat)
  | .u32 => ofIntVal w.toNat

/-- A float target as a register value. -/
def FFmt.deliverW (f : FFmt) (rm : Rm) (v : FVal) : FRes :=
  let (r, fl) := f.deliver rm v
  (BitVec.ofNat 32 r, fl)

/-- CVT's delivery into a target (R74, R45, R46). -/
def NumType.deliver (t : NumType) (rm : Rm) (v : FVal) : FRes :=
  match t with
  | .f32 => fp32.deliverW rm v
  | .f16 => fp16.deliverW rm v
  | .bf16 => bf16.deliverW rm v
  | .e4m3 => fe4m3.deliverW rm v
  | .e5m2 => fe5m2.deliverW rm v
  | .e2m1 => fe2m1.deliverW rm v
  | .e8m0 => toE8m0 rm v
  | .s8 => toIntFmt (-(2 ^ 7)) (2 ^ 7 - 1) rm v
  | .s16 => toIntFmt (-(2 ^ 15)) (2 ^ 15 - 1) rm v
  | .s32 => toIntFmt (-(2 ^ 31)) (2 ^ 31 - 1) rm v
  | .u8 => toIntFmt 0 (2 ^ 8 - 1) rm v
  | .u16 => toIntFmt 0 (2 ^ 16 - 1) rm v
  | .u32 => toIntFmt 0 (2 ^ 32 - 1) rm v

/-- A value times 2^k. -/
def FVal.scale (k : Int) : FVal → FVal
  | .fin s m e => .fin s m (e + k)
  | v => v

/-- A value times 2^(X - 127), or a NaN where the scale X is 0xFF (R77). -/
def FVal.underScale (v : FVal) (x : Nat) : FVal := if x == 255 then .nan else v.scale ((x : Int) - 127)

/-- A value divided by 2^(X - 127), or a NaN where the scale X is 0xFF (R77). -/
def FVal.overScale (v : FVal) (x : Nat) : FVal := if x == 255 then .nan else v.scale (127 - (x : Int))

/-- Element i of a packed pair (R36). -/
def half (w : Word) (i : Nat) : Nat := bits w.toNat (16 * i + 15) (16 * i)

/-- A pair from its elements. -/
def ofHalves (lo hi : Nat) : Word := BitVec.ofNat 32 (lo % 2 ^ 16 + hi % 2 ^ 16 * 2 ^ 16)

/-- Both halves computed, with the OR of their conditions (R44, R72). -/
def perHalf (f : Nat → Nat × Word) : FRes :=
  let (lo, fl) := f 0
  let (hi, fh) := f 1
  (ofHalves lo hi, fl ||| fh)

/-- round_rne_fp32 of R53: FP32 to nearest even, an invalid result the canonical NaN, no flags kept. -/
def rne32 (v : FVal) : Word := BitVec.ofNat 32 (fp32.deliver .nearest v).1

end Sys2Proof.Machine
end

