-- ==== Sys2Proof/Machine/Maps.lean ====
section
/-! DEFINITION. Tables keyed by numbers, as lists of pairs in one canonical form: keys strictly rising. A sparse table lists no entry
equal to what an unlisted key reads as. -/

namespace Sys2Proof.Machine

/-- A table: pairs with strictly rising keys. -/
abbrev Table (α : Type) := List (Nat × α)

/-- The entry at a key. -/
def mget {α : Type} : Table α → Nat → Option α
  | [], _ => none
  | (j, a) :: m, k => if j = k then some a else mget m k

/-- Put an entry at a key. -/
def mput {α : Type} : Table α → Nat → α → Table α
  | [], k, x => [(k, x)]
  | (j, a) :: m, k, x => if k < j then (k, x) :: (j, a) :: m else if j = k then (k, x) :: m else (j, a) :: mput m k x

/-- Remove the entry at a key. -/
def mdel {α : Type} : Table α → Nat → Table α
  | [], _ => []
  | (j, a) :: m, k => if j = k then m else (j, a) :: mdel m k

/-- The keys rise strictly. -/
def Rising {α : Type} : Table α → Prop
  | [] => True
  | (k, _) :: m => (∀ p ∈ m, k < p.1) ∧ Rising m

/-- Read a sparse table whose unlisted keys read as d. -/
def sget {α : Type} (d : α) (m : Table α) (k : Nat) : α := (mget m k).getD d

/-- Write a sparse table: writing d removes the entry. -/
def sput {α : Type} [DecidableEq α] (d : α) (m : Table α) (k : Nat) (x : α) : Table α :=
  if x = d then mdel m k else mput m k x

/-- Change an entry that is there. -/
def mmod {α : Type} (m : Table α) (k : Nat) (f : α → α) : Table α :=
  match mget m k with
  | some a => mput m k (f a)
  | none => m

/-- Change every entry. -/
def mmap {α : Type} (m : Table α) (f : Nat → α → α) : Table α := m.map fun p => (p.1, f p.1 p.2)

/-- The keys whose entries satisfy p, in rising order. -/
def mkeys {α : Type} (m : Table α) (p : Nat → α → Bool) : List Nat := (m.filter fun q => p q.1 q.2).map (·.1)

/-- Is there an entry that satisfies p? -/
def many {α : Type} (m : Table α) (p : Nat → α → Bool) : Bool := m.any fun q => p q.1 q.2

/-- The lowest number below n that no entry of the list is. -/
def lowestFree (used : List Nat) (n : Nat) : Option Nat := (List.range n).find? fun k => !used.contains k

end Sys2Proof.Machine
end

