-- ==== Sys2Proof/Machine/State.lean ====
section
/-! DEFINITION. The state of the KF4: every register, table and record the manual gives the package, as plain data, with the state
after reset, the faults and the refusals. Keys: core c = 96 * die + core; thread = 2048 * c + slot; band = 64 * c + frame;
hasp = 32 * c + n; sequencer = 2 * c + (0 matrix, 1 copy). -/

namespace Sys2Proof.Machine

/-- Where a byte lives: the slice of a core of this package, device memory of this package, host memory behind a link, another
package, or the I/O window (R214, R216, R356). -/
inductive Loc where
  | slice (core ofs : Nat)
  | dev (pa : Nat)
  | host (link pa : Nat)
  | remote (pkg : Nat) (va : Nat) (graded : Bool)
  | bell (pa : Nat)
deriving DecidableEq, Repr

/-- A translated and checked access: its location, whether the page is graded (G), its egress class (EG), whether it is counted
(CNT) and the physical address that the counter tables use. -/
structure Acc where
  loc    : Loc
  graded : Bool
  eg     : Nat
  cnt    : Option Nat
deriving DecidableEq, Repr

/-- What a parked thread or a stalled command waits for (R246-R248). -/
structure Park where
  va     : Nat
  kind   : Nat
  reason : Nat
  time   : Nat
deriving DecidableEq, Repr

/-- A failed long-latency operation to be reported at a clause boundary (R237). -/
structure Deferred where
  flag   : Nat
  detail : Nat
deriving DecidableEq, Repr

/-- What a resident thread does (R195). -/
inductive TStatus where
  /-- its next instruction can issue, or it stands at a clause header not yet tested -/
  | ready
  /-- waits on a clause header whose flags were not all zero (R9, R18) -/
  | header
  /-- held at its instruction: by a graded store (R292, R297), an arrival that waits for its accesses (R99) -/
  | held
  /-- arrived at a rendezvous (R113) -/
  | arrived
  /-- blocked in HWAIT or HWAITS on a phase of a hasp of its core, with the destination of the status and the pc after it (R102) -/
  | hwait (n phase : Nat) (d : LaneDst) (nxt : Addr)
  /-- ended by EXIT; the slot is occupied until its flags are zero (R109) -/
  | exited
deriving DecidableEq, Repr

/-- Where a trap was taken: the pc of redo, the pc of skip, and what it came from: 0 a lane instruction or clause, 1 a uniform
instruction or band operation, 2 a rendezvous mismatch (R176). -/
structure TrapPoint where
  redo : Addr
  skip : Addr
  src  : Nat
deriving DecidableEq, Repr

/-- A thread in a slot (R1, R19, R108, R193, R238, R239, R246). `bad` are its registers with an error that no code corrects (R363);
`bpSkip` that it has been resumed and not yet issued since (R371), `brkSkip` that it stands at a BRK or SBRK that has halted it (log 23). `heldOn` is the clk at which it issued the atomic that holds
it and where that acts (R94). -/
structure Thread where
  uid      : Nat
  v        : Vector Word 160
  f        : Vector (BitVec 6) 12
  pc       : Addr
  rs       : List Addr
  spilled  : Nat
  fstat    : Word
  trapstat : Word
  trapMode : Bool
  trapPt   : TrapPoint
  status   : TStatus
  parked   : Option Park
  heldBy   : Option Nat
  halted   : Bool
  haltReq  : Bool
  stepping : Bool
  bpSkip   : Bool
  brkSkip  : Bool
  readyAt  : Nat
  clauses  : Nat
  clkh     : Word
  nfail    : Nat
  refused  : Bool
  deadlink : Bool
  deferred : List Deferred
  counted  : Bool
  resume   : Option Addr
  yielded  : Bool
  bad      : List Nat
  heldOn   : Option (Nat × Loc)
deriving DecidableEq, Repr

/-- A continuation record with the task that issued it and its taint then, whether it stands in the spill area, and its key's role
(R111, R210). -/
structure PoolRec where
  words   : List Word
  task    : Nat
  taint   : Grade
  spilled : Bool
  role    : Nat
deriving DecidableEq, Repr

/-- A pending GROW (R124). -/
structure GrowReq where
  n    : Nat
  hasp : Nat
deriving DecidableEq, Repr

/-- A band in a frame (R193, R123, R126, R127, R194). -/
structure Band where
  s        : Vector Word 32
  present  : BitVec 32
  budget   : Nat
  mb       : Nat
  block    : Option Nat
  pos      : Nat
  role     : Nat
  node     : Nat
  inst     : Nat
  nblk     : Nat
  part     : Nat
  slot     : Nat
  grow     : Option GrowReq
  local?   : Option Nat
  joins    : List (Nat × Nat)
  clkh     : Word
  task     : Nat
  recs     : List PoolRec
  isRec    : Bool
  stopping : Bool
deriving DecidableEq, Repr

/-- The recall state of a core's block (R320). -/
inductive RState where
  | held | routine | finishing | saving | released
deriving DecidableEq, Repr

/-- A surrender routine: its first clause and its bound (R169). -/
structure Surr where
  pc    : Addr
  bound : Nat
deriving DecidableEq, Repr

/-- A running block (R199-R203, R169-R175). `count` is the routine's count and `countAt` the clk after the last that it counted (R171);
`routine` is the number that the first operation issued in the routine can have (R172), `entered` whether a thread has entered it. -/
structure Block where
  core     : Nat
  inst     : Nat
  node     : Nat
  blockId  : Nat
  part     : Nat
  slot     : Nat
  task     : Nat
  welt     : Bool
  hasps    : BitVec 32
  membs    : BitVec 32
  mx       : Bool
  cp       : Bool
  maxBands : Nat
  lease    : Nat
  rlim     : Nat
  surr     : Option Surr
  rstate   : RState
  chosen   : Option Nat
  count    : Nat
  countAt  : Nat
  routine  : Nat
  entered  : Bool
  used     : Nat
  finStart : Nat
  spRecall : Word
  summ     : Bool
  faulted  : Bool
  stopping : Bool
  rerun    : Bool
deriving DecidableEq, Repr

/-- A source slot of a hasp (R135): SACT, SRC, EXPECT_BYTES, LANDED. -/
structure HSlot where
  act    : Bool
  src    : Nat
  expect : Nat
  landed : Nat
deriving DecidableEq, Repr

/-- An arrival held into a later phase: by which thread, if any, and whether it is a lost watch's (R104, R128, R137). -/
structure HeldArr where
  thread : Option Nat
  lost   : Bool
deriving DecidableEq, Repr

/-- A hasp (R135). -/
structure Hasp where
  phase   : BitVec 16
  arrived : Nat
  valid   : Bool
  memb    : Bool
  ring    : Bool
  rbase   : Bool
  expArr  : Nat
  nextd   : Int
  rstg    : Nat
  rhead   : Nat
  slots   : Vector HSlot 4
  moncnt  : Nat
  arr     : List Nat
  heldArr : List HeldArr
  spurNow : Bool
  spur    : List Nat
deriving DecidableEq, Repr

/-- A watch armed by HMON (R104). -/
structure Watch where
  core    : Nat
  line    : Nat
  hasp    : Nat
  part    : Nat
  inst    : Nat
  written : Bool
deriving DecidableEq, Repr

/-- A breakpoint register pair (R370). -/
structure BreakPt where
  addr : Nat
  en   : Bool
  part : Nat
deriving DecidableEq, Repr

/-- A core's debug block (R370). -/
structure DebugBlk where
  bps    : Vector BreakPt 16
  space  : Nat
  index  : Nat
  data   : Word
  busy   : Bool
  result : Nat
  hit    : Bool
  hslot  : Nat
  hpcofs : Word
deriving DecidableEq, Repr

/-- What a core keeps beside its threads and bands. `rocAt` is the first number of an operation issued after the read-only path cache was last
invalidated (R228); `mxAt` and `cpAt` are one more than the clk at which each engine last took a command from a band (R145), `pipeAt` that
at which the scalar pipe last executed, `grpAt` that at which the issue group was last formed (R197), and `issuedAs` the threads of that
group that have issued, each with its pc and its nonzero flags there (R378); `pipe` are the bands whose rendezvous were complete before this
clk, the earliest first, and `tried` those that held at theirs in this clk (R117); `sampAt` is one more than the clk of its last stall
sample (R378). -/
structure Core where
  growQ     : List Nat
  roc       : Table (List Byte)
  rocAt     : Nat
  recallQ   : List Nat
  running   : Option Nat
  sliceAt   : Nat
  lastPart  : Option Nat
  throttled : Bool
  unavail   : Bool
  saving    : Bool
  recallTag : Option Nat
  dbg       : DebugBlk
  reqCount  : Table Nat
  grpAt     : Nat
  issuedAs  : List (Nat × Addr × Nat)
  mxAt      : Nat
  cpAt      : Nat
  pipeAt    : Nat
  pipe      : List Nat
  tried     : List Nat
  sampAt    : Nat
deriving DecidableEq, Repr

/-- What a strand does (R122, R132, R144). -/
inductive SStatus where
  | idle
  | run
  | wait (n phase : Nat) (nxt : Addr)
  | finishing
deriving DecidableEq, Repr

/-- A strand's sequencer (R132, R133, R202); `bpSkip` and `brkSkip` as a thread's. `forkAt` is one more than the clk of its FORK (R132);
`wrote` are the registers that it wrote in the clk of which `wroteAt` is one more (R133). -/
structure Strand where
  s       : Vector Word 32
  pc      : Addr
  status  : SStatus
  block   : Nat
  band    : Word
  nband   : Word
  clkh    : Word
  forker  : Option Nat
  halted  : Bool
  haltReq : Bool
  stepping : Bool
  bpSkip  : Bool
  brkSkip : Bool
  parked  : Option Park
  forkAt  : Nat
  wroteAt : Nat
  wrote   : BitVec 32
deriving DecidableEq, Repr

/-- A core's matrix engine (R48, R151): plane cells (sign * 2048 + magnitude) keyed (256 * plane + row) * 256 + column; Ew and
marks keyed (8 * plane + block) * 256 + column; formats; tile scales keyed 4 * plane + tile, reading 1.0 where unlisted; the
active plane; ASC; the core's half of the pair's accumulator memory keyed 256 * row + column. -/
structure Engine where
  cells  : Table Nat
  ew     : Table Int
  nf     : Table Bool
  fmt    : Vector MFmt 2
  sw     : Table Word
  active : Fin 2
  asc    : Option Nat
  acc    : Table Word
  parity : List Nat
deriving DecidableEq, Repr

/-- Who issued an engine command: a band with the thread P of lowest lane home, or a strand (R145, R149). -/
inductive Issuer where
  | band (k low : Nat)
  | strand (q : Nat)
deriving DecidableEq, Repr

/-- How ACCMV delivers (R161). -/
inductive MvForm where
  | st | add | bf
deriving DecidableEq, Repr

/-- The four copies (R166). -/
inductive CopyKind where
  | cpt | cpg | cps | cpz
deriving DecidableEq, Repr

/-- An accepted engine command with its latched operands (R145, R158, R161, R166). -/
inductive CmdKind where
  | mxld (fmt : MFmt) (plane : Fin 2) (va : Nat) (b0 nb : Nat)
  | mxmm (fmt : MFmt) (u v row0 : Nat) (va : Nat) (plane : Fin 2) (sw : List Word) (asc : Option Nat)
  | accz (row0 n : Nat)
  | accld (bf16 : Bool) (va row0 n : Nat)
  | accmv (form : MvForm) (va row0 n : Nat)
  | copy (kind : CopyKind) (rec : List Word) (dst : Nat) (coords : List Int) (idxVa : Nat) (cnt : Option Nat)
deriving DecidableEq, Repr

/-- Landed bytes counted on a hasp: hasp key, source slot, phase, bytes (R167, R325). -/
structure Counted where
  hasp  : Nat
  slot  : Nat
  phase : BitVec 16
  bytes : Nat
deriving DecidableEq, Repr

/-- An accepted, incomplete command. `flags` are the threads (key, uid) whose flag it lowers; `after` and `afterCmds` what must
complete before its first read; `relAfter` the issuer's earlier operations, which a REL and an amendment wait for (R148, R312); `src`
the SRC code of the core that issued it. `got` are the ranges of its units performed, bytes of a copy's box or elements of a move (R163,
R168); `latched` the bytes that it has read ahead, by their places; `marks` the graded lines that it has written and the lines that it
has counted (R150, R376); `since` when it was accepted; `replay` that it is held at its engine until a saved context is restored (R325). -/
structure Cmd where
  core      : Nat
  block     : Nat
  task      : Nat
  part      : Nat
  issuer    : Issuer
  kind      : CmdKind
  flags     : List (Nat × Nat × Fin 12)
  members   : List (Nat × Nat)
  after     : List Nat
  afterCmds : List Nat
  relAfter  : List Nat
  acq       : Bool
  rel       : Bool
  pc        : Addr
  src       : Nat
  marks     : List Nat
  got       : List (Nat × Nat)
  latched   : Table Byte
  counted   : List Counted
  failed    : Bool
  parked    : Option Park
  replay    : Bool
  since     : Nat
deriving DecidableEq, Repr

/-- The kinds of a thread's outstanding operations (R24, R85, R111, R112, R164), a fill of a return stack (R108) or a stream's read from another package,
and an engine command's access to another package (R149, R357). -/
inductive OpKind where
  | ld (sz : Sz) | ldro (sz : Sz) | st | atom (op : AtomOp) (w : Bool) | cas (w : Bool) | red (op : AtomOp) (w : Bool)
  | cpa (n : Nat) (dst : Acc) (dva : Nat) | fence (kind : FenceKind) | grd | gconf (g : Grade) | cont | enq | layout (kind : CopyKind) (cnt : Option (Fin 32)) (ab : Ab) (d : UniSrc) (b : Fin 32) (who : Issuer) | fill | eng (cmd : Nat)
deriving DecidableEq, Repr

/-- What an item of the egress hold buffer carries beside its access: its place in program order, whether it lies in the hold area of its
level-1 partition (R305), its ordering, and where its request was tagged the PCOFS and the clk of its issue (R377). -/
structure HTag where
  seq  : Nat := 0
  area : Bool := false
  ord  : Ord16 := .relaxed
  smp  : Option (Nat × Nat) := none
deriving DecidableEq, Repr

/-- A held egress item (R304), of a thread or, with the threads `who` that count its failure, of an engine command (R231). -/
inductive HeldItem where
  | store (thread uid : Nat) (acc : Acc) (data : List Byte) (va part : Nat) (who : List (Nat × Nat)) (tag : HTag)
  | red (thread uid : Nat) (acc : Acc) (op : AtomOp) (w : Bool) (data : List Byte) (va part : Nat) (who : List (Nat × Nat)) (tag : HTag)
  | signal (lp1 : Nat) (code payload : Nat) (vec : Option Nat) (inst handle : Nat) (tag : HTag)
deriving DecidableEq, Repr

/-- An outstanding operation of a thread, or the layout-record read of a copy instruction. `resp` is a fabric response; `tag` is the PCOFS
and the clk of the issue of a sampled request (R377); `egress` an item that has left the egress hold buffer for another package (R304);
`laid` are the thread's items that left the buffer while a load was outstanding (R87); `plane` is the plane that carries its message (R358);
`seq` is, of an item that has left the buffer, the number of the operation that brought it there. -/
structure Op where
  kind   : OpKind
  core   : Nat
  thread : Nat
  uid    : Nat
  flag   : Option (Fin 12)
  d      : LaneDst
  va     : Nat
  acc    : Acc
  n      : Nat
  data   : List Byte
  cmp    : List Byte
  ord    : Ord16
  task   : Nat
  part   : Nat
  inst   : Nat
  words  : List Word
  pc     : Addr
  issued : Nat
  sent   : Bool
  resp   : Option (List Byte × Fate)
  done   : Bool
  tag    : Option (Nat × Nat)
  void   : Bool
  egress : Bool
  who    : List (Nat × Nat)
  laid   : List HeldItem
  plane  : Option Nat
  seq    : Nat
deriving DecidableEq, Repr

/-- A 64-byte line's metadata, last writer and consumers (R291, R292). A party on another package, a consumer in `remote` or the last
writer in `far`, is its package, its run of a graph there, and 2^32 * node + block (R306). `bad` is an error in its data that no code corrects, `dead` one in its metadata
(R363). -/
structure LineMeta where
  grade  : Grade
  depth  : Nat
  cons   : Bool
  ovf    : Bool
  writer : Option Nat
  users  : List Nat
  remote : List (Nat × Nat × Nat)
  far    : Option (Nat × Nat × Nat)
  bad    : Bool
  dead   : Bool
deriving DecidableEq, Repr

/-- What a task run is (R295). -/
inductive TaskKind where
  | block (node blockId : Nat)
  | record (node : Nat)
  | detached (parent : Nat)
  | program
deriving DecidableEq, Repr

/-- A task run (R295-R303). `held` are its items in the egress hold buffer, `leaving` those released and not yet performed, both in
program order (R304). -/
structure Task where
  kind     : TaskKind
  inst     : Nat
  node     : Nat
  die      : Nat
  reads    : List Nat
  writes   : List Nat
  parents  : List Nat
  nodes    : List (Nat × Nat)
  refire   : Option Nat
  complete : Bool
  lifted   : Bool
  stopped  : Bool
  mute     : Bool
  held     : List HeldItem
  leaving  : List HeldItem
  recs     : List (List PoolRec)
deriving DecidableEq, Repr

/-- Where a stream entry is kept (R267, R289): in the queue buffer, in the swap area, or in the spill area, at a tenant address. -/
inductive Place where
  | sram | swap | spill (va : Nat)
deriving DecidableEq, Repr

/-- A word of a queue's stream. -/
structure QWord where
  w     : Word
  place : Place
deriving DecidableEq, Repr

/-- The condition of a waiting stream (R275, R296): a node or graph run, a word of memory, the time, a line that is not FINAL, or another
package's answer, with the operation that asks for it. -/
inductive CWait where
  | node (inst node : Nat)
  | inst (n : Nat)
  | mem (addr least : Nat) (op : Option Nat)
  | time (least : Nat)
  | load (addr : Nat) (op : Option Nat)
  | amend (op : Nat) (cst : Bool)
deriving DecidableEq, Repr

/-- A stream: registers, the waiting condition with its destination and the length in words of the waiting command (R268). -/
structure Stream where
  c    : Vector DWord 16
  wait : Option (CWait × CReg × Nat)
deriving DecidableEq, Repr

/-- A queue (R263-R267, R289). `spills` counts the entries written into its spill area. -/
structure Queue where
  qbase   : DWord
  qlog2   : Nat
  spbase  : DWord
  splog2  : Nat
  err     : Nat
  state   : Nat
  enable  : Bool
  qhead   : Nat
  qexec   : Nat
  pend    : Option Nat
  strm    : Stream
  words   : List QWord
  cls     : Nat
  spills  : Nat
deriving DecidableEq, Repr

/-- A kernel descriptor (R280). -/
structure Kernel where
  kpc    : Nat
  hasps  : BitVec 32
  memb   : BitVec 32
  maxbud : Nat
  enq    : Bool
  cp     : Bool
  mx     : Bool
  maxb   : Nat
deriving DecidableEq, Repr

/-- A role of a launch node (R281): kind 0 none, 1 bands, 2 matrix strand, 3 copy strand. -/
structure Role where
  kind    : Nat
  count   : Nat
  budget  : Nat
  kidx    : Nat
  handler : Nat
deriving DecidableEq, Repr

/-- A launch node (R281). -/
structure Node where
  roles    : List Role
  grid     : Nat
  pred     : Nat
  succn    : Nat
  argslot  : Nat
  succix   : Nat
  stagger  : Nat
  mingrade : Grade
  lease    : Nat
  rlim     : Nat
  cls      : Nat
  welt     : Bool
  gated    : Bool
  lsz      : Nat
  lslots   : Nat
  lbase    : Nat
deriving DecidableEq, Repr

/-- A registered graph (R279-R282). Its code and then its program stand in its partition's code area, `ncode` and `nprog` words from
address `area` of device memory, whose tenant address is `codeVa`. -/
structure Graph where
  lp1     : Nat
  handle  : Nat
  part    : Nat
  kernels : List Kernel
  nodes   : List Node
  succ    : List Nat
  codeVa  : Addr
  area    : Nat
  ncode   : Nat
  nprog   : Nat
  win     : Nat
  pool    : Nat
  egrs    : Nat
  enqq    : List Nat
  nsbase  : Nat
  imageVa : Nat
deriving DecidableEq, Repr

/-- A node of a running run: its count, gate, grid, blocks started and ended, argument block, and edges done (R286, R287). -/
structure NodeSt where
  count    : Nat
  gateOpen : Bool
  grid     : Nat
  started  : Nat
  ended    : Nat
  lastAt   : Option Nat
  floor    : Grade
  args     : Option (List Word)
  queued   : Bool
  complete : Bool
  faulted  : Bool
  edges    : List Bool
deriving DecidableEq, Repr

/-- A graph run with its command program (R284-R287, R268, R278). `code` and `prog` are the words of its graph's code and program as they
stood when it started (R21). -/
structure Inst where
  lp1       : Nat
  graph     : Nat
  part      : Nat
  handle    : Nat
  ap        : Nat
  amdep     : Nat
  notify    : Bool
  nodes     : List NodeSt
  pc        : Nat
  stack     : List Nat
  strm      : Stream
  progEnd   : Bool
  cancelled : Bool
  ended     : Bool
  task      : Nat
  code      : List Word
  prog      : List Word
deriving DecidableEq, Repr

/-- An entry of the ready queue (R288, R300): its class, time and node-store index; a re-run names the block. -/
structure ReadyEntry where
  cls   : Nat
  time  : Nat
  inst  : Nat
  node  : Nat
  rerun : Option (Nat × Nat)
deriving DecidableEq, Repr

/-- A partial band of the gathering pool (R210, R211). -/
structure PartialBand where
  key   : GatherKey
  recs  : List PoolRec
  since : Nat
deriving DecidableEq, Repr

/-- A released band of records (R211, R300). -/
structure RelBand where
  key  : GatherKey
  recs : List PoolRec
  time : Nat
  old  : Option Nat
deriving DecidableEq, Repr

/-- The control block of a ring of 32-byte records (R247, R290, R364). -/
structure Ring where
  base  : DWord
  log2n : Nat
  head  : Nat
  tail  : Nat
  lost  : Bool
  seqn  : Nat
deriving DecidableEq, Repr

/-- What an invalidation covers: the first page's address, the pages, their size's code and the level-2 partition (R353). -/
structure InvRange where
  va   : Nat
  n    : Nat
  psz  : Nat
  part : Nat
deriving DecidableEq, Repr

/-- What a level-1 partition allows its children (R328): core set, HBM weight, WMAX, classes, leases, welts. -/
structure Bounds where
  cset : BitVec 384
  hbmw : Nat
  wmax : Nat
  cls  : Nat
  lse  : Nat
  wlt  : Bool
deriving DecidableEq, Repr

/-- A level-1 partition's register block (R247, R290, R293, R352, R353, R354, R376) and what firmware sets for it (R285, R381,
R210, R267). `gcFrames` are the frames of the running clear, `invOps` the operations that the running invalidation waits for, `invRun`
its range as it was at GO, `b4log`
the window's size as a power of two, bit L of `links` that its function is enabled on PCIe link L (R351), `bounds` what its children may
have (R328). -/
structure Lp1 where
  porterr  : Nat
  framref  : Nat
  sbase    : DWord
  fbase    : DWord
  nfr      : Nat
  fq       : Ring
  ev       : Ring
  gcVa     : DWord
  gcPages  : Nat
  gcGo     : Bool
  gcStat   : Nat
  gcPart   : Nat
  invVa    : DWord
  invN     : Nat
  invGo    : Bool
  invStat  : Nat
  invPsz   : Nat
  invPart  : Nat
  invOps   : List Nat
  invRun   : InvRange
  b4base   : DWord
  b4part   : Nat
  msix     : List Nat
  sources  : List Nat
  tag      : DWord
  maxNodes : Nat
  maxCode  : Nat
  maxInst  : Nat
  gspill   : Nat
  hold     : Nat
  qweight  : Nat
  gcFrames : List Nat
  b4log    : Nat
  links    : Nat
  bounds   : Bounds
deriving DecidableEq, Repr

/-- A bind record (R314). -/
structure Bind where
  valid   : Bool
  isGraph : Bool
  cls     : Nat
  weight  : Nat
  handle  : Nat
  lp1     : Nat
  part    : Nat
  finb    : Nat
  root    : Nat
  boundAt : Nat
  refused : Bool
  hwmade  : Bool
  cores   : BitVec 384
deriving DecidableEq, Repr

/-- The sampling control block of a level-2 partition (R377). -/
structure Sampling where
  base    : DWord
  slog2   : Nat
  shead   : Nat
  stail   : Nat
  reqen   : Bool
  stallen : Bool
  stallp  : Nat
  reqp    : Nat
  sdrop   : Nat
  dropSince : Nat
  seqn    : Nat
deriving DecidableEq, Repr

/-- A level-2 partition's descriptor (R328), debug right (R369) and sampling block (R377). `budget`, `maxGrid` and `maxStag` are what it
permits a node (R282; log 45); `cmdAt` is one more than the clk at which a debug command was last judged for it, `revoking` that its right
falls as the clk ends (R375). -/
structure Part where
  live     : Bool
  parent   : Nat
  hbmw     : Nat
  wmax     : Nat
  cls      : Nat
  lse      : Nat
  wlt      : Bool
  cset     : BitVec 384
  template : Bind
  right    : Bool
  samp     : Sampling
  budget   : Nat
  maxGrid  : Nat
  maxStag  : Nat
  cmdAt    : Nat
  revoking : Bool
deriving DecidableEq, Repr

/-- A watch of a saved context (R327): the line, the hasp, its fired bit, and whether the table had no room for it. -/
structure SavedWatch where
  line  : Nat
  hasp  : Nat
  inst  : Nat
  fired : Bool
  lost  : Bool
deriving DecidableEq, Repr

/-- A saved core context (R322-R327): the image whole. Keys of threads, bands, hasps and sequencers are those of `core`, where it was
saved; `held` are the copies of other contexts held until it is restored (R325); `byRecall` that a recall saved it (R321); `header` are
words 0 to 15 of the image, `records` its hasp records, with the arrivals in `hasps` (R323, R135); `mx` that a block held the matrix
engine, and `engine` nothing where a welt of the pair held it (R207). -/
structure Saved where
  slot    : Nat
  part    : Nat
  core    : Nat
  origin  : Nat
  gen     : Nat
  inst    : Nat
  welt    : Bool
  mx      : Bool
  header  : List Word
  records : Table (List Word)
  threads : Table Thread
  bands   : Table Band
  blocks  : Table Block
  hasps   : Table Hasp
  strands : Table Strand
  engine  : Option Engine
  engine2 : Option Engine
  slice   : List Host.Cell
  cmds    : Table Cmd
  ops     : Table Op
  watches : List SavedWatch
  growQ   : List Nat
  cstat   : Bool
  byRecall : Bool
  held    : List Nat
deriving DecidableEq, Repr

/-- The context of a slot on a core (R232, R326, R374): generation tag, ORIGIN, DBGEDIT. -/
structure Ctx where
  gen    : Nat
  origin : Nat
  cstat  : Bool
deriving DecidableEq, Repr

/-- A request for registration in firmware's hands (R282); `bad` where a bit of the word that must be 0 was set. -/
structure RegReq where
  lp1  : Nat
  part : Nat
  va   : Nat
  bad  : Bool
deriving DecidableEq, Repr

/-- A work request that the engine has read (R356): its fields, whether it completes with error, and whether the bytes of a READ are being
written. -/
structure RoceReq where
  op    : Nat
  lva   : Nat
  len   : Nat
  bad   : Bool
  wrote : Bool
deriving DecidableEq, Repr

/-- A queue pair of the RoCE engine (R355, R356): the level-1 partition that owns it, the level-2 partition whose tables translate its
local addresses (log 30), its rings in device memory, its indexes, and the requests read and not completed. -/
structure Qp where
  lp1   : Nat
  part  : Nat
  sq    : Nat
  sqLog : Nat
  cq    : Nat
  cqLog : Nat
  pi    : Nat
  ci    : Nat
  cpi   : Nat
  work  : List RoceReq
deriving DecidableEq, Repr

/-- A remote key (R355). -/
structure RKey where
  part : Nat
  va   : Nat
  len  : Nat
deriving DecidableEq, Repr

/-- A translation that a TLB holds (R244): of which partition and table root, the page, the leaf entry and its level. -/
structure TlbEntry where
  part  : Nat
  root  : Nat
  page  : Nat
  leaf  : Nat
  level : Nat
deriving DecidableEq, Repr

/-- A message sent on the fabric (R357): its type, destination and parts, and the header flit that opens it. -/
structure Sent where
  type : Nat
  dpkg : Nat
  msg  : Msg
  header : BitVec 256
deriving DecidableEq, Repr

/-- An amendment that waits for remote consumers' acknowledges: the line, the writing task if any (`far` on another package), the
consumers still to answer, whether a re-fire was lost through a dead link, when it began, and the message of another package's task that
waits for it (R307). -/
structure Amendment where
  line   : Nat
  writer : Option Nat
  far    : Option (Nat × Nat × Nat)
  acks   : List (Nat × Nat × Nat)
  failed : Bool
  since  : Nat
  again  : Option Instr
deriving DecidableEq, Repr

/-- A skew register entry (R379). -/
structure Skew where
  ofs   : Word
  valid : Bool
  unc   : Nat
  age   : Nat
deriving DecidableEq, Repr

/-- The boot flash (R360-R362, R367): slots, configuration record, repair record, and the error logs of this boot and the last three. -/
structure Flash where
  slotA  : List Byte
  slotB  : List Byte
  config : List Byte
  repair : List Nat
  errors : List (List Byte)
deriving DecidableEq, Repr

/-- The recovery window (R362). -/
structure Recovery where
  active  : Bool
  stage   : Nat
  cause   : Nat
  busy    : Bool
  len     : Nat
  staging : List Byte
  image   : List Byte
deriving DecidableEq, Repr

/-- The firmware complexes (R359, R360): which is active and whether it runs, the images, the last heartbeat, a live update in progress, the
state table last committed and as the new image imported it, the interrupts raised (R318), the measurements and the attestation key. -/
structure Firmware where
  active    : Nat
  images    : Vector (List Byte) 2
  heartbeat : Nat
  updating  : Option (List Byte)
  ready     : Bool
  failed    : Bool
  alive     : Bool
  table     : List Byte
  imported  : List Byte
  irqs      : Nat
  measured  : List (List Byte)
  key       : List Byte
deriving DecidableEq, Repr

/-- A fault-queue entry of this clk (R247, R248): its level-1 partition, the die, core and slot that order it, and its words but for
SEQN. -/
structure FaultEnt where
  lp1   : Nat
  core  : Nat
  slot  : Nat
  words : List Nat
deriving DecidableEq, Repr

/-- What the outside receives from the package: an answer to a read, Completer Abort (R354), Unsupported Request (R351), a recall's result
(R320), a RoCE request (R356). -/
inductive Reply where
  | data (bytes : List Byte)
  | abort
  | unsupported
  | nak
  | recalled (tag core result : Nat)
  | roce (qp op rva rkey imm len : Nat) (bytes : List Byte)
deriving DecidableEq, Repr

/-- An error that no code corrects strikes a part of the storage (R363): a lane register, a flag or the return stack of a thread, a hasp
record, the metadata of a line, an accumulator element of a core's half, a column of cells of a plane (R160). -/
inductive Upset where
  | register (k n : Nat)
  | flag (k : Nat)
  | stack (k : Nat)
  | hasp (h : Nat)
  | acc (core elem : Nat)
  | grade (line : Nat)
  | cell (core plane col : Nat)
deriving DecidableEq, Repr

/-- What reaches the package from outside and has no row of its own in the opcode table: an error of the storage; a host's read of a
register; a request that the device does not support (R351); a RoCE request of a kind that is answered with a NAK, or anything else outside
the subset (R355); a message of no type of the fabric (R357); the active complex failing, or committing its state table (R359); a physical
pair wearing so that it fails its self-test at the next boot (R366); what firmware sets: a level-1 partition (R285, R328, R351, R354, R381), a
level-2 partition's descriptor (R328), a queue pair and a remote key (R355), a queue's class (R318), the size of PF0's own window (R354). -/
inductive Arrival where
  | upset (u : Upset)
  | read (link : Fin 2) (r : RegAddr) (n : Nat)
  | unsupported
  | roceOther (port : Fin 6) (nak : Bool)
  | stray (type : Byte)
  | complexFails
  | commitTable (bytes : List Byte)
  | setLp1 (p : Fin 16) (b : Lp1)
  | descriptor (p : Fin 64) (d : Part)
  | queuePair (n : Nat) (q : Qp)
  | remoteKey (n : Nat) (k : RKey)
  | queueClass (q : Nat) (cls : Fin 3)
  | ownWindow (log2n : Nat)
  | wear (pair : Nat)
deriving DecidableEq, Repr

/-- Who takes the next turn: a core's picker (R197), the clause-start logic or the retry of a held thread, a complete rendezvous (R117), a
strand's sequencer, a stream of a command engine, an event, or what reaches the package otherwise. -/
inductive Actor where
  | core (c : Nat)
  | thread (k : Nat)
  | strand (q : Nat)
  | stream (i : StreamId)
  | outside (i : Instr)
  | arrive (a : Arrival)
deriving DecidableEq, Repr

/-- A turn of the schedule: the clks that pass before it, and who moves (log 3). -/
structure Turn where
  elapsed : Nat
  actor   : Actor
deriving DecidableEq, Repr

/-- The agent whose instruction is being executed. -/
inductive Agent where
  | nobody
  | thread (k : Nat)
  | strand (q : Nat)
  | stream (i : StreamId)
deriving DecidableEq, Repr

/-- The state of the package. -/
structure State where
  /-- the model's own: the turns to come, the rest of the issue group, the agent executing (log 3) -/
  script   : List Turn
  issue    : List Nat
  cur      : Agent
  /-- the model's own: counts the free values drawn (log 4), and the numbers given to operations, commands, tasks, threads -/
  freeCtr  : Nat
  nextId   : Nat
  /-- the core and mesh clock since reset (R1, R30); the 1 GHz counters follow from it (R379) -/
  clk      : Nat
  /-- package number (R357), other packages present in the domain (R215), live planes (R358) -/
  pkg      : Byte
  present  : List Nat
  planes   : BitVec 18
  /-- memory by home location (R214-R216) -/
  mem      : List Host.Cell
  threads  : Table Thread
  bands    : Table Band
  blocks   : Table Block
  hasps    : Table Hasp
  cores    : Table Core
  strands  : Table Strand
  engines  : Table Engine
  watches  : Table Watch
  /-- the fault-queue entries of this clk, which are written as it ends (R247) -/
  faults   : List FaultEnt
  cmds     : Table Cmd
  ops      : Table Op
  /-- the translations that TLBs hold: core c's own is c, the shared one of die d is 512 + d (R244, R245) -/
  tlbs     : Table (List TlbEntry)
  /-- the level-1 partition each 64 KiB frame of device memory is granted to, as its number plus one (R243, R330) -/
  granted  : Table Nat
  /-- pending-zero lines (R330) -/
  pendZero : List Nat
  lines    : Table LineMeta
  tasks    : Table Task
  amends   : Table Amendment
  queues   : Table Queue
  /-- when Interactive work without a valid record began: of queue 1024 * lp1 + handle, of graph 2^20 + 65536 * lp1 + handle (R318) -/
  starve   : Table Nat
  graphs   : Table Graph
  insts    : Table Inst
  instCtr  : Nat
  regReqs  : List RegReq
  ready    : List ReadyEntry
  pool     : List PartialBand
  released : List RelBand
  lp1s     : Table Lp1
  /-- PF0's BAR4 control: B4BASE, B4PART, the window's size as a power of two (R354) -/
  pf0b4    : DWord × Nat × Nat
  binds    : Table Bind
  parts    : Table Part
  ctxs     : Table Ctx
  saved    : List Saved
  sent     : List Sent
  qps      : Table Qp
  rkeys    : Table RKey
  /-- messages of no type of the fabric (R357), and requests outside the RoCE subset by port (R355), dropped -/
  drops    : Nat
  portDrops : Table Nat
  udpPort  : Nat
  minver   : Nat
  /-- the enabled links: of the fabric, ports, PCIe links (R361) -/
  linkCounts : Nat × Nat × Nat
  /-- the physical pair that backs an exposed pair, 48 * die + pair, where another than its own number (R366) -/
  spare    : Table Nat
  /-- physical pairs, 50 * die + pair, that have failed their self-test, and those that will fail it at the next boot (R366) -/
  badPairs : List Nat
  worn     : List Nat
  /-- when each dead link died (R358) -/
  deadAt   : Table Nat
  ras      : Ring
  thermal  : Bool
  fw       : Firmware
  flash    : Flash
  recovery : Recovery
  pause    : Bool
  input    : List Instr
  /-- a host write through BAR4 that waits for acknowledges, and what came behind it, by the link where that is known (R219, R307) -/
  waiting  : List (Option (Fin 2) × Instr)
  /-- accepted launch frames that wait for the RoCE writes received before them on their port: its operations (R285) -/
  frames   : List (Frame × List Nat)
  skew     : Table Skew
  reply    : List Reply
  /-- lines of device memory on which patrol scrub found correctable errors since the boot, once for each (R367) -/
  unfitRows : List Nat
deriving DecidableEq, Repr

/-- Why the machine stops: never because of the hardware's own traps, which are next states. -/
inductive Fault where
  /-- an instruction of a thread, strand or stream was given without such an agent to execute it. Raised by every device
  instruction and command when `cur` names no agent of its kind. Safe: no hardware step is one. -/
  | noAgent
deriving DecidableEq, Repr

/-- Why an instruction has no meaning here. -/
inductive Refusal where
  /-- the instruction is not modelled. Raised by the dispatch only. Safe. -/
  | notModelled (mnemonic : String)
deriving DecidableEq, Repr

/-- A source slot at reset (R135). -/
def HSlot.zero : HSlot := ⟨false, 0, 0, 0⟩

/-- A hasp at reset: every field 0 (R135). -/
def Hasp.zero : Hasp := ⟨0, 0, false, false, false, false, 0, 0, 0, 0, Vector.replicate 4 HSlot.zero, 0, [], [], false, []⟩

/-- A debug block at reset: every field 0 (R370). -/
def DebugBlk.zero : DebugBlk := ⟨Vector.replicate 16 ⟨0, false, 0⟩, 0, 0, 0, false, 0, false, 0, 0⟩

/-- A core at reset: nothing resident, every queue empty. -/
def Core.zero : Core := ⟨[], [], 0, [], none, 0, none, false, false, false, none, DebugBlk.zero, [], 0, [], 0, 0, 0, [], [], 0⟩

/-- A sequencer at reset: idle; its register file reads 0 (DESIGN CHOICE, log 1). -/
def Strand.zero : Strand :=
  ⟨Vector.replicate 32 0, 0, .idle, 0, 0, 0, 0, none, false, false, false, false, false, none, 0, 0, 0⟩

/-- A matrix engine at reset: scales 1.0, plane 0, no ASC (R151); cells, formats and accumulators read 0 (DESIGN CHOICE, log 1). -/
def Engine.zero : Engine := ⟨[], [], [], Vector.replicate 2 .mxfp4, [], 0, none, [], []⟩

/-- A line's metadata at reset: NONE (R291, R292). -/
def LineMeta.zero : LineMeta := ⟨.none, 0, false, false, none, [], [], none, false, false⟩

/-- A stream at enable: every register 0 (R263). -/
def Stream.zero : Stream := ⟨Vector.replicate 16 0, none⟩

/-- A queue at reset: every register 0 (R263); its class is Standard (DESIGN CHOICE, log 1). -/
def Queue.zero : Queue := ⟨0, 0, 0, 0, 0, 0, false, 0, 0, none, Stream.zero, [], 1, 0⟩

/-- A ring control block at reset: every field 0 (R247). -/
def Ring.zero : Ring := ⟨0, 0, 0, 0, false, 0⟩

/-- A level-1 partition's block at reset: every register 0; firmware's own settings 0 or empty (DESIGN CHOICE, log 1). -/
def Lp1.zero : Lp1 :=
  ⟨0, 0, 0, 0, 0, Ring.zero, Ring.zero, 0, 0, false, 0, 0, 0, 0, false, 0, 0, 0, [], ⟨0, 0, 0, 0⟩, 0, 0, [], [], 0, 0, 0, 0, 0, 0, 1, [], 30, 0, ⟨0, 0, 0, 0, 0, false⟩⟩

/-- A bind record at reset: every field 0 (R314). -/
def Bind.zero : Bind := ⟨false, false, 0, 0, 0, 0, 0, 0, 0, 0, false, false, 0⟩

/-- A sampling block at reset: every field 0 (R377). -/
def Sampling.zero : Sampling := ⟨0, 0, 0, 0, false, false, 0, 0, 0, 0, 0⟩

/-- A partition descriptor at reset: every field 0 (R328); no debug right, no limit on nodes (DESIGN CHOICE, log 1). -/
def Part.zero : Part := ⟨false, 0, 0, 0, 0, 0, false, 0, Bind.zero, false, Sampling.zero, 160, 2 ^ 24 - 1, 65535, 0, false⟩

/-- A context that has not been saved or edited: generation 0 (DESIGN CHOICE, log 1), DBGEDIT 0 (R374). -/
def Ctx.zero : Ctx := ⟨0, 0, false⟩

/-- A skew entry at reset: not measured (R379). -/
def Skew.zero : Skew := ⟨0, false, 0, 0⟩

/-- The machine right after reset, nothing placed and nothing bound: every register at the value the manual gives, the others at
those log 1 names. -/
def State.reset : State where
  script := []
  issue := []
  cur := .nobody
  freeCtr := 0
  nextId := 0
  clk := 0
  pkg := 0
  present := []
  planes := BitVec.allOnes 18
  mem := []
  threads := []
  bands := []
  blocks := []
  hasps := []
  cores := []
  strands := []
  engines := []
  watches := []
  faults := []
  cmds := []
  ops := []
  tlbs := []
  granted := []
  pendZero := []
  lines := []
  tasks := []
  amends := []
  queues := []
  starve := []
  graphs := []
  insts := []
  instCtr := 1
  regReqs := []
  ready := []
  pool := []
  released := []
  lp1s := []
  pf0b4 := (0, 0, 30)
  binds := []
  parts := []
  ctxs := []
  saved := []
  sent := []
  qps := []
  rkeys := []
  drops := 0
  portDrops := []
  udpPort := 19270
  minver := 0
  linkCounts := (18, 6, 2)
  spare := []
  badPairs := []
  worn := []
  deadAt := []
  ras := Ring.zero
  thermal := false
  fw := ⟨0, Vector.replicate 2 [], 0, none, false, false, true, [], [], 0, [], []⟩
  flash := ⟨[], [], [], [], []⟩
  recovery := ⟨false, 0, 0, false, 0, [], []⟩
  pause := false
  input := []
  waiting := []
  frames := []
  skew := []
  reply := []
  unfitRows := []

end Sys2Proof.Machine
end

