-- ==== Sys2Proof/Machine/Access.lean ====
section
/-! DEFINITION. Reads and writes of the state's tables, and memory by home location: one reader and one writer, so that byte order,
pending-zero lines and armed watches are decided once. -/

namespace Sys2Proof.Machine

/-- The front end's place as a party that is on no core (R218). -/
def feCore : Nat := 511

/-! ### Tables -/

/-- The core of a thread key. -/
def coreOfThread (k : Nat) : Nat := k / 2048
/-- The slot of a thread key (R192). -/
def slotOfThread (k : Nat) : Nat := k % 2048
/-- The band of a thread key (R192). -/
def bandOfThread (k : Nat) : Nat := k / 32
/-- The lane home of a thread key (R192). -/
def laneOfThread (k : Nat) : Nat := k % 32
/-- The core of a band key. -/
def coreOfBand (b : Nat) : Nat := b / 64
/-- The thread of a band in a lane (R192). -/
def threadOf (b lane : Nat) : Nat := 32 * b + lane
/-- The hasp key of hasp n of a core. -/
def haspKey (c n : Nat) : Nat := 32 * c + n
/-- The die of a core. -/
def dieOfCore (c : Nat) : Nat := c / 96

/-- The core record, all zero where nothing was written. -/
def State.core (s : State) (c : Nat) : Core := sget Core.zero s.cores c
/-- Write a core record. -/
def State.setCore (s : State) (c : Nat) (x : Core) : State := { s with cores := sput Core.zero s.cores c x }
/-- A hasp record. -/
def State.hasp (s : State) (h : Nat) : Hasp := sget Hasp.zero s.hasps h
/-- Write a hasp record. -/
def State.setHasp (s : State) (h : Nat) (x : Hasp) : State := { s with hasps := sput Hasp.zero s.hasps h x }
/-- A sequencer. -/
def State.strand (s : State) (q : Nat) : Strand := sget Strand.zero s.strands q
/-- Write a sequencer. -/
def State.setStrand (s : State) (q : Nat) (x : Strand) : State := { s with strands := sput Strand.zero s.strands q x }
/-- A core's matrix engine. -/
def State.engine (s : State) (c : Nat) : Engine := sget Engine.zero s.engines c
/-- Write a matrix engine. -/
def State.setEngine (s : State) (c : Nat) (x : Engine) : State := { s with engines := sput Engine.zero s.engines c x }
/-- A line's metadata (R291), by line number of its home address. -/
def State.line (s : State) (l : Nat) : LineMeta := sget LineMeta.zero s.lines l
/-- Write a line's metadata. -/
def State.setLine (s : State) (l : Nat) (x : LineMeta) : State := { s with lines := sput LineMeta.zero s.lines l x }
/-- A queue of a level-1 partition, keyed 1024 * lp1 + handle (R263). -/
def State.queue (s : State) (k : Nat) : Queue := sget Queue.zero s.queues k
/-- Write a queue. -/
def State.setQueue (s : State) (k : Nat) (x : Queue) : State := { s with queues := sput Queue.zero s.queues k x }
/-- A level-1 partition's block. -/
def State.lp1 (s : State) (p : Nat) : Lp1 := sget Lp1.zero s.lp1s p
/-- Write a level-1 partition's block. -/
def State.setLp1 (s : State) (p : Nat) (x : Lp1) : State := { s with lp1s := sput Lp1.zero s.lp1s p x }
/-- A bind record (R314). -/
def State.bind (s : State) (i : Nat) : Bind := sget Bind.zero s.binds i
/-- Write a bind record. -/
def State.setBind (s : State) (i : Nat) (x : Bind) : State := { s with binds := sput Bind.zero s.binds i x }

/-- The key of a queue: 1024 * level-1 partition + handle (R263). -/
def queueKey (lp1 q : Nat) : Nat := 1024 * lp1 + q

/-- The valid bind record that names a queue or a graph of a level-1 partition, the lowest of them (R314). -/
def State.findBind (s : State) (isGraph : Bool) (lp1 handle : Nat) : Option Nat :=
  (List.range 128).find? fun i =>
    let b := s.bind i
    b.valid && b.isGraph == isGraph && b.lp1 == lp1 && b.handle == handle

/-- A level-2 partition (R328). -/
def State.part (s : State) (p : Nat) : Part := sget Part.zero s.parts p
/-- Write a level-2 partition. -/
def State.setPart (s : State) (p : Nat) (x : Part) : State := { s with parts := sput Part.zero s.parts p x }
/-- The context of a slot on a core, keyed 512 * slot + core. -/
def State.ctx (s : State) (k : Nat) : Ctx := sget Ctx.zero s.ctxs k
/-- Write a context. -/
def State.setCtx (s : State) (k : Nat) (x : Ctx) : State := { s with ctxs := sput Ctx.zero s.ctxs k x }
/-- A thread in a slot. -/
def State.thread? (s : State) (k : Nat) : Option Thread := mget s.threads k
/-- Put a thread into a slot. -/
def State.setThread (s : State) (k : Nat) (t : Thread) : State := { s with threads := mput s.threads k t }
/-- Change the thread of a slot, if there is one. -/
def State.modThread (s : State) (k : Nat) (f : Thread → Thread) : State := { s with threads := mmod s.threads k f }
/-- A band in a frame. -/
def State.band? (s : State) (b : Nat) : Option Band := mget s.bands b
/-- Put a band into a frame. -/
def State.setBand (s : State) (b : Nat) (x : Band) : State := { s with bands := mput s.bands b x }
/-- Change a band. -/
def State.modBand (s : State) (b : Nat) (f : Band → Band) : State := { s with bands := mmod s.bands b f }
/-- A running block. -/
def State.block? (s : State) (b : Nat) : Option Block := mget s.blocks b
/-- Change a block. -/
def State.modBlock (s : State) (b : Nat) (f : Block → Block) : State := { s with blocks := mmod s.blocks b f }
/-- A task run. -/
def State.task? (s : State) (k : Nat) : Option Task := mget s.tasks k
/-- Change a task run. -/
def State.modTask (s : State) (k : Nat) (f : Task → Task) : State := { s with tasks := mmod s.tasks k f }
/-- A running graph run. -/
def State.inst? (s : State) (n : Nat) : Option Inst := mget s.insts n
/-- Change a graph run. -/
def State.modInst (s : State) (n : Nat) (f : Inst → Inst) : State := { s with insts := mmod s.insts n f }
/-- Change a core record. -/
def State.modCore (s : State) (c : Nat) (f : Core → Core) : State := s.setCore c (f (s.core c))
/-- Change a level-1 partition's block. -/
def State.modLp1 (s : State) (p : Nat) (f : Lp1 → Lp1) : State := s.setLp1 p (f (s.lp1 p))
/-- The graph of a run. -/
def State.graphOf (s : State) (n : Nat) : Option Graph := (s.inst? n).bind fun i => mget s.graphs i.graph

/-- A fresh number for an operation, command, task, block or thread. -/
def State.fresh (s : State) : Nat × State := (s.nextId, { s with nextId := s.nextId + 1 })

/-- Draw a free choice (log 4). -/
def State.freeChoice (s : State) : Bool × State := (Config.freeBool s.freeCtr, { s with freeCtr := s.freeCtr + 1 })

/-- Draw a free number (log 4). -/
def State.freeNumber (s : State) : Nat × State := (Config.freeNat s.freeCtr, { s with freeCtr := s.freeCtr + 1 })

/-- The 1 GHz counter of a die, 0 to 3 the core dies and 4 the I/O die (R379): 1 clk is 6.4 sixteenths of a ns. Where each stands at reset is
free, in 1/16 ns (log 4). -/
def State.dieNs (s : State) (die : Nat) : Nat := (32 * s.clk / 5 + Config.dieOffset die) / 16

/-- The ns since reset, which time heartbeats (R359). -/
def State.upNs (s : State) : Nat := 2 * s.clk / 5

/-- The I/O die's 1 GHz counter (R379). -/
def State.ns (s : State) : Nat := s.dieNs 4

/-- The bands of a block, in rising frame order. -/
def State.bandsOf (s : State) (blk : Nat) : List Nat := mkeys s.bands fun _ b => b.block == some blk

/-- The lanes of a band that hold a thread that has not executed EXIT and whose PM bit is set (R113). -/
def State.lanesP (s : State) (b : Nat) : List Nat :=
  match s.band? b with
  | none => []
  | some x => (List.range 32).filter fun l => bitAt x.s[31].toNat l && (s.thread? (threadOf b l)).any fun t => t.status != .exited

/-- The threads of P of a band. -/
def State.threadsP (s : State) (b : Nat) : List Nat := (s.lanesP b).map (threadOf b)

/-- The block of a band. -/
def State.blockOfBand (s : State) (b : Nat) : Option Nat := (s.band? b).bind (·.block)

/-- The block of a thread. -/
def State.blockOf (s : State) (k : Nat) : Option Nat := s.blockOfBand (bandOfThread k)

/-! ### Memory -/

/-- The home number of a location of this package: slices first, then device memory, then the host behind each link (R216). -/
def Loc.home : Loc → Option Nat
  | .slice c o => some (c * 2097152 + o)
  | .dev pa => some (2 ^ 44 + pa)
  | .host l pa => some (2 ^ 45 + l * 2 ^ 44 + pa)
  | .remote .. => none
  | .bell _ => none

/-- How far location b lies beyond location a, where one space holds both. -/
def Loc.offset (a b : Loc) : Option Int :=
  match a.home, b.home with
  | some x, some y => some ((y : Int) - x)
  | _, _ =>
    match a, b with
    | .remote p x _, .remote q y _ => if p == q then some ((y : Int) - x) else none
    | .bell x, .bell y => if x == y then some 0 else none
    | _, _ => none

/-- Do n bytes from a location and m bytes from another share a byte? -/
def Loc.overlaps (a : Loc) (n : Nat) (b : Loc) (m : Nat) : Bool :=
  match a.offset b with
  | some d => d < n && -(m : Int) < d
  | none => false

/-- Is a location in another package? -/
def Loc.pkg? : Loc → Option Nat
  | .remote p _ _ => some p
  | _ => none

/-- The address of a location of another package. -/
def Loc.remoteVa : Loc → Nat
  | .remote _ va _ => va
  | _ => 0

/-- The location i bytes before another. -/
def Loc.back (l : Loc) (i : Nat) : Loc :=
  match l with
  | .slice c o => .slice c (o - i)
  | .dev pa => .dev (pa - i)
  | .host k pa => .host k (pa - i)
  | .remote p va g => .remote p (va - i) g
  | .bell pa => .bell (pa - i)

/-- The home number of a device-memory byte. -/
def devHome (pa : Nat) : Nat := 2 ^ 44 + pa

/-- The canonical form of memory: addresses rise strictly and no entry is the 0 that an unlisted address reads as (log 2). -/
def Memory.wf : List Host.Cell → Bool
  | [] => true
  | (a, b) :: m => b != 0 && m.all (fun c => decide (a < c.1)) && Memory.wf m

/-- One byte: 0 where nothing has written it (DESIGN CHOICE, log 2) and on a pending-zero line (R330). -/
def State.byte (s : State) (a : Nat) : Byte := if s.pendZero.contains (a / 64) then 0 else sget 0 s.mem a

/-- n bytes from an address, the lowest first. -/
def State.bytes (s : State) (a : Nat) : Nat → List Byte
  | 0 => []
  | n + 1 => s.byte a :: s.bytes (a + 1) n

/-- Store bytes from an address, the lowest first. -/
def storeBytes (m : List Host.Cell) (a : Nat) : List Byte → List Host.Cell
  | [] => m
  | b :: bs => storeBytes (sput 0 m a b) (a + 1) bs

/-- A pending-zero line is zeroed before a write merges into it (R330). -/
def State.settleLine (s : State) (l : Nat) : State :=
  if s.pendZero.contains l then
    { s with mem := s.mem.filter (fun c => c.1 / 64 != l), pendZero := s.pendZero.filter (· != l) }
  else s

/-- The lines that n bytes from an address touch. -/
def linesOf (a n : Nat) : List Nat := if n == 0 then [] else (List.range ((a + n - 1) / 64 - a / 64 + 1)).map (· + a / 64)

/-- Mark the watches armed on a line, and the saved ones, as written (R104, R327). -/
def State.touchLine (s : State) (l : Nat) : State :=
  { s with
    watches := mmap s.watches fun _ w => if w.line == l then { w with written := true } else w
    saved := s.saved.map fun x => { x with watches := x.watches.map fun w => if w.line == l then { w with fired := true } else w } }

/-- The one write of memory: pending-zero lines settle, the bytes land, armed watches see it. -/
def State.writeHome (s : State) (a : Nat) (bs : List Byte) : State :=
  let s := (linesOf a bs.length).foldl State.settleLine s
  let s := { s with mem := storeBytes s.mem a bs }
  (linesOf a bs.length).foldl State.touchLine s

/-- Write device memory by physical address (rings, R247). -/
def State.writeDev (s : State) (pa : Nat) (bs : List Byte) : State := s.writeHome (devHome pa) bs

/-- Read a 64-bit word of device memory by physical address (page tables, R242). -/
def State.dev64 (s : State) (pa : Nat) : Nat := leNat (s.bytes (devHome pa) 8)

/-- The read-only path cache of a core is invalidated (R228). -/
def State.dropRoc (s : State) (c : Nat) : State := s.modCore c fun x => { x with roc := [], rocAt := s.nextId }

/-- Clear bytes [lo, hi) of home numbers to 0 (R330). -/
def State.zeroRange (s : State) (lo hi : Nat) : State :=
  { s with mem := s.mem.filter fun c => c.1 < lo || hi ≤ c.1 }

/-! ### Registers -/

/-- Lane register n reads (R1); a number beyond v159 is never formed. -/
def Thread.getV (t : Thread) (n : Nat) : Word := if h : n < 160 then t.v[n] else 0

/-- Lane register n is written. -/
def Thread.setV (t : Thread) (n : Nat) (w : Word) : Thread := if h : n < 160 then { t with v := t.v.set n w, bad := t.bad.filter (· != n) } else t

/-- A lane destination is written; 255 writes nothing (R57). -/
def Thread.setD (t : Thread) (d : LaneDst) (w : Word) : Thread :=
  match d with
  | .v n => t.setV n.val w
  | .discard => t

/-- A thread's nonzero flags, bit i for Fi (R378). -/
def Thread.flagNz (t : Thread) : Nat := (List.finRange 12).foldl (fun n i => if t.f[i] != 0 then n + 2 ^ i.val else n) 0

/-- OR conditions into FSTAT (R44). -/
def Thread.orStat (t : Thread) (fl : Word) : Thread := { t with fstat := t.fstat ||| (fl &&& fstatMask) }

/-- A flag is counted up at issue (R9). -/
def Thread.raise (t : Thread) (f : Option (Fin 12)) : Thread :=
  match f with
  | some i => { t with f := t.f.set i (t.f[i] + 1) }
  | none => t

/-- A flag falls at completion (R9). -/
def Thread.lower (t : Thread) (f : Option (Fin 12)) : Thread :=
  match f with
  | some i => { t with f := t.f.set i (t.f[i] - 1) }
  | none => t

/-- Is every flag zero (R109)? -/
def Thread.quiet (t : Thread) : Bool := t.f.toList.all (· == 0)

/-- PM of a band (R28). -/
def Band.pm (b : Band) : Word := b.s[31]

/-- The resident threads of a band that have not executed EXIT, as a mask (R28). -/
def State.liveMask (s : State) (b : Nat) : Word :=
  BitVec.ofNat 32 ((List.range 32).foldl (fun m l => m + if (s.thread? (threadOf b l)).any (·.status != .exited) then 2 ^ l else 0) 0)

/-- Does a surrender routine run in a band (R170)? -/
def State.routineIn (s : State) (b : Nat) : Bool :=
  (((s.band? b).bind (·.block)).bind s.block?).any fun y => y.rstate == .routine && y.chosen == some b

/-- The threads of a band that a routine running in it held because they stood outside P, and that a write of s31, to `pm`, brings into it,
become ready now (R170, R196). -/
def State.letGo (s : State) (b : Nat) (pm : Word) : State :=
  if !s.routineIn b then s
  else
    let old := ((s.band? b).map Band.pm).getD 0
    let gone (k : Nat) (t : Thread) : Bool :=
      bandOfThread k == b && bitAt pm.toNat (laneOfThread k) && !bitAt old.toNat (laneOfThread k) && t.status == .ready && !t.trapMode && !t.yielded
    { s with threads := mmap s.threads fun k t => if gone k t then { t with readyAt := s.clk, clauses := 0 } else t }

/-- Write an s register of a band: s31 is PM, masked by the threads that live (R28). -/
def State.setS (s : State) (b : Nat) (n : Nat) (w : Word) : State :=
  if n == 31 then
    let pm := w &&& s.liveMask b
    (s.letGo b pm).modBand b fun x => { x with s := x.s.set 31 pm }
  else s.modBand b fun x => if h : n < 32 then { x with s := x.s.set n w } else x

/-- A strand writes its own register n in this clk (R133). -/
def Strand.noteWrite (x : Strand) (clk n : Nat) : Strand :=
  { x with wroteAt := clk + 1, wrote := (if x.wroteAt == clk + 1 then x.wrote else 0) ||| (1#32 <<< n) }

/-- Has a strand written its register n in this clk (R133)? -/
def Strand.wroteNow (x : Strand) (clk n : Nat) : Bool := x.wroteAt == clk + 1 && bitAt x.wrote.toNat n

/-- Write a strand's s register (R118). -/
def Strand.setS (x : Strand) (n : Nat) (w : Word) : Strand := if h : n < 32 then { x with s := x.s.set n w } else x

/-! ### Code bases and halting -/

/-- A node of a run's graph. -/
def State.nodeOf (s : State) (inst node : Nat) : Option Node := (s.graphOf inst).bind fun g => g.nodes[node]?

/-- The kernel's first clause: the code base (R107, R280). -/
def State.codeBase (s : State) (inst node role : Nat) : Addr :=
  match s.graphOf inst, s.nodeOf inst node with
  | some g, some n =>
    match n.roles[role]? with
    | some r => g.codeVa + BitVec.ofNat 56 (32 * ((g.kernels[r.kidx]?).map (·.kpc)).getD 0)
    | none => g.codeVa
  | _, _ => 0

/-- The code base of a band (R107). -/
def State.bandBase (s : State) (b : Nat) : Addr :=
  match s.band? b with
  | some x => s.codeBase x.inst x.node x.role
  | none => 0

/-- A halt is recorded in the core's debug block (R370, R371); a pending step's RESULT becomes 0 (R373). -/
def State.noteHalt (s : State) (c tgt ofs : Nat) (stepped : Bool) : State :=
  s.modCore c fun x => { x with dbg := { x.dbg with
    hit := true, hslot := tgt, hpcofs := BitVec.ofNat 32 ofs, result := if stepped then 0 else x.dbg.result } }

/-- A pending step of a core is over, where there was one: RESULT no longer reads 5 (R373, R375). -/
def State.stepDone (s : State) (c : Nat) (stepping : Bool) : State :=
  if stepping then s.modCore c fun x => { x with dbg := { x.dbg with result := 0 } } else s

/-- A thread halts (R371-R373). -/
def State.haltThread (s : State) (k : Nat) : State :=
  match s.thread? k with
  | none => s
  | some t =>
    (s.setThread k { t with halted := true, haltReq := false, stepping := false }).noteHalt (coreOfThread k) (slotOfThread k)
      (t.pc - s.bandBase (bandOfThread k)).toNat t.stepping

/-- A thread that a halt or a step waits for halts once it is ready again (R372, R373). -/
def State.settleHalt (s : State) (k : Nat) : State :=
  match s.thread? k with
  | some t => if t.haltReq && t.status == .ready then s.haltThread k else s
  | none => s

/-- At a clause boundary that a thread reaches without an instruction: a step waits for its instruction still (R373). -/
def State.settleWait (s : State) (k : Nat) : State := if (s.thread? k).any (·.stepping) then s else s.settleHalt k

/-- A thread passes from not ready to ready: its ready time is now (R196). -/
def State.readied (s : State) (k : Nat) : State :=
  (s.modThread k fun t => { t with status := .ready, readyAt := s.clk, clauses := 0 }).settleHalt k

end Sys2Proof.Machine
end

