-- ==== Sys2Proof/Machine/Translate.lean ====
section
/-! DEFINITION. From an address operand to a checked location: window formation (R83), slice space (R215, R326), the four-level page
table and its outcomes (R242, R243), held translations (R244, R245), the counter side table (R376). -/

namespace Sys2Proof.Machine

/-- How an address is used. -/
inductive Use where
  | read | write | fetch
deriving DecidableEq, Repr

/-- The outcome of forming or translating an address: a checked access, a park with its REASON, or an unrecoverable access with its
DETAIL (R243). -/
inductive TRes where
  | ok (a : Acc)
  | park (reason : Nat)
  | bad (detail : Nat)
deriving DecidableEq, Repr

/-- R83: the 56-bit address of t through windows held in s28, s29 and s30; the DETAIL where it traps. -/
def formVa (pkg : Nat) (w28 w29 w30 : Word) (t : Nat) : Except Nat Nat :=
  let t := t % 2 ^ 32
  let w := bits t 31 30
  let ofs := bits t 29 0
  if w == 3 then
    if 96 ≤ bits t 27 21 then .error 1 else .ok (0xFF * 2 ^ 48 + pkg * 2 ^ 30 + ofs)
  else
    let h := (if w == 0 then w28 else if w == 1 then w29 else w30).toNat
    if bits h 31 26 != 0 then .error 0
    else
      let va := bits h 25 0 * 2 ^ 30 + ofs
      if bits va 55 48 == 0xFF && bits va 47 38 != 0 then .error 0 else .ok va

/-- Is an address in slice space (R215)? -/
def isSlice (va : Nat) : Bool := bits va 55 48 == 0xFF

/-- What a context is translated by: its slot, level-2 partition, level-1 partition and table root (R242). -/
structure Space where
  slot : Nat
  part : Nat
  lp1  : Nat
  root : Nat
deriving DecidableEq, Repr

/-- The space of a slot's bind record (R242, R314). -/
def State.spaceOf (s : State) (slot part : Nat) : Space := ⟨slot, part, (s.part part).parent, (s.bind slot).root⟩

/-- The space that no bind record governs: the partition's template root (R382). -/
def State.templateSpace (s : State) (part : Nat) : Space := ⟨128, part, (s.part part).parent, (s.part part).template.root⟩

/-- The core on which a context's ORIGIN slice now is (R326): an access that names ORIGIN reaches core `c`. -/
def State.aliasCore (s : State) (slot c named : Nat) : Nat :=
  if slot < 128 && (s.ctx (512 * slot + c)).origin == named + 1 then c else named

/-- A slice address (R215): its DETAIL where it traps; another package's slice is remote. DEDUCED, log 80. -/
def State.sliceAcc (s : State) (sp : Space) (c : Nat) (va : Nat) : TRes :=
  if bits va 47 38 != 0 then .bad 0
  else
    let pkg := bits va 37 30
    let core := bits va 27 21
    if 96 ≤ core then .bad 1
    else if pkg != s.pkg.toNat then
      if s.present.contains pkg then .ok ⟨.remote pkg va false, false, 0, none⟩ else .bad 1
    else .ok ⟨.slice (s.aliasCore sp.slot c (96 * bits va 29 28 + core)) (bits va 20 0), false, 0, none⟩

/-- The outcome of a walk: the leaf and its level, an entry with V = 0, or a broken descriptor (R242). -/
inductive Walk where
  | leaf (e level : Nat)
  | invalid
  | broken
deriving DecidableEq, Repr

/-- The index of a level in an address (R242). -/
def levelIndex (level va : Nat) : Nat :=
  match level with
  | 0 => bits va 20 16
  | 1 => bits va 28 21
  | 2 => bits va 44 29
  | _ => bits va 55 45

/-- Low address bits that a table's alignment makes 0 in a descriptor that names a table of a level (R242). -/
def tableAlign (level : Nat) : Nat :=
  match level with
  | 0 => 8
  | 1 => 11
  | 2 => 19
  | _ => 14

/-- The page bits of a leaf of a level (R242). -/
def pageBits (level : Nat) : Nat :=
  match level with
  | 0 => 16
  | 1 => 21
  | _ => 29

/-- The walk of R242 from a table of a level. -/
def State.walkFrom (s : State) (va : Nat) : Nat → Nat → Walk
  | level, table =>
    let e := s.dev64 (table + 8 * levelIndex level va)
    if e % 2 == 0 then .invalid
    else if !bitAt e 1 then (if level == 3 then .broken else .leaf e level)
    else
      match level with
      | 0 => .broken
      | l + 1 =>
        if bits e 63 44 != 0 || bits e 7 2 != 0 then .broken
        else
          let next := bits e 43 8 * 256
          if next % 2 ^ tableAlign l != 0 then .broken else s.walkFrom va l next

/-- The walk from the root. -/
def State.walk (s : State) (root va : Nat) : Walk := s.walkFrom va 3 root

/-- Is every 64 KiB frame of a page one of device memory (R1) and granted to a level-1 partition (R243)? -/
def State.framesGranted (s : State) (lp1 pa level : Nat) : Bool :=
  pa + 2 ^ pageBits level ≤ Config.deviceBytes &&
    (List.range (2 ^ (pageBits level - 16))).all fun i => mget s.granted (pa / 2 ^ 16 + i) == some (lp1 + 1)

/-- A page of the I/O window: the doorbell of a queue pair that the level-1 partition owns (R356). -/
def State.bellOk (s : State) (lp1 pa level : Nat) : Bool :=
  level == 0 && Config.doorbellBase ≤ pa && decide (pa < Config.doorbellBase + 65536 * 4096) &&
    (mget s.qps ((pa - Config.doorbellBase) / 65536)).any (·.lp1 == lp1)

/-- R243: the outcome of a leaf for a use. Where the instruction may not reach host memory (`host` false), that check comes before
translation's outcomes (R84, R236). DEDUCED, log 64. -/
def State.judgeLeaf (s : State) (sp : Space) (va e level : Nat) (use : Use) (host : Bool) : TRes :=
  if !host && 2 ≤ bits e 53 52 then .bad 4
  else if use == .write && !bitAt e 2 then .park 1
  else if use == .fetch && !bitAt e 3 then .park 2
  else if bits e 59 54 != sp.part then .bad 3
  else
    let eg := bits e 62 61
    let loc := bits e 53 52
    let g := bitAt e 63
    let pk := bits e 51 44
    let base := bits e 43 16 * 2 ^ 16
    if bits e 15 4 != 0 || eg == 3 || (loc != 1 && pk != 0) || base % 2 ^ pageBits level != 0 then .bad 5
    else if !((eg == 0 && loc == 0) || (eg == 1 && (2 ≤ loc || (loc == 1 && !g))) || (eg == 2 && loc == 1 && g)) then .bad 5
    else
      let pa := base + va % 2 ^ pageBits level
      let cnt := if bitAt e 60 && loc == 0 then some (base / 2 ^ 16) else none
      if loc == 0 then
        if Config.ioWindow ≤ pa then (if s.bellOk sp.lp1 base level then .ok ⟨.bell pa, false, 0, none⟩ else .bad 6)
        else if s.framesGranted sp.lp1 base level then .ok ⟨.dev pa, g, eg, cnt⟩ else .bad 6
      else if loc == 1 then .ok ⟨.remote pk pa g, g, eg, none⟩
      else .ok ⟨.host (loc - 2) pa, false, eg, none⟩

/-- The TLBs that an access from core c looks into, with their sizes: the core's own and its die's (R244). The front end's place and the
I/O die count as a core and a die of their own (DESIGN CHOICE, log 83). -/
def tlbsOf (c : Nat) : List (Nat × Nat) := [(c, Config.coreTlb), (512 + dieOfCore c, Config.dieTlb)]

/-- A TLB's entries. -/
def State.tlb (s : State) (i : Nat) : List TlbEntry := (mget s.tlbs i).getD []

/-- Does an entry cover an address of a space? -/
def TlbEntry.hits (x : TlbEntry) (sp : Space) (va : Nat) : Bool :=
  x.part == sp.part && x.root == sp.root && va / 2 ^ pageBits x.level == x.page

/-- The entries for an address of a space that an access from core c may meet. -/
def State.tlbHits (s : State) (sp : Space) (c va : Nat) : List TlbEntry :=
  ((tlbsOf c).flatMap fun i => (s.tlb i.1).filter fun x => x.hits sp va).eraseDups

/-- A TLB of n entries holds an entry; where it is full, one that the machine chooses leaves (log 4). -/
def State.tlbPut1 (s : State) (i n : Nat) (x : TlbEntry) : State :=
  let xs := s.tlb i
  if xs.contains x then s
  else if xs.length < n then { s with tlbs := mput s.tlbs i (x :: xs) }
  else
    let (v, s) := s.freeNumber
    { s with tlbs := mput s.tlbs i (x :: xs.eraseIdx (v % xs.length)) }

/-- Hold a translation (R244: no entry with V = 0 and no fault is held). -/
def State.tlbPut (s : State) (c : Nat) (x : TlbEntry) : State := (tlbsOf c).foldl (fun s i => s.tlbPut1 i.1 i.2 x) s

/-- Translate an address outside slice space for an access from core c. An entry held there that a walk no longer gives is used or not, as
the machine pleases, until an invalidation completes (R245; log 4). -/
def State.translate (s : State) (sp : Space) (c va : Nat) (use : Use) (host : Bool := true) : TRes × State :=
  let w := s.walk sp.root va
  let old := (s.tlbHits sp c va).filter fun x => w != .leaf x.leaf x.level
  let (n, s) := if old.isEmpty then (0, s) else s.freeNumber
  match old[n % (old.length + 1)]? with
  | some x => (s.judgeLeaf sp va x.leaf x.level use host, s)
  | none =>
    match w with
    | .invalid => (.park 0, s)
    | .broken => (.bad 5, s)
    | .leaf e l => (s.judgeLeaf sp va e l use host, s.tlbPut c ⟨sp.part, sp.root, va / 2 ^ pageBits l, e, l⟩)

/-- Place an address for an access of a party on core c: slice space, or translated. `host` says whether it may reach host memory. -/
def State.place (s : State) (sp : Space) (c va : Nat) (use : Use) (host : Bool := true) : TRes × State :=
  if isSlice va then (s.sliceAcc sp c va, s) else s.translate sp c va use host

/-- Does a location lie on another die or package than core c (R376)? -/
def Loc.isRemote (c : Nat) : Loc → Bool
  | .slice d _ => dieOfCore d != dieOfCore c
  | .dev pa => Config.dieOfFrame (pa / 65536) != dieOfCore c
  | .remote .. => true
  | _ => false

/-- Add 1 to a saturating 32-bit counter in device memory. -/
def State.bumpWord (s : State) (pa : Nat) : State :=
  let x := leNat (s.bytes (devHome pa) 4)
  if x == 2 ^ 32 - 1 then s else s.writeDev pa (leBytes 4 (x + 1))

/-- R376: count an access translated through a leaf with CNT = 1, on the frame's entry of the side table, which is placed through the
accessing context's tables (DEDUCED, log 13). `n` accesses, reads and writes. -/
def State.countAcc (s : State) (sp : Space) (c : Nat) (a : Acc) (reads writes : Nat) : State :=
  match a.cnt with
  | none => s
  | some f =>
    let b := s.lp1 sp.lp1
    if b.sbase == 0 || f < b.fbase.toNat || b.fbase.toNat + b.nfr ≤ f then s
    else
      match (s.translate sp c (b.sbase.toNat + 16 * (f - b.fbase.toNat)) .read).1 with
      | .ok ⟨.dev pa, _, _, _⟩ =>
        let s := (reads.repeat (fun s => s.bumpWord pa) s).writeDev (pa + 12) [0, 0, 0, 0]
        let s := writes.repeat (fun s => s.bumpWord (pa + 4)) s
        if a.loc.isRemote c then (max reads writes).repeat (fun s => s.bumpWord (pa + 8)) s else s
      | _ => s

end Sys2Proof.Machine
end

