-- ==== Sys2Proof/Machine/Events.lean ====
section
/-! DEFINITION. Rings of 32-byte records that the hardware writes: the fault queue (R247, R248), the event ring (R290), the RAS log
(R364) and the sample rings (R377); MSI-X (R352). -/

namespace Sys2Proof.Machine

/-- May a ring take entries: a legal size, and in frames granted to the partition (R247)? PF0's RAS ring belongs to no partition, and lies in
device memory (R1). -/
def State.ringOk (s : State) (owner : Option Nat) (r : Ring) : Bool :=
  6 ≤ r.log2n && r.log2n ≤ 16 && r.base.toNat % 2 ^ (r.log2n + 5) == 0 &&
    match owner with
    | none => r.base.toNat + 2 ^ (r.log2n + 5) ≤ Config.deviceBytes
    | some p =>
      (List.range ((2 ^ (r.log2n + 5) + 65535) / 65536)).all fun i => mget s.granted (r.base.toNat / 65536 + i) == some (p + 1)

/-- Is the ring full (R247)? -/
def Ring.full (r : Ring) : Bool := (r.tail + 1) % 2 ^ r.log2n == r.head

/-- Write one record, or set LOST (R247): the record's bytes are performed before the tail passes it. -/
def State.ringPut (s : State) (owner : Option Nat) (r : Ring) (words : List Nat) : State × Ring × Bool :=
  if !s.ringOk owner r || r.full then (s, { r with lost := true }, false)
  else
    (s.writeDev (r.base.toNat + 32 * r.tail) (words.flatMap (leBytes 4)),
      { r with tail := (r.tail + 1) % 2 ^ r.log2n, seqn := r.seqn + 1 }, true)

/-- Raise an MSI-X vector of a partition's function (R352); 16 stands for PF0. -/
def State.raiseVec (s : State) (lp1 vec : Nat) : State := s.modLp1 lp1 fun b => { b with msix := b.msix ++ [vec] }

/-- A record of a partition's ring is signalled in every function whose BAR0 holds its block: the partition's and PF0 (R352; DEDUCED,
log 95). -/
def State.raiseBoth (s : State) (lp1 vec : Nat) : State := (s.raiseVec lp1 vec).raiseVec 16 vec

/-- An event record (R290). -/
structure EvRec where
  type   : Nat
  code   : Nat
  handle : Nat
  ginst  : Nat
  node   : Nat
  role   : Nat
  d3     : Nat
  d4     : Nat
  d5     : Nat

/-- Write an event record into a partition's event ring and signal vector 0 (R290, R352). -/
def State.event (s : State) (lp1 : Nat) (e : EvRec) : State :=
  let b := s.lp1 lp1
  let ws := [e.type * 2 ^ 24 + e.code % 256 * 2 ^ 16 + e.handle % 2 ^ 16, e.ginst,
    e.node % 4096 * 2 ^ 20 + e.role % 4 * 2 ^ 18, e.d3, e.d4, e.d5, s.ns % 2 ^ 32, s.ns / 2 ^ 32 % 2 ^ 32]
  let (s1, r, ok) := s.ringPut (some lp1) b.ev ws
  let s2 := s1.modLp1 lp1 fun b => { b with ev := r }
  if ok then s2.raiseBoth lp1 0 else s2

/-- The generation tag of a slot's context on a core (R232). -/
def State.genOf (s : State) (slot c : Nat) : Nat := (s.ctx (512 * slot + c)).gen

/-- Who parked or stalled, for a fault-queue entry (R248). -/
structure FaultWho where
  core   : Nat
  tslot  : Nat
  strand : Bool
  seq    : Nat
  part   : Nat
  slot   : Nat
  pcofs  : Nat
  ginst  : Nat

/-- A fault makes a fault-queue entry (R247, R248), which is written as the clk ends. -/
def State.faultEntry (s : State) (w : FaultWho) (p : Park) : State :=
  let ws := [p.va % 2 ^ 32, p.kind * 2 ^ 28 + p.reason * 2 ^ 24 + p.va / 2 ^ 32 % 2 ^ 24,
    w.core / 96 * 2 ^ 30 + w.core % 96 * 2 ^ 23 + w.tslot * 2 ^ 12 + boolNat w.strand * 2 ^ 11 + w.seq * 2 ^ 10 + w.part * 2 ^ 4,
    w.pcofs % 2 ^ 32, s.genOf w.slot w.core % 2 ^ 16 * 2 ^ 16, w.ginst, s.dieNs (w.core / 96) % 2 ^ 32, s.dieNs (w.core / 96) / 2 ^ 32 % 2 ^ 32]
  { s with faults := s.faults ++ [⟨(s.part w.part).parent, w.core, w.tslot, ws⟩] }

/-- Write a fault-queue entry, which takes the queue's count as SEQN, and signal vector 1 (R247, R248). -/
def State.putFault (s : State) (e : FaultEnt) : State :=
  let b := s.lp1 e.lp1
  let ws := e.words.modify 4 (· + b.fq.seqn % 2 ^ 16)
  let (s1, r, ok) := s.ringPut (some e.lp1) b.fq ws
  let s2 := s1.modLp1 e.lp1 fun b => { b with fq := r }
  if ok then s2.raiseBoth e.lp1 1 else s2

/-- Where an entry stands among those of its clk: by die and core, then slot (R247). -/
def FaultEnt.before (a b : FaultEnt) : Bool := a.core < b.core || (a.core == b.core && a.slot < b.slot)

/-- An entry put behind those that do not stand after it. -/
def FaultEnt.insert (e : FaultEnt) : List FaultEnt → List FaultEnt
  | [] => [e]
  | x :: xs => if e.before x then e :: x :: xs else x :: e.insert xs

/-- The entries of a clk are written as it ends (R247). -/
def State.flushFaults (s : State) : State :=
  (s.faults.foldl (fun m e => e.insert m) []).foldl State.putFault { s with faults := [] }

/-- Write a RAS log entry (R364), with the counter of its die, 4 for the I/O die (R379): kind 0 corrected, 1 uncorrectable, 2 cell parity,
3 link, 4 thermal. The layout of an entry's words is DESIGN CHOICE (log 14). -/
def State.rasEntry (s : State) (kind die core struct_ addr count : Nat) : State :=
  let ws := [kind, die * 2 ^ 16 + core, struct_, addr % 2 ^ 32, addr / 2 ^ 32 % 2 ^ 32, count, s.dieNs die % 2 ^ 32, s.dieNs die / 2 ^ 32 % 2 ^ 32]
  let (s1, r, ok) := s.ringPut none s.ras ws
  let s2 := { s1 with ras := r }
  if ok then s2.raiseVec 16 2 else s2

/-! ### Sampled requests (R377) -/

/-- A record written to a level-2 partition's sample ring, or counted as dropped (R377). The ring is placed through the partition's own
tables (DEDUCED, log 13). -/
def State.sampleRecord (s : State) (part : Nat) (words : State → Sampling → List Nat) : State :=
  let p := s.part part
  let b := p.samp
  if b.slog2 < 6 || 20 < b.slog2 || b.base.toNat % 2 ^ (b.slog2 + 5) != 0 then s
  else if (b.stail + 1) % 2 ^ b.slog2 == b.shead then
    s.setPart part { p with samp := { b with sdrop := min (b.sdrop + 1) (2 ^ 32 - 1), dropSince := b.dropSince + 1 } }
  else
    match (s.translate (s.templateSpace part) feCore (b.base.toNat + 32 * b.stail) .write).1 with
    | .ok ⟨.dev pa, _, _, _⟩ =>
      (s.writeDev pa ((words s b).flatMap (leBytes 4))).setPart part
        { p with samp := { b with stail := (b.stail + 1) % 2 ^ b.slog2, seqn := b.seqn + 1 } }
    | _ => s

/-- Words 0 and 1 of a sample (R377). -/
def sampleHead (rtype core slot : Nat) (strand : Bool) (pcofs : Nat) : List Nat :=
  [rtype * 2 ^ 28 + dieOfCore core * 2 ^ 26 + core % 96 * 2 ^ 19 + slot * 2 ^ 8 + boolNat strand * 2 ^ 7, pcofs % 2 ^ 32]

/-- DEST of a request from core c (R377). -/
def Loc.dest (c : Nat) : Loc → Nat
  | .slice d _ => if d == c then 0 else if dieOfCore d == dieOfCore c then 1 else 2
  | .dev _ | .bell _ => 3
  | .remote .. => 4
  | .host .. => 5

/-- Count a request of a partition on a core; is it the one that is tagged (R377)? -/
def State.countReq (s : State) (c part : Nat) : Bool × State :=
  let b := (s.part part).samp
  if !b.reqen || 24 < b.reqp then (false, s)
  else
    let n := sget 0 (s.core c).reqCount part + 1
    (n % 2 ^ b.reqp == 0, s.modCore c fun x => { x with reqCount := mput x.reqCount part n })

/-- The clks a request waited in a hop's queue: a free value (log 4), saturated (R377). -/
def State.queueClk (s : State) : Nat × State :=
  let (n, s) := s.freeNumber
  (min n 65535, s)

/-- The record of a tagged request whose response has arrived (R377), `total` clks after its issue. -/
def State.sampleReq (s : State) (c slot : Nat) (strand : Bool) (part pcofs va kind : Nat) (loc : Loc) (total : Nat) : State :=
  let (a, s) := s.queueClk
  let (b, s) := s.queueClk
  let (d, s) := s.queueClk
  let (e, s) := s.queueClk
  let (f, s) := s.queueClk
  let (g, s) := s.queueClk
  s.sampleRecord part fun _ smp => sampleHead 1 c slot strand pcofs ++
    [va % 2 ^ 32, kind * 2 ^ 28 + loc.dest c * 2 ^ 24 + va / 2 ^ 32 % 2 ^ 24, a * 2 ^ 16 + b, d * 2 ^ 16 + e, f * 2 ^ 16 + g,
      min total 65535 * 2 ^ 16 + smp.seqn % 2 ^ 16]

/-- A request that the model performs as it is made, of an engine, a clause fetch or a graded store, counted and sampled at once: how long
the machine takes from its issue to its response is free (log 4). -/
def State.sampleNow (s : State) (c slot : Nat) (strand : Bool) (part pcofs va kind : Nat) (loc : Loc) : State :=
  let (tag, s) := s.countReq c part
  if tag then
    let (n, s) := s.queueClk
    s.sampleReq c slot strand part pcofs va kind loc n
  else s

end Sys2Proof.Machine
end

