-- ==== Sys2Proof/Machine/Hasps.lean ====
section
/-! DEFINITION. Hasps (R99-R104, R134-R137): judging a phase, completing one, arrivals, membership changes, watches. -/

namespace Sys2Proof.Machine

/-- R101: has phase p completed, with the current phase `cur`? -/
def phaseDone (cur : BitVec 16) (p : Nat) : Bool := (cur - BitVec.ofNat 16 p - 1).toNat < 2 ^ 15

/-- The status word of HWAIT, HWAITS and HTEST (R101). -/
def haspStatus (spur inv done : Bool) (phase : BitVec 16) : Word :=
  BitVec.ofNat 32 (boolNat spur * 2 ^ 31 + boolNat inv * 2 ^ 30 + boolNat done * 2 ^ 29 + phase.toNat)

/-- The status of a phase judged completed (R101, R104). -/
def Hasp.doneStatus (h : Hasp) (p : Nat) : Word := haspStatus (h.spur.contains (p % 2 ^ 16)) false true h.phase

/-- Is the phase ready to complete (R136)? -/
def Hasp.ready (h : Hasp) : Bool :=
  h.valid && h.arrived == h.expArr && h.slots.toList.all fun x => !x.act || x.landed == x.expect

/-- The change of one completion (R136): the new phase, counters cleared, the membership change applied, held arrivals admitted up to
the new EXPECT_ARR in the order they were held. -/
def Hasp.complete (h : Hasp) : Hasp :=
  let p := h.phase.toNat
  let exp := h.expArr + h.nextd
  let n := min h.heldArr.length exp.toNat
  let adm := h.heldArr.take n
  { h with
    phase := h.phase + 1
    arrived := n
    expArr := exp.toNat
    nextd := 0
    slots := h.slots.map fun x => { x with landed := 0, expect := 0 }
    arr := adm.filterMap (·.thread)
    heldArr := h.heldArr.drop n
    spurNow := adm.any (·.lost)
    spur := if h.spurNow then p :: h.spur.filter (· != p) else h.spur.filter (· != p) }

/-- The status of a waiting thread is written and it goes on (R102); a return with DONE is an acquire, so the core's read-only path
cache is invalidated (R228). -/
def State.wake (s : State) (k : Nat) (st : Word) (acq : Bool) : State :=
  match s.thread? k with
  | some t =>
    match t.status with
    | .hwait _ _ d nxt =>
      let s1 := (s.setThread k { t.setD d st with status := .ready, pc := nxt, bpSkip := false }).readied k
      if acq then s1.dropRoc (coreOfThread k) else s1
    | _ => s
  | none => s

/-- Every thread of a core that waits on a phase of hasp n that has completed returns (R102, R136). -/
def State.wakeDone (s : State) (c n : Nat) : State :=
  let h := s.hasp (haspKey c n)
  let ks := mkeys s.threads fun k t => coreOfThread k == c &&
    match t.status with
    | .hwait m p _ _ => m == n && phaseDone h.phase p
    | _ => false
  ks.foldl (fun s k =>
    match (s.thread? k).map (fun t => t.status) with
    | some (TStatus.hwait _ p _ _) => s.wake k (h.doneStatus p) true
    | _ => s) s

/-- A strand that waits on a completed phase goes on (R144); that is an acquire (R228). -/
def State.wakeStrands (s : State) (c n : Nat) : State :=
  let h := s.hasp (haspKey c n)
  [2 * c, 2 * c + 1].foldl (fun s q =>
    let x := s.strand q
    match x.status with
    | .wait m p nxt =>
      if m == n && phaseDone h.phase p then (s.setStrand q { x with status := .run, pc := nxt }).dropRoc c else s
    | _ => s) s

/-- A band's pending joins on a hasp end when the phase it joins at begins (R128). -/
def State.endJoins (s : State) (c n : Nat) : State :=
  let p := (s.hasp (haspKey c n)).phase.toNat
  { s with bands := mmap s.bands fun b x =>
      if coreOfBand b == c then { x with joins := x.joins.filter fun j => !(j.1 == n && j.2 == p) } else x }

/-- try_complete (R136), repeated while admitted arrivals complete the next phase; each completion but the last uses up held arrivals,
so their number bounds the repetition. -/
def State.completeLoop (c n : Nat) : Nat → State → State
  | 0, s => s
  | k + 1, s =>
    let h := s.hasp (haspKey c n)
    if h.ready then
      let h' := h.complete
      let s1 := (s.setHasp (haspKey c n) h').endJoins c n
      let s2 := (s1.wakeDone c n).wakeStrands c n
      if 0 < h'.arrived then State.completeLoop c n k s2 else s2
    else s

/-- try_complete (R136). -/
def State.tryComplete (s : State) (c n : Nat) : State :=
  State.completeLoop c n ((s.hasp (haspKey c n)).heldArr.length + 1) s

/-- An arrival that must not be refused: GROW grants, immediate GROW arrivals and monitor fires are held where ARRIVED would exceed
EXPECT_ARR (R137). -/
def Hasp.arriveOrHold (h : Hasp) (lost : Bool) : Hasp :=
  if h.arrived + 1 ≤ h.expArr then { h with arrived := h.arrived + 1, spurNow := h.spurNow || lost }
  else { h with heldArr := h.heldArr ++ [⟨none, lost⟩] }

/-- An arrival that the hasp itself may have to hold (R137). A held arrival is not yet an arrival, so try_complete does not follow it
(R136). DEDUCED, log 81. -/
def State.arriveHeld (s : State) (c n : Nat) (h : Hasp) (lost : Bool) : State :=
  let t := s.setHasp (haspKey c n) (h.arriveOrHold lost)
  if h.arrived + 1 ≤ h.expArr then t.tryComplete c n else t

/-- A band's arrivals in the current phase of a hasp (R129). A thread that has ended left with its own (R130; DEDUCED, log 89). -/
def Hasp.arrivedOf (h : Hasp) (band : Nat) : Nat := (h.arr.filter fun k => bandOfThread k == band).length

/-- The numbers of set bits of a mask. -/
def maskNums (m : BitVec 32) : List Nat := setBits 32 m.toNat

/-- Does a block hold hasp n (R99)? -/
def Block.holds (b : Block) (n : Nat) : Bool := bitAt b.hasps.toNat n

/-- Disarm the watches of a hasp (R143). -/
def State.disarm (s : State) (hk : Nat) : State :=
  { s with watches := s.watches.filter fun w => w.2.hasp != hk }

/-- HINV of one hasp (R143): not valid, watches disarmed, MONCNT 0, waiting threads return with INV. -/
def State.invalidate (s : State) (c n : Nat) : State :=
  let hk := haspKey c n
  let h := s.hasp hk
  let s1 := (s.setHasp hk { h with valid := false, moncnt := 0 }).disarm hk
  let ks := mkeys s1.threads fun k t => coreOfThread k == c &&
    match t.status with
    | .hwait m _ _ _ => m == n
    | _ => false
  ks.foldl (fun s k => s.wake k (haspStatus false true false h.phase) false) s1

/-- A hasp's 64-byte record (R135), word by word. -/
def Hasp.record (h : Hasp) : List Word :=
  let w (n : Nat) : Word := BitVec.ofNat 32 n
  [w (h.phase.toNat * 2 ^ 16 + h.arrived % 2 ^ 12 * 2 ^ 4 + boolNat h.valid * 8 + boolNat h.memb * 4 + boolNat h.ring * 2 + boolNat h.rbase),
    w (h.expArr % 2 ^ 12 * 2 ^ 20 + (h.nextd % 2 ^ 12).toNat * 2 ^ 8 + h.rstg % 8 * 2 ^ 5 + h.rhead % 32),
    w (((List.finRange 4).map fun i => boolNat h.slots[i].act * 2 ^ (8 + i.val)).sum + h.moncnt % 128)] ++
    ((List.finRange 4).flatMap fun i =>
      let x := h.slots[i]
      [w (x.src % 2 ^ 17), w (x.expect % 2 ^ 24), w (x.landed % 2 ^ 24)]) ++ [0]

/-- A record's reserved fields are 0 (R135). -/
def recordClean (ws : List Word) : Bool :=
  let w (i : Nat) : Nat := (ws.getD i 0).toNat
  ws.length == 16 && bits (w 2) 31 12 == 0 && !bitAt (w 2) 7 && w 15 == 0 &&
    (List.range 4).all fun i => bits (w (3 + 3 * i)) 31 17 == 0 && bits (w (4 + 3 * i)) 31 24 == 0 && bits (w (5 + 3 * i)) 31 24 == 0

/-- A hasp with the fields of a record (R135); its arrivals stand beside the record. -/
def Hasp.ofRecord (h : Hasp) (ws : List Word) : Hasp :=
  let w (i : Nat) : Nat := (ws.getD i 0).toNat
  { h with
    phase := BitVec.ofNat 16 (bits (w 0) 31 16)
    arrived := bits (w 0) 15 4
    valid := bitAt (w 0) 3
    memb := bitAt (w 0) 2
    ring := bitAt (w 0) 1
    rbase := bitAt (w 0) 0
    expArr := bits (w 1) 31 20
    nextd := sextNat 12 (bits (w 1) 19 8)
    rstg := bits (w 1) 7 5
    rhead := bits (w 1) 4 0
    slots := Vector.ofFn fun i : Fin 4 => ⟨bitAt (w 2) (8 + i.val), bits (w (3 + 3 * i.val)) 16 0, bits (w (4 + 3 * i.val)) 23 0, bits (w (5 + 3 * i.val)) 23 0⟩
    moncnt := bits (w 2) 6 0 }

/-- HINIT's state (R139). -/
def Hasp.init (h : Hasp) (exp : Nat) : Hasp :=
  { h with
    valid := true, phase := 0, arrived := 0, expArr := exp, nextd := 0, ring := false, rbase := false, moncnt := 0
    slots := h.slots.map fun x => { x with act := false }
    arr := [], heldArr := [], spurNow := false, spur := [] }

end Sys2Proof.Machine
end

