-- ==== Sys2Proof/Machine/Grades.lean ====
section
/-! DEFINITION. The tumbler (R291-R308): grades, taint, read and write logs, graded writes with their re-fires, the egress hold buffer;
how threads and bands end (R109, R130, R193); and the atomics' arithmetic (R93). -/

namespace Sys2Proof.Machine

/-! ### Atomics -/

/-- The new value of an atomic from the old value and the operand, both of 32 or 64 bits (R93). -/
def atomNew (op : AtomOp) (w : Bool) (m b : Nat) : Nat :=
  let n := if w then 64 else 32
  let lt := decide (sextNat n m < sextNat n b)
  match op with
  | .add => (m + b) % 2 ^ n
  | .smin => if lt then m else b
  | .smax => if lt then b else m
  | .umin => min m b
  | .umax => max m b
  | .and => m &&& b
  | .or => m ||| b
  | .xor => m ^^^ b
  | .exch => b
  | .fadd => (rne32 (faddEx .nearest (fp32.read m) (fp32.read b)).1).toNat

/-- The number of bytes of an atomic (R93). -/
def atomBytes (w : Bool) : Nat := if w then 8 else 4

/-! ### Grades -/

/-- The code of a grade (R291). -/
def gradeCode : Grade → Nat
  | .none => 0
  | .guess => 1
  | .prov => 2
  | .final => 3

/-- The grade of a code. -/
def gradeOfCode (n : Nat) : Grade :=
  match n % 4 with
  | 0 => .none
  | 1 => .guess
  | 2 => .prov
  | _ => .final

/-- The lesser grade (R7). -/
def gradeMin (a b : Grade) : Grade := if gradeCode a ≤ gradeCode b then a else b

/-- The metadata byte of a line as GRD returns it (R97, R291). -/
def LineMeta.byte (l : LineMeta) : Nat :=
  boolNat l.ovf * 64 + boolNat l.cons * 32 + l.depth % 8 * 4 + gradeCode l.grade

/-- The task runs of a node of a run (R287). -/
def State.tasksOfNode (s : State) (inst node : Nat) : List Nat :=
  mkeys s.tasks fun _ t => t.inst == inst && t.node == node && t.kind != .program

/-- A grade as it counts towards a taint: a line that is NONE does not lower it (R296; DEDUCED, log 31). -/
def taintGrade (g : Grade) : Grade := if g == .none then .final else g

/-- Has every task run of a node completed, with no re-fire pending: is no re-run of it under way (R287, R301, R302)? -/
def State.nodeSettled (s : State) (inst node : Nat) : Bool :=
  (s.tasksOfNode inst node).all fun k => (s.task? k).any fun t => t.stopped || (t.complete && t.refire.isNone)

/-- What a node's taint was before its re-runs under way: they do not raise it for a program (R302). DEDUCED, log 39. -/
def State.nodeFloor (s : State) (inst node : Nat) : Grade :=
  if s.nodeSettled inst node then .final else (((s.inst? inst).bind fun i => i.nodes[node]?).map (·.floor)).getD .final

/-- R296: the taint of a task run: the least grade of its read log, of the tasks whose records it holds or that it left, and, for
a program, of the nodes it has waited for; FINAL once lifted. Each level of parents uses one unit of fuel. -/
def State.taintFuel (s : State) : Nat → Nat → Grade
  | 0, _ => .final
  | n + 1, k =>
    match s.task? k with
    | none => .final
    | some t =>
      if t.lifted then .final
      else
        let a := t.reads.foldl (fun g l => gradeMin g (taintGrade (s.line l).grade)) Grade.final
        let b := t.parents.foldl (fun g p => gradeMin g (s.taintFuel n p)) a
        t.nodes.foldl (fun g m => (s.tasksOfNode m.1 m.2).foldl (fun g p => gradeMin g (s.taintFuel n p)) (gradeMin g (s.nodeFloor m.1 m.2))) b

/-- The taint of a task (R296). -/
def State.taint (s : State) (k : Nat) : Grade := s.taintFuel (s.tasks.length + 1) k

/-- A node's taint: the least of its task runs' (R287). -/
def State.nodeTaint (s : State) (inst node : Nat) : Grade :=
  (s.tasksOfNode inst node).foldl (fun g k => gradeMin g (s.taint k)) .final

/-- Does a run's cancellation stand? -/
def State.cancelled (s : State) (inst : Nat) : Bool := (s.inst? inst).any (·.cancelled)

/-! ### Reads -/

/-- A read of a line by a task run (R294, R297): nothing where the read must wait until the line is FINAL because the read log is
full; otherwise the logs with the read in them. -/
def State.logRead (s : State) (task l : Nat) : Option State :=
  let m := s.line l
  if m.grade == .none || m.grade == .final then some s
  else
    match s.task? task with
    | none => some s
    | some t =>
      if !t.reads.contains l && Config.logLines ≤ t.reads.length then none
      else
        let s1 := s.modTask task fun t => if t.reads.contains l then t else { t with reads := l :: t.reads }
        let m1 := if m.users.contains task then m
          else if Config.consumers ≤ m.users.length + m.remote.length then { m with ovf := true }
          else { m with users := m.users ++ [task] }
        some (s1.setLine l { m1 with cons := true })

/-! ### Held egress -/

/-- The planes that were live at clk t: a dead one leaves the hash from the clk after its death (R358). -/
def State.planesAt (s : State) (t : Nat) : List Nat := (List.range 18).filter fun p => s.planes.getLsbD p || (mget s.deadAt p).any (t ≤ ·)

/-- The plane that carried a message for a package about a line at clk t: that of the index hash(DPKG, line) mod the live planes (R358). -/
def State.planeAt (s : State) (t dpkg va : Nat) : Option Nat :=
  let ps := s.planesAt t
  if ps.isEmpty then none else ps[Config.planeHash dpkg (va / 64) % ps.length]?

/-- The plane that carries one now. -/
def State.planeFor (s : State) (dpkg va : Nat) : Option Nat := s.planeAt s.clk dpkg va

/-- May a message sent at clk t have been lost: there was no plane for it, or its plane has died (R358)? -/
def State.lostAt (s : State) (t dpkg va : Nat) : Bool := (s.planeAt t dpkg va).all fun p => !s.planes.getLsbD p

/-- May one sent at some clk since t have been lost: the planes changed after each death only (R358)? -/
def State.lostSince (s : State) (t dpkg va : Nat) : Bool :=
  (t :: (s.deadAt.map fun x => x.2 + 1).filter fun u => t ≤ u && u ≤ s.clk).any fun u => s.lostAt u dpkg va

/-- The plane of an operation's message. -/
def State.opPlane (s : State) (o : Op) : Option Nat :=
  match o.acc.loc with
  | .remote p va _ => s.planeFor p va
  | _ => none

/-- An operation enters the table. -/
def State.addOp (s : State) (id : Nat) (o : Op) : State := { s with ops := mput s.ops id { o with plane := s.opPlane o } }

/-- Change an operation. -/
def State.modOp (s : State) (id : Nat) (f : Op → Op) : State := { s with ops := mmod s.ops id f }

/-- May an operation's message have been lost, or the response to it: its plane has died (R358)? A response is taken to choose its plane
from the planes that are live here. DEDUCED, log 100. -/
def State.mayLose (s : State) (o : Op) : Bool :=
  match o.acc.loc with
  | .remote _ va _ =>
    (match o.plane with
      | some p => !s.planes.getLsbD p
      | none => s.planes == 0) || (o.sent && o.resp.isNone && s.lostSince o.issued s.pkg.toNat va)
  | _ => false

/-- A TAG: the low 16 bits of the number of what it answers (R357; log 19). -/
def tagOf (id : Nat) : BitVec 16 := BitVec.ofNat 16 id

/-- The data flits that follow a message's header, each of 32 bytes (R357). -/
def ndata (m : Msg) : Nat := (m.data.length + 31) / 32

/-- The code of an atomic operation (R93). -/
def atomCode : AtomOp → Nat
  | .add => 0
  | .smin => 1
  | .smax => 2
  | .umin => 3
  | .umax => 4
  | .and => 5
  | .or => 6
  | .xor => 7
  | .exch => 8
  | .fadd => 9

/-- A number for an atomic operation in a header's ATTR; 0 for a message of none (log 19). -/
def msgOp (m : Msg) : Nat := if m.cas.isSome then 15 else (m.op.map fun o => atomCode o + 1).getD 0

/-- A number for an access's ordering and scope in a header's ATTR (log 19). -/
def ordCode : Ord16 → Nat
  | .relaxed => 0
  | .acq c => 1 + scopeCode c
  | .rel c => 6 + scopeCode c
  | .ar c => 11 + scopeCode c
where
  scopeCode : Scope → Nat
    | .blk => 0
    | .pair => 1
    | .die => 2
    | .pkg => 3
    | .dom => 4

/-- A header flit (R357): TYPE, DPKG, SPKG, TAG, NDATA, GRADE, ADDR, PART, GINST and ATTR, whose bits the manual does not place
(log 19). -/
def flitOf (m : Msg) (type dpkg : Nat) : BitVec 256 :=
  BitVec.ofNat 8 type ++ BitVec.ofNat 8 dpkg ++ m.spkg ++ m.tag ++ BitVec.ofNat 2 (ndata m) ++ BitVec.ofNat 2 (gradeCode m.grade) ++ m.addr ++
    BitVec.ofNat 6 m.part.val ++ BitVec.ofNat 32 m.ginst ++ Config.attrBits m.n m.mask (msgOp m) (ordCode m.ord) m.node m.block

/-- Post a message on the fabric (R357). -/
def State.send (s : State) (type dpkg : Nat) (m : Msg) : State := { s with sent := s.sent ++ [⟨type, dpkg, m, flitOf m type dpkg⟩] }

/-- A message with nothing but its source. -/
def State.blankMsg (s : State) : Msg :=
  ⟨s.pkg, 0, 0, 0, 0, .none, 0, [], BitVec.allOnes 64, none, none, .relaxed, 0, 0, 0, 0, .performed⟩

/-- n bytes whose values another package holds: free bytes (log 4, log 32). -/
def State.freeBytes (s : State) (n : Nat) : List Byte × State :=
  ((List.range n).map fun i => Config.freeByte (s.freeCtr + i), { s with freeCtr := s.freeCtr + n })

/-- The parts of n bytes from an address that lie within one 64-byte line each. -/
def linePieces (va n : Nat) : List (Nat × Nat) :=
  (linesOf va n).filterMap fun l =>
    let lo := max va (64 * l)
    let hi := min (va + n) (64 * l + 64)
    if lo < hi then some (lo, hi - lo) else none

/-- Does a storage error lie under n bytes of a location for one that reads: a line, or its metadata, that no code corrects (R363)? -/
def State.accBad (s : State) (a : Acc) (n : Nat) : Bool :=
  match a.loc.home with
  | some h => (linesOf h n).any fun l => (s.line l).bad || (s.line l).dead
  | none => false

/-- Does one lie under the byte at a home? -/
def State.homeBad (s : State) (h : Nat) : Bool := (s.line (h / 64)).bad || (s.line (h / 64)).dead

/-- Does it lie there for every access: in the metadata of a line (R363)? -/
def State.accDead (s : State) (a : Acc) (n : Nat) : Bool :=
  match a.loc.home with
  | some h => (linesOf h n).any fun l => (s.line l).dead
  | none => false

/-- n bytes read by a party outside the cores through a space's tables, counted (R376): nothing where a part fails in translation or lies
where the party may not read. Another package's bytes are free (log 32). -/
def State.outerRead (s : State) (sp : Space) (slices hosts : Bool) (va n : Nat) : Option (List Byte × State) :=
  (linePieces va n).foldl (fun acc x =>
    acc.bind fun (bs, s) =>
      match s.place sp feCore x.1 .read with
      | (.ok a, s) =>
        let s := s.countAcc sp feCore a 1 0
        if s.accBad a x.2 then none
        else
          match a.loc with
          | .slice c o => if slices && (s.core c).lastPart == some sp.part then some (bs ++ s.bytes (c * 2097152 + o) x.2, s) else none
          | .dev pa => some (bs ++ s.bytes (devHome pa) x.2, s)
          | .host l pa => if hosts then some (bs ++ s.bytes (2 ^ 45 + l * 2 ^ 44 + pa) x.2, s) else none
          | .remote _ _ _ => let (b, s) := s.freeBytes x.2; some (bs ++ b, s)
          | .bell _ => none
      | _ => none) (some ([], s))

/-- A work request read from a queue pair's send ring, with its source bytes read then, and sent (R356). Its LVA is translated through the
tables of the queue pair's level-2 partition (log 30). -/
def State.roceRequest (s : State) (q : Nat) : State :=
  match mget s.qps q with
  | none => s
  | some x =>
    let ws := wordsOfBytes (s.bytes (devHome (x.sq + 32 * (x.ci % 2 ^ x.sqLog))) 32)
    let w (i : Nat) : Nat := (ws.getD i 0).toNat
    let op := bits (w 0) 31 28
    let len := w 1
    let lva := w 2 + w 3 * 2 ^ 32
    let bad := 3 ≤ op || bits (w 0) 27 16 != q || bits (w 0) 15 0 != 0 || len == 0 || 2 ^ 30 < len || 2 ^ 56 ≤ lva
    let got : Option (List Byte × State) :=
      if bad then none
      else if op == 2 then some ([], s)
      else s.outerRead (s.templateSpace x.part) false false lva len
    let next (s : State) (bad : Bool) : State :=
      { s with qps := mmod s.qps q fun x => { x with ci := x.ci + 1, work := x.work ++ [⟨op, lva, len, bad, false⟩] } }
    match got with
    | none => next s true
    | some (bs, s) =>
      next { s with reply := s.reply ++ [.roce q op (w 4 + w 5 * 2 ^ 32) (w 6) (w 7) len bs] } false

/-- A doorbell store is performed (R356): the new producer index, and every request up to it is read and sent, at most a ring of them. -/
def State.roceDoorbell (s : State) (q pi : Nat) : State :=
  match mget s.qps q with
  | none => s
  | some x =>
    let s := { s with qps := mmod s.qps q fun x => { x with pi := pi } }
    (min (pi - x.ci) (2 ^ x.sqLog)).repeat (fun s => s.roceRequest q) s

/-- Perform a store at the port of its location: memory, a write message, or a doorbell's new producer index (R216, R356, R357). -/
def State.performStore (s : State) (a : Acc) (data : List Byte) (part : Nat) (ord : Ord16 := .relaxed) : State :=
  match a.loc with
  | .remote pk va _ =>
    s.send 2 pk { s.blankMsg with addr := BitVec.ofNat 56 va, part := Fin.ofNat 64 part, n := data.length, data := data, ord := ord }
  | .bell pa =>
    s.roceDoorbell ((pa - Config.doorbellBase) / 65536) (leNat data)
  | l =>
    match l.home with
    | some h => s.writeHome h data
    | none => s

/-- The tag of an item. -/
def HeldItem.tag : HeldItem → HTag
  | .store _ _ _ _ _ _ _ g | .red _ _ _ _ _ _ _ _ _ g | .signal _ _ _ _ _ _ g => g

/-- An item with another tag. -/
def HeldItem.withTag (g : HTag) : HeldItem → HeldItem
  | .store k u a d va p who _ => .store k u a d va p who g
  | .red k u a op w d va p who _ => .red k u a op w d va p who g
  | .signal p c x v i h _ => .signal p c x v i h g

/-- The sample of a tagged item when it is performed (R377, R230). -/
def State.heldSample (s : State) (x : HeldItem) : State :=
  match x.tag.smp, x with
  | some (ofs, t), .store k _ a _ va part _ _ => s.sampleReq (coreOfThread k) (slotOfThread k) false part ofs va 1 a.loc (s.clk - t)
  | some (ofs, t), .red k _ a _ _ _ va part _ _ => s.sampleReq (coreOfThread k) (slotOfThread k) false part ofs va 2 a.loc (s.clk - t)
  | _, _ => s

/-- Perform an item of the hold buffer at this package's ports (R304); one for another package leaves as an operation. -/
def State.performHeld (s : State) (x : HeldItem) : State :=
  match x with
  | .store _ _ a data _ part _ g => (s.performStore a data part g.ord).heldSample x
  | .red _ _ a op w data _ _ _ _ =>
    match a.loc.home with
    | some h => (s.writeHome h (leBytes (atomBytes w) (atomNew op w (leNat (s.bytes h (atomBytes w))) (leNat data)))).heldSample x
    | none => s
  | .signal lp1 code payload vec inst handle _ =>
    let s1 := s.event lp1 ⟨5, 0, handle, inst, 0, 0, code, payload % 2 ^ 32, payload / 2 ^ 32⟩
    match vec with
    | some v => s1.raiseVec lp1 v
    | none => s1

/-- The bytes that an item takes in the egress hold buffer: its data (DESIGN CHOICE, log 36). -/
def HeldItem.size : HeldItem → Nat
  | .store _ _ _ data _ _ _ _ | .red _ _ _ _ _ data _ _ _ _ => data.length
  | .signal .. => 16

/-- The bytes that items take in the buffer, or in the hold area. -/
def sizeIn (area : Bool) (xs : List HeldItem) : Nat := ((xs.filter fun x => x.tag.area == area).map HeldItem.size).sum

/-- The bytes that a run's items take in a die's buffer. -/
def State.heldOn (s : State) (inst die : Nat) : Nat :=
  s.tasks.foldl (fun n x => if x.2.inst == inst && x.2.die == die then sizeIn false (x.2.leaving ++ x.2.held) + n else n) 0

/-- A run's reserved share of each die's buffer: EGRS KiB (R279, R305). -/
def State.holdShare (s : State) (inst : Nat) : Nat := 1024 * ((s.graphOf inst).map (·.egrs)).getD 0

/-- The bytes beyond their shares that the running runs have in a die's buffer (R305). -/
def State.holdExcess (s : State) (die : Nat) : Nat := ((mkeys s.insts fun _ i => !i.ended).map fun i => s.heldOn i die - s.holdShare i).sum

/-- The space of a die's buffer that no share reserves (R305). -/
def State.holdFree (s : State) : Nat := Config.egressBuffer - ((mkeys s.insts fun _ i => !i.ended).map s.holdShare).sum

/-- The level-1 partition of a run. -/
def State.instLp1 (s : State) (inst : Nat) : Nat := ((s.inst? inst).map (·.lp1)).getD 0

/-- The bytes in a level-1 partition's hold area (R305). -/
def State.holdSpilled (s : State) (lp1 : Nat) : Nat :=
  s.tasks.foldl (fun n x => if s.instLp1 x.2.inst == lp1 then sizeIn true (x.2.leaving ++ x.2.held) + n else n) 0

/-- R305: does an item of n bytes of a run find room in a die's buffer: in its share, or in the die's free space? -/
def State.bufferRoom (s : State) (inst die n : Nat) : Bool := s.heldOn inst die + n ≤ s.holdShare inst || s.holdExcess die + n ≤ s.holdFree

/-- R305: is there room for an item of n bytes of a run on a die: in the die's buffer, or in the hold area of its level-1 partition? -/
def State.holdRoom (s : State) (inst die n : Nat) : Bool :=
  s.bufferRoom inst die n || s.holdSpilled (s.instLp1 inst) + n ≤ (s.lp1 (s.instLp1 inst)).hold

/-- An item's access and issuer where it goes to another package: it leaves the buffer as an operation of its own, whose failure the
issuer's threads count (R91, R231, R304). -/
def HeldItem.away (x : HeldItem) : Option (Nat × Nat × Acc × Nat × Nat × OpKind × List Byte × List (Nat × Nat)) :=
  match x with
  | .store k u a data va part who _ =>
    match a.loc with
    | .remote .. => some (k, u, a, va, part, .st, data, who)
    | _ => none
  | .red k u a op w data va part who _ =>
    match a.loc with
    | .remote .. => some (k, u, a, va, part, .red op w, data, who)
    | _ => none
  | .signal .. => none

/-- The operation by which an item with a tag reaches another package. -/
def egressOp (task inst clk : Nat) (g : HTag) (x : Nat × Nat × Acc × Nat × Nat × OpKind × List Byte × List (Nat × Nat)) : Op where
  kind := x.2.2.2.2.2.1
  core := coreOfThread x.1
  thread := x.1
  uid := x.2.1
  flag := none
  d := .discard
  va := x.2.2.2.1
  acc := x.2.2.1
  n := x.2.2.2.2.2.2.1.length
  data := x.2.2.2.2.2.2.1
  cmp := []
  ord := g.ord
  task := task
  part := x.2.2.2.2.1
  inst := inst
  words := []
  pc := 0
  issued := clk
  sent := false
  resp := none
  done := false
  tag := g.smp
  void := false
  egress := true
  who := x.2.2.2.2.2.2.2
  laid := []
  plane := none
  seq := g.seq

/-- An item that leaves while a load of its thread is outstanding is laid over what that load will bring (R87). -/
def Op.laying (k u : Nat) (x : HeldItem) (o : Op) : Op :=
  if o.thread == k && o.uid == u && o.acc.loc.pkg?.isSome then { o with laid := o.laid ++ [x] } else o

/-- The request of a RED that leaves the buffer (R357); a store is sent as it is performed. -/
def State.sendRed (s : State) (id : Nat) (o : Op) : State × Bool :=
  match o.kind, o.acc.loc with
  | .red op _, .remote pk va _ =>
    (s.send 3 pk { s.blankMsg with
      tag := tagOf id, addr := BitVec.ofNat 56 va, part := Fin.ofNat 64 o.part, ginst := o.inst, n := o.n, data := o.data, op := some op
      ord := o.ord, core := o.core }, true)
  | _, _ => (s, false)

/-- An item becomes an operation, and is laid over its thread's outstanding loads. -/
def State.addEgress (s : State) (id : Nat) (o : Op) (x : HeldItem) : State :=
  State.addOp { s with ops := mmap s.ops fun _ e => e.laying o.thread o.uid x } id o

/-- Perform the items that have been released, each after the one before it: one that goes to another package is out until it has been
performed or has failed there (R304). -/
def State.leaveFuel (k : Nat) : Nat → State → State
  | 0, s => s
  | n + 1, s =>
    match s.task? k with
    | none => s
    | some t =>
      match t.leaving with
      | [] => s
      | x :: xs =>
        if many s.ops fun _ o => o.egress && o.task == k then s
        else
          let s := s.modTask k fun t => { t with leaving := xs }
          match x.away with
          | none => State.leaveFuel k n (s.performHeld x)
          | some y =>
            let (id, s) := s.fresh
            let o := egressOp k t.inst s.clk x.tag y
            (s.sendRed id o).1.addEgress id { o with sent := (s.sendRed id o).2 } x

/-- Perform the released items of a task as far as they go now. -/
def State.leave (s : State) (k : Nat) : State := State.leaveFuel k (((s.task? k).map (·.leaving.length)).getD 0) s

/-- Release a task's held items in program order (R304). -/
def State.releaseHeld (s : State) (k : Nat) : State := (s.modTask k fun t => { t with held := [], leaving := t.leaving ++ t.held }).leave k

/-- Does a location lie off the chip for the hold buffer: EG = 1 (R304), or a doorbell, which is a network send (R356)? -/
def Acc.offChip (a : Acc) : Bool :=
  match a.loc with
  | .bell _ => true
  | _ => a.eg == 1

/-- Does what a task sends off the chip stay behind now: held below FINAL (R304), discarded while a re-fire is pending (R299), or after
a cancellation that met the task below FINAL (R310)? -/
def State.holds (s : State) (k : Nat) : Bool := s.taint k != .final || (s.task? k).any fun t => t.refire.isSome || t.mute

/-- A held item of a task (R304): kept in program order, in the die's buffer while it has room and else in the hold area (R305); discarded
while a re-fire is pending (R299) and after a cancellation of the run (R309, R310). -/
def State.holdItem (s : State) (task : Nat) (x : HeldItem) : State :=
  match s.task? task with
  | none => s
  | some t =>
    if t.refire.isSome || t.mute || s.cancelled t.inst then s
    else s.modTask task fun u => { u with held := u.held ++ [x.withTag { x.tag with area := !s.bufferRoom t.inst t.die x.size }] }

/-- Is an operation a store or RED to an off-chip destination? -/
def Op.leaves (o : Op) : Bool :=
  o.acc.offChip && !o.egress &&
  match o.kind with
  | .st | .red .. => true
  | _ => false

/-- An off-chip store or RED of a task that has not entered the hold buffer never will. -/
def Op.mark (k : Nat) (o : Op) : Op := if o.task == k && o.leaves then { o with void := true } else o

/-- What a task has under way off the chip is discarded with its held items (R299, R309). DESIGN CHOICE, log 38. -/
def State.voidOps (s : State) (k : Nat) : State :=
  { s with
    ops := mmap s.ops fun _ o => o.mark k
    saved := s.saved.map fun x => { x with ops := mmap x.ops fun _ o => o.mark k } }

/-- Put bytes into a block at an offset. -/
def layBytes (bs : List Byte) (i : Int) (data : List Byte) : List Byte :=
  bs.mapIdx fun j old => if i ≤ j && j - i < data.length then data.getD (j - i).toNat old else old

/-- A thread's own item as its loads see it, laid over an aligned block of memory that begins at a location (R87, R230). -/
def HeldItem.lay (x : HeldItem) (uid : Nat) (l : Loc) (bs : List Byte) : List Byte :=
  match x with
  | .store _ u a data _ _ _ _ =>
    match l.offset a.loc with
    | some i => if u == uid then layBytes bs i data else bs
    | none => bs
  | .red _ u a op w data _ _ _ _ =>
    match l.offset a.loc with
    | some i =>
      let n := atomBytes w
      if u == uid && 0 ≤ i && i + n ≤ bs.length then
        layBytes bs i (leBytes n (atomNew op w (leNat ((bs.drop i.toNat).take n)) (leNat data)))
      else bs
    | none => bs
  | .signal .. => bs

/-- Has a thread issued an item? -/
def HeldItem.from (x : HeldItem) (uid : Nat) : Bool :=
  match x with
  | .store _ u .. | .red _ u .. => u == uid
  | .signal .. => false

/-- An item put behind those that were issued before it. -/
def HeldItem.insert (x : HeldItem) : List HeldItem → List HeldItem
  | [] => [x]
  | y :: ys => if x.tag.seq < y.tag.seq then x :: y :: ys else y :: x.insert ys

/-- The items of a thread in the egress hold buffer, in program order: those of the task runs that it left by a DETACH too (R87, R295). -/
def State.itemsOf (s : State) (uid : Nat) : List HeldItem :=
  ((s.tasks.flatMap fun t => t.2.leaving ++ t.2.held).filter (·.from uid)).foldl (fun m x => x.insert m) []

/-- Has the buffer released an item of a thread, issued before operation id, that it has not performed yet (R230, R304)? -/
def State.leavingBefore (s : State) (uid id : Nat) : Bool := many s.tasks fun _ t => t.leaving.any fun x => x.from uid && x.tag.seq < id

/-- Does an item of a thread touch n bytes of a location? -/
def HeldItem.touches (x : HeldItem) (uid : Nat) (l : Loc) (n : Nat) : Bool :=
  match x with
  | .store _ u a data _ _ _ _ => u == uid && l.overlaps n a.loc data.length
  | .red _ u a _ w _ _ _ _ _ => u == uid && l.overlaps n a.loc (atomBytes w)
  | .signal .. => false

/-! ### Launching again -/

/-- Where an entry goes in the ready queue: by class, then time, then node-store index (R288). -/
def State.readyKey (s : State) (e : ReadyEntry) : Nat × Nat × Nat :=
  (e.cls, e.time, ((s.graphOf e.inst).map (·.nsbase)).getD 0 + e.node)

/-- Lexicographic order of ready-queue keys. -/
def keyLt (a b : Nat × Nat × Nat) : Bool :=
  a.1 < b.1 || (a.1 == b.1 && (a.2.1 < b.2.1 || (a.2.1 == b.2.1 && a.2.2 < b.2.2)))

/-- Insert into the ready queue behind every entry that does not order after it (R288). -/
def State.pushReady (s : State) (e : ReadyEntry) : State :=
  let k := s.readyKey e
  { s with ready := s.ready.takeWhile (fun x => !keyLt k (s.readyKey x)) ++ e :: s.ready.dropWhile (fun x => !keyLt k (s.readyKey x)) }

/-- Discard a task's held egress, and what it has under way to the hold buffer (R299). -/
def State.discardHeld (s : State) (k : Nat) : State := (s.voidOps k).modTask k fun t => { t with held := [] }

/-- Relaunch a re-fired task that has completed, or has been stopped: a block enters the ready queue with the time of the re-fire, a
record band's records enter as a released band (R300). -/
def State.relaunch (s : State) (k : Nat) (time : Nat) : State :=
  match s.task? k with
  | none => s
  | some t =>
    match t.kind with
    | .block node blk =>
      s.pushReady ⟨((s.nodeOf t.inst node).map (·.cls)).getD 1, time, t.inst, node, some (blk, k)⟩
    | .record node =>
      let recs := t.recs.headD []
      { s with released := s.released ++ [⟨⟨t.inst, node, ((recs.head?).map (·.role)).getD 0, 0⟩, recs, time, some k⟩] }
    | _ => s

/-! ### Threads and bands ending -/

/-- A thread counted in MB leaves one membership hasp (R128, R130). -/
def State.leaveHasp (s : State) (k n : Nat) : State :=
  let c := coreOfThread k
  let hk := haspKey c n
  let h := s.hasp hk
  let pending := (s.band? (bandOfThread k)).any fun b => b.joins.any (·.1 == n)
  if pending then
    s.setHasp hk { h with nextd := h.nextd - 1, heldArr := h.heldArr.filter fun a => a.thread != some k }
  else if h.arr.contains k then (s.setHasp hk { h with nextd := h.nextd - 1, arr := h.arr.filter (· != k) }).tryComplete c n
  else (s.setHasp hk { h with expArr := h.expArr - 1 }).tryComplete c n

/-- The membership hasps of a block (R200). -/
def Block.membNums (b : Block) : List Nat := maskNums (b.membs &&& b.hasps)

/-- R130: a counted thread's EXIT acts on every membership hasp of its block, and lowers MB. -/
def State.leaveMembership (s : State) (k : Nat) : State :=
  match s.thread? k, (s.blockOf k).bind s.block? with
  | some t, some blk =>
    if t.counted then
      ((blk.membNums.foldl (fun s n => s.leaveHasp k n) s).modBand (bandOfThread k) fun b => { b with mb := b.mb - 1 }).modThread k
        fun t => { t with counted := false }
    else s
  | _, _ => s

/-- A task run completes; with a re-fire pending its work is launched again (R300). -/
def State.completeTask (s : State) (k : Nat) : State :=
  match s.task? k with
  | none => s
  | some t =>
    let s := s.modTask k fun t => { t with complete := true }
    match t.refire with
    | some time => if s.cancelled t.inst then s else s.relaunch k time
    | none => s

/-- The frame of a band whose threads are gone is freed: its registers return, its pending GROW is cancelled, and a free band's task
completes (R193, R124, R203). -/
def State.freeBand (s : State) (b : Nat) : State :=
  match s.band? b with
  | none => s
  | some x =>
    let s := { s with bands := mdel s.bands b }
    let s := s.modCore (coreOfBand b) fun c => { c with growQ := c.growQ.filter (· != b) }
    match x.block with
    | none =>
      if x.stopping then
        match s.task? x.task with
        | some t => if t.refire.isSome then s.completeTask x.task else s.modTask x.task fun t => { t with complete := true, stopped := true }
        | none => s
      else s.completeTask x.task
    | some _ => s

/-- The slot of an ended thread becomes free once its flags are zero, and its band's frame with its last slot (R109, R193). -/
def State.reapThread (s : State) (k : Nat) : State :=
  match s.thread? k with
  | none => s
  | some t =>
    if t.status == .exited && t.quiet then
      let s := { s with threads := mdel s.threads k }
      if many s.threads (fun j _ => bandOfThread j == bandOfThread k) then s else s.freeBand (bandOfThread k)
    else s

/-- R109: a thread ends: its PM bit is cleared, membership follows, threads held by its trap go on, its slot is freed when quiet. -/
def State.endThread (s : State) (k : Nat) : State :=
  match s.thread? k with
  | none => s
  | some t =>
    if t.status == .exited then s
    else
      let s := s.stepDone (coreOfThread k) t.stepping
      let s := s.leaveMembership k
      let s := s.modThread k fun t => { t with status := .exited, parked := none, halted := false, haltReq := false, stepping := false, trapMode := false }
      let s := s.modBand (bandOfThread k) fun b => { b with s := b.s.set 31 (b.s[31] &&& ~~~ (1#32 <<< laneOfThread k)) }
      let s := { s with threads := mmap s.threads fun _ u => if u.heldBy == some k then { u with heldBy := none } else u }
      s.reapThread k

/-- Lower a flag of a thread, if it is still the thread that raised it, and free the slot where that was its last (R109). -/
def State.lowerFlag (s : State) (k uid : Nat) (f : Option (Fin 12)) : State :=
  match s.thread? k with
  | some t =>
    if t.uid == uid then
      (s.setThread k (t.lower f)).reapThread k
    else s
  | none => s

/-- Does a thread of a band that stops stop at once: it is parked, blocked in HWAIT or HWAITS, or halted (R250)? -/
def Thread.idle (t : Thread) : Bool :=
  t.parked.isSome || t.halted || match t.status with
    | .hwait .. => true
    | _ => false

/-- Threads that are blocked, parked or halted stop at once; the others at their next clause boundary (R250). -/
def State.stopBand (s : State) (b : Nat) : State :=
  let s := s.modBand b fun x => { x with stopping := true }
  let s := s.stepDone (coreOfBand b) (many s.threads fun k t => bandOfThread k == b && t.stepping)
  let s := { s with threads := mmap s.threads fun k t => if bandOfThread k == b then { t with haltReq := false, stepping := false } else t }
  (mkeys s.threads fun k t => bandOfThread k == b && t.idle).foldl State.endThread s

/-- The threads of stopping bands that have been parked, blocked or halted since (R250). -/
def State.stopIdle (s : State) : State :=
  (mkeys s.threads fun k t => t.idle && t.status != .exited && (s.band? (bandOfThread k)).any (·.stopping)).foldl State.endThread s

/-- The bands of a task that lie in a saved context stop when that is restored (R250, R299). -/
def Saved.stopTask (x : Saved) (k : Nat) : Saved :=
  { x with bands := mmap x.bands fun _ b => if b.task == k then { b with stopping := true } else b }

/-- Stop the bands of a task (R299, R308). -/
def State.stopBandsOf (s : State) (k : Nat) : State :=
  (mkeys s.bands fun _ b => b.task == k).foldl State.stopBand { s with saved := s.saved.map fun x => x.stopTask k }

/-! ### Re-fire -/

/-- The tasks that a re-fire of task k stops: record bands started from its records and bands detached from it (R299). DEDUCED, log 71. -/
def State.offspring (s : State) (k : Nat) : List Nat :=
  mkeys s.tasks fun _ t => t.parents.contains k && !t.lifted && !t.stopped &&
    match t.kind with
    | .record _ => true
    | .detached p => p == k
    | _ => false

/-- Such a task stops, and nothing that it holds or still sends leaves the chip; its work is done anew by the re-run (R299). -/
def State.stopOffspring (s : State) (j : Nat) : State :=
  ((s.stopBandsOf j).discardHeld j).modTask j fun t => { t with stopped := true, mute := true, refire := none }

/-- A partial band without the records that satisfy p. -/
def PartialBand.without (b : PartialBand) (p : PoolRec → Bool) : PartialBand := { b with recs := b.recs.filter fun r => !p r }

/-- A released band without the records that satisfy p. -/
def RelBand.without (b : RelBand) (p : PoolRec → Bool) : RelBand := { b with recs := b.recs.filter fun r => !p r }

/-- Discard records that no band has started from yet (R299, R309). -/
def State.dropRecs (s : State) (p : PoolRec → Bool) : State :=
  { s with
    pool := (s.pool.map fun b => b.without p).filter fun b => !b.recs.isEmpty
    released := (s.released.map fun b => b.without p).filter fun b => !b.recs.isEmpty }

/-- R299, R300: re-fire a task run. A second re-fire before its re-run adds nothing; a program is never re-fired (R302); a
detached band's is recorded against the task it left (R295), also where that one has been lifted. DEDUCED, log 40. -/
def State.refire (s : State) (k : Nat) : State :=
  match s.task? k with
  | none => s
  | some t0 =>
    let k := match t0.kind with
      | .detached p => p
      | _ => k
    match s.task? k with
    | none => s
    | some t =>
      if t.kind == TaskKind.program || t.refire.isSome || t0.lifted || t0.stopped || t.stopped || s.cancelled t.inst then s
      else
        let floor := gradeMin (s.nodeTaint t.inst t.node) (s.nodeFloor t.inst t.node)
        let s := s.modInst t.inst fun i => { i with nodes := i.nodes.modify t.node fun st => { st with floor := floor } }
        let s := (s.discardHeld k).modTask k fun t => { t with refire := some s.clk, lifted := false }
        let s := s.dropRecs fun r => r.task == k
        let s := (s.offspring k).foldl State.stopOffspring s
        match t.kind with
        | .record _ => if t.complete then s.relaunch k s.clk else s.stopBandsOf k
        | _ => if t.complete then s.relaunch k s.clk else s

/-! ### Graded writes -/

/-- The outcome of a graded write, numbered as AMEND's where it has a number (R276, R294, R297, R307). -/
inductive WOut where
  | wrote | amended | confirmed | same | final | depth
  /-- the write log is full: wait until the taint is FINAL (R297) -/
  | waitLog
  /-- remote consumers have not acknowledged yet (R307) -/
  | waitAck
  /-- a re-fire of a remote consumer was lost through a dead link: nothing written (R307) -/
  | lost
deriving DecidableEq, Repr

/-- Reaching FINAL drops the consumer list and the last writer and clears CONS and OVF (R294). -/
def LineMeta.settle (l : LineMeta) : LineMeta :=
  if l.grade == .final then { l with cons := false, ovf := false, users := [], remote := [], writer := none, far := none } else l

/-- The node and block that a task travels under (R306); a task that is no block's travels under block 2^32 - 1 (log 19). -/
def State.taskPlace (s : State) (k : Nat) : Nat × Nat :=
  match s.task? k with
  | some t =>
    match t.kind with
    | .block n b => (n, b)
    | _ => (t.node, 2 ^ 32 - 1)
  | none => (0, 0)

/-- The key of a line of another package, whose grade is kept as it was last learned (log 20). -/
def remoteLine (p va : Nat) : Nat := 2 ^ 52 + (p * 2 ^ 56 + va) / 64

/-- The address by which messages name a line of this package's device memory: its physical address (R357; graded pages are never in
slices, R242). -/
def lineAddr (l : Nat) : Addr := BitVec.ofNat 56 (64 * l % 2 ^ 44)

/-- A line's metadata after a write or a confirmation. Where its grade rises, the packages that read it are told (log 20). -/
def State.putLine (s : State) (l : Nat) (m : LineMeta) : State :=
  let s := if gradeCode (s.line l).grade < gradeCode m.grade then
      (m.remote.map (·.1)).eraseDups.foldl (fun s p =>
        s.send 4 p { s.blankMsg with addr := lineAddr l, grade := m.grade, mask := 0 }) s
    else s
  s.setLine l (LineMeta.settle m)

/-- The consumers on other packages but the writer itself (R299, R307). -/
def LineMeta.others (m : LineMeta) (far : Option (Nat × Nat × Nat)) : List (Nat × Nat × Nat) := m.remote.filter fun r => some r != far

/-- The consumers that an amendment re-fires: the list, or every reader of an overflowed line; never the writer (R294, R297, R299). -/
def State.consumersOf (s : State) (l : Nat) (writer : Option Nat) : List Nat :=
  let m := s.line l
  let ks := if m.ovf then mkeys s.tasks fun _ t => t.reads.contains l else m.users
  ks.filter fun k => some k != writer

/-- Log a line that a task wrote below FINAL (R297). -/
def State.logWrite (s : State) (task : Option Nat) (l : Nat) : State :=
  match task with
  | none => s
  | some k => s.modTask k fun t => if t.writes.contains l then t else { t with writes := l :: t.writes }

/-- Is there room for a line in a task's write log (R297)? -/
def State.logRoom (s : State) (task : Option Nat) (l : Nat) : Bool :=
  match task.bind s.task? with
  | none => true
  | some t => t.writes.contains l || t.writes.length < Config.logLines

/-- The writer recorded for a line written below FINAL. -/
def writerOf (g : Grade) (task : Option Nat) : Option Nat := if g == .final then none else task

/-- An amendment is performed (R294, R299, R312): local consumers re-fired, data written, the depth raised. -/
def State.amendLine (s : State) (l a : Nat) (data : List Byte) (g : Grade) (task : Option Nat) (far : Option (Nat × Nat × Nat)) : State :=
  let s := (s.consumersOf l task).foldl State.refire s
  let s := s.writeHome a data
  let m := s.line l
  let s := s.putLine l { m with grade := g, depth := m.depth + 1, writer := writerOf g task, far := far }
  if g == .final then s else s.logWrite task l

/-- Send re-fires to a line's remote consumers; the write waits for their acknowledges, and where it is another package's its message is
kept (R307). DEDUCED, log 69. -/
def State.startAmend (s : State) (l : Nat) (task : Option Nat) (far : Option (Nat × Nat × Nat)) (again : Option Instr) : State :=
  let rs := (s.line l).others far
  let (id, s) := s.fresh
  let s := rs.foldl (fun s r =>
    s.send 6 r.1 { s.blankMsg with tag := tagOf id, addr := lineAddr l, ginst := r.2.1, node := r.2.2 / 2 ^ 32, block := BitVec.ofNat 32 r.2.2 }) s
  { s with amends := mput s.amends id ⟨l, task, far, rs, false, s.clk, again⟩ }

/-- The amendment of a line by a writer that waits for acknowledges. -/
def State.amendOf (s : State) (l : Nat) (task : Option Nat) (far : Option (Nat × Nat × Nat)) : Option (Nat × Amendment) :=
  s.amends.find? fun x => x.2.line == l && x.2.writer == task && x.2.far == far

/-- R92, R294: a graded write of bytes that lie within one line, requested at a grade by a task (or by a party outside any, whose taint
does not count; `far` a task of another package, whose taint its message's grade holds, and `again` that message), under an amendment-depth
limit. -/
def State.gradedWrite (s : State) (a : Nat) (data : List Byte) (req : Grade) (task : Option Nat) (limit : Nat)
    (far : Option (Nat × Nat × Nat) := none) (again : Option Instr := none) : WOut × State :=
  let l := a / 64
  let m := s.line l
  let taint := (task.map s.taint).getD .final
  let g := gradeMin req taint
  let room := g == .final || s.logRoom task l
  -- past the write log the write waits for taint FINAL and then has grade FINAL (R297)
  let w := if room then g else .final
  let wait := !room && taint != .final
  match m.grade with
  | .none =>
    if wait then (.waitLog, s)
    else
      let s := (s.writeHome a data).putLine l { m with grade := w, depth := 0, writer := writerOf w task, far := far }
      (.wrote, if w == .final then s else s.logWrite task l)
  | .final => (.final, s)
  | _ =>
    if s.bytes a data.length != data then
      if limit < m.depth + 1 then (.depth, s)
      else if wait then (.waitLog, s)
      else
        match s.amendOf l task far with
        | some (id, x) => if x.failed then (.lost, { s with amends := mdel s.amends id }) else (.waitAck, s)
        | none => if (m.others far).isEmpty then (.amended, s.amendLine l a data w task far) else (.waitAck, s.startAmend l task far again)
    else if gradeCode m.grade < gradeCode g then (.confirmed, s.putLine l { m with grade := g })
    else (.same, s)

/-- The line number of a location whose page is graded here. -/
def Acc.gradedLine (a : Acc) : Option Nat := if a.graded then a.loc.home.map (· / 64) else none

/-- The lines of a graded location (R291, R306). -/
def Acc.lines (a : Acc) (n : Nat) : List Nat :=
  if !a.graded then []
  else
    match a.loc with
    | .remote p va _ => (linesOf va n).map fun l => remoteLine p (64 * l)
    | l => linesOf (l.home.getD 0) n

/-- GCONF at the tumbler (R98): the status it returns. -/
def State.confirmLine (s : State) (l : Nat) (req taint : Grade) : Nat × State :=
  let g := gradeMin req taint
  let m := s.line l
  if m.grade == .none then (2, s)
  else if m.grade != .final && gradeCode m.grade < gradeCode g then (0, s.putLine l { m with grade := g })
  else (1, s)

/-- A lift's confirmation of a line of another package travels there: only the last writer's counts (R303, R306; log 19). -/
def State.liftFar (s : State) (k l : Nat) : State :=
  let va := 64 * (l - 2 ^ 52)
  let p := s.taskPlace k
  s.send 5 (va / 2 ^ 56) { s.blankMsg with
    addr := BitVec.ofNat 56 va, ginst := ((s.task? k).map (·.inst)).getD 0, node := p.1, block := BitVec.ofNat 32 p.2,
    grade := .final, mask := 0 }

/-- R303: confirm the lines a task wrote last, and raise its taint to FINAL. -/
def State.liftTask (s : State) (k : Nat) : State :=
  match s.task? k with
  | none => s
  | some t =>
    let s := t.writes.foldl (fun s l =>
      let m := s.line l
      if 2 ^ 52 ≤ l then s.liftFar k l
      else if m.grade != .final && m.writer == some k then s.putLine l { m with grade := .final } else s) s
    (s.modTask k fun t => { t with lifted := true }).releaseHeld k

/-- Has a task a write under way (R312)? -/
def State.writesUnder (s : State) (k : Nat) : Bool :=
  many s.ops fun _ o => o.task == k && !o.done && !o.void &&
    match o.kind with
    | .st | .atom .. | .cas _ | .red .. | .cpa .. | .gconf _ => true
    | _ => false

/-- Is a task to be lifted now (R303)? A record band or detached band lifts with its own completion; every write of the task has been
performed (R312). -/
def State.liftable (s : State) (k : Nat) (t : Task) : Bool :=
  t.complete && !t.lifted && !t.stopped && t.refire.isNone && !s.writesUnder k && s.taint k == .final && !s.cancelled t.inst

/-- Lifts cascade: each round lifts one task, so the number of tasks bounds the rounds (R303). -/
def State.liftLoop : Nat → State → State
  | 0, s => s
  | n + 1, s =>
    match mkeys s.tasks (fun k t => s.liftable k t) with
    | [] => s
    | k :: _ => State.liftLoop n (s.liftTask k)

/-- Running tasks whose taint is FINAL with no re-fire pending release what they hold, and what has been released goes on leaving
(R304). -/
def State.releaseFinal (s : State) : State :=
  let out := mkeys s.tasks fun _ t => !t.leaving.isEmpty
  let ks := mkeys s.tasks fun k t => !t.held.isEmpty && t.refire.isNone && s.taint k == .final
  ks.foldl State.releaseHeld (out.foldl State.leave s)

end Sys2Proof.Machine
end

