-- ==== Sys2Proof/Machine/Graphs.lean ====
section
/-! DEFINITION. What ends and what follows from it: nodes, edges and lifts (R287, R303),
faulted blocks and nodes (R250, R251) and cancelled runs (R309). -/

namespace Sys2Proof.Machine

/-! ### Nodes, edges, lifts -/

/-- Is a node's work gone: no record, released band, band on a core, block or block to be run again (R213, R300)? -/
def State.nodeIdle (s : State) (inst node : Nat) : Bool :=
  !many s.blocks (fun _ b => b.inst == inst && b.node == node) &&
  !(s.ready.any fun r => r.inst == inst && r.node == node && r.rerun.isSome) &&
  !(s.saved.any fun x => many x.blocks fun _ b => b.inst == inst && b.node == node) &&
  !(s.pool.any fun p => p.key.inst == inst && p.key.node == node) &&
  !(s.released.any fun r => r.key.inst == inst && r.key.node == node) &&
  !many s.bands (fun _ b => b.inst == inst && b.node == node) &&
  !(s.saved.any fun x => many x.bands fun _ b => b.inst == inst && b.node == node)

/-- Change a node of a run. -/
def State.modNode (s : State) (inst node : Nat) (f : NodeSt → NodeSt) : State :=
  s.modInst inst fun i => { i with nodes := i.nodes.modify node f }

/-- A node of a run. -/
def State.nodeSt (s : State) (inst node : Nat) : Option NodeSt := (s.inst? inst).bind fun i => i.nodes[node]?

/-- The code a successor's MINGRADE asks for (R281). -/
def State.minGradeOf (s : State) (inst node : Nat) : Nat := gradeCode (((s.nodeOf inst node).map (·.mingrade)).getD .final)

/-- R287: one qualifying completion: the count falls, and at 0 the node enters the ready queue with this clk as its time. -/
def State.decCount (s : State) (inst node : Nat) : State :=
  match s.nodeSt inst node with
  | none => s
  | some st =>
    let s := s.modNode inst node fun st => { st with count := st.count - 1 }
    if st.count == 1 then
      (s.modNode inst node fun st => { st with queued := true }).pushReady
        ⟨((s.nodeOf inst node).map (·.cls)).getD 1, s.clk, inst, node, none⟩
    else s

/-- The successor of edge e of a node. -/
def State.edgeTarget (s : State) (inst node e : Nat) : Nat :=
  match s.graphOf inst, s.nodeOf inst node with
  | some g, some n => g.succ.getD (n.succix + e) 0
  | _, _ => 0

/-- R287, R301: edges of a completed node decrement once its taint reaches the successor's MINGRADE, by a lift or by a re-run's
completion. -/
def State.fireEdges (s : State) (inst node : Nat) : State :=
  match s.nodeSt inst node with
  | none => s
  | some st =>
    if !st.complete || !s.nodeSettled inst node || s.cancelled inst then s
    else
      let taint := gradeCode (s.nodeTaint inst node)
      (List.range st.edges.length).foldl (fun s e =>
        let m := s.edgeTarget inst node e
        if !st.edges.getD e true && s.minGradeOf inst m ≤ taint then
          (s.modNode inst node fun st => { st with edges := st.edges.set e true }).decCount inst m
        else s) s

/-- R287: a node completes when its last block has ended complete and its other work is gone. -/
def State.completeNode (s : State) (inst node : Nat) : State :=
  match s.nodeSt inst node with
  | none => s
  | some st =>
    if !st.complete && !st.faulted && st.grid ≤ st.started && st.grid ≤ st.ended && st.queued && s.nodeIdle inst node && !s.cancelled inst then
      s.modNode inst node fun st => { st with complete := true }
    else s

/-- Every node of a run is looked at for completion, then for its edges: as a clk ends, so that the edges that decrement in it do so
together and a cancellation in it comes first (R287). -/
def State.sweepInst (s : State) (inst : Nat) : State :=
  match s.inst? inst with
  | none => s
  | some i =>
    let ns := List.range i.nodes.length
    let s := ns.foldl (fun s n => s.completeNode inst n) s
    ns.foldl (fun s n => s.fireEdges inst n) s

/-- What follows at once from a change of grades or from work ending: lifts (R303) and released egress (R304). -/
def State.settle (s : State) : State := (State.liftLoop s.tasks.length s).releaseFinal

/-- The nodes completed and the edges decremented in a clk, as it ends (R287). -/
def State.sweep (s : State) : State := (s.insts.map (·.1)).foldl State.sweepInst s

/-! ### Cancelling and faulting -/

/-- The accepted, incomplete commands of a strand. -/
def State.strandCmds (s : State) (q : Nat) : List Nat := mkeys s.cmds fun _ c => c.issuer == .strand q

/-- A strand whose SDONE has executed frees its sequencer once its commands have completed (R122). -/
def State.reapStrand (s : State) (q : Nat) : State :=
  let x := s.strand q
  if x.status == .finishing && (s.strandCmds q).isEmpty then s.setStrand q { x with status := .idle, forker := none } else s

/-- A strand stops before its next instruction (R250). -/
def State.stopStrand (s : State) (q : Nat) : State :=
  let x := s.strand q
  match x.status with
  | .idle => s
  | _ =>
    ((s.setStrand q { x with status := .finishing, parked := none, halted := false, haltReq := false, stepping := false }).stepDone (q / 2)
      x.stepping).reapStrand q

/-- The sequencers whose strand belongs to a block. -/
def State.strandsOf (s : State) (blk : Nat) : List Nat :=
  mkeys s.strands fun _ x => x.block == blk && x.status != .idle

/-- Stop a block (R250): every thread, every strand. -/
def State.stopBlock (s : State) (blk : Nat) : State :=
  let s := s.modBlock blk fun b => { b with stopping := true }
  let s := (s.strandsOf blk).foldl State.stopStrand s
  (s.bandsOf blk).foldl State.stopBand s

/-- Remove the blocks and bands of a graph run from a saved context (R309). -/
def Saved.purge (x : Saved) (inst : Nat) : Saved :=
  let bs := mkeys x.bands fun _ b => b.inst == inst
  let gone := mkeys x.blocks fun _ b => b.inst == inst
  let held := x.blocks.foldl (fun n b => if b.2.inst == inst then n ||| b.2.hasps else n) (0 : BitVec 32)
  { x with
    threads := x.threads.filter fun t => !bs.contains (t.1 / 32)
    bands := x.bands.filter fun b => b.2.inst != inst
    blocks := x.blocks.filter fun b => b.2.inst != inst
    hasps := x.hasps.filter fun h => !bitAt held.toNat (h.1 % 32)
    strands := x.strands.filter fun q => !gone.contains q.2.block
    cmds := x.cmds.filter fun c => !gone.contains c.2.block
    ops := x.ops.filter fun o => o.2.inst != inst
    growQ := x.growQ.filter fun b => !bs.contains b
    watches := x.watches.filter fun w => w.inst != inst }

/-- A saved context of which nothing is left. -/
def Saved.empty (x : Saved) : Bool := x.bands.isEmpty && x.blocks.isEmpty

/-- Purge every saved context; copies held for one of which nothing is left go on where they were (R309, R325). -/
def State.purgeSaved (s : State) (inst : Nat) : State :=
  let xs := s.saved.map (Saved.purge · inst)
  let free := (xs.filter Saved.empty).flatMap (·.held)
  { s with saved := xs.filter fun x => !x.empty, cmds := mmap s.cmds fun id c => if free.contains id then { c with replay := false } else c }

/-- R309: cancel a run: a token to every package, its running work stopped, unstarted work dropped, held egress discarded, its
program ended (R278), one event record of type 4. A second cancellation changes nothing (R251). DEDUCED, log 63. -/
def State.cancelInst (s : State) (inst : Nat) (code node role d3 d4 d5 : Nat) : State :=
  match s.inst? inst with
  | none => s
  | some i =>
    if i.cancelled || i.ended then s
    else
      let s := s.modInst inst fun i =>
        { i with cancelled := true, progEnd := true, strm := { i.strm with wait := none } }
      let s := s.present.foldl (fun s p => s.send 8 p { s.blankMsg with ginst := inst }) s
      let s := (mkeys s.blocks fun _ b => b.inst == inst).foldl State.stopBlock s
      let s := (mkeys s.bands fun _ b => b.inst == inst).foldl State.stopBand s
      let ks := mkeys s.tasks fun _ t => t.inst == inst
      let below := ks.filter s.holds
      let s := below.foldl State.voidOps s
      let s := { s with tasks := mmap s.tasks fun k t =>
        if t.inst == inst then { t with held := [], leaving := [], refire := none, stopped := true, mute := below.contains k, reads := [], writes := [] } else t }
      let s := { s with
        lines := mmap s.lines fun _ m => { m with users := m.users.filter fun u => !ks.contains u }
        pool := s.pool.filter fun p => p.key.inst != inst
        released := s.released.filter fun r => r.key.inst != inst
        ready := s.ready.filter fun r => r.inst != inst
        amends := s.amends.filter fun a => a.2.writer.all fun w => !ks.contains w }
      let s := s.purgeSaved inst
      s.event i.lp1 ⟨4, code, i.handle, inst, node, role, d3, d4, d5⟩

/-- R251: a faulted block or free band faults its node, and the run is cancelled with the trap's record. -/
def State.faultNode (s : State) (inst node role spBlock trapstat pcofs : Nat) : State :=
  let s := s.modNode inst node fun st => { st with faulted := true }
  s.cancelInst inst 0 node role spBlock trapstat pcofs

/-- R250: an unhandled trap faults the block. -/
def State.faultBlock (s : State) (blk role trapstat pcofs : Nat) : State :=
  match s.block? blk with
  | none => s
  | some b =>
    let s := (s.modBlock blk fun b => { b with faulted := true }).stopBlock blk
    s.faultNode b.inst b.node role b.blockId trapstat pcofs

/-- The role of a strand: its own, or its forking band's (R132, R202). -/
def State.strandRole (s : State) (q : Nat) : Nat :=
  match (s.strand q).forker.bind s.band? with
  | some b => b.role
  | none =>
    match ((s.block? (s.strand q).block).bind fun b => s.nodeOf b.inst b.node) with
    | some n => (n.roles.findIdx? fun r => r.kind == q % 2 + 2).getD 0
    | none => 0

/-- The block of a strand faults (R179). -/
def State.faultStrand (s : State) (q trapstat pcofs : Nat) : State :=
  s.faultBlock (s.strand q).block (s.strandRole q) trapstat pcofs

/-- An answer to a recall's requester (R320): 0 RELEASED, 1 REFUSED, 2 TURNED_AWAY. -/
def State.answer (s : State) (tag core result : Nat) : State := { s with reply := s.reply ++ [.recalled tag core result] }

end Sys2Proof.Machine
end

