-- ==== Sys2Proof/WellFormed.lean ====
section
/-! DEFINITION. Well-formed instructions: what the encoding rules ask of an instruction beyond the ranges that the operand
types fix. An ill-formed term has no encoding (R33). -/

namespace Sys2Proof

/-- A uniform source may not name a lane-only or reserved special register (R30). -/
def UniSrc.wf : UniSrc → Bool
  | .sp n => (2 ≤ n.val && n.val ≤ 15) || n.val == 18
  | _ => true

/-- A cross-lane modifier stands only on a v register (R25). -/
def xlWf (a : LaneSrc) (x : Xl) : Bool :=
  match x, a with
  | .none, _ => true
  | _, .v _ => true
  | _, _ => false

/-- The number of registers of a size (R86). -/
def Sz.regs : Sz → Nat
  | .b64 => 2
  | .b128 => 4
  | _ => 1

/-- The multi-register sizes name a v register whose run stays within v159 (R86). -/
def LaneDst.wfRun (sz : Sz) (d : LaneDst) : Bool :=
  match d with
  | .v n => n.val + sz.regs ≤ 160
  | .discard => sz.regs == 1

/-- The same for the data of a store (R86). -/
def LaneSrc.wfRun (sz : Sz) (b : LaneSrc) : Bool :=
  match b with
  | .v n => n.val + sz.regs ≤ 160
  | _ => sz.regs == 1

/-- Sizes 1 and 3 are loads only (R86, R90). -/
def Sz.storeOk : Sz → Bool
  | .s8 | .s16 => false
  | _ => true

/-- Relaxed or acquire (R88). -/
def Ord16.loadOk : Ord16 → Bool
  | .relaxed | .acq _ => true
  | _ => false

/-- Relaxed or release (R90, R93). -/
def Ord16.storeOk : Ord16 → Bool
  | .relaxed | .rel _ => true
  | _ => false

/-- The float add is 32 bits wide, and a 64-bit operand is no s register (R93). -/
def atomWf (op : AtomOp) (w : Bool) (b : LaneSrc) : Bool :=
  (op != .fadd || !w) &&
  match b with
  | .s _ => !w
  | _ => true

/-- RM is 0 for every operator but fadd (R106). -/
def xopRmOk (op : XOp) (rm : Rm) : Bool := op == .fadd || rm == .nearest

/-- Well-formedness of a step. -/
def Instr.wf : Instr → Bool
  | .imad _ _ a x _ _ | .bfe _ _ a x _ | .bfi _ a x _ _ | .icmp _ _ _ a x _ => xlWf a x
  | .fadd _ _ a x _ | .fsub _ _ a x _ | .fmul _ _ a x _ | .ffma _ _ a x _ _ | .fcmp _ _ a x _ => xlWf a x
  | .frcp _ _ a x | .frsq _ _ a x | .fsqrt _ _ a x | .ftrn _ _ _ a x => xlWf a x
  | .padd _ _ _ a x _ | .pmul _ _ _ a x _ | .pfma _ _ _ a x _ _ | .pdot _ _ _ a x _ _ => xlWf a x
  | .pmin _ _ a x _ | .pmax _ _ a x _ => xlWf a x
  | .cvt _ _ _ _ a x | .frnd _ _ a x | .pcvt2 _ _ a x | .pcvt4 _ _ a x _ => xlWf a x
  | .pcvt8 (.unpack _ _ _ a x) _ _ => xlWf a x
  | .mov _ a x | .sel _ a x _ _ => xlWf a x
  | .xred op rm _ _ | .xscn op rm _ _ _ => xopRmOk op rm
  | .ld sz ord _ d _ _ => ord.loadOk && d.wfRun sz
  | .ldro sz _ d _ _ => d.wfRun sz
  | .st _ sz ord _ _ _ b => sz.storeOk && ord.storeOk && b.wfRun sz
  | .atom op w _ _ _ _ _ b => atomWf op w b
  | .atomcas w _ _ _ _ _ b => atomWf .exch w b
  | .red op w ord _ _ _ b => ord.storeOk && atomWf op w b
  | .gconf g _ _ _ _ => g != .none
  | .sadd _ a b | .ssub _ a b | .smul _ a b | .smin _ a b | .smax _ a b => a.wf && b.wf
  | .sand _ a b | .sor _ a b | .sxor _ a b | .sshl _ a b | .sshr _ a b | .ssar _ a b => a.wf && b.wf
  | .scmp _ _ _ a b => a.wf && b.wf
  | .ssel _ a b c => a.wf && b.wf && c.wf
  | .smov _ a | .spopc _ a | .sbrz a _ | .sbrnz a _ | .grow _ _ a | .shrink a => a.wf
  | .attach _ a b => a.wf && b.wf
  | .swr _ _ a | .hinit _ a | .shwait _ a | .mxscW _ _ a | .mxscA a _ | .surr _ _ a => a.wf
  | .hsrc _ _ a b | .hexp _ _ a b | .hring _ a b | .accz a b => a.wf && b.wf
  | .mxld _ _ _ a _ d b | .mxmm _ _ _ a _ d b | .accld _ _ _ a _ d b | .accmv _ _ _ a _ d b => a.wf && d.wf && b.wf
  | .accmvAdd _ _ a _ d b => a.wf && d.wf && b.wf
  | .cpt _ _ d a _ _ | .cpg _ _ d a _ _ | .cps _ _ d a _ _ | .cpz _ _ d a _ => a.wf && d.wf
  | .amend _ g _ _ _ => g != .none
  | .resumeRetry _ r => r.act.val != 1
  | .resumeFail _ r => r.act.val == 1
  | .bindRecordWrite _ ws => ws.length == 32
  | _ => true

end Sys2Proof
end

