-- ==== Sys2Proof/Machine/Operands.lean ====
section
/-! DEFINITION. Operand forms: the constant table and its readings (R29), lane and uniform sources (R26), register runs (R27, R86), special
registers (R30). -/

namespace Sys2Proof.Machine

/-- The integer entries 48-63 (R29). -/
def constTail : List Nat :=
  [0x80000000, 0x7FFFFFFF, 0x0000FFFF, 0x000000FF, 0x7F800000, 0xFF800000, 0x7FC00000, 0x7F7FFFFF,
   0x00800000, 0x00007FFF, 0xFFFF8000, 0x0000007F, 0xFFFFFF80, 0x55555555, 0x33333333, 0x0F0F0F0F]

/-- The float entries 48-63 (R29). -/
def constTailF : List Nat :=
  [0x3EAAAAAB, 0x3F2AAAAB, 0x3E4CCCCD, 0x3E2AAAAB, 0x3E124925, 0x3DE38E39, 0x3DCCCCCD, 0x3DAAAAAB,
   0x40490FDB, 0x3EA2F983, 0x40C90FDB, 0x3F317218, 0x3FB8AA3B, 0x3FB504F3, 0x3F3504F3, 0x40549A78]

/-- The integer reading of an entry (R29). -/
def constInt (k : Nat) : Word :=
  if k < 16 then BitVec.ofNat 32 k
  else if k < 32 then BitVec.ofInt 32 (15 - (k : Int))
  else if k < 48 then BitVec.ofNat 32 (2 ^ (k - 32))
  else BitVec.ofNat 32 (constTail.getD (k - 48) 0)

/-- The value of an entry's float reading, exact for the entries below 48 (R29). -/
def constVal (k : Nat) : FVal :=
  if k < 16 then .fin false k 0
  else if k < 32 then .fin true (k - 15) 0
  else if k < 48 then .fin false 1 ((k : Int) - 40)
  else fp32.read (constTailF.getD (k - 48) 0)

/-- The float reading of an entry as FP32 bits (R29). -/
def constF32 (k : Nat) : Word := (fp32.deliverW .nearest (constVal k)).1

/-- How an operand that names a constant is read (R29). -/
inductive Reading where
  | int | f32 | packed (f : PFmt) | cvt (t : NumType)
deriving DecidableEq, Repr

/-- A constant under a reading (R29): packed operations take the rounded value in both halves; CVT takes its source type's pattern. -/
def constRead (r : Reading) (k : Nat) : Word :=
  match r with
  | .int => constInt k
  | .f32 => constF32 k
  | .packed f =>
    let h := ((pfmt f).deliver .nearest (constVal k)).1
    ofHalves h h
  | .cvt t =>
    match t with
    | .s8 | .s16 | .s32 | .u8 | .u16 | .u32 => constInt k
    | t => (NumType.deliver t .nearest (constVal k)).1

/-- A 64-bit integer constant (R29): entries 0-47 sign-extended, 48-63 zero-extended. -/
def const64 (k : Nat) : Nat := if k < 48 then ((constInt k).signExtend 64).toNat else (constInt k).toNat

/-- An s register of a band. -/
def State.bandS (s : State) (b n : Nat) : Word :=
  match s.band? b with
  | some x => if h : n < 32 then x.s[n] else 0
  | none => 0

/-- A lane source of a thread (R26). -/
def State.laneSrc (s : State) (k : Nat) (r : Reading) (src : LaneSrc) : Word :=
  match src with
  | .v n => ((s.thread? k).map (·.getV n.val)).getD 0
  | .s n => s.bandS (bandOfThread k) n.val
  | .k n => constRead r n.val

/-- A lane source of 32 or 64 bits: B and B+1, or a constant by R29's rule for 64-bit operands (R93). -/
def State.laneSrc64 (s : State) (k : Nat) (w : Bool) (src : LaneSrc) : Nat :=
  if w then
    match src with
    | .v n => match s.thread? k with
      | some t => (t.getV n.val).toNat + (t.getV (n.val + 1)).toNat * 2 ^ 32
      | none => 0
    | .s n => (s.bandS (bandOfThread k) n.val).toNat
    | .k n => const64 n.val
  else (s.laneSrc k .int src).toNat

/-- The registers of a run of n from vN. -/
def Thread.run (t : Thread) (n : Nat) : Nat → List Word
  | 0 => []
  | c + 1 => t.getV n :: t.run (n + 1) c

/-- The data of a store: the low bytes, or the run of registers lowest first (R86, R90). -/
def State.storeData (s : State) (k : Nat) (sz : Sz) (b : LaneSrc) : List Byte :=
  match sz with
  | .u8 | .s8 => leBytes 1 (s.laneSrc k .int b).toNat
  | .u16 | .s16 => leBytes 2 (s.laneSrc k .int b).toNat
  | .u32 => leBytes 4 (s.laneSrc k .int b).toNat
  | .b64 | .b128 =>
    match b, s.thread? k with
    | .v n, some t => (t.run n.val sz.regs).flatMap fun w => leBytes 4 w.toNat
    | _, _ => []

/-- The number of bytes of a size (R86). -/
def szBytes : Sz → Nat
  | .u8 | .s8 => 1
  | .u16 | .s16 => 2
  | .u32 => 4
  | .b64 => 8
  | .b128 => 16

/-- The registers a load of a size delivers (R86). -/
def loadWords (sz : Sz) (bs : List Byte) : List Word :=
  match sz with
  | .u8 | .u16 => [BitVec.ofNat 32 (leNat bs)]
  | .s8 => [BitVec.ofInt 32 (sextNat 8 (leNat bs))]
  | .s16 => [BitVec.ofInt 32 (sextNat 16 (leNat bs))]
  | .u32 | .b64 | .b128 => wordsOfBytes bs

/-- Registers written from vN up (R86). -/
def Thread.setRun (t : Thread) (n : Nat) : List Word → Thread
  | [] => t
  | w :: ws => (t.setV n w).setRun (n + 1) ws

/-- A destination run written, nothing at 255. -/
def Thread.setRunD (t : Thread) (d : LaneDst) (ws : List Word) : Thread :=
  match d with
  | .v n => t.setRun n.val ws
  | .discard => t

/-! ### The budget (R27) -/

/-- The v register a lane source names. -/
def LaneSrc.regs : LaneSrc → List Nat
  | .v n => [n.val]
  | _ => []

/-- The v register a lane destination names. -/
def LaneDst.regs : LaneDst → List Nat
  | .v n => [n.val]
  | .discard => []

/-- A run of c registers from the one named. -/
def runFrom (c : Nat) (ns : List Nat) : List Nat := ns.flatMap fun n => (List.range c).map (· + n)

/-- The lowest-numbered register named at or beyond the budget (R27). -/
def beyond (budget : Nat) (ns : List Nat) : Option Nat :=
  ns.foldl (fun m n => if n < budget then m else some (match m with
    | some x => min x n
    | none => n)) none

/-! ### Special registers (R30) -/

/-- A party that executes uniform instructions. -/
inductive Party where
  | band (b : Nat)
  | strand (q : Nat)
deriving DecidableEq, Repr

/-- The core of a party. -/
def Party.core : Party → Nat
  | .band b => coreOfBand b
  | .strand q => q / 2

/-- The block of a party. -/
def State.partyBlock (s : State) : Party → Option Nat
  | .band b => s.blockOfBand b
  | .strand q => some (s.strand q).block

/-- The task of a party. -/
def State.partyTask (s : State) (p : Party) : Nat :=
  match p with
  | .band b => ((s.band? b).map (·.task)).getD 0
  | .strand q => ((s.block? (s.strand q).block).map (·.task)).getD 0

/-- The number of bands attached to a block (R205). -/
def State.nband (s : State) (blk : Nat) : Nat := (s.bandsOf blk).length

/-- A special register that does not depend on the thread, but for the clock (R30, R194). -/
def State.spValue (s : State) (p : Party) (i : Nat) : Word :=
  let c := p.core
  let blk := (s.partyBlock p).bind s.block?
  let n (x : Nat) : Word := BitVec.ofNat 32 x
  match i with
  | 2 => match p with
    | .band b => match s.band? b with
      | some x => if x.block.isSome then n x.pos else 0
      | none => 0
    | .strand q => (s.strand q).band
  | 3 => match p with
    | .band b => match s.blockOfBand b with
      | some k => n (s.nband k)
      | none => 1
    | .strand q => (s.strand q).nband
  | 4 => match blk with
    | some x => n x.blockId
    | none => BitVec.allOnes 32
  | 5 => match p with
    | .band b => n (((s.band? b).map (·.nblk)).getD 0)
    | .strand _ => match blk with
      | some x => n (((s.nodeSt x.inst x.node).map (·.grid)).getD 0)
      | none => 0
  | 6 => match p with
    | .band b => n (((s.band? b).map (·.role)).getD 0)
    | .strand q => n (s.strandRole q)
  | 7 => n (c % 96)
  | 8 => n (dieOfCore c)
  | 9 => n s.pkg.toNat
  | 10 => match p with
    | .band b => n (((s.band? b).map (·.node)).getD 0)
    | .strand _ => n ((blk.map (·.node)).getD 0)
  | 11 => match p with
    | .band b => n (((s.band? b).map (·.inst)).getD 0)
    | .strand _ => n ((blk.map (·.inst)).getD 0)
  | 12 => n (s.clk % 2 ^ 32)
  | 14 => (blk.map (·.spRecall)).getD 0
  | 15 => n (gradeCode (s.taint (s.partyTask p)))
  | 18 => match p with
    | .band b => n (((s.band? b).map (·.budget)).getD 0)
    | .strand _ => 0
  | _ => 0

/-- A uniform source (R26, R30): reading SP.CLK latches its high half for SP.CLKH. -/
def State.uniSrc (s : State) (p : Party) (f32 : Bool) (src : UniSrc) : Word × State :=
  match src with
  | .s n => (match p with
      | .band b => s.bandS b n.val
      | .strand q => (s.strand q).s[n], s)
  | .k n => (if f32 then constF32 n.val else constInt n.val, s)
  | .sp n =>
    if n.val == 12 then
      let hi := BitVec.ofNat 32 (s.clk / 2 ^ 32)
      (s.spValue p 12, match p with
        | .band b => s.modBand b fun x => { x with clkh := hi }
        | .strand q => s.setStrand q { s.strand q with clkh := hi })
    else if n.val == 13 then
      (match p with
        | .band b => ((s.band? b).map (·.clkh)).getD 0
        | .strand q => (s.strand q).clkh, s)
    else
      match p with
      | .strand _ =>
        -- the manual gives a strand no budget: SP.BUDGET reads a free value there (log 4)
        if n.val == 18 then
          let (x, s') := s.freeNumber
          (BitVec.ofNat 32 x, s')
        else (s.spValue p n.val, s)
      | .band _ => (s.spValue p n.val, s)

/-- A uniform destination (R26, R28). -/
def State.setUni (s : State) (p : Party) (d : UniDst) (w : Word) : State :=
  match d with
  | .discard => s
  | .s n =>
    match p with
    | .band b => s.setS b n.val w
    | .strand q => s.setStrand q (((s.strand q).setS n.val w).noteWrite s.clk n.val)

/-- RDSP's value (R82, R30) and the thread after it: SP.CLK latches, and CLR clears FSTAT. -/
def State.rdspVal (s : State) (k i : Nat) (t : Thread) : Word × Thread :=
  let b := bandOfThread k
  match i with
  | 0 => (s.spValue (.band b) 2 * 32 + BitVec.ofNat 32 (laneOfThread k), t)
  | 1 => (BitVec.ofNat 32 (laneOfThread k), t)
  | 12 => (s.spValue (.band b) 12, { t with clkh := BitVec.ofNat 32 (s.clk / 2 ^ 32) })
  | 13 => (t.clkh, t)
  | 16 => (t.fstat, t)
  | 17 => (t.trapstat, t)
  | i => (s.spValue (.band b) i, t)

end Sys2Proof.Machine
end

