-- ==== Sys2Proof/Machine/Ops.lean ====
section
/-! DEFINITION. The shared operations of execution: code words and the pc (R13, R19), taking a trap and returning from one (R235-R241,
R176), parking (R246), and the frames in which lane instructions, band operations and uniform instructions run (R34, R35, R60,
R113-R118). -/

namespace Sys2Proof.Machine

/-- The three outcomes of a step. -/
abbrev Out := Host.Outcome State Fault Refusal

/-! ### Code and the pc -/

/-- The word of a run's code at an address, as the code stood when the run started (R21). -/
def Inst.word? (i : Inst) (g : Graph) (pc : Addr) : Option Word :=
  if pc.toNat < g.codeVa.toNat then none else i.code[(pc.toNat - g.codeVa.toNat) / 4]?

/-- The word at an address of a run's code; 0 outside it. -/
def State.codeAt (s : State) (inst : Nat) (pc : Addr) : Word :=
  ((s.inst? inst).bind fun i => (s.graphOf inst).bind fun g => i.word? g pc).getD 0

/-- The clause that holds a pc (R13). -/
def clauseOf (pc : Addr) : Addr := pc &&& ~~~31#56

/-- The slot of a pc (R19). -/
def slotOf (pc : Addr) : Nat := bits pc.toNat 4 2

/-- The clause header's fields (R14). -/
structure Header where
  wait  : Nat
  seta  : Nat
  setb  : Nat
  ext   : Nat
  nslot : Nat
  yld   : Bool
  bit0  : Bool

/-- A header word read (R14). -/
def headerOf (w : Nat) : Header :=
  ⟨bits w 31 20, bits w 19 16, bits w 15 12, bits w 11 5, bits w 4 2, bitAt w 1, bitAt w 0⟩

/-- The header of the clause that holds a pc. -/
def State.headerAt (s : State) (inst : Nat) (pc : Addr) : Header := headerOf (s.codeAt inst (clauseOf pc)).toNat

/-- Does the slot of a pc hold a two-word instruction (R14: EXT)? -/
def Header.twoAt (h : Header) (slot : Nat) : Bool := bitAt h.ext slot

/-- The clause after the one that holds a pc. -/
def nextClause (pc : Addr) : Addr := clauseOf pc + 32

/-- The pc after the instruction at a pc: the next slot in use, or the next clause (R13, R19). -/
def Header.after (h : Header) (pc : Addr) : Addr :=
  let len := if h.twoAt (slotOf pc) then 2 else 1
  if slotOf pc + len ≤ h.nslot then pc + BitVec.ofNat 56 (4 * len) else nextClause pc

/-- The run of a thread. -/
def State.instOf (s : State) (k : Nat) : Nat := ((s.band? (bandOfThread k)).map (·.inst)).getD 0

/-- The pc after the instruction at which a thread stands. -/
def State.pcAfter (s : State) (k : Nat) : Addr :=
  match s.thread? k with
  | some t => (s.headerAt (s.instOf k) t.pc).after t.pc
  | none => 0

/-- A target clause: the clause of a pc plus 32 * IMM (R16). -/
def clauseTarget (pc : Addr) (imm : Word) : Addr := clauseOf pc + imm.signExtend 56 * 32

/-- The code base of a strand. -/
def State.strandBase (s : State) (q : Nat) : Addr :=
  match s.block? (s.strand q).block with
  | some b => s.codeBase b.inst b.node (s.strandRole q)
  | none => 0

/-- R196: a thread that ends a clause. The ready time is set where YLD is set or the eighth consecutive clause ends. -/
def Thread.endClause (t : Thread) (clk : Nat) (yld : Bool) : Thread :=
  if yld || 7 ≤ t.clauses then { t with readyAt := clk, clauses := 0 } else { t with clauses := t.clauses + 1 }

/-- A thread that goes on at a pc: it is ready there. A thread that was held becomes ready now; crossing into a clause ends the one it was
in, whose YLD is given (R19, R196). -/
def Thread.goneTo (t : Thread) (pc : Addr) (clk : Nat) (yld : Bool) : Thread :=
  let t1 := { t with pc := pc, status := .ready, bpSkip := false, brkSkip := false, heldOn := none }
  if t.status != .ready then { t1 with readyAt := clk, clauses := 0 }
  else if slotOf pc == 0 then t1.endClause clk yld else t1

/-- A thread goes on at a pc. A step is then done (R373). -/
def State.goTo (s : State) (k : Nat) (pc : Addr) : State :=
  (s.modThread k fun t => t.goneTo pc s.clk (s.headerAt (s.instOf k) t.pc).yld).settleHalt k

/-- A thread goes on at a pc without an instruction (R373). -/
def State.passTo (s : State) (k : Nat) (pc : Addr) : State :=
  (s.modThread k fun t => t.goneTo pc s.clk (s.headerAt (s.instOf k) t.pc).yld).settleWait k

/-- A thread goes on after the instruction at which it stands. -/
def State.advance (s : State) (k : Nat) : State := s.goTo k (s.pcAfter k)

/-! ### Traps -/

/-- What a trap reports: CAUSE, DETAIL, NUM (R235, R238). -/
structure Cause where
  cause  : Nat
  detail : Nat
  num    : Nat
deriving DecidableEq, Repr

/-- Illegal instruction, field or opcode (R33). -/
def cIllegal : Cause := ⟨1, 0, 0⟩
/-- Misalignment (R84). -/
def cMisaligned : Cause := ⟨4, 0, 0⟩
/-- Unrecoverable access with its DETAIL (R238). -/
def cAccess (d : Nat) : Cause := ⟨5, d, 0⟩
/-- Hasp misuse, naming the hasp (R238). -/
def cHasp (n : Nat) : Cause := ⟨7, n, 0⟩

/-- SP.TRAPSTAT's value (R238). -/
def trapWord (c : Cause) (defer unif : Bool) (flag slot : Nat) : Word :=
  BitVec.ofNat 32 (c.cause * 2 ^ 27 + boolNat defer * 2 ^ 26 + boolNat unif * 2 ^ 25 + c.detail % 256 * 2 ^ 16 + c.num % 256 * 2 ^ 8 +
    flag % 16 * 2 ^ 4 + slot % 8)

/-- The trap handler's pc for a band's role, if the node gives one (R239, R281). -/
def State.handlerPc (s : State) (b : Nat) : Option Addr :=
  match s.band? b with
  | none => none
  | some x =>
    match (s.nodeOf x.inst x.node).bind fun n => n.roles[x.role]? with
    | some r => if r.handler == 0 then none else some (s.bandBase b + BitVec.ofNat 56 (32 * r.handler))
    | none => none

/-- An unhandled trap of a thread faults its block; a free band's stops the band and faults its node (R241, R250, R251). DEDUCED, log 18. -/
def State.unhandled (s : State) (k : Nat) (stat : Word) (pc : Addr) : State :=
  let b := bandOfThread k
  match s.band? b with
  | none => s
  | some x =>
    let ofs := (pc - s.bandBase b).toNat
    let s := s.endThread k
    match x.block with
    | some blk => s.faultBlock blk x.role stat.toNat ofs
    | none => (s.stopBand b).faultNode x.inst x.node x.role (2 ^ 32 - 1) stat.toNat ofs

/-- TAKING A TRAP (R235, R238, R239, R241): SP.TRAPSTAT is written; with a handler, and outside trap mode, the thread enters trap mode
at the handler, and remembers where redo and skip continue (R176); otherwise the trap is unhandled. -/
def State.takeTrap (s : State) (k : Nat) (stat : Word) (pt : TrapPoint) : State :=
  match s.thread? k with
  | none => s
  | some t =>
    let s := s.setThread k { t with trapstat := stat }
    match s.handlerPc (bandOfThread k), t.trapMode with
    | some h, false =>
      let was := t.status
      let s := s.modThread k fun t => { t with trapMode := true, trapPt := pt, pc := h, status := .ready, bpSkip := false }
      let s := if was == .ready then s else s.modThread k fun t => { t with readyAt := s.clk, clauses := 0 }
      if slotOf t.pc == 0 then s.settleWait k else s.settleHalt k
    | _, _ => s.unhandled k stat t.pc

/-- A trap at the slot at which a thread stands. -/
def State.trapAt (s : State) (k : Nat) (c : Cause) (unif : Bool) (src : Nat) : State :=
  match s.thread? k with
  | none => s
  | some t => s.takeTrap k (trapWord c false unif 0 (slotOf t.pc)) ⟨t.pc, s.pcAfter k, src⟩

/-- A lane instruction traps (R235). -/
def State.laneTrap (s : State) (k : Nat) (c : Cause) : State := s.trapAt k c false 0

/-- A trap raised at a rendezvous: the thread of P with the lowest lane home takes it, the others hold (R35, R115). -/
def State.bandTrap (s : State) (ks : List Nat) (c : Cause) (src : Nat) : State :=
  match ks with
  | [] => s
  | k :: rest =>
    let s := rest.foldl (fun s j => s.modThread j fun t => { t with heldBy := some k }) s
    s.trapAt k c true src

/-- A trap in a strand faults its block (R179). -/
def State.strandTrap (s : State) (q : Nat) (c : Cause) : State :=
  let x := s.strand q
  s.faultStrand q (trapWord c false true 0 (slotOf x.pc)).toNat (x.pc - s.strandBase q).toNat

/-- RETURN FROM A TRAP (R176): trap mode ends and the thread continues at redo or skip. Threads that its trap at a rendezvous held meet
it again under redo, and pass with it under skip; after a mismatch they stay where they stand. -/
def State.returnTrap (s : State) (k : Nat) (skip : Bool) : State :=
  match s.thread? k with
  | none => s
  | some t =>
    let pt := t.trapPt
    let pc := if skip then pt.skip else pt.redo
    let held := mkeys s.threads fun _ u => u.heldBy == some k
    let s := s.modThread k fun t => { t with trapMode := false, pc := pc, status := .ready, bpSkip := false }
    held.foldl (fun s j =>
      let s := s.modThread j fun u => { u with heldBy := none }
      if pt.src == 1 && skip then s.goTo j pt.skip else s) s

/-! ### Parking -/

/-- Who parks, for the fault queue (R248). -/
def State.threadWho (s : State) (k : Nat) : FaultWho :=
  let b := bandOfThread k
  let x := s.band? b
  let pc := ((s.thread? k).map (·.pc)).getD 0
  ⟨coreOfThread k, slotOfThread k, false, 0, (x.map (·.part)).getD 0, (x.map (·.slot)).getD 0, (pc - s.bandBase b).toNat,
    (x.map (·.inst)).getD 0⟩

/-- PARKING (R246, R247): the thread parks at the instruction, and the fault queue gets an entry; in a stopping band it stops at once
(R250). -/
def State.parkThread (s : State) (k va kind reason : Nat) : State :=
  let p : Park := ⟨va, kind, reason, s.clk⟩
  if (s.band? (bandOfThread k)).any (·.stopping) then s.endThread k
  else (s.faultEntry (s.threadWho k) p).modThread k fun t => { t with parked := some p }

/-- Who stalls, for a strand's fault (R149, R248). -/
def State.strandWho (s : State) (q : Nat) (pc : Addr) : FaultWho :=
  let b := s.block? (s.strand q).block
  ⟨q / 2, 0, true, q % 2, (b.map (·.part)).getD 0, (b.map (·.slot)).getD 0, (pc - s.strandBase q).toNat, (b.map (·.inst)).getD 0⟩

/-! ### Frames -/

/-- What an instruction did: completed; transferred to a clause; stays where it stands, to be issued again; trapped; or parked. -/
inductive Res where
  | ok (s : State)
  | goto (s : State) (pc : Addr)
  | stay (s : State)
  | trap (s : State) (c : Cause)
  | park (s : State) (va kind reason : Nat)

/-- A lane instruction's result applied to its thread. Where it stays, the thread is held at it; one that a recall has taken to a clause
meanwhile is not (R170). -/
def State.laneFinish (k : Nat) : Res → State
  | .ok s => s.advance k
  | .goto s pc => s.goTo k pc
  | .stay s => s.modThread k fun t => if t.status == .ready && !t.halted && slotOf t.pc != 0 then { t with status := .held } else t
  | .trap s c => s.laneTrap k c
  | .park s va kind reason => s.parkThread k va kind reason

/-- The budget of a thread's band (R123). -/
def State.budgetOf (s : State) (k : Nat) : Nat := ((s.band? (bandOfThread k)).map (·.budget)).getD 0

/-- Does a thread read a register with an error that no code corrects (R363)? -/
def Thread.anyBad (t : Thread) (rs : List Nat) : Bool := rs.any t.bad.contains

/-- The frame of a lane instruction of one thread, which writes the v registers `ds` and reads `rs`: a strand that meets it traps (R34);
the budget is checked first (R27, R236), then the registers' own errors (R363). -/
def laneFrame (s : State) (ds rs : List Nat) (body : Nat → Thread → Res) : Out :=
  match s.cur with
  | .thread k =>
    match s.thread? k with
    | none => .fault .noAgent
    | some t =>
      match beyond (s.budgetOf k) (ds ++ rs) with
      | some n => .next (s.laneTrap k ⟨3, n, 0⟩)
      | none => .next (if t.anyBad rs then s.laneTrap k (cAccess 12) else State.laneFinish k (body k t))
  | .strand q => .next (s.strandTrap q cIllegal)
  | _ => .fault .noAgent

/-- The lanes of P as a rendezvous of thread k sees them: the thread alone in trap mode (R116). -/
def State.rendezvousP (s : State) (k : Nat) : List Nat :=
  if (s.thread? k).any (·.trapMode) then [k] else s.threadsP (bandOfThread k)

/-- Does a thread stand at a rendezvous, held by nothing else (R113, R114)? -/
def Thread.atPoint (t : Thread) : Bool := t.status == .arrived && t.parked.isNone && t.heldBy.isNone && !t.halted

/-- The state of a rendezvous once thread k has arrived: complete, mismatched (R115), or still waited for. -/
inductive Meeting where
  | complete (ks : List Nat)
  | mismatch (ks : List Nat)
  | waiting
deriving DecidableEq, Repr

/-- Judge a rendezvous at which thread k stands (R113-R116). -/
def State.meeting (s : State) (k : Nat) : Meeting :=
  let ks := s.rendezvousP k
  let ts := ks.filterMap s.thread?
  if ks == [k] then .complete ks
  else if ts.all Thread.atPoint then
    if ts.all fun t => some t.pc == ts.head?.map (fun u => u.pc) then .complete ks else .mismatch ks
  else .waiting

/-- Arrive at a rendezvous (R113, R195). -/
def State.arrive (s : State) (k : Nat) : State := s.modThread k fun t => { t with status := .arrived }

/-- A thread that executes a rendezvous alone, in trap mode, and is held at it: it is not ready until it goes on (R116, R145, R195). -/
def Thread.holdAlone (t : Thread) : Thread :=
  if t.trapMode && t.status == .ready && !t.halted && slotOf t.pc != 0 then { t with status := .held } else t

/-- A band operation's result applied to the threads of P (R113, R35). Where it stays, the threads hold at its slot (R145).
DEDUCED, log 66. -/
def State.bandFinish (ks : List Nat) : Res → State
  | .ok s => ks.foldl (fun s k => s.advance k) s
  | .goto s pc => ks.foldl (fun s k => s.goTo k pc) s
  | .stay s => ks.foldl (fun s k => s.modThread k Thread.holdAlone) s
  | .trap s c => s.bandTrap ks c 1
  | .park s va kind reason =>
    match ks with
    | k :: _ => s.parkThread k va kind reason
    | [] => s

/-- Is a thread's PM bit set (R28)? -/
def State.inPm (s : State) (k : Nat) : Bool :=
  match s.band? (bandOfThread k) with
  | some b => bitAt b.pm.toNat (laneOfThread k)
  | none => false

/-- Is the rendezvous of a band complete (R113)? -/
def State.met (s : State) (b : Nat) : Bool :=
  match s.threadsP b with
  | k :: _ => (s.thread? k).any Thread.atPoint && s.meeting k != .waiting
  | [] => false

/-- The bands of a core whose rendezvous are complete, in the order in which the scalar pipe takes them: the earliest complete first, and
of those completed in this clk the lower band position (R117; of two in one position the lower frame, log 48). -/
def State.pipeOrder (s : State) (c : Nat) : List Nat :=
  let old := (s.core c).pipe.filter s.met
  let new := mkeys s.bands fun b _ => coreOfBand b == c && !old.contains b && s.met b
  let pos (b : Nat) : Nat := ((s.band? b).map (·.pos)).getD 0
  old ++ (List.range 64).flatMap fun p => new.filter fun b => pos b == p

/-- Does the scalar pipe take thread k's rendezvous now (R117): the group of this clk has issued, the pipe has executed nothing in this
clk, and no band stands before this one but those that have held in it? A thread in trap mode does not wait (R116). -/
def State.pipeFree (s : State) (k : Nat) : Bool :=
  let c := coreOfThread k
  (s.thread? k).any (·.trapMode) ||
    (s.issue.all (fun j => coreOfThread j != c) && (s.core c).pipeAt != s.clk + 1 &&
      ((s.pipeOrder c).filter fun b => !(s.core c).tried.contains b).head? == some (bandOfThread k))

/-- The scalar pipe has executed a band's instruction, or found that it holds (R117, R145); not for a thread that executes it `alone`, in
trap mode (R116). -/
def State.piped (s : State) (k : Nat) (alone held : Bool) : State :=
  if alone then s
  else
    s.modCore (coreOfThread k) fun x =>
      if held then { x with tried := bandOfThread k :: x.tried } else { x with pipeAt := s.clk + 1 }

/-- A rendezvous's result at the scalar pipe. -/
def Res.piped (k : Nat) (alone : Bool) : Res → Res
  | .ok s => .ok (s.piped k alone false)
  | .goto s pc => .goto (s.piped k alone false) pc
  | .stay s => .stay (s.piped k alone true)
  | .trap s c => .trap (s.piped k alone false) c
  | .park s va kind reason => .park (s.piped k alone false) va kind reason

/-- As a clk ends, the rendezvous complete in it take their places before later ones (R117). -/
def State.keepPipes (s : State) : State :=
  let cs := (s.threads.filterMap fun x => if x.2.status == .arrived then some (coreOfThread x.1) else none).eraseDups
  let old := mkeys s.cores fun c x => !cs.contains c && (!x.pipe.isEmpty || !x.tried.isEmpty)
  (cs ++ old).foldl (fun s c => s.modCore c fun x => { x with pipe := s.pipeOrder c, tried := [] }) s

/-- The rendezvous of a band (R113-R117): a thread outside P passes; the thread arrives; a complete meeting runs the operation once, as the
scalar pipe takes it. -/
def rendezvous (s : State) (k : Nat) (body : State → List Nat → Res) : State :=
  let trapMode := (s.thread? k).any (·.trapMode)
  if !trapMode && !s.inPm k then s.advance k
  else
    let s := if trapMode then s else s.arrive k
    match s.meeting k with
    | .complete ks => if s.pipeFree k then State.bandFinish ks ((body s ks).piped k trapMode) else s
    | .mismatch ks => s.bandTrap ks ⟨1, 2, 0⟩ 2
    | .waiting => s

/-- The body of a band operation, which traps where a thread of P reads a register with an error that no code corrects (R363). -/
def unlessBad (rs : List Nat) (body : State → List Nat → Res) (s : State) (ks : List Nat) : Res :=
  if ks.any fun j => (s.thread? j).any (·.anyBad rs) then .trap s (cAccess 12) else body s ks

/-- The frame of a lane instruction that is a band operation (R60, R105). A register beyond the budget traps in each thread alone as it
reaches the instruction, also one outside P: the check stands before the predicate's and before the rendezvous (DESIGN CHOICE, log 91:
R27 and R35 do not say which comes first, nor whether it is made once). -/
def bandLaneFrame (s : State) (ds rs : List Nat) (body : State → List Nat → Res) : Out :=
  match s.cur with
  | .thread k =>
    match s.thread? k with
    | none => .fault .noAgent
    | some _ =>
      match beyond (s.budgetOf k) (ds ++ rs) with
      | some n => .next (s.trapAt k ⟨3, n, 0⟩ true 0)
      | none => .next (rendezvous s k (unlessBad rs body))
  | .strand q => .next (s.strandTrap q cIllegal)
  | _ => .fault .noAgent

/-- A strand halts (R371-R373). -/
def State.haltStrand (s : State) (q : Nat) : State :=
  let x := s.strand q
  (s.setStrand q { x with halted := true, haltReq := false, stepping := false }).noteHalt (q / 2) (0x800 + q % 2)
    (x.pc - s.strandBase q).toNat x.stepping

/-- A strand goes on at a pc; a step is then done (R373). -/
def State.strandTo (s : State) (q : Nat) (pc : Addr) : State :=
  let s := s.setStrand q { s.strand q with pc := pc, bpSkip := false, brkSkip := false }
  if (s.strand q).stepping && (s.strand q).status != .finishing then s.haltStrand q else s

/-- A strand's instruction result (R118, R179). A park stalls the strand at its instruction. -/
def State.strandFinish (q : Nat) : Res → State
  | .ok s =>
    let x := s.strand q
    let inst := ((s.block? x.block).map (·.inst)).getD 0
    s.strandTo q ((s.headerAt inst x.pc).after x.pc)
  | .goto s pc => s.strandTo q pc
  | .stay s => s
  | .trap s c => s.strandTrap q c
  | .park s va kind reason =>
    let p : Park := ⟨va, kind, reason, s.clk⟩
    (s.faultEntry (s.strandWho q (s.strand q).pc) p).setStrand q { s.strand q with parked := some p }

/-- The frame of a uniform instruction: a rendezvous in a band, direct in a strand (R113, R118). `body` gets the party and, in a band,
the threads of P, the lowest lane home first. -/
def uniFrame (s : State) (body : State → Party → List Nat → Res) : Out :=
  match s.cur with
  | .thread k =>
    match s.thread? k with
    | none => .fault .noAgent
    | some _ => .next (rendezvous s k fun s ks => body s (.band (bandOfThread k)) ks)
  | .strand q => .next (State.strandFinish q (body s (.strand q) []))
  | _ => .fault .noAgent

/-- The pc at which a party stands: a strand's, or that of the threads of P. -/
def State.partyPc (s : State) (p : Party) (ks : List Nat) : Addr :=
  match p with
  | .strand q => (s.strand q).pc
  | .band _ =>
    match ks with
    | k :: _ => ((s.thread? k).map (·.pc)).getD 0
    | [] => 0

/-! ### Lane results -/

/-- A result written to a thread: the destination, and the conditions ORed into FSTAT (R44, R57). -/
def State.deliver (s : State) (k : Nat) (d : LaneDst) (r : FRes) : State :=
  s.modThread k fun t => (t.setD d r.1).orStat r.2

/-- The lane that a cross-lane modifier names for a lane home (R25). -/
def Xl.lane (x : Xl) (home : Nat) : Int :=
  match x with
  | .none => home
  | .idx n => n.val
  | .xor n => (home ^^^ n.val : Nat)
  | .up n => (home : Int) - n.val
  | .down n => (home : Int) + n.val

/-- The thread whose A a thread reads (R25, R60): its own where the lane named lies outside 0-31 or outside P. -/
def xlThread (ks : List Nat) (x : Xl) (k : Nat) : Nat :=
  let j := Xl.lane x (laneOfThread k)
  if j < 0 || 31 < j then k
  else
    let o := threadOf (bandOfThread k) j.toNat
    if ks.contains o then o else k

/-- Deliver a list of results, each to its thread. -/
def State.deliverAll (s : State) (d : LaneDst) (rs : List (Nat × FRes)) : State := rs.foldl (fun s r => s.deliver r.1 d r.2) s

/-- A lane computation (R56, R57, R60): `f` gives the result of a thread from the value of source A. With a cross-lane modifier it runs
at a rendezvous: every A is read before any destination is written. -/
def laneCompute (s : State) (ds rs : List Nat) (ra : Reading) (d : LaneDst) (a : LaneSrc) (x : Xl) (f : State → Nat → Word → FRes) : Out :=
  match x with
  | .none => laneFrame s ds rs fun k _ => .ok (s.deliver k d (f s k (s.laneSrc k ra a)))
  | x => bandLaneFrame s ds rs fun s ks =>
      .ok (s.deliverAll d (ks.map fun k => (k, f s k (s.laneSrc (xlThread ks x k) ra a))))

end Sys2Proof.Machine
end

