-- ==== Sys2Proof/Machine/Resident.lean ====
section
/-! DEFINITION. A band becoming resident (R193): what its threads and its own registers hold at that moment. -/

namespace Sys2Proof.Machine

/-- A thread at residency (R193): every register and flag 0, return stack empty. TRAPSTAT, the trap point, the latched clock and the
fence counters are 0 (R238; DESIGN CHOICE, log 1). -/
def Thread.start (uid : Nat) (pc : Addr) (clk : Nat) : Thread where
  uid := uid
  v := Vector.replicate 160 0
  f := Vector.replicate 12 0
  pc := pc
  rs := []
  spilled := 0
  fstat := 0
  trapstat := 0
  trapMode := false
  trapPt := ⟨0, 0, 0⟩
  status := .ready
  parked := none
  heldBy := none
  halted := false
  haltReq := false
  stepping := false
  bpSkip := false
  brkSkip := false
  readyAt := clk
  clauses := 0
  clkh := 0
  nfail := 0
  refused := false
  deadlink := false
  deferred := []
  counted := false
  resume := none
  yielded := false
  bad := []
  heldOn := none

/-- The s registers of a starting band or strand: words 0-30 of the argument block, then s31 (R193, R202, R283). -/
def startRegs (args : List Word) (pm : Word) : Vector Word 32 := (Vector.ofFn fun i : Fin 32 => args.getD i.val 0).set 31 pm

/-- A band at residency (R193), in no block. -/
def Band.start (args : List Word) (pm : Word) (budget role node inst nblk part slot task : Nat) : Band where
  s := startRegs args pm
  present := pm
  budget := budget
  mb := 0
  block := none
  pos := 0
  role := role
  node := node
  inst := inst
  nblk := nblk
  part := part
  slot := slot
  grow := none
  local? := none
  joins := []
  clkh := 0
  task := task
  recs := []
  isRec := false
  stopping := false

end Sys2Proof.Machine
end

