-- ==== Sys2Proof/Decode.lean ====
section
/-! DEFINITION. Decoding of device instruction words (R22-R34, R59 and each entry) and of command-set words (R268-R277),
total, rejecting by name; and the encoder, written from the same tables. A word is handled as its number below 2^32. -/

namespace Sys2Proof

/-- Why a word has no decoding (R33, R269): each raises an illegal-instruction trap, or a command fault. -/
inductive DecodeError where
  /-- The opcode is in no row of R31, R32 or R269. -/
  | unassigned
  /-- An operand field holds a value that R26 or the entry calls illegal. -/
  | illegalField
  /-- A field that the instruction does not use is not 0. -/
  | unusedField
  /-- A modifier holds a reserved value. -/
  | reservedModifier
  /-- A two-word opcode without its second word. -/
  | missingWord
deriving DecidableEq, Repr

abbrev Dec := Except DecodeError

/-! ### Fields of a device word (R22, R23) -/

def fSet (w : Nat) : Nat := bits w 31 31
def fOp (w : Nat) : Nat := bits w 30 24
def fD (w : Nat) : Nat := bits w 23 16
def fA (w : Nat) : Nat := bits w 15 8
def fB (w : Nat) : Nat := bits w 7 0
def fAB (w : Nat) : Nat := bits w 31 31
def fXL (w : Nat) : Nat := bits w 30 28
def fXLN (w : Nat) : Nat := bits w 27 23
def fC (w : Nat) : Nat := bits w 22 15
def fModS (w : Nat) : Nat := bits w 14 0
def fModM (w : Nat) : Nat := bits w 30 22
def fOfs (w : Nat) : Nat := bits w 21 0

/-- A field must be 0 (R22). -/
def zero (n : Nat) : Dec Unit := if n = 0 then .ok () else .error .unusedField

/-- A modifier must be 0 (R59). -/
def zeroMod (n : Nat) : Dec Unit := if n = 0 then .ok () else .error .reservedModifier

/-- A requirement on operand fields. -/
def need (b : Bool) : Dec Unit := if b then .ok () else .error .illegalField

/-- A requirement on modifiers. -/
def needMod (b : Bool) : Dec Unit := if b then .ok () else .error .reservedModifier

/-! ### Operands (R25, R26) -/

def toFin (k n : Nat) [NeZero k] : Fin k := Fin.ofNat k n

def dLaneSrc (n : Nat) : LaneSrc :=
  if n < 160 then .v (toFin 160 n) else if n < 192 then .s (toFin 32 (n - 160)) else .k (toFin 64 (n - 192))

def dLaneDst (n : Nat) : Dec LaneDst :=
  if n < 160 then .ok (.v (toFin 160 n)) else if n = 255 then .ok .discard else .error .illegalField

def dUniSrc (n : Nat) : Dec UniSrc :=
  if n < 32 then .ok (.s (toFin 32 n))
  else if n < 64 then
    if (UniSrc.sp (toFin 32 (n - 32))).wf then .ok (.sp (toFin 32 (n - 32))) else .error .illegalField
  else if n < 192 then .error .illegalField
  else .ok (.k (toFin 64 (n - 192)))

def dUniDst (n : Nat) : Dec UniDst :=
  if n < 32 then .ok (.s (toFin 32 n)) else if n = 255 then .ok .discard else .error .illegalField

/-- A plain number below k in a field. -/
def dPlain (k n : Nat) [NeZero k] : Dec (Fin k) := if n < k then .ok (toFin k n) else .error .illegalField

def dAb (w2 : Nat) : Ab := if fAB w2 = 0 then .a else .b

def dXl (w2 : Nat) (a : LaneSrc) : Dec Xl := do
  let n := toFin 32 (fXLN w2)
  let x ← match fXL w2 with
    | 0 => if fXLN w2 = 0 then .ok Xl.none else .error .reservedModifier
    | 1 => .ok (Xl.idx n)
    | 2 => .ok (Xl.xor n)
    | 3 => .ok (Xl.up n)
    | 4 => .ok (Xl.down n)
    | _ => .error .reservedModifier
  if xlWf a x then .ok x else .error .reservedModifier

/-! ### Modifiers -/

def dRm (n : Nat) : Dec Rm :=
  match n with
  | 0 => .ok .nearest
  | 1 => .ok .zero
  | 2 => .ok .down
  | 3 => .ok .up
  | _ => .error .reservedModifier

def dICond (n : Nat) : Dec ICond :=
  match n with
  | 0 => .ok .eq
  | 1 => .ok .ne
  | 2 => .ok .lt
  | 3 => .ok .le
  | 4 => .ok .gt
  | 5 => .ok .ge
  | _ => .error .reservedModifier

def dFCond (n : Nat) : Dec FCond :=
  match n with
  | 0 => .ok .eq
  | 1 => .ok .ne
  | 2 => .ok .lt
  | 3 => .ok .le
  | 4 => .ok .gt
  | 5 => .ok .ge
  | 6 => .ok .un
  | 7 => .ok .ord
  | _ => .error .reservedModifier

def dFmt (n : Nat) : PFmt := if n = 0 then .f16 else .bf16

def dTrn (n : Nat) : TrnFn :=
  match n with
  | 0 => .exp2
  | 1 => .log2
  | 2 => .sinpi
  | _ => .cospi

def dNumType (n : Nat) : Dec NumType :=
  match n with
  | 0 => .ok .f32
  | 1 => .ok .f16
  | 2 => .ok .bf16
  | 3 => .ok .e4m3
  | 4 => .ok .e5m2
  | 5 => .ok .e2m1
  | 6 => .ok .e8m0
  | 7 => .ok .s8
  | 8 => .ok .s16
  | 9 => .ok .s32
  | 10 => .ok .u8
  | 11 => .ok .u16
  | 12 => .ok .u32
  | _ => .error .reservedModifier

def dT8 (n : Nat) : Dec T8 :=
  match n with
  | 0 => .ok .e4m3
  | 1 => .ok .e5m2
  | 2 => .ok .s8
  | _ => .error .reservedModifier

def dXOp (n : Nat) : Dec XOp :=
  match n with
  | 0 => .ok .add
  | 1 => .ok .smin
  | 2 => .ok .smax
  | 3 => .ok .umin
  | 4 => .ok .umax
  | 5 => .ok .and
  | 6 => .ok .or
  | 7 => .ok .xor
  | 8 => .ok .fadd
  | 9 => .ok .fmin
  | 10 => .ok .fmax
  | _ => .error .reservedModifier

def dSz (n : Nat) : Dec Sz :=
  match n with
  | 0 => .ok .u8
  | 1 => .ok .s8
  | 2 => .ok .u16
  | 3 => .ok .s16
  | 4 => .ok .u32
  | 5 => .ok .b64
  | 6 => .ok .b128
  | _ => .error .reservedModifier

def dScope (n : Nat) : Dec Scope :=
  match n with
  | 0 => .ok .blk
  | 1 => .ok .pair
  | 2 => .ok .die
  | 3 => .ok .pkg
  | 4 => .ok .dom
  | _ => .error .reservedModifier

/-- ORD (R86): 0, then three runs of five scopes. -/
def dOrd (n : Nat) : Dec Ord16 :=
  if n = 0 then .ok .relaxed
  else if n < 6 then (dScope (n - 1)).map .acq
  else if n < 11 then (dScope (n - 6)).map .rel
  else (dScope (n - 11)).map .ar

def dAtomOp (n : Nat) : Dec AtomOp :=
  match n with
  | 0 => .ok .add
  | 1 => .ok .smin
  | 2 => .ok .smax
  | 3 => .ok .umin
  | 4 => .ok .umax
  | 5 => .ok .and
  | 6 => .ok .or
  | 7 => .ok .xor
  | 8 => .ok .exch
  | 9 => .ok .fadd
  | _ => .error .reservedModifier

def dKind (n : Nat) : Dec FenceKind :=
  match n with
  | 0 => .ok .acq
  | 1 => .ok .rel
  | 2 => .ok .sc
  | _ => .error .reservedModifier

def dGrade (n : Nat) : Grade :=
  match n with
  | 0 => .none
  | 1 => .guess
  | 2 => .prov
  | _ => .final

def dMFmt (n : Nat) : MFmt :=
  match n with
  | 0 => .mxfp4
  | 1 => .s8
  | 2 => .e4m3
  | _ => .bf16

/-! ### Opcode maps (R31, R32) -/

/-- The two-word opcodes; an unassigned opcode counts as one word (R15). -/
def twoWord (w : Nat) : Bool :=
  let o := fOp w
  if fSet w = 0 then
    o == 0x05 || (0x13 ≤ o && o ≤ 0x15) || (0x20 ≤ o && o ≤ 0x23) || o == 0x28 || (0x2A ≤ o && o ≤ 0x2D) ||
    (0x40 ≤ o && o ≤ 0x4A) || (0x50 ≤ o && o ≤ 0x52) || (0x54 ≤ o && o ≤ 0x57) || (0x60 ≤ o && o ≤ 0x6E) ||
    (0x70 ≤ o && o ≤ 0x72) || o == 0x74 || o == 0x7B || o == 0x7C
  else
    o == 0x0B || o == 0x0C || o == 0x0E || (0x20 ≤ o && o ≤ 0x23) || o == 0x30 || o == 0x32 ||
    (0x34 ≤ o && o ≤ 0x36) || o == 0x41 || o == 0x43 || o == 0x50 || (0x52 ≤ o && o ≤ 0x56) ||
    (0x60 ≤ o && o ≤ 0x63) || o == 0x70

/-- One-word lane form `vD, A, B` (R61). -/
def lane3 (f : LaneDst → LaneSrc → LaneSrc → Instr) (w : Nat) : Dec Instr := do
  let d ← dLaneDst (fD w)
  .ok (f d (dLaneSrc (fA w)) (dLaneSrc (fB w)))

/-- One-word lane form `vD, A`; B must be 0. -/
def lane2 (f : LaneDst → LaneSrc → Instr) (w : Nat) : Dec Instr := do
  zero (fB w)
  let d ← dLaneDst (fD w)
  .ok (f d (dLaneSrc (fA w)))

/-- Form-S lane instruction: the checks all of them share (AB = 0, the cross-lane field). -/
def laneS (w w2 : Nat) (f : LaneDst → LaneSrc → Xl → Dec Instr) : Dec Instr := do
  zero (fAB w2)
  let d ← dLaneDst (fD w)
  let a := dLaneSrc (fA w)
  let x ← dXl w2 a
  f d a x

/-- The rounding field [2:0], with every MOD bit from `lo` up 0. -/
def rmUpTo (w2 lo : Nat) : Dec Rm := do
  zeroMod (fModS w2 / 2 ^ lo)
  dRm (bits w2 2 0)

def noB (w : Nat) : Dec Unit := zero (fB w)
def noC (w2 : Nat) : Dec Unit := zero (fC w2)

/-- Form M lane instruction of the memory family: D, A as lane operands. -/
def decodeLaneMem (w w2 : Nat) : Dec Instr :=
  let a := dLaneSrc (fA w)
  let b := dLaneSrc (fB w)
  let ofs := BitVec.ofNat 22 (fOfs w2)
  let m := fModM w2
  let ab := dAb w2
  match fOp w with
  | 0x60 => do
    zeroMod (bits m 1 0)
    noB w
    let d ← dLaneDst (fD w)
    let sz ← dSz (bits m 8 6)
    let ord ← dOrd (bits m 5 2)
    needMod ord.loadOk
    need (d.wfRun sz)
    .ok (.ld sz ord ab d a ofs)
  | 0x61 => do
    zeroMod (bits m 5 0)
    noB w
    let d ← dLaneDst (fD w)
    let sz ← dSz (bits m 8 6)
    need (d.wfRun sz)
    .ok (.ldro sz ab d a ofs)
  | 0x62 => do
    zeroMod (bits m 1 0)
    need (fD w < 4)
    let sz ← dSz (bits m 8 6)
    let ord ← dOrd (bits m 5 2)
    needMod (sz.storeOk && ord.storeOk)
    need (b.wfRun sz)
    .ok (.st (dGrade (fD w)) sz ord ab a ofs b)
  | 0x63 => do
    let d ← dLaneDst (fD w)
    let op ← dAtomOp (bits m 8 5)
    let ord ← dOrd (bits m 3 0)
    needMod (atomWf op (bitAt m 4) b)
    .ok (.atom op (bitAt m 4) ord ab d a ofs b)
  | 0x64 => do
    zeroMod (bits m 8 5)
    let d ← dLaneDst (fD w)
    let ord ← dOrd (bits m 3 0)
    needMod (atomWf .exch (bitAt m 4) b)
    .ok (.atomcas (bitAt m 4) ord ab d a ofs b)
  | 0x65 => do
    zero (fD w)
    let op ← dAtomOp (bits m 8 5)
    let ord ← dOrd (bits m 3 0)
    needMod (ord.storeOk && atomWf op (bitAt m 4) b)
    .ok (.red op (bitAt m 4) ord ab a ofs b)
  | 0x66 => do
    zeroMod m
    let d ← dPlain 160 (fD w)
    .ok (.cpa ab d a ofs b)
  | 0x67 => do
    zeroMod (bits m 3 0)
    zero (fA w)
    noB w
    zero (fOfs w2)
    let d ← dLaneDst (fD w)
    let k ← dKind (bits m 8 7)
    let sc ← dScope (bits m 6 4)
    .ok (.fence k sc ab d)
  | 0x68 => do
    zeroMod m
    noB w
    let d ← dLaneDst (fD w)
    .ok (.grd ab d a ofs)
  | 0x69 => do
    zeroMod (bits m 6 0)
    noB w
    let d ← dLaneDst (fD w)
    needMod (bits m 8 7 != 0)
    .ok (.gconf (dGrade (bits m 8 7)) ab d a ofs)
  | 0x6A => do
    zero (fAB w2)
    zeroMod (bits m 3 1)
    zero (fA w)
    zero (fOfs w2)
    let d ← dLaneDst (fD w)
    let h := toFin 32 (bits m 8 4)
    if bitAt m 0 then .ok (.harr (some b) d h)
    else do
      noB w
      .ok (.harr none d h)
  | 0x6B => do
    zero (fAB w2)
    zeroMod (bits m 3 0)
    zero (fA w)
    zero (fOfs w2)
    let d ← dLaneDst (fD w)
    .ok (.hwait d (toFin 32 (bits m 8 4)) b)
  | 0x6C => do
    zero (fAB w2)
    zeroMod (bits m 3 0)
    zero (fA w)
    zero (fOfs w2)
    let d ← dLaneDst (fD w)
    .ok (.hwaits d (toFin 32 (bits m 8 4)) b)
  | 0x6D => do
    zero (fAB w2)
    zeroMod (bits m 3 0)
    zero (fA w)
    zero (fOfs w2)
    let d ← dLaneDst (fD w)
    .ok (.htest d (toFin 32 (bits m 8 4)) b)
  | 0x6E => do
    zero (fAB w2)
    zeroMod (bits m 3 0)
    noB w
    let d ← dLaneDst (fD w)
    .ok (.hmon d (toFin 32 (bits m 8 4)) a ofs)
  | 0x7B => do
    zeroMod m
    noB w
    zero (fOfs w2)
    let d ← dLaneDst (fD w)
    let n ← dPlain 145 (fA w)
    .ok (.cont ab d n)
  | 0x7C => do
    zeroMod m
    zero (fOfs w2)
    let d ← dLaneDst (fD w)
    let n ← dPlain 159 (fB w)
    .ok (.enq ab d a n)
  | _ => .error .unassigned

/-- Lane words (R31). -/
def decodeLane (w w2 : Nat) : Dec Instr :=
  let b := dLaneSrc (fB w)
  let c := dLaneSrc (fC w2)
  let m := fModS w2
  let imm := BitVec.ofNat 32 w2
  match fOp w with
  | 0x00 => lane3 .iadd w
  | 0x01 => lane3 .isub w
  | 0x02 => lane3 .imul w
  | 0x03 => lane3 .imulh w
  | 0x04 => lane3 .imulhu w
  | 0x05 => laneS w w2 fun d a x => do
    zeroMod (m / 4)
    match bits m 1 0 with
    | 0 => .ok (.imad .wrap d a x b c)
    | 1 => .ok (.imad .signed d a x b c)
    | 2 => .ok (.imad .unsigned d a x b c)
    | _ => .error .reservedModifier
  | 0x06 => lane3 .imin w
  | 0x07 => lane3 .imax w
  | 0x08 => lane3 .iminu w
  | 0x09 => lane3 .imaxu w
  | 0x0A => lane3 .and w
  | 0x0B => lane3 .or w
  | 0x0C => lane3 .xor w
  | 0x0D => lane3 .andn w
  | 0x0E => lane3 .shl w
  | 0x0F => lane3 .shr w
  | 0x10 => lane3 .sar w
  | 0x11 => lane2 .popc w
  | 0x12 => lane2 .clz w
  | 0x13 => laneS w w2 fun d a x => do
    noC w2
    zeroMod (m / 2)
    .ok (.bfe (bitAt m 0) d a x b)
  | 0x14 => laneS w w2 fun d a x => do
    zeroMod m
    .ok (.bfi d a x b c)
  | 0x15 => laneS w w2 fun d a x => do
    noC w2
    zeroMod (m / 16)
    let cc ← dICond (bits m 2 0)
    .ok (.icmp cc (bitAt m 3) d a x b)
  | 0x20 => laneS w w2 fun d a x => do
    noC w2
    let rm ← rmUpTo w2 3
    .ok (.fadd rm d a x b)
  | 0x21 => laneS w w2 fun d a x => do
    noC w2
    let rm ← rmUpTo w2 3
    .ok (.fsub rm d a x b)
  | 0x22 => laneS w w2 fun d a x => do
    noC w2
    let rm ← rmUpTo w2 3
    .ok (.fmul rm d a x b)
  | 0x23 => laneS w w2 fun d a x => do
    let rm ← rmUpTo w2 3
    .ok (.ffma rm d a x b c)
  | 0x24 => lane3 .fmin w
  | 0x25 => lane3 .fmax w
  | 0x26 => lane2 .fabs w
  | 0x27 => lane2 .fneg w
  | 0x28 => laneS w w2 fun d a x => do
    noC w2
    zeroMod (m / 8)
    let cc ← dFCond (bits m 2 0)
    .ok (.fcmp cc d a x b)
  | 0x29 => lane2 .fclass w
  | 0x2A => laneS w w2 fun d a x => do
    noB w
    noC w2
    let rm ← rmUpTo w2 3
    .ok (.frcp rm d a x)
  | 0x2B => laneS w w2 fun d a x => do
    noB w
    noC w2
    let rm ← rmUpTo w2 3
    .ok (.frsq rm d a x)
  | 0x2C => laneS w w2 fun d a x => do
    noB w
    noC w2
    let rm ← rmUpTo w2 3
    .ok (.fsqrt rm d a x)
  | 0x2D => laneS w w2 fun d a x => do
    noB w
    noC w2
    let rm ← rmUpTo w2 5
    .ok (.ftrn (dTrn (bits m 4 3)) rm d a x)
  | 0x40 => laneS w w2 fun d a x => do
    noC w2
    let rm ← rmUpTo w2 4
    .ok (.padd (dFmt (bits m 3 3)) rm d a x b)
  | 0x41 => laneS w w2 fun d a x => do
    noC w2
    let rm ← rmUpTo w2 4
    .ok (.pmul (dFmt (bits m 3 3)) rm d a x b)
  | 0x42 => laneS w w2 fun d a x => do
    let rm ← rmUpTo w2 4
    .ok (.pfma (dFmt (bits m 3 3)) rm d a x b c)
  | 0x43 => laneS w w2 fun d a x => do
    noC w2
    zeroMod (m / 16)
    zeroMod (bits m 2 0)
    .ok (.pmin (dFmt (bits m 3 3)) d a x b)
  | 0x44 => laneS w w2 fun d a x => do
    noC w2
    zeroMod (m / 16)
    zeroMod (bits m 2 0)
    .ok (.pmax (dFmt (bits m 3 3)) d a x b)
  | 0x45 => laneS w w2 fun d a x => do
    let rm ← rmUpTo w2 4
    .ok (.pdot (dFmt (bits m 3 3)) rm d a x b c)
  | 0x46 => laneS w w2 fun d a x => do
    noB w
    noC w2
    let rm ← rmUpTo w2 11
    let dt ← dNumType (bits m 10 7)
    let st ← dNumType (bits m 6 3)
    .ok (.cvt dt st rm d a x)
  | 0x47 => laneS w w2 fun d a x => do
    noB w
    noC w2
    let rm ← rmUpTo w2 3
    .ok (.frnd rm d a x)
  | 0x48 => laneS w w2 fun d a x => do
    noC w2
    let rm ← rmUpTo w2 8
    zeroMod (bits m 6 5)
    if bitAt m 4 then do
      noB w
      zeroMod (bits m 2 0)
      .ok (.pcvt2 (.unpack (dFmt (bits m 3 3)) (bitAt m 7)) d a x)
    else do
      zeroMod (bits m 7 7)
      .ok (.pcvt2 (.pack (dFmt (bits m 3 3)) rm b) d a x)
  | 0x49 => laneS w w2 fun d a x => do
    let rm ← rmUpTo w2 8
    let t ← dT8 (bits m 6 5)
    if bitAt m 4 then do
      noB w
      .ok (.pcvt4 (.unpack t (dFmt (bits m 3 3)) (bitAt m 7) rm) d a x c)
    else do
      zeroMod (bits m 7 7)
      .ok (.pcvt4 (.pack t (dFmt (bits m 3 3)) rm b) d a x c)
  | 0x4A => laneS w w2 fun d a x => do
    noB w
    let rm ← rmUpTo w2 9
    zeroMod (bits m 6 5)
    if bitAt m 4 then .ok (.pcvt8 (.unpack (dFmt (bits m 3 3)) (toFin 4 (bits m 8 7)) rm a x) d c)
    else do
      zeroMod (bits m 8 7)
      needMod (x == .none)
      let n ← dPlain 157 (fA w)
      .ok (.pcvt8 (.pack (dFmt (bits m 3 3)) rm n) d c)
  | 0x50 => laneS w w2 fun d a x => do
    noB w
    noC w2
    zeroMod m
    .ok (.mov d a x)
  | 0x51 => do
    zero (fA w)
    noB w
    let d ← dLaneDst (fD w)
    .ok (.movi d imm)
  | 0x52 => laneS w w2 fun d a x => do
    zeroMod m
    .ok (.sel d a x b c)
  | 0x53 => do
    let d ← dLaneDst (fD w)
    match fB w with
    | 0 => do
      let i ← dPlain 19 (fA w)
      .ok (.rdsp d i)
    | 1 => if fA w = 16 then .ok (.rdspClr d) else .error .reservedModifier
    | _ => .error .reservedModifier
  | 0x54 => laneS w w2 fun d a x => do
    needMod (x == .none)
    noC w2
    zeroMod m
    .ok (.xshf d a b)
  | 0x55 => laneS w w2 fun d a x => do
    needMod (x == .none)
    noB w
    noC w2
    zeroMod m
    .ok (.xbal d a)
  | 0x56 => laneS w w2 fun d a x => do
    needMod (x == .none)
    noB w
    noC w2
    let rm ← rmUpTo w2 7
    let op ← dXOp (bits m 6 3)
    needMod (xopRmOk op rm)
    .ok (.xred op rm d a)
  | 0x57 => laneS w w2 fun d a x => do
    needMod (x == .none)
    noB w
    noC w2
    let rm ← rmUpTo w2 8
    let op ← dXOp (bits m 6 3)
    needMod (xopRmOk op rm)
    .ok (.xscn op rm (bitAt m 7) d a)
  | 0x70 => do
    zero (fD w)
    zero (fA w)
    noB w
    .ok (.bra imm)
  | 0x71 => do
    zero (fD w)
    noB w
    .ok (.brz (dLaneSrc (fA w)) imm)
  | 0x72 => do
    zero (fD w)
    noB w
    .ok (.brnz (dLaneSrc (fA w)) imm)
  | 0x73 => do
    zero (fD w)
    noB w
    .ok (.jmpi (dLaneSrc (fA w)))
  | 0x74 => do
    zero (fD w)
    zero (fA w)
    noB w
    .ok (.call imm)
  | 0x75 => do
    zero (fD w)
    noB w
    .ok (.calli (dLaneSrc (fA w)))
  | 0x76 => do
    zero (w % 2 ^ 24)
    .ok .ret
  | 0x77 => do
    zero (w % 2 ^ 24)
    .ok .exit
  | 0x78 => do
    zero (w % 2 ^ 24)
    .ok .nop
  | 0x79 => do
    zero (w % 2 ^ 24)
    .ok .brk
  | 0x7A => do
    zero (fD w)
    zero (fA w)
    .ok (.trap (BitVec.ofNat 8 (fB w)))
  | _ => decodeLaneMem w w2

/-- One-word uniform form `sD, A, B` (R119). -/
def uni3 (f : UniDst → UniSrc → UniSrc → Instr) (w : Nat) : Dec Instr := do
  let d ← dUniDst (fD w)
  let a ← dUniSrc (fA w)
  let b ← dUniSrc (fB w)
  .ok (f d a b)

/-- Uniform form `sD, A`; B must be 0. -/
def uni2 (f : UniDst → UniSrc → Instr) (w : Nat) : Dec Instr := do
  noB w
  let d ← dUniDst (fD w)
  let a ← dUniSrc (fA w)
  .ok (f d a)

/-- A form-S second word of a uniform instruction: AB, XL and XLN are 0 (R23, R25). -/
def uniS (w2 : Nat) : Dec Unit := do
  zero (fAB w2)
  zeroMod (fXL w2)
  zeroMod (fXLN w2)

/-- A word whose D, A and B are 0 but for what `keep` leaves out. -/
def bare (w : Nat) (i : Instr) : Dec Instr := do
  zero (w % 2 ^ 24)
  .ok i

/-- The memory operands of MXLD, MXMM, ACCLD and ACCMV: A, D and B as uniform sources. -/
def uniADB (w : Nat) (f : UniSrc → UniSrc → UniSrc → Instr) : Dec Instr := do
  let a ← dUniSrc (fA w)
  let d ← dUniSrc (fD w)
  let b ← dUniSrc (fB w)
  .ok (f a d b)

/-- SEM and SCOPE of ACCLD and ACCMV (R161): SEM 0 needs SCOPE 0. -/
def dSem (m sem : Nat) : Dec (Option Scope) := do
  zeroMod (bits m 6 5)
  if bits m 4 3 = 0 then do
    zeroMod (bits m 2 0)
    .ok none
  else if bits m 4 3 = sem then (dScope (bits m 2 0)).map some
  else .error .reservedModifier

/-- CNT and HID of a copy (R166). -/
def dCnt (m : Nat) : Dec (Option (Fin 32)) := do
  zeroMod (bits m 2 0)
  if bitAt m 8 then .ok (some (toFin 32 (bits m 7 3)))
  else do
    zeroMod (bits m 7 3)
    .ok none

/-- Uniform words (R32). -/
def decodeUniform (w w2 : Nat) : Dec Instr :=
  let m := fModS w2
  let mm := fModM w2
  let imm := BitVec.ofNat 32 w2
  let ofs := BitVec.ofNat 22 (fOfs w2)
  let ab := dAb w2
  match fOp w with
  | 0x00 => uni3 .sadd w
  | 0x01 => uni3 .ssub w
  | 0x02 => uni3 .smul w
  | 0x03 => uni3 .smin w
  | 0x04 => uni3 .smax w
  | 0x05 => uni3 .sand w
  | 0x06 => uni3 .sor w
  | 0x07 => uni3 .sxor w
  | 0x08 => uni3 .sshl w
  | 0x09 => uni3 .sshr w
  | 0x0A => uni3 .ssar w
  | 0x0B => do
    uniS w2
    noC w2
    zeroMod (m / 16)
    let cc ← dICond (bits m 2 0)
    uni3 (.scmp cc (bitAt m 3)) w
  | 0x0C => do
    uniS w2
    zeroMod m
    let c ← dUniSrc (fC w2)
    uni3 (fun d a b => .ssel d a b c) w
  | 0x0D => uni2 .smov w
  | 0x0E => do
    zero (fA w)
    noB w
    let d ← dUniDst (fD w)
    .ok (.smovi d imm)
  | 0x0F => uni2 .spopc w
  | 0x20 => bare w (.sbra imm)
  | 0x21 => do
    zero (fD w)
    noB w
    let a ← dUniSrc (fA w)
    .ok (.sbrz a imm)
  | 0x22 => do
    zero (fD w)
    noB w
    let a ← dUniSrc (fA w)
    .ok (.sbrnz a imm)
  | 0x23 => do
    zero (fA w)
    noB w
    let d ← dPlain 31 (fD w)
    .ok (.sloop d imm)
  | 0x24 => bare w .sdone
  | 0x30 => do
    uniS w2
    noC w2
    zeroMod (m / 32)
    uni2 (fun d a => .grow d (toFin 32 (bits m 4 0)) a) w
  | 0x31 => do
    zero (fD w)
    noB w
    let a ← dUniSrc (fA w)
    .ok (.shrink a)
  | 0x32 => do
    uniS w2
    noC w2
    zeroMod m
    uni3 .attach w
  | 0x33 => do
    zero (fA w)
    noB w
    let d ← dUniDst (fD w)
    .ok (.detach d)
  | 0x34 => do
    zero (fA w)
    let d ← dUniDst (fD w)
    match fB w with
    | 0 => .ok (.fork .mx d imm)
    | 1 => .ok (.fork .cp d imm)
    | _ => .error .illegalField
  | 0x35 => do
    uniS w2
    noC w2
    zeroMod (m / 2)
    noB w
    let d ← dUniDst (fD w)
    let n ← dPlain 32 (fA w)
    .ok (.srd (if bitAt m 0 then .cp else .mx) d n)
  | 0x36 => do
    uniS w2
    noC w2
    zeroMod (m / 2)
    noB w
    let n ← dPlain 32 (fD w)
    let a ← dUniSrc (fA w)
    .ok (.swr (if bitAt m 0 then .cp else .mx) n a)
  | 0x40 => do
    noB w
    let h ← dPlain 32 (fD w)
    let a ← dUniSrc (fA w)
    .ok (.hinit h a)
  | 0x41 => do
    uniS w2
    noC w2
    zeroMod (m / 8)
    let h ← dPlain 32 (fD w)
    if bitAt m 2 then do
      zero (fA w)
      noB w
      .ok (.hsrcClr h (toFin 4 (bits m 1 0)))
    else do
      let a ← dUniSrc (fA w)
      let b ← dUniSrc (fB w)
      .ok (.hsrc h (toFin 4 (bits m 1 0)) a b)
  | 0x42 => do
    need (bits w 23 23 == 0)
    let a ← dUniSrc (fA w)
    let b ← dUniSrc (fB w)
    .ok (.hexp (toFin 32 (bits w 20 16)) (toFin 4 (bits w 22 21)) a b)
  | 0x43 => do
    uniS w2
    noC w2
    zeroMod m
    let h ← dPlain 32 (fD w)
    let a ← dUniSrc (fA w)
    let b ← dUniSrc (fB w)
    .ok (.hring h a b)
  | 0x44 => do
    zero (fA w)
    noB w
    let h ← dPlain 32 (fD w)
    .ok (.hinv h)
  | 0x45 => do
    zero (fA w)
    noB w
    let h ← dPlain 32 (fD w)
    .ok (.sharr h)
  | 0x46 => do
    noB w
    let h ← dPlain 32 (fD w)
    let a ← dUniSrc (fA w)
    .ok (.shwait h a)
  | 0x50 => do
    zeroMod (bits mm 5 0)
    uniADB w fun a d b => .mxld (dMFmt (bits mm 8 7)) (toFin 2 (bits mm 6 6)) ab a ofs d b
  | 0x51 => do
    zero (fD w)
    zero (fA w)
    let p ← dPlain 2 (fB w)
    .ok (.mxsw p)
  | 0x52 => uniADB w fun a d b => .mxmm (dMFmt (bits mm 8 7)) (toFin 128 (bits mm 6 0)) ab a ofs d b
  | 0x53 => do
    zero (fAB w2)
    zero (fD w)
    noB w
    match bits mm 8 7 with
    | 0 => do
      zeroMod (bits mm 2 0)
      zero (fOfs w2)
      let a ← dUniSrc (fA w)
      .ok (.mxscW (toFin 2 (bits mm 6 6)) (toFin 8 (bits mm 5 3)) a)
    | 1 => do
      zeroMod (bits mm 6 0)
      let a ← dUniSrc (fA w)
      .ok (.mxscA a ofs)
    | 2 => do
      zeroMod (bits mm 6 0)
      zero (fA w)
      zero (fOfs w2)
      .ok .mxscANone
    | _ => .error .reservedModifier
  | 0x54 => do
    zero (fAB w2)
    zeroMod mm
    zero (fA w)
    zero (fOfs w2)
    let d ← dUniSrc (fD w)
    let b ← dUniSrc (fB w)
    .ok (.accz d b)
  | 0x55 => do
    let acq ← dSem mm 1
    match bits mm 8 7 with
    | 0 => uniADB w fun a d b => .accld false acq ab a ofs d b
    | 1 => uniADB w fun a d b => .accld true acq ab a ofs d b
    | _ => .error .reservedModifier
  | 0x56 => do
    let rel ← dSem mm 2
    match bits mm 8 7 with
    | 0 => uniADB w fun a d b => .accmv false rel ab a ofs d b
    | 1 => uniADB w fun a d b => .accmvAdd rel ab a ofs d b
    | 2 => uniADB w fun a d b => .accmv true rel ab a ofs d b
    | _ => .error .reservedModifier
  | 0x60 => do
    let cnt ← dCnt mm
    let a ← dUniSrc (fA w)
    let d ← dUniSrc (fD w)
    let b ← dPlain 32 (fB w)
    .ok (.cpt cnt ab d a ofs b)
  | 0x61 => do
    let cnt ← dCnt mm
    let a ← dUniSrc (fA w)
    let d ← dUniSrc (fD w)
    let b ← dPlain 32 (fB w)
    .ok (.cpg cnt ab d a ofs b)
  | 0x62 => do
    let cnt ← dCnt mm
    let a ← dUniSrc (fA w)
    let d ← dUniSrc (fD w)
    let b ← dPlain 32 (fB w)
    .ok (.cps cnt ab d a ofs b)
  | 0x63 => do
    let cnt ← dCnt mm
    noB w
    let a ← dUniSrc (fA w)
    let d ← dUniSrc (fD w)
    .ok (.cpz cnt ab d a ofs)
  | 0x70 => do
    noB w
    let d ← dUniDst (fD w)
    let a ← dUniSrc (fA w)
    .ok (.surr d imm a)
  | 0x71 => do
    zero (fD w)
    zero (fA w)
    match fB w with
    | 0 => .ok .yieldDone
    | 1 => .ok .yieldSumm
    | 2 => .ok .yieldRefuse
    | _ => .error .illegalField
  | 0x72 => do
    zero (fA w)
    noB w
    let d ← dUniDst (fD w)
    .ok (.rclq d)
  | 0x73 => do
    zero (fD w)
    zero (fA w)
    match fB w with
    | 0 => .ok .tretRedo
    | 1 => .ok .tretSkip
    | _ => .error .illegalField
  | 0x74 => bare w .snop
  | 0x75 => bare w .sbrk
  | _ => .error .unassigned

/-- A device instruction from its first word and the word after it, which only a two-word opcode uses. -/
def decodeDevice (w w2 : Nat) : Dec Instr :=
  if fSet w = 0 then decodeLane w w2 else decodeUniform w w2

/-! ### The command set (R268, R269) -/

def cOp (w : Nat) : Nat := bits w 31 26
def cD (w : Nat) : Nat := bits w 25 22
def cA (w : Nat) : Nat := bits w 21 18
def cB (w : Nat) : Nat := bits w 17 14
def cX (w : Nat) : Nat := bits w 13 0

/-- The two-word commands (R269). -/
def twoWordCommand (w : Nat) : Bool :=
  let o := cOp w
  o == 0x01 || (0x0A ≤ o && o ≤ 0x0C) || o == 0x0E || o == 0x11 || o == 0x14

def creg (n : Nat) : CReg := toFin 16 n

/-- Forms `cD, cA, cB` and `cD, cA, imm` (R270). -/
def calu (f : CReg → CReg → COp → Instr) (w : Nat) : Dec Instr :=
  if bitAt (cX w) 13 then do
    zero (cB w)
    .ok (f (creg (cD w)) (creg (cA w)) (.imm (BitVec.ofNat 13 (cX w))))
  else do
    zero (cX w)
    .ok (f (creg (cD w)) (creg (cA w)) (.c (creg (cB w))))

def dCCond (n : Nat) : Dec CCond :=
  match n with
  | 0 => .ok .eq
  | 1 => .ok .ne
  | 2 => .ok .lt
  | 3 => .ok .ge
  | 4 => .ok .ltu
  | 5 => .ok .geu
  | _ => .error .reservedModifier

/-- A command from its first word and the word after it (R268-R277). -/
def decodeCommand (w w2 : Nat) : Dec Instr :=
  let imm := BitVec.ofNat 32 w2
  let d := creg (cD w)
  let a := creg (cA w)
  let b := creg (cB w)
  match cOp w with
  | 0x01 => do
    zero (cA w)
    zero (cB w)
    zero (cX w / 4)
    match bits w 1 0 with
    | 0 => .ok (.cli d imm)
    | 1 => .ok (.cliU d imm)
    | 2 => .ok (.cliHi d imm)
    | _ => .error .reservedModifier
  | 0x02 => calu .cadd w
  | 0x03 => calu .csub w
  | 0x04 => calu .cand w
  | 0x05 => calu .cor w
  | 0x06 => calu .cshl w
  | 0x07 => calu .cshr w
  | 0x08 => if cB w < 3 then .ok (.cld (toFin 3 (cB w)) d a (BitVec.ofNat 14 (cX w))) else .error .reservedModifier
  | 0x09 => if cD w < 3 then .ok (.cst (toFin 3 (cD w)) a (BitVec.ofNat 14 (cX w)) b) else .error .reservedModifier
  | 0x0A => do
    zero (cX w)
    let cc ← dCCond (cD w)
    .ok (.cbr cc a b imm)
  | 0x0B => do
    zero (w % 2 ^ 26)
    .ok (.cjmp imm)
  | 0x0C => do
    zero (w % 2 ^ 26)
    .ok (.ccall imm)
  | 0x0D => do
    zero (w % 2 ^ 26)
    .ok .cret
  | 0x0E => do
    zero (w % 2 ^ 22)
    .ok (.cloop d imm)
  | 0x10 => do
    zero (cX w)
    .ok (.launch d a b)
  | 0x11 => do
    zero (cB w)
    zero (cX w)
    .ok (.graph d a (BitVec.ofNat 16 (bits w2 31 16)) (BitVec.ofNat 8 (bits w2 15 8)) (BitVec.ofNat 8 (bits w2 7 0)))
  | 0x12 => do
    zero (cX w / 16)
    needMod (bits w 1 0 == 2 || bits w 1 0 == 3)
    needMod (bits w 3 2 != 0)
    .ok (.amend (bits w 1 0 == 3) (dGrade (bits w 3 2)) d a b)
  | 0x13 => do
    zero (cX w / 4)
    match bits w 1 0 with
    | 0 => do
      zero (cB w)
      .ok (.cwaitNode d a)
    | 1 => do
      zero (cB w)
      .ok (.cwaitInst d a)
    | 2 => .ok (.cwaitMem d a b)
    | _ => do
      zero (cA w)
      .ok (.cwaitTime d b)
  | 0x14 => do
    zero (cD w)
    zero (cB w)
    zero (cX w / 4096)
    .ok (.signal (BitVec.ofNat 11 (cX w)) (bitAt w 11) a imm)
  | 0x15 => do
    zero (w % 2 ^ 26)
    .ok .cfence
  | 0x16 => do
    zero (w % 2 ^ 22)
    .ok (.ctime d)
  | 0x17 => do
    zero (w % 2 ^ 26)
    .ok .chalt
  | _ => .error .unassigned

/-! ### Reading a word list, and words as the table numbers them -/

/-- A device instruction at the head of a word list, and the words after it. -/
def decode : List Word → Dec (Instr × List Word)
  | [] => .error .missingWord
  | w :: ws =>
    if twoWord w.toNat then
      match ws with
      | [] => .error .missingWord
      | w2 :: rest => (decodeDevice w.toNat w2.toNat).map (·, rest)
    else (decodeDevice w.toNat 0).map (·, ws)

/-- A command at the head of a word list, and the words after it. -/
def decodeCmd : List Word → Dec (Instr × List Word)
  | [] => .error .missingWord
  | w :: ws =>
    if twoWordCommand w.toNat then
      match ws with
      | [] => .error .missingWord
      | w2 :: rest => (decodeCommand w.toNat w2.toNat).map (·, rest)
    else (decodeCommand w.toNat 0).map (·, ws)

/-- Does a numbered table word stand for a command? The table gives bits only to one-word rows, so a word that the device
sets read as one word, with a decoding, is a device word; any other is a command when the command set reads it. DEDUCED, log 42. -/
def isCommandWord (nbits w : Nat) : Bool :=
  let w1 := w % 2 ^ 32
  let dev := (decodeDevice w1 (w / 2 ^ 32 % 2 ^ 32)).isOk && (nbits > 32 || !twoWord w1)
  !dev && (decodeCommand w1 (w / 2 ^ 32 % 2 ^ 32)).isOk

/-- The 8 bytes of a numbered table word as the hardware stores them (R36): words little-endian, the first lowest. -/
def tableBytes (w : Nat) : List Byte := leBytes 8 w

/-- The words of a numbered table word. -/
def tableWords (w : Nat) : List Word := wordsOfBytes (tableBytes w)

/-- What the decoder reads from an instruction whose bits are w, numbered as spec/opcode_table.json numbers them. -/
def decodeTableWord (nbits w : Nat) : Option Instr :=
  let r := if isCommandWord nbits w then decodeCmd (tableWords w) else decode (tableWords w)
  match r with
  | .ok (i, _) => some i
  | .error _ => none

/-! ### The encoder, from the same tables -/

def eLaneSrc : LaneSrc → Nat
  | .v n => n.val
  | .s n => 160 + n.val
  | .k n => 192 + n.val

def eLaneDst : LaneDst → Nat
  | .v n => n.val
  | .discard => 255

def eUniSrc : UniSrc → Nat
  | .s n => n.val
  | .sp n => 32 + n.val
  | .k n => 192 + n.val

def eUniDst : UniDst → Nat
  | .s n => n.val
  | .discard => 255

def eXl : Xl → Nat
  | .none => 0
  | .idx n => 1 * 2 ^ 5 + n.val
  | .xor n => 2 * 2 ^ 5 + n.val
  | .up n => 3 * 2 ^ 5 + n.val
  | .down n => 4 * 2 ^ 5 + n.val

def eRm : Rm → Nat
  | .nearest => 0
  | .zero => 1
  | .down => 2
  | .up => 3

def eSat : Sat → Nat
  | .wrap => 0
  | .signed => 1
  | .unsigned => 2

def eICond : ICond → Nat
  | .eq => 0
  | .ne => 1
  | .lt => 2
  | .le => 3
  | .gt => 4
  | .ge => 5

def eFCond : FCond → Nat
  | .eq => 0
  | .ne => 1
  | .lt => 2
  | .le => 3
  | .gt => 4
  | .ge => 5
  | .un => 6
  | .ord => 7

def eTrn : TrnFn → Nat
  | .exp2 => 0
  | .log2 => 1
  | .sinpi => 2
  | .cospi => 3

def eFmt : PFmt → Nat
  | .f16 => 0
  | .bf16 => 1

def eNumType : NumType → Nat
  | .f32 => 0
  | .f16 => 1
  | .bf16 => 2
  | .e4m3 => 3
  | .e5m2 => 4
  | .e2m1 => 5
  | .e8m0 => 6
  | .s8 => 7
  | .s16 => 8
  | .s32 => 9
  | .u8 => 10
  | .u16 => 11
  | .u32 => 12

def eT8 : T8 → Nat
  | .e4m3 => 0
  | .e5m2 => 1
  | .s8 => 2

def eXOp : XOp → Nat
  | .add => 0
  | .smin => 1
  | .smax => 2
  | .umin => 3
  | .umax => 4
  | .and => 5
  | .or => 6
  | .xor => 7
  | .fadd => 8
  | .fmin => 9
  | .fmax => 10

def eSz : Sz → Nat
  | .u8 => 0
  | .s8 => 1
  | .u16 => 2
  | .s16 => 3
  | .u32 => 4
  | .b64 => 5
  | .b128 => 6

def eScope : Scope → Nat
  | .blk => 0
  | .pair => 1
  | .die => 2
  | .pkg => 3
  | .dom => 4

def eOrd : Ord16 → Nat
  | .relaxed => 0
  | .acq s => 1 + eScope s
  | .rel s => 6 + eScope s
  | .ar s => 11 + eScope s

def eAb : Ab → Nat
  | .a => 0
  | .b => 1

def eGrade : Grade → Nat
  | .none => 0
  | .guess => 1
  | .prov => 2
  | .final => 3

def eAtomOp : AtomOp → Nat
  | .add => 0
  | .smin => 1
  | .smax => 2
  | .umin => 3
  | .umax => 4
  | .and => 5
  | .or => 6
  | .xor => 7
  | .exch => 8
  | .fadd => 9

def eKind : FenceKind → Nat
  | .acq => 0
  | .rel => 1
  | .sc => 2

def eSeq : Seq → Nat
  | .mx => 0
  | .cp => 1

def eMFmt : MFmt → Nat
  | .mxfp4 => 0
  | .s8 => 1
  | .e4m3 => 2
  | .bf16 => 3

def eCCond : CCond → Nat
  | .eq => 0
  | .ne => 1
  | .lt => 2
  | .ge => 3
  | .ltu => 4
  | .geu => 5

/-- A device word (R22). -/
def devWord (set op d a b : Nat) : Nat := set * 2 ^ 31 + op * 2 ^ 24 + d * 2 ^ 16 + a * 2 ^ 8 + b

/-- A form-S second word (R23). -/
def sWord (x c m : Nat) : Nat := x * 2 ^ 23 + c * 2 ^ 15 + m

/-- A form-M second word (R23). -/
def mWord (ab m ofs : Nat) : Nat := ab * 2 ^ 31 + m * 2 ^ 22 + ofs

/-- A command word (R268). -/
def cmdWord (op d a b x : Nat) : Nat := op * 2 ^ 26 + d * 2 ^ 22 + a * 2 ^ 18 + b * 2 ^ 14 + x

def one (w : Nat) : Option (List Word) := some [BitVec.ofNat 32 w]
def two (w w2 : Nat) : Option (List Word) := some [BitVec.ofNat 32 w, BitVec.ofNat 32 w2]

def eLane3 (op : Nat) (d : LaneDst) (a b : LaneSrc) : Option (List Word) :=
  one (devWord 0 op (eLaneDst d) (eLaneSrc a) (eLaneSrc b))

def eLane2 (op : Nat) (d : LaneDst) (a : LaneSrc) : Option (List Word) :=
  one (devWord 0 op (eLaneDst d) (eLaneSrc a) 0)

def eLaneS (op : Nat) (d : LaneDst) (a : LaneSrc) (x : Xl) (b c m : Nat) : Option (List Word) :=
  two (devWord 0 op (eLaneDst d) (eLaneSrc a) b) (sWord (eXl x) c m)

def eLaneM (op d a b : Nat) (ab : Ab) (m ofs : Nat) : Option (List Word) :=
  two (devWord 0 op d a b) (mWord (eAb ab) m ofs)

def eUni3 (op : Nat) (d : UniDst) (a b : UniSrc) : Option (List Word) :=
  one (devWord 1 op (eUniDst d) (eUniSrc a) (eUniSrc b))

def eUniM (op d a b : Nat) (ab : Ab) (m ofs : Nat) : Option (List Word) :=
  two (devWord 1 op d a b) (mWord (eAb ab) m ofs)

def eSem (sem : Nat) : Option Scope → Nat
  | none => 0
  | some s => sem * 2 ^ 3 + eScope s

def eCnt : Option (Fin 32) → Nat
  | none => 0
  | some h => 2 ^ 8 + h.val * 2 ^ 3

def eCalu (op : Nat) (d a : CReg) : COp → Option (List Word)
  | .c b => one (cmdWord op d.val a.val b.val 0)
  | .imm x => one (cmdWord op d.val a.val 0 (2 ^ 13 + x.toNat))

/-- The words of a device instruction or a command; `none` for the part's events, which no word encodes. -/
def encode : Instr → Option (List Word)
  | .iadd d a b => eLane3 0x0 d a b
  | .isub d a b => eLane3 0x1 d a b
  | .imul d a b => eLane3 0x2 d a b
  | .imulh d a b => eLane3 0x3 d a b
  | .imulhu d a b => eLane3 0x4 d a b
  | .imin d a b => eLane3 0x6 d a b
  | .imax d a b => eLane3 0x7 d a b
  | .iminu d a b => eLane3 0x8 d a b
  | .imaxu d a b => eLane3 0x9 d a b
  | .and d a b => eLane3 0xa d a b
  | .or d a b => eLane3 0xb d a b
  | .xor d a b => eLane3 0xc d a b
  | .andn d a b => eLane3 0xd d a b
  | .shl d a b => eLane3 0xe d a b
  | .shr d a b => eLane3 0xf d a b
  | .sar d a b => eLane3 0x10 d a b
  | .fmin d a b => eLane3 0x24 d a b
  | .fmax d a b => eLane3 0x25 d a b
  | .popc d a => eLane2 0x11 d a
  | .clz d a => eLane2 0x12 d a
  | .fabs d a => eLane2 0x26 d a
  | .fneg d a => eLane2 0x27 d a
  | .fclass d a => eLane2 0x29 d a
  | .imad t d a x b c => eLaneS 0x05 d a x (eLaneSrc b) (eLaneSrc c) (eSat t)
  | .bfe s d a x b => eLaneS 0x13 d a x (eLaneSrc b) 0 (boolNat s)
  | .bfi d a x b c => eLaneS 0x14 d a x (eLaneSrc b) (eLaneSrc c) 0
  | .icmp cc u d a x b => eLaneS 0x15 d a x (eLaneSrc b) 0 (boolNat u * 2 ^ 3 + eICond cc)
  | .fadd m d a x b => eLaneS 0x20 d a x (eLaneSrc b) 0 (eRm m)
  | .fsub m d a x b => eLaneS 0x21 d a x (eLaneSrc b) 0 (eRm m)
  | .fmul m d a x b => eLaneS 0x22 d a x (eLaneSrc b) 0 (eRm m)
  | .ffma m d a x b c => eLaneS 0x23 d a x (eLaneSrc b) (eLaneSrc c) (eRm m)
  | .fcmp cc d a x b => eLaneS 0x28 d a x (eLaneSrc b) 0 (eFCond cc)
  | .frcp m d a x => eLaneS 0x2a d a x 0 0 (eRm m)
  | .frsq m d a x => eLaneS 0x2b d a x 0 0 (eRm m)
  | .fsqrt m d a x => eLaneS 0x2c d a x 0 0 (eRm m)
  | .frnd m d a x => eLaneS 0x47 d a x 0 0 (eRm m)
  | .ftrn f m d a x => eLaneS 0x2d d a x 0 0 (eTrn f * 2 ^ 3 + eRm m)
  | .padd f m d a x b => eLaneS 0x40 d a x (eLaneSrc b) 0 (eFmt f * 2 ^ 3 + eRm m)
  | .pmul f m d a x b => eLaneS 0x41 d a x (eLaneSrc b) 0 (eFmt f * 2 ^ 3 + eRm m)
  | .pfma f m d a x b c => eLaneS 0x42 d a x (eLaneSrc b) (eLaneSrc c) (eFmt f * 2 ^ 3 + eRm m)
  | .pdot f m d a x b c => eLaneS 0x45 d a x (eLaneSrc b) (eLaneSrc c) (eFmt f * 2 ^ 3 + eRm m)
  | .pmin f d a x b => eLaneS 0x43 d a x (eLaneSrc b) 0 (eFmt f * 2 ^ 3)
  | .pmax f d a x b => eLaneS 0x44 d a x (eLaneSrc b) 0 (eFmt f * 2 ^ 3)
  | .cvt dt st m d a x => eLaneS 0x46 d a x 0 0 (eNumType dt * 2 ^ 7 + eNumType st * 2 ^ 3 + eRm m)
  | .pcvt2 (.pack f m b) d a x => eLaneS 0x48 d a x (eLaneSrc b) 0 (eFmt f * 2 ^ 3 + eRm m)
  | .pcvt2 (.unpack f hi) d a x => eLaneS 0x48 d a x 0 0 (boolNat hi * 2 ^ 7 + 2 ^ 4 + eFmt f * 2 ^ 3)
  | .pcvt4 (.pack t f m b) d a x c => eLaneS 0x49 d a x (eLaneSrc b) (eLaneSrc c) (eT8 t * 2 ^ 5 + eFmt f * 2 ^ 3 + eRm m)
  | .pcvt4 (.unpack t f hi m) d a x c => eLaneS 0x49 d a x 0 (eLaneSrc c) (boolNat hi * 2 ^ 7 + eT8 t * 2 ^ 5 + 2 ^ 4 + eFmt f * 2 ^ 3 + eRm m)
  | .pcvt8 (.pack f m n) d c => two (devWord 0 0x4a (eLaneDst d) n.val 0) (sWord 0 (eLaneSrc c) (eFmt f * 2 ^ 3 + eRm m))
  | .pcvt8 (.unpack f q m a x) d c => eLaneS 0x4a d a x 0 (eLaneSrc c) (q.val * 2 ^ 7 + 2 ^ 4 + eFmt f * 2 ^ 3 + eRm m)
  | .mov d a x => eLaneS 0x50 d a x 0 0 0
  | .movi d imm => two (devWord 0 0x51 (eLaneDst d) 0 0) imm.toNat
  | .sel d a x b c => eLaneS 0x52 d a x (eLaneSrc b) (eLaneSrc c) 0
  | .rdsp d i => one (devWord 0 0x53 (eLaneDst d) i.val 0)
  | .rdspClr d => one (devWord 0 0x53 (eLaneDst d) 16 1)
  | .xshf d a b => eLaneS 0x54 d a .none (eLaneSrc b) 0 0
  | .xbal d a => eLaneS 0x55 d a .none 0 0 0
  | .xred op m d a => eLaneS 0x56 d a .none 0 0 (eXOp op * 2 ^ 3 + eRm m)
  | .xscn op m e d a => eLaneS 0x57 d a .none 0 0 (boolNat e * 2 ^ 7 + eXOp op * 2 ^ 3 + eRm m)
  | .ld z o ab d a f => eLaneM 0x60 (eLaneDst d) (eLaneSrc a) 0 ab (eSz z * 2 ^ 6 + eOrd o * 2 ^ 2) f.toNat
  | .ldro z ab d a f => eLaneM 0x61 (eLaneDst d) (eLaneSrc a) 0 ab (eSz z * 2 ^ 6) f.toNat
  | .st g z o ab a f b => eLaneM 0x62 (eGrade g) (eLaneSrc a) (eLaneSrc b) ab (eSz z * 2 ^ 6 + eOrd o * 2 ^ 2) f.toNat
  | .atom op w o ab d a f b => eLaneM 0x63 (eLaneDst d) (eLaneSrc a) (eLaneSrc b) ab (eAtomOp op * 2 ^ 5 + boolNat w * 2 ^ 4 + eOrd o) f.toNat
  | .atomcas w o ab d a f b => eLaneM 0x64 (eLaneDst d) (eLaneSrc a) (eLaneSrc b) ab (boolNat w * 2 ^ 4 + eOrd o) f.toNat
  | .red op w o ab a f b => eLaneM 0x65 0 (eLaneSrc a) (eLaneSrc b) ab (eAtomOp op * 2 ^ 5 + boolNat w * 2 ^ 4 + eOrd o) f.toNat
  | .cpa ab d a f b => eLaneM 0x66 d.val (eLaneSrc a) (eLaneSrc b) ab 0 f.toNat
  | .fence k s ab d => eLaneM 0x67 (eLaneDst d) 0 0 ab (eKind k * 2 ^ 7 + eScope s * 2 ^ 4) 0
  | .grd ab d a f => eLaneM 0x68 (eLaneDst d) (eLaneSrc a) 0 ab 0 f.toNat
  | .gconf g ab d a f => eLaneM 0x69 (eLaneDst d) (eLaneSrc a) 0 ab (eGrade g * 2 ^ 7) f.toNat
  | .harr none d h => eLaneM 0x6a (eLaneDst d) 0 0 .a (h.val * 2 ^ 4) 0
  | .harr (some b) d h => eLaneM 0x6a (eLaneDst d) 0 (eLaneSrc b) .a (h.val * 2 ^ 4 + 1) 0
  | .hwait d h b => eLaneM 0x6b (eLaneDst d) 0 (eLaneSrc b) .a (h.val * 2 ^ 4) 0
  | .hwaits d h b => eLaneM 0x6c (eLaneDst d) 0 (eLaneSrc b) .a (h.val * 2 ^ 4) 0
  | .htest d h b => eLaneM 0x6d (eLaneDst d) 0 (eLaneSrc b) .a (h.val * 2 ^ 4) 0
  | .hmon d h a f => eLaneM 0x6e (eLaneDst d) (eLaneSrc a) 0 .a (h.val * 2 ^ 4) f.toNat
  | .bra i => two (devWord 0 0x70 0 0 0) i.toNat
  | .brz a i => two (devWord 0 0x71 0 (eLaneSrc a) 0) i.toNat
  | .brnz a i => two (devWord 0 0x72 0 (eLaneSrc a) 0) i.toNat
  | .jmpi a => one (devWord 0 0x73 0 (eLaneSrc a) 0)
  | .call i => two (devWord 0 0x74 0 0 0) i.toNat
  | .calli a => one (devWord 0 0x75 0 (eLaneSrc a) 0)
  | .ret => one (devWord 0 0x76 0 0 0)
  | .exit => one (devWord 0 0x77 0 0 0)
  | .nop => one (devWord 0 0x78 0 0 0)
  | .brk => one (devWord 0 0x79 0 0 0)
  | .trap n => one (devWord 0 0x7a 0 0 n.toNat)
  | .cont ab d n => eLaneM 0x7b (eLaneDst d) n.val 0 ab 0 0
  | .enq ab d a b => eLaneM 0x7c (eLaneDst d) (eLaneSrc a) b.val ab 0 0
  | .sadd d a b => eUni3 0x0 d a b
  | .ssub d a b => eUni3 0x1 d a b
  | .smul d a b => eUni3 0x2 d a b
  | .smin d a b => eUni3 0x3 d a b
  | .smax d a b => eUni3 0x4 d a b
  | .sand d a b => eUni3 0x5 d a b
  | .sor d a b => eUni3 0x6 d a b
  | .sxor d a b => eUni3 0x7 d a b
  | .sshl d a b => eUni3 0x8 d a b
  | .sshr d a b => eUni3 0x9 d a b
  | .ssar d a b => eUni3 0xa d a b
  | .scmp cc u d a b => two (devWord 1 0x0b (eUniDst d) (eUniSrc a) (eUniSrc b)) (sWord 0 0 (boolNat u * 2 ^ 3 + eICond cc))
  | .ssel d a b c => two (devWord 1 0x0c (eUniDst d) (eUniSrc a) (eUniSrc b)) (sWord 0 (eUniSrc c) 0)
  | .smov d a => one (devWord 1 0x0d (eUniDst d) (eUniSrc a) 0)
  | .smovi d i => two (devWord 1 0x0e (eUniDst d) 0 0) i.toNat
  | .spopc d a => one (devWord 1 0x0f (eUniDst d) (eUniSrc a) 0)
  | .sbra i => two (devWord 1 0x20 0 0 0) i.toNat
  | .sbrz a i => two (devWord 1 0x21 0 (eUniSrc a) 0) i.toNat
  | .sbrnz a i => two (devWord 1 0x22 0 (eUniSrc a) 0) i.toNat
  | .sloop d i => two (devWord 1 0x23 d.val 0 0) i.toNat
  | .sdone => one (devWord 1 0x24 0 0 0)
  | .grow d h a => two (devWord 1 0x30 (eUniDst d) (eUniSrc a) 0) (sWord 0 0 h.val)
  | .shrink a => one (devWord 1 0x31 0 (eUniSrc a) 0)
  | .attach d a b => two (devWord 1 0x32 (eUniDst d) (eUniSrc a) (eUniSrc b)) 0
  | .detach d => one (devWord 1 0x33 (eUniDst d) 0 0)
  | .fork q d i => two (devWord 1 0x34 (eUniDst d) 0 (eSeq q)) i.toNat
  | .srd q d n => two (devWord 1 0x35 (eUniDst d) n.val 0) (sWord 0 0 (eSeq q))
  | .swr q n a => two (devWord 1 0x36 n.val (eUniSrc a) 0) (sWord 0 0 (eSeq q))
  | .hinit h a => one (devWord 1 0x40 h.val (eUniSrc a) 0)
  | .hsrc h i a b => two (devWord 1 0x41 h.val (eUniSrc a) (eUniSrc b)) (sWord 0 0 i.val)
  | .hsrcClr h i => two (devWord 1 0x41 h.val 0 0) (sWord 0 0 (4 + i.val))
  | .hexp h i a b => one (devWord 1 0x42 (i.val * 2 ^ 5 + h.val) (eUniSrc a) (eUniSrc b))
  | .hring h a b => two (devWord 1 0x43 h.val (eUniSrc a) (eUniSrc b)) 0
  | .hinv h => one (devWord 1 0x44 h.val 0 0)
  | .sharr h => one (devWord 1 0x45 h.val 0 0)
  | .shwait h a => one (devWord 1 0x46 h.val (eUniSrc a) 0)
  | .mxld f p ab a o d b => eUniM 0x50 (eUniSrc d) (eUniSrc a) (eUniSrc b) ab (eMFmt f * 2 ^ 7 + p.val * 2 ^ 6) o.toNat
  | .mxsw p => one (devWord 1 0x51 0 0 p.val)
  | .mxscW p t a => eUniM 0x53 0 (eUniSrc a) 0 .a (p.val * 2 ^ 6 + t.val * 2 ^ 3) 0
  | .mxscA a o => eUniM 0x53 0 (eUniSrc a) 0 .a (1 * 2 ^ 7) o.toNat
  | .mxscANone => eUniM 0x53 0 0 0 .a (2 * 2 ^ 7) 0
  | .mxmm f u ab a o d b => eUniM 0x52 (eUniSrc d) (eUniSrc a) (eUniSrc b) ab (eMFmt f * 2 ^ 7 + u.val) o.toNat
  | .accz d b => eUniM 0x54 (eUniSrc d) 0 (eUniSrc b) .a 0 0
  | .accld w q ab a o d b => eUniM 0x55 (eUniSrc d) (eUniSrc a) (eUniSrc b) ab (boolNat w * 2 ^ 7 + eSem 1 q) o.toNat
  | .accmv w q ab a o d b => eUniM 0x56 (eUniSrc d) (eUniSrc a) (eUniSrc b) ab (boolNat w * 2 ^ 8 + eSem 2 q) o.toNat
  | .accmvAdd q ab a o d b => eUniM 0x56 (eUniSrc d) (eUniSrc a) (eUniSrc b) ab (1 * 2 ^ 7 + eSem 2 q) o.toNat
  | .cpt c ab d a o b => eUniM 0x60 (eUniSrc d) (eUniSrc a) b.val ab (eCnt c) o.toNat
  | .cpg c ab d a o b => eUniM 0x61 (eUniSrc d) (eUniSrc a) b.val ab (eCnt c) o.toNat
  | .cps c ab d a o b => eUniM 0x62 (eUniSrc d) (eUniSrc a) b.val ab (eCnt c) o.toNat
  | .cpz c ab d a o => eUniM 0x63 (eUniSrc d) (eUniSrc a) 0 ab (eCnt c) o.toNat
  | .surr d i a => two (devWord 1 0x70 (eUniDst d) (eUniSrc a) 0) i.toNat
  | .yieldDone => one (devWord 1 0x71 0 0 0)
  | .yieldSumm => one (devWord 1 0x71 0 0 1)
  | .yieldRefuse => one (devWord 1 0x71 0 0 2)
  | .rclq d => one (devWord 1 0x72 (eUniDst d) 0 0)
  | .tretRedo => one (devWord 1 0x73 0 0 0)
  | .tretSkip => one (devWord 1 0x73 0 0 1)
  | .snop => one (devWord 1 0x74 0 0 0)
  | .sbrk => one (devWord 1 0x75 0 0 0)
  | .cli d i => two (cmdWord 0x01 d.val 0 0 0) i.toNat
  | .cliU d i => two (cmdWord 0x01 d.val 0 0 1) i.toNat
  | .cliHi d i => two (cmdWord 0x01 d.val 0 0 2) i.toNat
  | .cadd d a y => eCalu 0x2 d a y
  | .csub d a y => eCalu 0x3 d a y
  | .cand d a y => eCalu 0x4 d a y
  | .cor d a y => eCalu 0x5 d a y
  | .cshl d a y => eCalu 0x6 d a y
  | .cshr d a y => eCalu 0x7 d a y
  | .cld o d a x => one (cmdWord 0x08 d.val a.val o.val x.toNat)
  | .cst o a x b => one (cmdWord 0x09 o.val a.val b.val x.toNat)
  | .cbr cc a b i => two (cmdWord 0x0a (eCCond cc) a.val b.val 0) i.toNat
  | .cjmp i => two (cmdWord 0x0b 0 0 0 0) i.toNat
  | .ccall i => two (cmdWord 0x0c 0 0 0 0) i.toNat
  | .cret => one (cmdWord 0x0d 0 0 0 0)
  | .cloop d i => two (cmdWord 0x0e d.val 0 0 0) i.toNat
  | .launch d a b => one (cmdWord 0x10 d.val a.val b.val 0)
  | .graph d a h f x => two (cmdWord 0x11 d.val a.val 0 0) (h.toNat * 2 ^ 16 + f.toNat * 2 ^ 8 + x.toNat)
  | .cwaitNode d a => one (cmdWord 0x13 d.val a.val 0 0)
  | .cwaitInst d a => one (cmdWord 0x13 d.val a.val 0 1)
  | .cwaitMem d a b => one (cmdWord 0x13 d.val a.val b.val 2)
  | .cwaitTime d b => one (cmdWord 0x13 d.val 0 b.val 3)
  | .amend w g d a b => one (cmdWord 0x12 d.val a.val b.val (eGrade g * 2 ^ 2 + 2 + boolNat w))
  | .signal v r a i => two (cmdWord 0x14 0 a.val 0 (boolNat r * 2 ^ 11 + v.toNat)) i.toNat
  | .cfence => one (cmdWord 0x15 0 0 0 0)
  | .ctime d => one (cmdWord 0x16 d.val 0 0 0)
  | .chalt => one (cmdWord 0x17 0 0 0 0)
  | _ => none

end Sys2Proof
end

