-- ==== Sys2Proof/Machine/Clause.lean ====
section
/-! DEFINITION. Clauses: framing (R13-R18), breakpoints (R371), the recall's hold on issue (R170) and the start of a clause
(R9, R19, R21, R237). -/

namespace Sys2Proof.Machine

/-! ### Framing -/

/-- Is a word a control transfer (R16)? -/
def isTransfer (w : Nat) : Bool :=
  let op := bits w 30 24
  if bitAt w 31 then (0x20 ≤ op && op ≤ 0x24) || op == 0x71 || op == 0x73 || op == 0x75
  else (0x70 ≤ op && op ≤ 0x77) || op == 0x79 || op == 0x7A

/-- Is a word a long-latency instruction that writes a register destination (R15, R24)? A D from 160 to 254, an illegal value, counts as one,
so such a clause is illegal before its slot is reached (DESIGN CHOICE, log 102: R15 and R85 speak of a D that is a register). -/
def isFlaggedLoad (w : Nat) : Bool :=
  let op := bits w 30 24
  !bitAt w 31 && [0x60, 0x61, 0x63, 0x64, 0x67, 0x68, 0x69, 0x7B, 0x7C].contains op && bits w 23 16 != 255

/-- The checks of R15 from slot s on, with the words from that slot. -/
def slotsBad (h : Header) : Nat → Nat → List Nat → Bool
  | 0, _, _ => false
  | fuel + 1, s, ws =>
    if h.nslot < s then false
    else
      match ws with
      | [] => false
      | w :: rest =>
        let two := twoWord w
        let last := if two then s + 1 else s
        (two != h.twoAt s) || (isTransfer w && last != h.nslot) ||
          (isFlaggedLoad w && (if bitAt (rest.headD 0) 31 then h.setb else h.seta) == 15) ||
          slotsBad h fuel (last + 1) (if two then rest.tail else rest)

/-- R15: is a clause of 8 words inconsistent? -/
def clauseBad (ws : List Nat) : Bool :=
  let h := headerOf (ws.headD 0)
  h.bit0 || (12 ≤ h.seta && h.seta ≤ 14) || (12 ≤ h.setb && h.setb ≤ 14) || bitAt h.ext 0 ||
    (h.nslot == 0 && h.ext != 0) || h.ext / 2 ^ h.nslot != 0 || (h.ext &&& (h.ext / 2)) != 0 || slotsBad h 7 1 (ws.drop 1)

/-- R17: is a clause illegal in a strand? -/
def clauseBadStrand (h : Header) : Bool := h.wait != 0 || h.seta != 15 || h.setb != 15

/-- The 8 words of the clause that holds a pc. -/
def State.clauseWords (s : State) (inst : Nat) (pc : Addr) : List Nat :=
  (List.range 8).map fun i => (s.codeAt inst (clauseOf pc + BitVec.ofNat 56 (4 * i))).toNat

/-- Does the clause that holds a pc lie in the launch's code (R238: DETAIL 11)? -/
def State.inCode (s : State) (inst : Nat) (pc : Addr) : Bool :=
  match s.graphOf inst with
  | some g => g.codeVa.toNat ≤ (clauseOf pc).toNat && (clauseOf pc).toNat + 32 ≤ g.codeVa.toNat + 4 * g.ncode
  | none => false

/-! ### Breakpoints and holds -/

/-- The pc of an instruction word whose slot is a second word never matches (R371). -/
def State.isSecond (s : State) (inst : Nat) (pc : Addr) : Bool :=
  slotOf pc != 0 && (s.headerAt inst pc).twoAt (slotOf pc - 1)

/-- R371: does an enabled breakpoint of the core match a pc of a partition that a debugger has the right to? -/
def State.breakAt (s : State) (c part : Nat) (pc : Addr) : Bool :=
  (s.part part).right && (s.core c).dbg.bps.toList.any fun b => b.en && b.part == part && b.addr == pc.toNat

/-- Does a breakpoint match the thread (R371)? -/
def State.breakThread (s : State) (k : Nat) (t : Thread) : Bool :=
  !t.bpSkip && s.breakAt (coreOfThread k) (((s.band? (bandOfThread k)).map (·.part)).getD 0) t.pc && !s.isSecond (s.instOf k) t.pc

/-- R170, R323: does a recall hold the thread where it stands? Outside trap mode the other bands start no new clause while a surrender
routine runs, and threads of the chosen band outside P do nothing. -/
def State.recallHolds (s : State) (k : Nat) (t : Thread) : Bool :=
  match (s.blockOf k).bind s.block? with
  | some b =>
    b.rstate == .routine && !t.trapMode &&
      (if b.chosen == some (bandOfThread k) then !s.inPm k || t.yielded else slotOf t.pc == 0)
  | none => false

/-- May the thread take a step at all: not parked, halted, or held by another's trap or by a recall (R195)? -/
def State.free (s : State) (k : Nat) (t : Thread) : Bool :=
  t.parked.isNone && t.heldBy.isNone && !t.halted && !s.recallHolds k t && !(s.core (coreOfThread k)).unavail && !(s.core (coreOfThread k)).saving

/-- The space in which a band's addresses are translated (R242, R314). -/
def State.bandSpace (s : State) (b : Nat) : Space :=
  match s.band? b with
  | some x => s.spaceOf x.slot x.part
  | none => s.spaceOf 0 0

/-- The space of a block. -/
def State.blockSpace (s : State) (blk : Nat) : Space :=
  match s.block? blk with
  | some x => s.spaceOf x.slot x.part
  | none => s.spaceOf 0 0

/-- The surrender routine that the thread enters at its clause boundary (R170): its first clause. -/
def State.routineEntry (s : State) (k : Nat) (t : Thread) : Option Addr :=
  match (s.blockOf k).bind s.block? with
  | some b =>
    if b.rstate == .routine && b.chosen == some (bandOfThread k) && t.resume.isNone && !t.trapMode && s.inPm k then b.surr.map (·.pc) else none
  | none => none

/-- A thread enters the surrender routine: the pc at which it stands becomes its resume pc, and the routine's count runs from the first
thread's entry (R170, R171). A thread that was not ready becomes ready (R196). -/
def State.enterRoutine (s : State) (k : Nat) (pc : Addr) : State :=
  let was := ((s.thread? k).map (·.status)).getD .ready
  let blocked := match was with
    | .hwait .. => true
    | _ => false
  let s := s.modThread k fun t => { t with resume := some t.pc, pc := pc, bpSkip := false }
  let s := match s.blockOf k with
    | some n => s.modBlock n fun x => if x.entered then x else { x with entered := true, countAt := s.clk }
    | none => s
  let s := if was == .ready then s else s.modThread k fun t => { t with status := .ready, readyAt := s.clk, clauses := 0 }
  if blocked then s.settleHalt k else s.settleWait k

/-- A thread of the chosen band that is blocked on a hasp or waits on a clause header is taken at once (R170). -/
def State.takeBlocked (s : State) (k : Nat) : State :=
  match s.thread? k with
  | some t =>
    let blocked := match t.status with
      | .hwait .. | .header => true
      | _ => false
    match s.routineEntry k t with
    | some pc => if blocked && t.parked.isNone && !t.halted then s.enterRoutine k pc else s
    | none => s
  | none => s

/-! ### Starting a clause -/

/-- May the clause start: every flag that WAIT names is 0, and no flag that SETA or SETB names exceeds 60 (R9, R18)? -/
def Thread.mayStart (t : Thread) (h : Header) : Bool :=
  (List.finRange 12).all fun i =>
    (!bitAt h.wait i.val || t.f[i] == 0) && ((h.seta != i.val && h.setb != i.val) || (t.f[i]).toNat ≤ 60)

/-- The trap of a clause boundary: SLOT reads 0 (R238). -/
def State.edgeTrap (s : State) (k : Nat) (t : Thread) (c : Cause) : State :=
  s.takeTrap k (trapWord c false false 0 0) ⟨t.pc, nextClause t.pc, 0⟩

/-- R237: a failed operation is reported at the boundary; redo and skip both continue at the clause about to start. -/
def State.deferredTrap (s : State) (k : Nat) (t : Thread) (d : Deferred) (ds : List Deferred) : State :=
  (s.setThread k { t with deferred := ds }).takeTrap k (trapWord (cAccess d.detail) true false d.flag 0) ⟨t.pc, t.pc, 0⟩

/-- The clause at which a thread stands begins, or the thread waits on its header (R9, R13, R18, R19). -/
def State.beginClause (s : State) (k : Nat) (t : Thread) (h : Header) : State :=
  if !t.mayStart h then s.modThread k fun t => { t with status := .header }
  else if h.nslot == 0 then s.passTo k (nextClause t.pc)
  else
    let s := s.modThread k fun t => { t with pc := t.pc + 4, status := .ready, bpSkip := false }
    if t.status == .header then s.modThread k fun t => { t with readyAt := s.clk, clauses := 0 } else s

/-- Clause fetch and framing for a thread (R15, R21, R243, R363). -/
def State.fetchClause (s : State) (k : Nat) (t : Thread) : State :=
  let inst := s.instOf k
  if !s.inCode inst t.pc then s.edgeTrap k t (cAccess 11)
  else
    match s.translate (s.bandSpace (bandOfThread k)) (coreOfThread k) t.pc.toNat .fetch with
    | (.park r, s) => s.parkThread k t.pc.toNat 4 r
    | (.bad d, s) => s.edgeTrap k t (cAccess d)
    | (.ok a, s) =>
      let s := s.sampleNow (coreOfThread k) (slotOfThread k) false (s.bandSpace (bandOfThread k)).part
        (t.pc - s.bandBase (bandOfThread k)).toNat t.pc.toNat 4 a.loc
      if s.accBad a 32 then s.edgeTrap k t (cAccess 12)
      else if clauseBad (s.clauseWords inst t.pc) then s.edgeTrap k t ⟨2, 0, 0⟩ else s.beginClause k t (s.headerAt inst t.pc)

/-- Is a thread's band to stop (R250, R299)? -/
def State.stops (s : State) (k : Nat) : Bool := (s.band? (bandOfThread k)).any (·.stopping)

/-- A thread at a clause boundary (R9, R170, R237, R371). -/
def State.startThread (s : State) (k : Nat) (t : Thread) : State :=
  match s.routineEntry k t with
  | some pc => s.enterRoutine k pc
  | none =>
    if s.breakThread k t then s.haltThread k
    else
      match t.deferred with
      | d :: ds => s.deferredTrap k t d ds
      | [] => s.fetchClause k t

/-- The run of a strand's block. -/
def State.strandInst (s : State) (q : Nat) : Nat := ((s.block? (s.strand q).block).map (·.inst)).getD 0

/-- Does a breakpoint match the strand (R371)? -/
def State.breakStrand (s : State) (q : Nat) : Bool :=
  let x := s.strand q
  !x.bpSkip && s.breakAt (q / 2) (((s.block? x.block).map (·.part)).getD 0) x.pc && !s.isSecond (s.strandInst q) x.pc

/-- May a strand take a step (R170, R195, R372)? Its first instruction comes after the clk of its FORK (R132). -/
def State.strandFree (s : State) (q : Nat) : Bool :=
  let x := s.strand q
  x.status == .run && x.forkAt != s.clk + 1 && x.parked.isNone && !x.halted && !(s.core (q / 2)).unavail &&
    !(s.core (q / 2)).saving && !((s.block? x.block).any fun b => b.rstate == .routine)

/-- A strand at a clause boundary (R13, R15, R17, R21, R363). -/
def State.startStrand (s : State) (q : Nat) : State :=
  let x := s.strand q
  let inst := s.strandInst q
  if s.breakStrand q then s.haltStrand q
  else if !s.inCode inst x.pc then s.strandTrap q (cAccess 11)
  else
    match s.translate (s.blockSpace x.block) (q / 2) x.pc.toNat .fetch with
    | (.park r, s) => State.strandFinish q (.park s x.pc.toNat 4 r)
    | (.bad d, s) => s.strandTrap q (cAccess d)
    | (.ok a, s) =>
      let s := s.sampleNow (q / 2) 0 true (s.blockSpace x.block).part (x.pc - s.strandBase q).toNat x.pc.toNat 4 a.loc
      let h := s.headerAt inst x.pc
      if s.accBad a 32 then s.strandTrap q (cAccess 12)
      else if clauseBad (s.clauseWords inst x.pc) || clauseBadStrand h then s.strandTrap q ⟨2, 0, 0⟩
      else s.setStrand q { x with pc := if h.nslot == 0 then nextClause x.pc else x.pc + 4, bpSkip := false }

/-- CLAUSE_START (R9, R13-R19, R237, R371): the clause at which the acting thread or strand stands. -/
def execClauseStart (s : State) : Out :=
  match s.cur with
  | .thread k =>
    match s.thread? k with
    | none => .fault .noAgent
    | some t =>
      if !((t.status == .ready || t.status == .header) && slotOf t.pc == 0) then .next s
      else if s.stops k then .next (s.endThread k).settle
      else if s.free k t then .next (s.startThread k t).settle
      else .next s
  | .strand q =>
    if s.strandFree q && slotOf (s.strand q).pc == 0 then .next (s.startStrand q) else .next s
  | _ => .fault .noAgent

end Sys2Proof.Machine
end

