-- ==== Sys2Proof/Machine/Streams.lean ====
section
/-! DEFINITION. Streams of the command engines (R266, R268, R278): where a command's words come from, the context it runs in, and how it
completes, waits or faults. -/

namespace Sys2Proof.Machine

/-- The bind record in whose context a stream runs: the queue's (R265), or its graph's (R268). -/
def State.streamBind (s : State) : StreamId → Option Nat
  | .queue p q => s.findBind false p.val q.val
  | .prog n =>
    match s.inst? n with
    | some i => s.findBind true i.lp1 i.handle
    | none => none

/-- The space of a stream's addresses (R265, R268). -/
def State.streamSpace (s : State) (i : StreamId) : Option Space := (s.streamBind i).map fun b => s.spaceOf b (s.bind b).part

/-- The level-1 partition of a stream. -/
def State.streamLp1 (s : State) : StreamId → Nat
  | .queue p _ => p.val
  | .prog n => ((s.inst? n).map (·.lp1)).getD 0

/-- The registers of a stream. -/
def State.strm (s : State) : StreamId → Stream
  | .queue p q => (s.queue (queueKey p.val q.val)).strm
  | .prog n => ((s.inst? n).map (·.strm)).getD Stream.zero

/-- Write the registers of a stream. -/
def State.setStrm (s : State) (i : StreamId) (x : Stream) : State :=
  match i with
  | .queue p q =>
    let k := queueKey p.val q.val
    s.setQueue k { s.queue k with strm := x }
  | .prog n => s.modInst n fun i => { i with strm := x }

/-- Write a stream register. -/
def State.setC (s : State) (i : StreamId) (d : CReg) (w : DWord) : State :=
  let x := s.strm i
  s.setStrm i { x with c := x.c.set d w }

/-- A stream register. -/
def State.getC (s : State) (i : StreamId) (n : CReg) : DWord := (s.strm i).c[n]

/-- The words of a run's program, as they stood when it started: one CHALT where PROGW is 0 (R21, R279). -/
def Inst.program (i : Inst) : List Word := if i.prog.isEmpty then [0x5C000000] else i.prog

/-- May a stream execute its next command: its queue runs (R266) or its program has not ended (R278), it is not waiting, its
context is bound, and the front end does not pause (R359)? -/
def State.streamRuns (s : State) (i : StreamId) : Bool :=
  !s.pause && (s.strm i).wait.isNone && (s.streamBind i).isSome &&
  match i with
  | .queue p q => (s.queue (queueKey p.val q.val)).state == 1
  | .prog n => (s.inst? n).any fun x => !x.progEnd && !x.cancelled && !x.ended

/-- The words of a stream from its next command on: a queue's entries as far as they are in the queue buffer (R267); a program's words
from its pc. -/
def State.streamWords (s : State) : StreamId → List Word
  | .queue p q => ((s.queue (queueKey p.val q.val)).words.takeWhile (·.place == .sram)).map (·.w)
  | .prog n =>
    match s.inst? n, s.graphOf n with
    | some x, some _ => x.program.drop x.pc
    | _, _ => []

/-- A queue halts (R266): the unexecuted entries are discarded and an event record of type 1 is written. State 3 is CHALT's. -/
def State.haltQueue (s : State) (k err state : Nat) : State :=
  let q := s.queue k
  let s := s.setQueue k { q with state := state, err := err, words := [], pend := none, strm := { q.strm with wait := none } }
  s.event (k / 1024) ⟨1, err, k % 1024, 0, 0, 0, 0, q.qexec % 2 ^ 32, q.qexec / 2 ^ 32⟩

/-- What a command did: completed, in a program perhaps with a transfer to a word; waits; stays to be executed again; or faulted with
R266's ERR. -/
inductive CRes where
  | ok (s : State)
  | goto (s : State) (word : Int)
  | wait (s : State) (w : CWait) (d : CReg)
  | stay (s : State)
  | fault (s : State) (err : Nat)

/-- A stream faults: a queue halts with ERR (R266); a program's fault cancels its graph run, with the command's word offset (R278). -/
def State.streamFault (s : State) (i : StreamId) (err : Nat) : State :=
  match i with
  | .queue p q => s.haltQueue (queueKey p.val q.val) err 2
  | .prog n => s.cancelInst n 2 0 0 0 (((s.inst? n).map (·.pc)).getD 0) 0

/-- A stream goes past a command of n words (R266). -/
def State.streamPast (s : State) (i : StreamId) (n : Nat) : State :=
  match i with
  | .queue p q =>
    let k := queueKey p.val q.val
    let x := s.queue k
    s.setQueue k { x with words := x.words.drop n, qexec := x.qexec + 4 * n }
  | .prog m => s.modInst m fun x => { x with pc := x.pc + n }

/-- The command's result applied to its stream; n is the command's length in words. -/
def State.cmdFinish (i : StreamId) (n : Nat) : CRes → State
  | .ok s => s.streamPast i n
  | .goto s w =>
    match i with
    | .queue .. => s
    | .prog m =>
      let len := ((s.inst? m).map fun i => i.program.length).getD 0
      if 0 ≤ w && w < len then s.modInst m fun x => { x with pc := w.toNat } else s.streamFault i 5
  | .wait s w d => s.setStrm i { s.strm i with wait := some (w, d, n) }
  | .stay s => s
  | .fault s err => s.streamFault i err

/-- The frame of a command of n words: `body` gets the stream and its space. -/
def cmdFrame (s : State) (n : Nat) (body : State → StreamId → Space → CRes) : Out :=
  match s.cur with
  | .stream i =>
    match s.streamSpace i with
    | some sp => .next (State.cmdFinish i n (body s i sp))
    | none => .next s
  | _ => .fault .noAgent

end Sys2Proof.Machine
end

