-- ==== Sys2Proof/Machine/Trans.lean ====
section
/-! DEFINITION. FTRN (R71): 2^A, log2 A, sin(pi A) and cos(pi A), each rounded once. An exact result is recognised exactly; every
other result is irrational, and is computed to more than 120 bits in fixed point with 256 fraction bits before it is rounded. -/

namespace Sys2Proof.Machine

/-- Fraction bits of the fixed point. -/
def fxP : Nat := 256

/-- 1 in fixed point. -/
def fxOne : Nat := 2 ^ fxP

/-- ln 2 in fixed point, rounded down. -/
def fxLn2 : Nat := 80260960185991308862233904206310070533990667611589946606122867505419956976171

/-- pi in fixed point, rounded down. -/
def fxPi : Nat := 363771576891766324280234942777729862653393377328392429958772151117938894466185

/-- Product in fixed point. -/
def fxMul (a b : Nat) : Nat := a * b / fxOne

/-- The sum of x^k / k! from the term numbered k on, n terms of it. -/
def expSeries (x : Nat) : Nat → Nat → Nat → Nat
  | 0, _, _ => 0
  | n + 1, k, t => t + expSeries x n (k + 1) (fxMul t x / (k + 1))

/-- 2^f for a fraction f in fixed point. -/
def fxExp2 (f : Nat) : Nat := expSeries (fxMul f fxLn2) 64 0 fxOne

/-- The alternating series whose terms fall by x2 / ((k+1)(k+2)) each (sine and cosine). -/
def altSeries (x2 : Nat) : Nat → Nat → Int → Int
  | 0, _, _ => 0
  | n + 1, k, t => t + altSeries x2 n (k + 2) (-(t * x2 / fxOne / ((k + 1) * (k + 2))))

/-- sin(pi r) for r in fixed point, at most 1/2, and large enough that 256 fraction bits leave its result precise. -/
def fxSinPi (r : Nat) : Nat :=
  let x := fxMul r fxPi
  (altSeries (fxMul x x) 40 1 x).toNat

/-- cos(pi r) for r in fixed point, at most 1/4. -/
def fxCosPi (r : Nat) : Nat :=
  let x := fxMul r fxPi
  (altSeries (fxMul x x) 40 0 fxOne).toNat

/-- The sum of z^k / k over odd k from k on, n terms of it. -/
def atanhSeries (z2 : Nat) : Nat → Nat → Nat → Nat
  | 0, _, _ => 0
  | n + 1, k, t => t / k + atanhSeries z2 n (k + 2) (fxMul t z2)

/-- log2 of x in fixed point, for x in [1, 2): 2 atanh((x - 1) / (x + 1)) / ln 2. -/
def fxLog2 (x : Nat) : Nat :=
  let z := (x - fxOne) * fxOne / (x + fxOne)
  2 * atanhSeries (fxMul z z) 90 1 z * fxOne / fxLn2

/-- Deliver an inexact magnitude m * 2^e in FP32. -/
def inexact32 (rm : Rm) (s : Bool) (m : Nat) (e : Int) : FRes :=
  let (r, fl) := fp32.round rm s m e true
  (BitVec.ofNat 32 r, fl)

/-- Deliver 1 plus or minus something too small to see in 64 bits. -/
def nearOne (rm : Rm) (s above : Bool) : FRes :=
  inexact32 rm s (if above then 2 ^ 64 else 2 ^ 64 - 1) (-64)

/-- 2^A. -/
def trnExp2 (rm : Rm) : FVal → FRes
  | .nan => (nan32, 0)
  | .inf s => if s then (0, 0) else fin32 rm (.inf false, 0)
  | .fin s m e =>
    if m == 0 then fin32 rm (.fin false 1 0, 0)
    else if e + bitLen m < -60 then nearOne rm false (!s)
    else if 10 < e + bitLen m then fin32 rm (.fin false 1 (if s then -(2 ^ 10) else 2 ^ 10), 0)
    else
      let x := (FVal.fin s m e).scaled (min e 0)
      let d : Int := 2 ^ (-(min e 0)).toNat
      let n := x / d
      let f := (x - n * d).toNat
      if f == 0 then fin32 rm (.fin false 1 n, 0)
      else inexact32 rm false (fxExp2 (f * fxOne / d.toNat)) (n - fxP)

/-- log2 A. -/
def trnLog2 (rm : Rm) : FVal → FRes
  | .nan => (nan32, 0)
  | .inf s => if s then (nan32, fNV) else fin32 rm (.inf false, 0)
  | .fin s m e =>
    if m == 0 then fin32 rm (.inf true, fDZ)
    else if s then (nan32, fNV)
    else
      let k := e + bitLen m - 1
      let x := m * 2 ^ (fxP + 1 - bitLen m)
      if x == fxOne then fin32 rm (ofIntVal k, 0)
      else
        let v : Int := k * fxOne + fxLog2 x
        inexact32 rm (decide (v < 0)) v.natAbs (-(fxP : Int))

/-- A reduced modulo 2: the numerator of |A| mod 2 over 2^d. -/
def mod2 (m : Nat) (e : Int) : Nat × Nat :=
  if 0 ≤ e then (m * 2 ^ (min e 1).toNat % 2, 0)
  else (m % 2 ^ ((-e).toNat + 1), (-e).toNat)

/-- sin(pi n / 2^d) for 0 < n / 2^d ≤ 1/2, delivered with sign s. -/
def sinPiFrac (rm : Rm) (s : Bool) (n d : Nat) : FRes :=
  if 2 * n == 2 ^ d then fin32 rm (.fin s 1 0, 0)
  else if bitLen n + 60 < d then inexact32 rm s (n * fxPi) (-(fxP : Int) - d)
  else inexact32 rm s (fxSinPi (n * fxOne / 2 ^ d)) (-(fxP : Int))

/-- cos(pi n / 2^d) for 0 < n / 2^d < 1/2, delivered with sign s. -/
def cosPiFrac (rm : Rm) (s : Bool) (n d : Nat) : FRes :=
  if 2 ^ d < 4 * n then sinPiFrac rm s (2 ^ d - 2 * n) (d + 1)
  else if bitLen n + 40 < d then nearOne rm s false
  else inexact32 rm s (fxCosPi (n * fxOne / 2 ^ d)) (-(fxP : Int))

/-- sin(pi A). -/
def trnSinPi (rm : Rm) : FVal → FRes
  | .nan => (nan32, 0)
  | .inf _ => (nan32, fNV)
  | .fin s m e =>
    let (n, d) := mod2 m e
    let one := 2 ^ d
    -- |A| mod 2 lies in [0, 2): the second half turns the sign, and each half is symmetric about its middle
    let neg := decide (one ≤ n)
    let r := n % one
    if r == 0 then fin32 rm (.fin s 0 0, 0)
    else sinPiFrac rm (s ^^ neg) (min r (one - r)) d

/-- cos(pi A). -/
def trnCosPi (rm : Rm) : FVal → FRes
  | .nan => (nan32, 0)
  | .inf _ => (nan32, fNV)
  | .fin _ m e =>
    let (n, d) := mod2 m e
    let one := 2 ^ d
    -- cos is even about 0 and about 1, and odd about 1/2
    let r := if one < n then 2 * one - n else n
    if 2 * r == one then fin32 rm (.fin false 0 0, 0)
    else
      let neg := decide (one < 2 * r)
      let q := if neg then one - r else r
      if q == 0 then fin32 rm (.fin neg 1 0, 0) else cosPiFrac rm neg q d

/-- FTRN (R71). -/
def ftrnVal (fn : TrnFn) (rm : Rm) (a : FVal) : FRes :=
  match fn with
  | .exp2 => trnExp2 rm a
  | .log2 => trnLog2 rm a
  | .sinpi => trnSinPi rm a
  | .cospi => trnCosPi rm a

end Sys2Proof.Machine
end

