-- ==== Sys2Proof/Machine/LaneInt.lean ====
section
/-! DEFINITION. Lane integer and logic instructions (R61-R65). -/

namespace Sys2Proof.Machine

/-- The registers that A and B read. -/
def read2 (a b : LaneSrc) : List Nat := LaneSrc.regs a ++ LaneSrc.regs b

/-- The registers that A, B and C read. -/
def read3 (a b c : LaneSrc) : List Nat := read2 a b ++ LaneSrc.regs c

/-- A one-word integer instruction of A and B (R62): no condition is recorded. -/
def intBinary (f : Word → Word → Word) (d : LaneDst) (a b : LaneSrc) (s : State) : Out :=
  laneCompute s (LaneDst.regs d) (read2 a b) .int d a .none fun s k x => (f x (s.laneSrc k .int b), 0)

/-- A one-word integer instruction of A (R62). -/
def intUnary (f : Word → Word) (d : LaneDst) (a : LaneSrc) (s : State) : Out :=
  laneCompute s (LaneDst.regs d) (LaneSrc.regs a) .int d a .none fun _ _ x => (f x, 0)

/-- The high half of a product of signed readings (R62). -/
def mulHigh (a b : Word) : Word := BitVec.ofInt 32 (a.toInt * b.toInt / 2 ^ 32)

/-- The high half of a product of unsigned readings (R62). -/
def mulHighU (a b : Word) : Word := BitVec.ofNat 32 (a.toNat * b.toNat / 2 ^ 32)

/-- The smaller of signed readings. -/
def minS (a b : Word) : Word := if a.toInt ≤ b.toInt then a else b

/-- The larger of signed readings. -/
def maxS (a b : Word) : Word := if a.toInt ≤ b.toInt then b else a

/-- The smaller of unsigned readings. -/
def minU (a b : Word) : Word := if a.toNat ≤ b.toNat then a else b

/-- The larger of unsigned readings. -/
def maxU (a b : Word) : Word := if a.toNat ≤ b.toNat then b else a

/-- Shift left, 0 at 32 or more (R62). -/
def shiftL (a b : Word) : Word := if 32 ≤ b.toNat then 0 else a <<< b.toNat

/-- Shift right with zero fill, 0 at 32 or more (R62). -/
def shiftR (a b : Word) : Word := if 32 ≤ b.toNat then 0 else a >>> b.toNat

/-- Shift right with copies of the sign, 32 copies at 32 or more (R62). -/
def shiftA (a b : Word) : Word := a.sshiftRight (min b.toNat 31)

/-- Set bits counted (R62). -/
def countOnes (a : Word) : Word := BitVec.ofNat 32 (popcount 32 a.toNat)

/-- Zero bits above the highest set bit (R62). -/
def countZeros (a : Word) : Word := BitVec.ofNat 32 (32 - bitLen a.toNat)

/-- The truth of an integer condition (R65). -/
def icmpVal (cc : ICond) (u : Bool) (a b : Word) : Bool :=
  let x : Int := if u then a.toNat else a.toInt
  let y : Int := if u then b.toNat else b.toInt
  match cc with
  | .eq => x == y
  | .ne => x != y
  | .lt => decide (x < y)
  | .le => decide (x ≤ y)
  | .gt => decide (y < x)
  | .ge => decide (y ≤ x)

/-- IMAD's result (R63). -/
def imadVal (sat : Sat) (a b c : Word) : FRes :=
  match sat with
  | .wrap => (a * b + c, 0)
  | .signed => clampSat (-(2 ^ 31)) (2 ^ 31 - 1) (a.toInt * b.toInt + c.toInt)
  | .unsigned => clampSat 0 (2 ^ 32 - 1) ((a.toNat * b.toNat + c.toNat : Nat) : Int)

/-- The offset and width of a bit-field operand (R64). -/
def fieldOf (w : Word) : Nat × Nat := (bits w.toNat 7 0, min (bits w.toNat 15 8) 32)

/-- BFE's result (R64): A is extended above bit 31, and the field from its top bit, by sign or zero. -/
def bfeVal (sgn : Bool) (a c : Word) : Word :=
  let (o, w) := fieldOf c
  if w == 0 then 0
  else
    let x : Int := if sgn then a.toInt else a.toNat
    let f := (x / 2 ^ o % 2 ^ w).toNat
    if sgn then BitVec.ofInt 32 (sextNat w f) else BitVec.ofNat 32 f

/-- BFI's result (R64). -/
def bfiVal (a b c : Word) : Word :=
  let (o, w) := fieldOf c
  let m := BitVec.ofNat 32 ((2 ^ w - 1) * 2 ^ o)
  (a &&& ~~~m) ||| (BitVec.ofNat 32 (b.toNat * 2 ^ o) &&& m)

/-- IADD (R62): A + B mod 2^32. -/
def execIadd (d : LaneDst) (a b : LaneSrc) (s : State) : Out := intBinary (· + ·) d a b s

/-- ISUB (R62): A - B mod 2^32. -/
def execIsub (d : LaneDst) (a b : LaneSrc) (s : State) : Out := intBinary (· - ·) d a b s

/-- IMUL (R62): the low half of A * B. -/
def execImul (d : LaneDst) (a b : LaneSrc) (s : State) : Out := intBinary (· * ·) d a b s

/-- IMULH (R62): the high half of the signed product. -/
def execImulh (d : LaneDst) (a b : LaneSrc) (s : State) : Out := intBinary mulHigh d a b s

/-- IMULHU (R62): the high half of the unsigned product. -/
def execImulhu (d : LaneDst) (a b : LaneSrc) (s : State) : Out := intBinary mulHighU d a b s

/-- IMIN (R62): the signed minimum. -/
def execImin (d : LaneDst) (a b : LaneSrc) (s : State) : Out := intBinary minS d a b s

/-- IMAX (R62): the signed maximum. -/
def execImax (d : LaneDst) (a b : LaneSrc) (s : State) : Out := intBinary maxS d a b s

/-- IMINU (R62): the unsigned minimum. -/
def execIminu (d : LaneDst) (a b : LaneSrc) (s : State) : Out := intBinary minU d a b s

/-- IMAXU (R62): the unsigned maximum. -/
def execImaxu (d : LaneDst) (a b : LaneSrc) (s : State) : Out := intBinary maxU d a b s

/-- AND (R62): A AND B. -/
def execAnd (d : LaneDst) (a b : LaneSrc) (s : State) : Out := intBinary (· &&& ·) d a b s

/-- OR (R62): A OR B. -/
def execOr (d : LaneDst) (a b : LaneSrc) (s : State) : Out := intBinary (· ||| ·) d a b s

/-- XOR (R62): A XOR B. -/
def execXor (d : LaneDst) (a b : LaneSrc) (s : State) : Out := intBinary (· ^^^ ·) d a b s

/-- ANDN (R62): A AND NOT B. -/
def execAndn (d : LaneDst) (a b : LaneSrc) (s : State) : Out := intBinary (fun x y => x &&& ~~~y) d a b s

/-- SHL (R62): A shifted left by u(B). -/
def execShl (d : LaneDst) (a b : LaneSrc) (s : State) : Out := intBinary shiftL d a b s

/-- SHR (R62): A shifted right with zeros. -/
def execShr (d : LaneDst) (a b : LaneSrc) (s : State) : Out := intBinary shiftR d a b s

/-- SAR (R62): A shifted right with copies of A[31]. -/
def execSar (d : LaneDst) (a b : LaneSrc) (s : State) : Out := intBinary shiftA d a b s

/-- POPC (R62): the set bits of A. -/
def execPopc (d : LaneDst) (a : LaneSrc) (s : State) : Out := intUnary countOnes d a s

/-- CLZ (R62): the zero bits above the highest set bit of A. -/
def execClz (d : LaneDst) (a : LaneSrc) (s : State) : Out := intUnary countZeros d a s

/-- IMAD (R63). -/
def execImad (sat : Sat) (d : LaneDst) (a : LaneSrc) (x : Xl) (b c : LaneSrc) (s : State) : Out :=
  laneCompute s (LaneDst.regs d) (read3 a b c) .int d a x fun s k v => imadVal sat v (s.laneSrc k .int b) (s.laneSrc k .int c)

/-- BFE (R64). -/
def execBfe (sgn : Bool) (d : LaneDst) (a : LaneSrc) (x : Xl) (b : LaneSrc) (s : State) : Out :=
  laneCompute s (LaneDst.regs d) (read2 a b) .int d a x fun s k v => (bfeVal sgn v (s.laneSrc k .int b), 0)

/-- BFI (R64). -/
def execBfi (d : LaneDst) (a : LaneSrc) (x : Xl) (b c : LaneSrc) (s : State) : Out :=
  laneCompute s (LaneDst.regs d) (read3 a b c) .int d a x fun s k v => (bfiVal v (s.laneSrc k .int b) (s.laneSrc k .int c), 0)

/-- ICMP (R65). -/
def execIcmp (cc : ICond) (u : Bool) (d : LaneDst) (a : LaneSrc) (x : Xl) (b : LaneSrc) (s : State) : Out :=
  laneCompute s (LaneDst.regs d) (read2 a b) .int d a x fun s k v => (boolWord (icmpVal cc u v (s.laneSrc k .int b)), 0)

end Sys2Proof.Machine
end

