-- ==== Sys2Proof/Machine/Requests.lean ====
section
/-! DEFINITION. Memory requests of threads: from the operands to a checked access (R83, R84, R236), sampled requests (R377), the order in
which outstanding operations may be performed (R87, R94, R95, R222), and what the fabric carries for them (R357). -/

namespace Sys2Proof.Machine

/-! ### Requests of threads (R377) -/

/-- Is an operation a memory access (R377, R378)? -/
def OpKind.isMemory : OpKind → Bool
  | .ld _ | .ldro _ | .atom .. | .cas _ | .red .. | .cpa .. | .st => true
  | _ => false

/-- Is an operation a load, a LDRO or a CPA's read (R376)? -/
def OpKind.loads : OpKind → Bool
  | .ld _ | .ldro _ | .cpa .. => true
  | _ => false

/-- The KIND of an operation's request (R248). -/
def OpKind.code : OpKind → Nat
  | .st => 1
  | .atom .. | .cas _ | .red .. => 2
  | .cpa .. => 3
  | _ => 0

/-- The sample of a tagged request when its response arrives or it is performed (R377). -/
def State.opSample (s : State) (o : Op) : State :=
  match o.tag with
  | some (ofs, t) => s.sampleReq o.core (slotOfThread o.thread) false o.part ofs o.va o.kind.code o.acc.loc (s.clk - t)
  | none => s

/-! ### Addresses of lane instructions -/

/-- The 32-bit address t of R83: (u(A) + sext(OFS)) mod 2^32. -/
def State.laneAddr (s : State) (k : Nat) (a : LaneSrc) (ofs : BitVec 22) : Nat := (s.laneSrc k .int a + ofs.signExtend 32).toNat

/-- The 56-bit address of t through a band's windows (R83). -/
def State.bandVa (s : State) (b : Nat) (t : Nat) : Except Nat Nat := formVa s.pkg.toNat (s.bandS b 28) (s.bandS b 29) (s.bandS b 30) t

/-- Is a location in host memory? -/
def Loc.isHost : Loc → Bool
  | .host .. => true
  | _ => false

/-- A doorbell takes only an 8-byte store at its own address (R356), of fault-queue KIND 1; any other access to the I/O window is
DETAIL 6. -/
def bellUse (a : Acc) (n kind : Nat) (use : Use) : Bool :=
  match a.loc with
  | .bell pa => use == .write && kind == 1 && n == 8 && (pa - Config.doorbellBase) % 65536 == 0
  | _ => true

/-- An address placed and checked for an access of n bytes (R84, R236: alignment, then windows, slices and host memory, then translation).
KIND is the fault queue's (R248). -/
def State.placeVa (s : State) (sp : Space) (c va n kind : Nat) (use : Use) (host : Bool) (go : State → Acc → Res) : Res :=
  match s.place sp c va use host with
  | (.park r, s) => .park s va kind r
  | (.bad d, s) => .trap s (cAccess d)
  | (.ok a, s) =>
    if !bellUse a n kind use then .trap s (cAccess 6)
    else if ((use == .read || kind == 2 || a.graded) && s.accBad a n) || s.accDead a n then .trap s (cAccess 12)
    else go s a

/-- A lane instruction's access to n bytes at [A + OFS], aligned to `align`. -/
def State.laneAccess (s : State) (k : Nat) (t n align kind : Nat) (use : Use) (host : Bool) (go : State → Nat → Acc → Res) : Res :=
  let b := bandOfThread k
  if t % align != 0 then .trap s cMisaligned
  else
    match s.bandVa b t with
    | .error d => .trap s (cAccess d)
    | .ok va => s.placeVa (s.bandSpace b) (coreOfThread k) va n kind use host fun s a => go s va a

/-! ### Issuing an operation -/

/-- The flag that an instruction's AB chooses in the clause at which the thread stands (R14, R23); 15 is none. -/
def State.flagOf (s : State) (k : Nat) (t : Thread) (ab : Ab) : Option (Fin 12) :=
  let h := s.headerAt (s.instOf k) t.pc
  let f := match ab with
    | .a => h.seta
    | .b => h.setb
  if h : f < 12 then some ⟨f, h⟩ else none

/-- The task of a thread. -/
def State.taskOf (s : State) (k : Nat) : Nat := ((s.band? (bandOfThread k)).map (·.task)).getD 0

/-- The level-2 partition of a thread. -/
def State.partOf (s : State) (k : Nat) : Nat := ((s.band? (bandOfThread k)).map (·.part)).getD 0

/-- An operation of a thread with nothing but its issuer. -/
def State.blankOp (s : State) (k : Nat) (t : Thread) (kind : OpKind) : Op where
  kind := kind
  core := coreOfThread k
  thread := k
  uid := t.uid
  flag := none
  d := .discard
  va := 0
  acc := ⟨.dev 0, false, 0, none⟩
  n := 0
  data := []
  cmp := []
  ord := .relaxed
  task := s.taskOf k
  part := s.partOf k
  inst := s.instOf k
  words := []
  pc := t.pc
  issued := s.clk
  sent := false
  resp := none
  done := false
  tag := none
  void := false
  egress := false
  who := []
  laid := []
  plane := none
  seq := 0

/-- Issue an operation: it takes the next number in issue order and its flag rises (R9, R24, R85). -/
def State.issueOp (s : State) (k : Nat) (t : Thread) (ab : Ab) (o : Op) : State :=
  let f := s.flagOf k t ab
  let (tag, s) := if o.kind.isMemory then s.countReq o.core o.part else (false, s)
  let smp := if tag then some ((t.pc - s.bandBase (bandOfThread k)).toNat, s.clk) else none
  let (id, s) := s.fresh
  { s with threads := mmod s.threads k fun t => t.raise f, ops := mput s.ops id { o with flag := f, tag := smp, plane := s.opPlane o, void := o.leaves && (s.task? o.task).any fun t => t.refire.isSome || t.mute } }

/-! ### The order of outstanding operations -/

/-- Does an ordering acquire? -/
def Ord16.isAcq : Ord16 → Bool
  | .acq _ | .ar _ => true
  | _ => false

/-- Does an ordering release? -/
def Ord16.isRel : Ord16 → Bool
  | .rel _ | .ar _ => true
  | _ => false

/-- The ordering of a write that is a release too: an amendment is one at DOM by its writer (R312). -/
def Ord16.withRel : Ord16 → Ord16
  | .relaxed => .rel .dom
  | .acq s => .ar s
  | o => o

/-- Does a fence acquire (R95)? -/
def FenceKind.isAcq : FenceKind → Bool
  | .rel => false
  | _ => true

/-- Does a fence release (R95)? -/
def FenceKind.isRel : FenceKind → Bool
  | .acq => false
  | _ => true

/-- Does an operation read a value that an acquiring fence waits for? -/
def OpKind.reads : OpKind → Bool
  | .ld _ | .ldro _ | .atom .. | .cas _ | .grd => true
  | _ => false

/-- Is an operation a store, atomic or RED, which a releasing fence holds (R95)? -/
def OpKind.stores : OpKind → Bool
  | .st | .atom .. | .cas _ | .red .. => true
  | _ => false

/-- Is an operation a write whose outcome a releasing fence reports (R95, R231)? -/
def OpKind.writes : OpKind → Bool
  | .cpa .. | .gconf _ => true
  | k => k.stores

/-- Is an operation the read of a layout record (R164)? -/
def OpKind.isLayout : OpKind → Bool
  | .layout .. => true
  | _ => false

/-- Is an operation a fence? -/
def OpKind.isFence : OpKind → Bool
  | .fence _ => true
  | _ => false

/-- Is an operation an atomic or RED (R94)? -/
def OpKind.atomic : OpKind → Bool
  | .atom .. | .cas _ | .red .. => true
  | _ => false

/-- Does an operation take part in R87's order of one location? CPA and LDRO do not. -/
def OpKind.ordered : OpKind → Bool
  | .ld _ | .grd | .gconf _ => true
  | k => k.stores

/-- Does an operation hold every later one until it is performed: an acquire, or a fence that acquires (R88, R95, R222)? -/
def Op.holds (o : Op) : Bool :=
  match o.kind with
  | .fence k => FenceKind.isAcq k
  | _ => Ord16.isAcq o.ord

/-- Does an operation wait for every earlier one: a release; CONT, ENQ and GCONF are releases too (R90, R98, R111, R112, R222)? -/
def Op.waits (o : Op) : Bool :=
  match o.kind with
  | .cont | .enq | .gconf _ => true
  | .fence _ => false
  | _ => Ord16.isRel o.ord

/-- Is an operation a release: does it wait for every earlier store of its thread (R90, R95, R222)? -/
def Op.releases (o : Op) : Bool :=
  o.waits ||
  match o.kind with
  | .fence k => FenceKind.isRel k
  | _ => false

/-- Does an earlier operation e of the same thread keep o from being performed (R87, R95, R222, R231)? A fence waits for every earlier
fence of its thread, which takes the counters first. DESIGN CHOICE, log 8. -/
def Op.blockedBy (o e : Op) : Bool :=
  e.holds ||
  (match e.kind with
    | .fence k => FenceKind.isRel k && o.kind.stores
    | _ => false) ||
  (match o.kind with
    | .fence k => (FenceKind.isAcq k && e.kind.reads) || (FenceKind.isRel k && e.kind.writes) || e.kind.isFence
    | _ => false) ||
  o.waits ||
  (o.kind.ordered && e.kind.ordered && o.acc.loc.overlaps o.n e.acc.loc e.n)

/-- R94, R210: of one issue group's atomics on one address, and of its records, the lowest lane home goes first. -/
def Op.groupBlockedBy (o e : Op) : Bool :=
  o.core == e.core && o.issued == e.issued && o.pc == e.pc && laneOfThread e.thread < laneOfThread o.thread &&
    ((o.kind == .cont && e.kind == .cont) || (o.kind.atomic && e.kind.atomic && o.acc.loc == e.acc.loc))

/-- The engine commands that a releasing fence waits for: those of a band of which the thread was a member of P (R231). DEDUCED, log 11. -/
def State.cmdsBefore (s : State) (id : Nat) (o : Op) : Bool :=
  match o.kind with
  | .fence k => FenceKind.isRel k && many s.cmds fun j c => j < id && c.members.contains (o.thread, o.uid)
  | _ => false

/-- Does an operation's write go to the egress hold buffer: an off-chip destination, a task below FINAL (R91, R304)? -/
def State.heldBack (s : State) (o : Op) : Bool := o.acc.offChip && !o.egress && s.holds o.task

/-- Does an operation wait for its thread's items in the egress hold buffer: an access that acts at its port, to a location of which the
buffer still holds a write of the thread (R87)? A load sees such items laid over what it reads, and a store or RED that will be held goes
behind them. -/
def State.behindHeld (s : State) (o : Op) : Bool :=
  o.kind.stores && !o.egress && !(o.leaves && s.heldBack o) && (s.itemsOf o.uid).any fun x => x.touches o.uid o.acc.loc o.n

/-- Does an operation e that has left the egress hold buffer keep a later access of its thread to the location waiting, be that one that has
left it too (R87, R304)? -/
def Op.behindEgress (o : Op) (later : Bool) (e : Op) : Bool :=
  e.egress && (if o.egress then later else o.kind.ordered) && o.acc.loc.overlaps o.n e.acc.loc e.n

/-- Does an operation e that has left the egress hold buffer keep a release of its thread waiting (R90, R222)? What the buffer still holds does
not (R230). -/
def Op.releasesEgress (o : Op) (id : Nat) (e : Op) : Bool := e.egress && !o.egress && e.seq < id && o.releases

/-- May an operation be performed now, with every earlier one as it stands (R87, R94, R95, R222, R304)? What enters the egress hold buffer
enters it in program order (R91); a release waits for what the buffer has released, not for what it holds (R230; DEDUCED, log 114). A layout
record is read as a later access of every thread of P (R147, R222). -/
def State.mayPerform (s : State) (id : Nat) (o : Op) : Bool :=
  !s.cmdsBefore id o && !s.behindHeld o && !(o.releases && s.leavingBefore o.uid id) && !many s.ops fun j e => j != id && !e.done && !e.kind.isLayout &&
    ((o.kind.isLayout && j < id && o.who.contains (e.thread, e.uid) && (e.holds || e.waits || e.kind.isFence)) ||
      (e.uid == o.uid &&
      ((j < id && !o.egress && e.thread == o.thread && !e.egress && (o.blockedBy e || (e.leaves && o.leaves && s.heldBack o))) ||
        o.releasesEgress id e || o.behindEgress (decide (j < id)) e)) ||
      o.groupBlockedBy e)

/-- Is some fence of a thread, earlier than operation id, still to take its status word? A failure of a later write waits for it
(R231). -/
def State.fenceBefore (s : State) (id : Nat) (o : Op) : Bool :=
  many s.ops fun j e => j < id && e.thread == o.thread && e.uid == o.uid && e.kind.isFence

/-- Has a thread no operation that is still to be performed, so that a release by it counts now (R100)? What the egress hold buffer holds is
none, what it has released is (R230). -/
def State.allPerformed (s : State) (k uid : Nat) : Bool :=
  !(many s.ops fun _ e => (e.thread == k || e.egress) && e.uid == uid && !e.done && !e.kind.isLayout) && !s.leavingBefore uid s.nextId

/-- R84: is an access refused at the port of the slice that owns the location: the slice of another core, which belongs to another
partition? -/
def State.refusedAt (s : State) (core part : Nat) (l : Loc) : Bool :=
  match l with
  | .slice c _ => c != core && (s.core c).lastPart != some part
  | _ => false

/-! ### The fabric -/

/-- The run's amendment-depth limit; 7 outside any (R308). -/
def State.depthLimit (s : State) (inst : Nat) : Nat := ((s.inst? inst).map (·.amdep)).getD 7

/-- The message parts that name an operation's issuer (R306, R357). -/
def State.opMsg (s : State) (id : Nat) (o : Op) (va : Nat) : Msg :=
  let p := s.taskPlace o.task
  { s.blankMsg with
    tag := tagOf id, addr := BitVec.ofNat 56 va, part := Fin.ofNat 64 o.part, ginst := o.inst, n := o.n, node := p.1, block := BitVec.ofNat 32 p.2
    ord := o.ord, core := o.core, amdep := s.depthLimit o.inst }

/-- The byte mask of a graded write's data, as bytes; every byte where none are given. -/
def maskOf (bs : List Byte) : DWord := if bs.isEmpty then BitVec.allOnes 64 else BitVec.ofNat 64 (leNat bs)

/-- The grade that a graded write of another package carries: the grade asked, at most the task's taint, and FINAL past the write log
(R294, R297, R306). Nothing while the write waits for its task's taint to be FINAL. -/
def State.farGrade (s : State) (o : Op) (req : Grade) : Option Grade :=
  let t := s.taint o.task
  let g := gradeMin req t
  match o.acc.loc with
  | .remote p va _ =>
    if g == .final || s.logRoom (some o.task) (remoteLine p va) then some g
    else if t == .final then some .final
    else none
  | _ => some g

/-- The grade of an atomic on another package: none where the page is not graded, else FINAL as far as the taint allows (R93, R294). -/
def State.atomGrade (s : State) (o : Op) : Option Grade := if o.acc.graded then s.farGrade o .final else some .none

/-- The request that an operation sends to another package, with its type: 1 a read (of no bytes for GRD: the line's metadata byte), 3 an
atomic, as an engine's add of words is, 5 a graded write (of no bytes for GCONF). Stores are sent when they are performed. -/
def State.opRequest (s : State) (id : Nat) (o : Op) : Option (Nat × Msg) :=
  let va := o.acc.loc.remoteVa
  let m := s.opMsg id o va
  match o.kind with
  | .ld _ | .ldro _ | .layout .. => some (1, m)
  | .cpa n .. => if n == 0 then none else some (1, { m with n := n })
  | .fill => some (1, m)
  | .eng _ =>
    if o.data.isEmpty then some (1, m)
    else if o.words == [1] then (s.farGrade o .final).map fun g => (3, { m with data := o.data, op := some .fadd, grade := g })
    else (s.farGrade o .final).map fun g => (5, { m with data := o.data, mask := maskOf o.cmp, grade := g })
  | .grd => some (1, { m with n := 0 })
  | .atom op _ | .red op _ => (s.atomGrade o).map fun g => (3, { m with data := o.data, op := some op, grade := g })
  | .cas _ => (s.atomGrade o).map fun g => (3, { m with data := o.data, cas := some (BitVec.ofNat 64 (leNat o.cmp)), grade := g })
  | .gconf g => some (5, { m with n := 0, mask := 1, grade := gradeMin g (s.taint o.task) })
  | .st =>
    if o.acc.graded then (s.farGrade o (gradeOfCode (o.words.headD 0).toNat)).map fun g => (5, { m with data := o.data, grade := g }) else none
  | _ => none

/-- Is an operation a RED? -/
def OpKind.isRed : OpKind → Bool
  | .red .. => true
  | _ => false

/-- Send the requests of operations on other packages that may now be performed (R357). -/
def State.sendReady (s : State) : State :=
  s.ops.foldl (fun s x =>
    match x.2.acc.loc.pkg? with
    | some p =>
      if x.2.sent || !s.mayPerform x.1 x.2 || (x.2.kind.isRed && (x.2.void || s.heldBack x.2)) then s
      else
        match s.opRequest x.1 x.2 with
        | some (ty, m) => { s.send ty p m with ops := mmod s.ops x.1 fun o => { o with sent := true, plane := s.opPlane o } }
        | none => s
    | none => s) s

/-- May a message to a location of another package have been lost that a party sent at some clk since `t` (R358)? -/
def State.lostTo (s : State) (l : Loc) (t : Nat) : Bool :=
  match l with
  | .remote p va _ => s.lostSince t p va
  | _ => false

end Sys2Proof.Machine
end

