-- ==== Sys2Proof/Machine/Uniform.lean ====
section
/-! DEFINITION. The uniform scalar ALU and control (R119-R122). -/

namespace Sys2Proof.Machine

/-- A uniform instruction of A and B (R119). -/
def uniBinary (f : Word → Word → Word) (d : UniDst) (a b : UniSrc) (s : State) : Out :=
  uniFrame s fun s p _ =>
    let (x, s) := s.uniSrc p false a
    let (y, s) := s.uniSrc p false b
    .ok (s.setUni p d (f x y))

/-- A uniform instruction of A (R119). -/
def uniUnary (f : Word → Word) (d : UniDst) (a : UniSrc) (s : State) : Out :=
  uniFrame s fun s p _ =>
    let (x, s) := s.uniSrc p false a
    .ok (s.setUni p d (f x))

/-- SADD (R119). -/
def execSadd (d : UniDst) (a b : UniSrc) (s : State) : Out := uniBinary (· + ·) d a b s

/-- SSUB (R119). -/
def execSsub (d : UniDst) (a b : UniSrc) (s : State) : Out := uniBinary (· - ·) d a b s

/-- SMUL (R119). -/
def execSmul (d : UniDst) (a b : UniSrc) (s : State) : Out := uniBinary (· * ·) d a b s

/-- SMIN (R119). -/
def execSmin (d : UniDst) (a b : UniSrc) (s : State) : Out := uniBinary minS d a b s

/-- SMAX (R119). -/
def execSmax (d : UniDst) (a b : UniSrc) (s : State) : Out := uniBinary maxS d a b s

/-- SAND (R119). -/
def execSand (d : UniDst) (a b : UniSrc) (s : State) : Out := uniBinary (· &&& ·) d a b s

/-- SOR (R119). -/
def execSor (d : UniDst) (a b : UniSrc) (s : State) : Out := uniBinary (· ||| ·) d a b s

/-- SXOR (R119). -/
def execSxor (d : UniDst) (a b : UniSrc) (s : State) : Out := uniBinary (· ^^^ ·) d a b s

/-- SSHL (R119). -/
def execSshl (d : UniDst) (a b : UniSrc) (s : State) : Out := uniBinary shiftL d a b s

/-- SSHR (R119). -/
def execSshr (d : UniDst) (a b : UniSrc) (s : State) : Out := uniBinary shiftR d a b s

/-- SSAR (R119). -/
def execSsar (d : UniDst) (a b : UniSrc) (s : State) : Out := uniBinary shiftA d a b s

/-- SCMP (R120). -/
def execScmp (cc : ICond) (u : Bool) (d : UniDst) (a b : UniSrc) (s : State) : Out :=
  uniBinary (fun x y => boolWord (icmpVal cc u x y)) d a b s

/-- SSEL (R120). -/
def execSsel (d : UniDst) (a b c : UniSrc) (s : State) : Out :=
  uniFrame s fun s p _ =>
    let (x, s) := s.uniSrc p false a
    let (y, s) := s.uniSrc p false b
    let (z, s) := s.uniSrc p false c
    .ok (s.setUni p d (if z = 0 then y else x))

/-- SMOV (R119). -/
def execSmov (d : UniDst) (a : UniSrc) (s : State) : Out := uniUnary id d a s

/-- SMOVI (R119, R80). -/
def execSmovi (d : UniDst) (imm : Word) (s : State) : Out := uniFrame s fun s p _ => .ok (s.setUni p d imm)

/-- SPOPC (R119). -/
def execSpopc (d : UniDst) (a : UniSrc) (s : State) : Out := uniUnary countOnes d a s

/-! ### Control -/

/-- A conditional transfer of a party: to the clause IMM clauses on, or past the instruction (R121). -/
def State.uniBranch (s : State) (p : Party) (ks : List Nat) (imm : Word) (taken : Bool) : Res :=
  let pc := s.partyPc p ks
  .goto s (if taken then clauseTarget pc imm else nextClause pc)

/-- SBRA (R121). -/
def execSbra (imm : Word) (s : State) : Out := uniFrame s fun s p ks => s.uniBranch p ks imm true

/-- SBRZ (R121). -/
def execSbrz (a : UniSrc) (imm : Word) (s : State) : Out :=
  uniFrame s fun s p ks =>
    let (x, s) := s.uniSrc p false a
    s.uniBranch p ks imm (x == 0)

/-- SBRNZ (R121). -/
def execSbrnz (a : UniSrc) (imm : Word) (s : State) : Out :=
  uniFrame s fun s p ks =>
    let (x, s) := s.uniSrc p false a
    s.uniBranch p ks imm (x != 0)

/-- SLOOP (R121). -/
def execSloop (d : Fin 31) (imm : Word) (s : State) : Out :=
  uniFrame s fun s p ks =>
    let r : Fin 32 := ⟨d.val, by omega⟩
    let (x, s) := s.uniSrc p false (.s r)
    (s.setUni p (.s r) (x - 1)).uniBranch p ks imm (x - 1 != 0)

/-! ### The end of a strand -/

/-- SDONE (R122): a band that executes it traps. -/
def execSdone (s : State) : Out :=
  uniFrame s fun s p _ =>
    match p with
    | .band _ => .trap s cIllegal
    | .strand q =>
      let x := s.strand q
      .stay (((s.setStrand q { x with status := .finishing, stepping := false }).stepDone (q / 2) x.stepping).reapStrand q)

end Sys2Proof.Machine
end

