-- ==== Sys2Proof/Machine/BandOps.lean ====
section
/-! DEFINITION. Register budgets (R123-R125), attach and detach with the membership changes (R126-R131), and strands' files (R132, R133). -/

namespace Sys2Proof.Machine

/-- The block of a party, with its number. -/
def State.blockOfParty (s : State) (p : Party) : Option (Nat × Block) :=
  (s.partyBlock p).bind fun n => (s.block? n).map fun b => (n, b)

/-- Does the band of a party run a surrender routine: have threads of it entered (R170, R171)? -/
def State.inRoutine (s : State) (p : Party) : Bool :=
  match p, s.blockOfParty p with
  | .band b, some (_, x) => x.rstate == .routine && x.chosen == some b && (s.threadsP b).any fun k => (s.thread? k).any (·.resume.isSome)
  | _, _ => false

/-! ### GROW and SHRINK -/

/-- A budget operand (R123). -/
def budgetOk (n : Nat) : Bool := n % 8 == 0 && 8 ≤ n && n ≤ 160

/-- The free registers of a core's pool (R123, R192). -/
def State.freeRegs (s : State) (c : Nat) : Nat :=
  Config.poolRegs - s.bands.foldl (fun n x => if coreOfBand x.1 == c then n + 32 * x.2.budget else n) 0

/-- GROW on its band (R124). -/
def State.growBand (s : State) (b : Nat) (d : UniDst) (h n : Nat) : Res :=
  let p := Party.band b
  match s.band? b, s.blockOfParty p with
  | some x, some (_, blk) =>
    if !blk.holds h || bitAt blk.membs.toNat h then .trap s (cHasp h)
    else if x.grow.isSome then .ok (s.setUni p d 2)
    else if x.budget < n then
      let s := s.modBand b fun x => { x with grow := some ⟨n, h⟩ }
      .ok ((s.modCore (coreOfBand b) fun c => { c with growQ := c.growQ ++ [b] }).setUni p d 0)
    else
      let hk := haspKey (coreOfBand b) h
      if !(s.hasp hk).valid then .trap s (cHasp h)
      else .ok ((s.arriveHeld (coreOfBand b) h (s.hasp hk) false).setUni p d 1)
  | _, _ => .trap s (cHasp h)

/-- GROW (R124). -/
def execGrow (d : UniDst) (h : Fin 32) (a : UniSrc) (s : State) : Out :=
  uniFrame s fun s p _ =>
    match p with
    | .strand _ => .trap s cIllegal
    | .band b =>
      let (n, s1) := s.uniSrc p false a
      if budgetOk n.toNat then
        match s1.growBand b d h.val n.toNat with
        | .trap _ c => .trap s c
        | r => r
      else .trap s cIllegal

/-- The registers from vN up to vM read 0 in every thread of a band (R124). -/
def State.clearRegs (s : State) (b lo hi : Nat) : State :=
  { s with threads := mmap s.threads fun k t =>
      if bandOfThread k == b then (List.range (hi - lo)).foldl (fun t i => t.setV (lo + i) 0) t else t }

/-- GROW_GRANT (R124): the head of a core's requests, once the pool has room; it arrives on its hasp, held as R137 gives. -/
def execGrowGrant (core : Nat) (s : State) : Out :=
  match (s.core core).growQ with
  | [] => .next s
  | b :: rest =>
    match s.band? b with
    | none => .next (s.modCore core fun c => { c with growQ := rest })
    | some x =>
      match x.grow with
      | none => .next (s.modCore core fun c => { c with growQ := rest })
      | some g =>
        if s.freeRegs core < 32 * (g.n - x.budget) then .next s
        else
          let s := (s.modBand b fun x => { x with budget := max x.budget g.n, grow := none }).clearRegs b x.budget g.n
          let s := s.modCore core fun c => { c with growQ := rest }
          let hk := haspKey core g.hasp
          if (s.hasp hk).valid then .next (s.arriveHeld core g.hasp (s.hasp hk) false) else .next s

/-- The registers an outstanding operation is still due to write (R125). -/
def Op.destRun (o : Op) : List Nat :=
  let n := match o.kind with
    | .ld sz | .ldro sz => sz.regs
    | .atom _ w | .cas w => if w then 2 else 1
    | .fence _ | .grd | .gconf _ | .cont | .enq => 1
    | .st | .red .. | .cpa .. | .layout .. | .fill | .eng _ => 0
  runFrom n (LaneDst.regs o.d)

/-- Is the thread that issued an operation still in its slot? A load of a thread that has executed EXIT counts as due while its slot is not
free, though it delivers into nothing (DESIGN CHOICE, log 106: R125 and R109 do not say). -/
def State.opAlive (s : State) (o : Op) : Bool := (s.thread? o.thread).any fun t => t.uid == o.uid

/-- Is an operation of a thread of a band due to write a register numbered n or above (R125)? -/
def State.dueAbove (s : State) (b n : Nat) : Bool :=
  many s.ops fun _ o => bandOfThread o.thread == b && s.opAlive o && o.destRun.any (n ≤ ·)

/-- SHRINK (R125): the rendezvous waits for outstanding writes of the registers it gives back. -/
def execShrink (a : UniSrc) (s : State) : Out :=
  uniFrame s fun s p _ =>
    match p with
    | .strand _ => .trap s cIllegal
    | .band b =>
      let (w, s1) := s.uniSrc p false a
      let n := w.toNat
      if !budgetOk n then .trap s cIllegal
      else if ((s.band? b).map (·.budget)).getD 0 ≤ n then .ok s1
      else if s.dueAbove b n then .stay s
      else .ok (s1.modBand b fun x => { x with budget := n })

/-! ### ATTACH and DETACH -/

/-- The block on a core that ATTACH names, of the band's graph run and partition (R127). A block that is stopping counts as no such block
(DESIGN CHOICE, log 90: the table has no row for it). -/
def State.attachTarget (s : State) (b : Nat) (x : Band) (node blockId : Nat) : Option Nat :=
  (s.blocks.find? fun y => y.2.core == coreOfBand b && y.2.node == node && y.2.blockId == blockId && y.2.inst == x.inst &&
    y.2.part == x.part && !y.2.stopping).map (·.1)

/-- A task's kind where a task it names has another number. -/
def TaskKind.rename (t : TaskKind) (re : Nat → Nat) : TaskKind :=
  match t with
  | .detached p => .detached (re p)
  | t => t

/-- A task run merges into another (R295): logs, held egress, records and everything that names it, also where a band holds it, a released
band or a saved context. -/
def State.mergeTask (s : State) (k into : Nat) : State :=
  match s.task? k with
  | none => s
  | some t =>
    let re (j : Nat) : Nat := if j == k then into else j
    let union (a b : List Nat) : List Nat := a ++ b.filter fun x => !a.contains x
    let s := s.modTask into fun u => { u with
      reads := union u.reads t.reads
      writes := union u.writes t.writes
      parents := union u.parents (t.parents.filter (· != into))
      refire := u.refire.orElse fun _ => t.refire
      held := u.held ++ t.held
      leaving := u.leaving ++ t.leaving
      recs := u.recs ++ (match t.kind with
        | .record _ => t.recs
        | _ => []) }
    let rename (r : PoolRec) : PoolRec := { r with task := re r.task }
    { s with
      tasks := mmap (mdel s.tasks k) fun _ u => { u with
        kind := u.kind.rename re
        parents := (u.parents.map re).eraseDups
        recs := u.recs.map (·.map rename) }
      bands := mmap s.bands fun _ b => { b with recs := b.recs.map rename }
      released := s.released.map fun b => { b with recs := b.recs.map rename, old := b.old.map re }
      lines := mmap s.lines fun _ m => { m with users := (m.users.map re).eraseDups, writer := m.writer.map re }
      ops := mmap s.ops fun _ o => { o with task := re o.task }
      cmds := mmap s.cmds fun _ c => { c with task := re c.task }
      pool := s.pool.map fun b => { b with recs := b.recs.map rename }
      saved := s.saved.map fun x => { x with
        bands := mmap x.bands fun _ b => { b with recs := b.recs.map rename }
        ops := mmap x.ops fun _ o => { o with task := re o.task }
        cmds := mmap x.cmds fun _ c => { c with task := re c.task } } }

/-- A band of m counted threads joins a membership hasp (R127). -/
def Hasp.join (h : Hasp) (m : Nat) : Hasp :=
  if h.expArr == 0 && h.arrived == 0 then { h with expArr := m } else { h with nextd := h.nextd + m }

/-- May m threads join a hasp without a counter leaving its width (R137)? -/
def Hasp.joinOk (h : Hasp) (m : Nat) : Bool :=
  if h.expArr == 0 && h.arrived == 0 then m ≤ 4095 else h.nextd + m ≤ 2047

/-- The joins that stay pending after an ATTACH: the hasp and the phase it joins at (R127, R128). -/
def State.joinsOf (s : State) (c : Nat) (blk : Block) : List (Nat × Nat) :=
  blk.membNums.filterMap fun n =>
    let h := s.hasp (haspKey c n)
    if h.expArr == 0 && h.arrived == 0 then none else some (n, (h.phase + 1).toNat)

/-- The threads counted in MB are those of P (R126). -/
def State.countMembers (s : State) (b : Nat) : State :=
  let ks := s.threadsP b
  { s with threads := mmap s.threads fun k t => if ks.contains k then { t with counted := true } else t }

/-- ATTACH with status 0 (R127). -/
def State.attachBand (s : State) (b blk : Nat) (x : Band) (y : Block) : State :=
  let c := coreOfBand b
  let m := popcount 32 x.pm.toNat
  let pos := (lowestFree ((s.bandsOf blk).filterMap fun j => (s.band? j).map (·.pos)) 64).getD 0
  let joins := s.joinsOf c y
  let s := y.membNums.foldl (fun s n => s.setHasp (haspKey c n) ((s.hasp (haspKey c n)).join m)) s
  let s := s.modBand b fun x => { x with block := some blk, pos := pos, mb := m, joins := joins, task := y.task, isRec := false, recs := [] }
  (s.mergeTask x.task y.task).countMembers b

/-- ATTACH (R127, R171, R137). DEDUCED, log 16. -/
def execAttach (d : UniDst) (a b : UniSrc) (s : State) : Out :=
  uniFrame s fun s p _ =>
    match p with
    | .strand _ => .trap s cIllegal
    | .band k =>
      let s0 := s
      let (na, s) := s.uniSrc p false a
      let (nb, s) := s.uniSrc p false b
      match s.band? k with
      | none => .ok s
      | some x =>
        if s.inRoutine p then .trap s0 cIllegal
        else if x.block.isSome then .ok (s.setUni p d 4)
        else
          match s.attachTarget k x (na.toNat % 2 ^ 16) nb.toNat with
          | none => .ok (s.setUni p d 1)
          | some blk =>
            match s.block? blk with
            | none => .ok (s.setUni p d 1)
            | some y =>
              if y.maxBands ≤ s.nband blk then .ok (s.setUni p d 2)
              else if y.rstate != .held then .ok (s.setUni p d 3)
              else
                let m := popcount 32 x.pm.toNat
                match y.membNums.find? fun n => !(s.hasp (haspKey (coreOfBand k) n)).joinOk m with
                | some n => .trap s0 (cHasp n)
                | none => .ok ((s.attachBand k blk x y).setUni p d 0)

/-- A band leaves one membership hasp (R129). -/
def State.leaveHaspBand (s : State) (b : Nat) (x : Band) (n : Nat) : State :=
  let c := coreOfBand b
  let hk := haspKey c n
  let h := s.hasp hk
  if x.joins.any (·.1 == n) then
    (s.setHasp hk { h with
      heldArr := h.heldArr.filter fun a => a.thread.all fun k => bandOfThread k != b
      nextd := h.nextd - x.mb }).tryComplete c n
  else
    let k := h.arrivedOf b
    (s.setHasp hk { h with
      expArr := ((h.expArr : Int) - ((x.mb : Int) - k)).toNat
      nextd := h.nextd - k
      arr := h.arr.filter fun j => bandOfThread j != b }).tryComplete c n

/-- May a band leave a hasp without a counter leaving its width (R137)? -/
def State.leaveOk (s : State) (b : Nat) (x : Band) (n : Nat) : Bool :=
  let h := s.hasp (haspKey (coreOfBand b) n)
  let k := h.arrivedOf b
  if x.joins.any (·.1 == n) then -2048 ≤ h.nextd - x.mb else -2048 ≤ h.nextd - k && (h.expArr : Int) - ((x.mb : Int) - k) ≤ 4095

/-- A band leaves its block (R129, R124, R295): a task of its own begins, which stops as those that left before where a re-fire of the block's
is pending (R299). -/
def State.detachBand (s : State) (b : Nat) (x : Band) (y : Block) : State :=
  let s := y.membNums.foldl (fun s n => s.leaveHaspBand b x n) s
  let (id, s) := s.fresh
  let t : Task := ⟨.detached x.task, x.inst, x.node, dieOfCore (coreOfBand b), [], [], [x.task], [], none, false, false, false, false, [], [], []⟩
  let s := { s with tasks := mput s.tasks id t }
  let s := s.modBand b fun x => { x with block := none, pos := 0, mb := 0, grow := none, joins := [], task := id }
  let s := s.modCore (coreOfBand b) fun c => { c with growQ := c.growQ.filter (· != b) }
  let s := { s with threads := mmap s.threads fun k t => if bandOfThread k == b then { t with counted := false } else t }
  if (s.task? x.task).any (·.refire.isSome) then s.stopOffspring id else s

/-- DETACH (R129, R171). -/
def execDetach (d : UniDst) (s : State) : Out :=
  uniFrame s fun s p _ =>
    match p with
    | .strand _ => .trap s cIllegal
    | .band b =>
      match s.band? b, s.blockOfParty p with
      | some x, some (_, y) =>
        if s.inRoutine p then .trap s cIllegal
        else
          match y.membNums.find? fun n => !s.leaveOk b x n with
          | some n => .trap s (cHasp n)
          | none => .ok ((s.detachBand b x y).setUni p d 0).settle
      | _, _ => .ok (s.setUni p d 1)

/-! ### Strands -/

/-- The key of a sequencer of a core (R132). -/
def seqKey (c : Nat) (q : Seq) : Nat :=
  match q with
  | .mx => 2 * c
  | .cp => 2 * c + 1

/-- Does a block hold the engine of a sequencer (R201)? -/
def Block.hasEngine (b : Block) (q : Seq) : Bool :=
  match q with
  | .mx => b.mx
  | .cp => b.cp

/-- FORK (R132, R201): the strand's registers are the band's as they stand at the FORK, and it begins after this clk. DEDUCED, log 15. -/
def execFork (seq : Seq) (d : UniDst) (imm : Word) (s : State) : Out :=
  uniFrame s fun s p ks =>
    match p with
    | .strand _ => .trap s cIllegal
    | .band b =>
      if s.inRoutine p then .trap s cIllegal
      else
        match s.band? b, s.blockOfParty p with
        | some x, some (n, y) =>
          if !y.hasEngine seq then .trap s ⟨1, 4, 0⟩
          else
            let q := seqKey (coreOfBand b) seq
            if (s.strand q).status != .idle then .ok (s.setUni p d 1)
            else
              .ok ((s.setStrand q { Strand.zero with
                s := x.s.set 31 0
                pc := clauseTarget (s.partyPc p ks) imm
                status := .run
                block := n
                band := s.spValue p 2
                nband := s.spValue p 3
                forker := some b
                forkAt := s.clk + 1 }).setUni p d 0)
        | _, _ => .trap s cIllegal

/-- Does a strand name its own sequencer (R133)? -/
def ownFile (p : Party) (seq : Seq) : Bool :=
  match p with
  | .strand q => q == seqKey p.core seq
  | .band _ => false

/-- SRD (R133). -/
def execSrd (seq : Seq) (d : UniDst) (n : Fin 32) (s : State) : Out :=
  uniFrame s fun s p _ =>
    if ownFile p seq then .trap s cIllegal else .ok (s.setUni p d (s.strand (seqKey p.core seq)).s[n])

/-- SWR (R133): a write of the strand's own to the register in the same clk prevails. -/
def execSwr (seq : Seq) (n : Fin 32) (a : UniSrc) (s : State) : Out :=
  uniFrame s fun s p _ =>
    if ownFile p seq then .trap s cIllegal
    else
      let (w, s) := s.uniSrc p false a
      let q := seqKey p.core seq
      .ok (if (s.strand q).wroteNow s.clk n.val then s else s.setStrand q ((s.strand q).setS n.val w))

end Sys2Proof.Machine
end

