-- ==== Sys2Proof/Machine/LaneMem.lean ====
section
/-! DEFINITION. The lane memory family at issue (R85-R98): each instruction's checks and what it posts; graded stores and atomics, which
hold their thread for the tumbler's check (R92, R93). -/

namespace Sys2Proof.Machine

/-! ### Shared parts -/

/-- Count an access once, at its first issue: a thread held by its own instruction has been counted (R376). -/
def State.countOnce (s : State) (k : Nat) (t : Thread) (a : Acc) (reads writes : Nat) : State :=
  if t.status == .held then s else s.countAcc (s.bandSpace (bandOfThread k)) (coreOfThread k) a reads writes

/-- A failed store, RED or CPA: NFAIL, and REFUSED or DEADLINK, for the thread's next FENCE (R91, R95, R231). -/
def Thread.noteFail (t : Thread) (fate : Fate) : Thread :=
  match fate with
  | .performed => t
  | .refused => { t with nfail := min (t.nfail + 1) 255, refused := true }
  | .lost => { t with nfail := min (t.nfail + 1) 255, deadlink := true }

/-- R308: a depth fault of a thread's write: nothing is written, the run is cancelled, and the thread stops without a trap. -/
def State.depthFault (s : State) (k : Nat) : State :=
  let b := s.band? (bandOfThread k)
  (s.cancelInst (s.instOf k) 1 ((b.map (·.node)).getD 0) ((b.map (·.role)).getD 0) 0 0 0).endThread k

/-- The finality fault (R92, R235). -/
def cFinality : Cause := ⟨6, 0, 0⟩

/-- A thread's operation that waits for another package's tumbler, issued by the instruction at which the thread stands (R306). -/
def State.awaited (s : State) (k : Nat) (t : Thread) : Option (Nat × Op) :=
  s.ops.find? fun x => x.2.thread == k && x.2.uid == t.uid && x.2.pc == t.pc && x.2.acc.graded && x.2.acc.loc.pkg?.isSome &&
    match x.2.kind with
    | .st => true
    | k => k.atomic

/-- An operation leaves the table and its flag falls (R9). -/
def State.dropOp (s : State) (id : Nat) (o : Op) : State := { s with ops := mdel s.ops id }.lowerFlag o.thread o.uid o.flag

/-- The line that an operation's read is logged under (R294, R306). -/
def Op.readLine (o : Op) : Option Nat :=
  match o.acc.loc with
  | .remote p va true => some (remoteLine p va)
  | _ => o.acc.gradedLine

/-- The state with an operation's read in the logs; nothing while the read log has no room (R297). -/
def State.opLogRead (s : State) (o : Op) : Option State :=
  match o.readLine with
  | some l => s.logRead o.task l
  | none => some s

/-- A graded write of another package (R306): the request is sent, the thread holds at the instruction, and the answer, an outcome
numbered as AMEND's with the old value, ends the hold. Since it may amend there, it is sent as a release (R312; DESIGN CHOICE, log 37). -/
def State.remoteGraded (s : State) (k : Nat) (t : Thread) (ab : Ab) (o : Op) (done : State → List Byte → State) : Res :=
  match s.awaited k t with
  | none => .stay (s.issueOp k t ab { o with ord := Ord16.withRel o.ord }).sendReady
  | some (id, x) =>
    match x.resp with
    | none => .stay s
    | some (bs, .performed) =>
      -- an atomic reads the line too: it waits while the read log has no room (R93, R297)
      match if x.kind.atomic then s.opLogRead x else some s with
      | none => .stay s
      | some s1 =>
        let s := (s1.opSample x).dropOp id x
        match (bs.headD 0).toNat with
        | 4 => .trap s cFinality
        | 5 => .stay (s.depthFault k)
        | _ => .ok (done s bs.tail)
    | some (_, fate) =>
      let s := (if fate == .lost then s else s.opSample x).dropOp id x
      match x.kind with
      | .atom .. | .cas _ =>
        .ok (s.modThread k fun t => { t with deferred := t.deferred ++
          [⟨((x.flag.map (·.val)).getD 0), if fate == .lost then 9 else 8⟩] })
      | _ => .ok (s.modThread k (Thread.noteFail · fate))

/-- Would a graded write of these bytes amend its line (R294)? -/
def State.wouldAmend (s : State) (h : Nat) (data : List Byte) : Bool :=
  let g := (s.line (h / 64)).grade
  g != .none && g != .final && s.bytes h data.length != data

/-- A graded write is ordered as a release where it amends (R312). -/
def State.gradedOrd (s : State) (h : Nat) (data : List Byte) (o : Ord16) : Ord16 := if s.wouldAmend h data then Ord16.withRel o else o

/-- A graded access that has held its thread is counted, and sampled where it is the one that is tagged (R377). -/
def State.sampleHeld (s : State) (o : Op) : State :=
  s.sampleNow o.core (slotOfThread o.thread) false o.part (o.pc - s.bandBase (bandOfThread o.thread)).toNat o.va o.kind.code o.acc.loc

/-- A write of a thread to a graded line of this package (R92, R294): `written` says what follows once it has been checked. While it is
held for the check the instruction has not issued, so its flag is down; of a line of another package, whose request has left
(State.remoteGraded), it is up (DESIGN CHOICE, log 88: the manual does not say whether a held store has issued, R9). -/
def State.heldWrite (s : State) (k h : Nat) (data : List Byte) (req : Grade) (written : State → State) : Res :=
  match s.gradedWrite h data req (some (s.taskOf k)) (s.depthLimit (s.instOf k)) with
  | (.final, s) => .trap s cFinality
  | (.depth, s) => .stay (s.depthFault k)
  | (.waitLog, s) | (.waitAck, s) => .stay s
  | (.lost, s) => .ok (written (s.modThread k (Thread.noteFail · .lost)))
  | (_, s) => .ok (written s).settle

/-! ### Loads and stores -/

/-- LD (R83-R88). -/
def execLd (sz : Sz) (ord : Ord16) (ab : Ab) (d : LaneDst) (a : LaneSrc) (ofs : BitVec 22) (s : State) : Out :=
  laneFrame s (runFrom sz.regs (LaneDst.regs d)) (LaneSrc.regs a) fun k t =>
    s.laneAccess k (s.laneAddr k a ofs) (szBytes sz) (szBytes sz) 0 .read true fun s va acc =>
      let s := s.countOnce k t acc 1 0
      .ok (s.issueOp k t ab { s.blankOp k t (.ld sz) with d := d, va := va, acc := acc, n := szBytes sz, ord := ord }).sendReady

/-- LDRO (R89): in slice space a relaxed LD. -/
def execLdro (sz : Sz) (ab : Ab) (d : LaneDst) (a : LaneSrc) (ofs : BitVec 22) (s : State) : Out :=
  laneFrame s (runFrom sz.regs (LaneDst.regs d)) (LaneSrc.regs a) fun k t =>
    s.laneAccess k (s.laneAddr k a ofs) (szBytes sz) (szBytes sz) 0 .read true fun s va acc =>
      let s := s.countOnce k t acc 1 0
      let kind := if isSlice va then OpKind.ld sz else OpKind.ldro sz
      .ok (s.issueOp k t ab { s.blankOp k t kind with d := d, va := va, acc := acc, n := szBytes sz }).sendReady

/-- ST (R90-R92): posted to a page that is not graded; a graded store, a plain one requesting FINAL, holds its thread for the check. -/
def execSt (g : Grade) (sz : Sz) (ord : Ord16) (ab : Ab) (a : LaneSrc) (ofs : BitVec 22) (b : LaneSrc) (s : State) : Out :=
  laneFrame s [] (LaneSrc.regs a ++ runFrom sz.regs (LaneSrc.regs b)) fun k t =>
    let n := szBytes sz
    let data := s.storeData k sz b
    s.laneAccess k (s.laneAddr k a ofs) n n 1 .write true fun s va acc =>
      let s := s.countOnce k t acc 0 1
      let req := if g == .none then .final else g
      let o := { s.blankOp k t .st with va := va, acc := acc, n := n, data := data, ord := ord, words := [BitVec.ofNat 32 (gradeCode req)] }
      if !acc.graded then .ok (s.issueOp k t ab o)
      else
        match acc.loc.home with
        | none => s.remoteGraded k t ab o fun s _ => s
        | some h =>
          if !s.mayPerform s.nextId { o with ord := s.gradedOrd h data ord } then .stay s
          else s.heldWrite k h data req fun s => s.sampleHeld o

/-! ### Atomics -/

/-- The registers of an atomic's operand or destination (R27, R93). -/
def atomRun (w : Bool) : Nat := if w then 2 else 1

/-- The compare value of ATOMCAS: D as it stands at issue; field 255 reads as the constant it encodes as a source (DEDUCED, log 21). -/
def State.casCompare (s : State) (k : Nat) (w : Bool) (d : LaneDst) : Nat :=
  match d with
  | .v n => s.laneSrc64 k w (.v n)
  | .discard => s.laneSrc64 k w (.k 63)

/-- The operand of an atomic (R29, R93): fadd reads it as FP32, so a constant has its float reading; the others as the data of memory. -/
def State.atomData (s : State) (k : Nat) (op : AtomOp) (w : Bool) (b : LaneSrc) : Nat :=
  if op == .fadd then (s.laneSrc k .f32 b).toNat else s.laneSrc64 k w b

/-- The value an atomic writes, if it writes (R93). -/
def OpKind.newValue (k : OpKind) (old data cmp : Nat) : Option Nat :=
  match k with
  | .atom op w | .red op w => some (atomNew op w old data)
  | .cas _ => if old == cmp then some data else none
  | _ => none

/-- A held atomic's old value in its destination; an acquire invalidates the read-only path cache (R93, R228). -/
def State.atomReturn (s : State) (k : Nat) (o : Op) (old : List Byte) : State :=
  let s := (s.modThread k fun t => t.setRunD o.d (wordsOfBytes old)).sampleHeld o
  if Ord16.isAcq o.ord then s.dropRoc o.core else s

/-- The clk at which a thread that stands at a graded atomic has issued it, now or when it was first held (R94). -/
def Thread.atomAt (t : Thread) (clk : Nat) : Nat := if t.status == .held then (t.heldOn.map (·.1)).getD clk else clk

/-- R94: is a graded atomic on the same address of a lower lane home of the issue group still held, which goes first? -/
def State.lowerHeld (s : State) (k : Nat) (t : Thread) (l : Loc) : Bool :=
  many s.threads fun j u => coreOfThread j == coreOfThread k && laneOfThread j < laneOfThread k && u.status == .held && u.pc == t.pc &&
    u.heldOn == some (t.atomAt s.clk, l)

/-- A graded atomic holds its thread (R93, R94). -/
def State.stayAtomic (s : State) (k : Nat) (t : Thread) (l : Loc) : Res := .stay (s.modThread k fun u => { u with heldOn := some (t.atomAt s.clk, l) })

/-- An atomic on a graded line of this package: a graded read and a graded write requesting FINAL (R93), the lower lane homes of its issue
group first (R94). -/
def State.heldAtomic (s : State) (k : Nat) (t : Thread) (h : Nat) (o : Op) : Res :=
  let new := (o.kind.newValue (leNat (s.bytes h o.n)) (leNat o.data) (leNat o.cmp)).map (leBytes o.n)
  if !s.mayPerform s.nextId { o with ord := s.gradedOrd h (new.getD (s.bytes h o.n)) o.ord } || s.lowerHeld k t o.acc.loc then
    s.stayAtomic k t o.acc.loc
  else
    match s.logRead o.task (h / 64) with
    | none => s.stayAtomic k t o.acc.loc
    | some s1 =>
      let old := s1.bytes h o.n
      match o.kind.newValue (leNat old) (leNat o.data) (leNat o.cmp) with
      | some m =>
        if leBytes o.n m == old then .ok (s1.atomReturn k o old).settle
        else
          match s1.heldWrite k h (leBytes o.n m) .final fun s => s.atomReturn k o old with
          -- a depth fault ends the thread (R308); a wait that begins keeps its amendment; any other wait leaves no trace
          | .stay s2 =>
            if s2.thread? k != s1.thread? k then .stay s2 else if s2.amends == s1.amends then s.stayAtomic k t o.acc.loc else s2.stayAtomic k t o.acc.loc
          | r => r
      | none => .ok (s1.atomReturn k o old).settle

/-- ATOM, ATOMCAS and RED from a checked access on (R84, R93). -/
def State.atomic (s : State) (k : Nat) (t : Thread) (ab : Ab) (addr : Nat) (o : Op) : Res :=
  s.laneAccess k addr o.n o.n 2 .write false fun s va acc =>
    let s := s.countOnce k t acc 1 1
    let o := { o with va := va, acc := acc }
    if !acc.graded then .ok (s.issueOp k t ab o).sendReady
    else
      match acc.loc.home with
      | none => s.remoteGraded k t ab o fun s old => s.atomReturn k o old
      | some h => s.heldAtomic k t h o

/-- ATOM (R93). -/
def execAtom (op : AtomOp) (w : Bool) (ord : Ord16) (ab : Ab) (d : LaneDst) (a : LaneSrc) (ofs : BitVec 22) (b : LaneSrc) (s : State) : Out :=
  laneFrame s (runFrom (atomRun w) (LaneDst.regs d)) (LaneSrc.regs a ++ runFrom (atomRun w) (LaneSrc.regs b)) fun k t =>
    let n := atomBytes w
    s.atomic k t ab (s.laneAddr k a ofs) { s.blankOp k t (.atom op w) with
      d := d, n := n, data := leBytes n (s.atomData k op w b), ord := ord }

/-- ATOMCAS (R93). -/
def execAtomcas (w : Bool) (ord : Ord16) (ab : Ab) (d : LaneDst) (a : LaneSrc) (ofs : BitVec 22) (b : LaneSrc) (s : State) : Out :=
  laneFrame s [] (runFrom (atomRun w) (LaneDst.regs d) ++ LaneSrc.regs a ++ runFrom (atomRun w) (LaneSrc.regs b)) fun k t =>
    let n := atomBytes w
    s.atomic k t ab (s.laneAddr k a ofs) { s.blankOp k t (.cas w) with
      d := d, n := n, data := leBytes n (s.laneSrc64 k w b), cmp := leBytes n (s.casCompare k w d), ord := ord }

/-- RED (R93). -/
def execRed (op : AtomOp) (w : Bool) (ord : Ord16) (ab : Ab) (a : LaneSrc) (ofs : BitVec 22) (b : LaneSrc) (s : State) : Out :=
  laneFrame s [] (LaneSrc.regs a ++ runFrom (atomRun w) (LaneSrc.regs b)) fun k t =>
    let n := atomBytes w
    s.atomic k t ab (s.laneAddr k a ofs) { s.blankOp k t (.red op w) with
      n := n, data := leBytes n (s.atomData k op w b), ord := ord }

/-! ### CPA, FENCE, GRD, GCONF -/

/-- CPA (R96): both addresses aligned to 32; the destination in slice space; a count of 0 reads nothing. The destination's window and slice
are checked before the source's window (DESIGN CHOICE, log 104: R236 gives the two no order). -/
def execCpa (ab : Ab) (d : Fin 160) (a : LaneSrc) (ofs : BitVec 22) (b : LaneSrc) (s : State) : Out :=
  laneFrame s [] (d.val :: LaneSrc.regs a ++ LaneSrc.regs b) fun k t =>
    let bd := bandOfThread k
    let dt := (t.getV d.val).toNat
    let st := s.laneAddr k a ofs
    let n := min (s.laneSrc k .int b).toNat 32
    if dt % 32 != 0 || st % 32 != 0 then .trap s cMisaligned
    else
      match s.bandVa bd dt with
      | .error e => .trap s (cAccess e)
      | .ok dva =>
        if !isSlice dva then .trap s (cAccess 13)
        else
          match s.sliceAcc (s.bandSpace bd) (coreOfThread k) dva, s.bandVa bd st with
          | .bad e, _ => .trap s (cAccess e)
          | .park r, _ => .park s dva 3 r
          | .ok _, .error e => .trap s (cAccess e)
          | .ok dst, .ok va =>
            let o := { s.blankOp k t (.cpa n dst dva) with va := va, n := n }
            if n == 0 then .ok (s.issueOp k t ab { o with acc := dst })
            else s.placeVa (s.bandSpace bd) (coreOfThread k) va n 3 .read false fun s acc =>
              let s := s.countOnce k t acc 1 0
              .ok (s.issueOp k t ab { o with acc := acc }).sendReady

/-- FENCE (R95): the thread goes on issuing; the status comes when the flag falls. -/
def execFence (kind : FenceKind) (_scope : Scope) (ab : Ab) (d : LaneDst) (s : State) : Out :=
  laneFrame s (LaneDst.regs d) [] fun k t => .ok (s.issueOp k t ab { s.blankOp k t (.fence kind) with d := d })

/-- GRD (R97): the address need not be aligned. DEDUCED, log 65. Of a slice that belongs to another partition it is refused at the port, as
LOAD_REFUSED_OR_LOST (R84; DESIGN CHOICE, log 101). -/
def execGrd (ab : Ab) (d : LaneDst) (a : LaneSrc) (ofs : BitVec 22) (s : State) : Out :=
  laneFrame s (LaneDst.regs d) (LaneSrc.regs a) fun k t =>
    s.laneAccess k (s.laneAddr k a ofs) 1 1 0 .read false fun s va acc =>
      .ok (s.issueOp k t ab { s.blankOp k t .grd with d := d, va := va, acc := acc, n := 1 }).sendReady

/-- GCONF (R98); refused as GRD is (log 101). -/
def execGconf (g : Grade) (ab : Ab) (d : LaneDst) (a : LaneSrc) (ofs : BitVec 22) (s : State) : Out :=
  laneFrame s (LaneDst.regs d) (LaneSrc.regs a) fun k t =>
    s.laneAccess k (s.laneAddr k a ofs) 1 1 0 .read false fun s va acc =>
      .ok (s.issueOp k t ab { s.blankOp k t (.gconf g) with d := d, va := va, acc := acc, n := 1 }).sendReady

end Sys2Proof.Machine
end

