-- ==== Sys2Proof/Machine/Complete.lean ====
section
/-! DEFINITION. Completions of a thread's outstanding operations: the events by which they are performed, deliver, fail and lower their
flags (R9, R87-R98, R111, R112, R237), the gathering pool (R210, R211) and watches firing (R104). -/

namespace Sys2Proof.Machine

/-! ### Shared parts -/

/-- Is the thread that issued an operation still there and running (R109)? -/
def State.opThread (s : State) (o : Op) : Bool := (s.thread? o.thread).any fun t => t.uid == o.uid && t.status != .exited

/-- What an operation writes to its thread; nothing after its EXIT (R109). -/
def State.opDeliver (s : State) (o : Op) (f : Thread → Thread) : State := if s.opThread o then s.modThread o.thread f else s

/-- An operation is over: its flag falls (R9), and what waited for it may go on. -/
def State.opDone (s : State) (id : Nat) (o : Op) : State := ((s.dropOp id o).sendReady).settle

/-- An event of an outstanding operation; with no such operation, or before its time, nothing happens. DESIGN CHOICE, log 6. -/
def opFrame (s : State) (id : Nat) (body : Op → State) : Out :=
  match mget s.ops id with
  | some o => .next (if s.mayPerform id o then body o else s)
  | none => .next s

/-- The bytes of a load's location as its thread reads them: its own items of the egress hold buffer, and those that left it while the load
was outstanding, laid over what the port gave (R87, R230). Where a RED touches bytes that another package did not send, they are free
(log 4). -/
def State.opBytes (s : State) (o : Op) (mem : List Byte) : List Byte × State :=
  let items := o.laid ++ s.itemsOf o.uid
  if items.any fun x => x.touches o.uid o.acc.loc o.n then
    let i := o.va % 16
    let l := o.acc.loc.back i
    let (blk, s) := match l.home with
      | some h => (s.bytes h 16, s)
      | none => s.freeBytes 16
    (((items.foldl (fun bs x => x.lay o.uid l bs) (layBytes blk i (mem.take o.n))).drop i).take o.n, s)
  else (mem.take o.n, s)

/-- A read failed (R237): deferred to the thread's next clause boundary with its DETAIL. -/
def State.opFailRead (s : State) (id : Nat) (o : Op) (detail : Nat) : State :=
  let s1 := s.opDeliver o fun t => { t with deferred := t.deferred ++ [⟨(o.flag.map (·.val)).getD 0, detail⟩] }
  -- a lost request has no response to record (R377)
  (if detail == 9 then s1 else s1.opSample o).opDone id o

/-- Is an access refused at this package's slice port (R84)? -/
def State.opRefused (s : State) (o : Op) : Bool := s.refusedAt o.core o.part o.acc.loc

/-- May a write end in a fate (R84, R91, R358)? -/
def State.fateOk (s : State) (o : Op) (fate : Fate) : Bool :=
  match o.acc.loc, fate with
  | .remote .., .performed | .remote .., .refused => true
  | .remote .., .lost => s.mayLose o
  | .slice .., .refused => s.refusedAt o.core o.part o.acc.loc
  | .slice .., .performed => !s.refusedAt o.core o.part o.acc.loc
  | _, .performed => true
  | _, _ => false

/-! ### Loads -/

/-- A line enters a core's read-only path cache, which holds 256 KiB (R1): where it is full, one that the machine chooses leaves (log 4). -/
def State.putRoc (s : State) (c l : Nat) : State :=
  let bs := s.bytes (64 * l) 64
  let x := s.core c
  if (mget x.roc l).isSome || x.roc.length < Config.rocLines then s.setCore c { x with roc := mput x.roc l bs }
  else
    let (v, s) := s.freeNumber
    s.setCore c { x with roc := mput (x.roc.eraseIdx (v % x.roc.length)) l bs }

/-- A read through the read-only path cache (R89, R228): a cached line serves it or has been dropped, as the machine pleases (log 4); a
fill caches the line, but one that was requested before the last invalidation is discarded. A line of a graded page serves only as it
stands, since a read's grade and its data are of one version (R312; DEDUCED, log 84). -/
def State.rocRead (s : State) (id c h n : Nat) (graded : Bool) : List Byte × State :=
  let l := h / 64
  let fill (s : State) : List Byte × State := (s.bytes h n, if (s.core c).rocAt ≤ id then s.putRoc c l else s)
  match mget (s.core c).roc l with
  | some bs =>
    if graded then fill s
    else
      match s.freeChoice with
      | (true, s) => ((bs.drop (h % 64)).take n, s)
      | (false, s) => fill s
  | none => fill s

/-- What a load reads: memory, the read-only path, or the fabric's response; nothing where the value has not come. -/
def State.loadValue (s : State) (id : Nat) (o : Op) (ro : Bool) : Option (List Byte × State) :=
  match o.acc.loc.home with
  | some h => some (if ro then s.rocRead id o.core h o.n o.acc.graded else (s.bytes h o.n, s))
  | none =>
    match o.resp with
    | some (bs, .performed) => some (bs, s)
    | _ => none

/-- A load's data returns (R88, R89, R230). -/
def State.completeLoad (s : State) (id : Nat) (o : Op) (sz : Sz) (ro : Bool) : State :=
  if s.opRefused o then s
  else if s.accBad o.acc o.n then s.opFailRead id o 12
  else
    match s.loadValue id o ro with
    | none => s
    | some (bs, s1) =>
      match s1.opLogRead o with
      | none => s
      | some s2 =>
        -- LDRO is outside R87's order of one location, and takes what the read-only path gave (R228)
        let (data, s2) := if ro then (bs, s2) else s2.opBytes o bs
        let s3 := s2.opDeliver o fun t => t.setRunD o.d (loadWords sz data)
        let s4 := if Ord16.isAcq o.ord then s3.dropRoc o.core else s3
        (s4.opSample o).opDone id o

/-- LOAD_COMPLETE (R88, R89). -/
def execLoadComplete (op : Nat) (s : State) : Out :=
  opFrame s op fun o =>
    match o.kind with
    | .ld sz => s.completeLoad op o sz false
    | .ldro sz => s.completeLoad op o sz true
    | _ => s

/-- Is an operation's refusal due: at a slice port of this package, or by its home package (R84, R237)? -/
def State.refusalDue (s : State) (o : Op) : Bool :=
  s.opRefused o ||
  match o.resp with
  | some (_, .refused) => true
  | _ => false

/-- Does an operation await another package's tumbler at its instruction (R306)? -/
def Op.heldThere (o : Op) : Bool :=
  o.acc.graded && o.acc.loc.pkg?.isSome &&
  match o.kind with
  | .st => true
  | k => k.atomic

/-- An operation held at its instruction fails: its thread learns it there (R91, R237). -/
def State.failThere (s : State) (id : Nat) (fate : Fate) : State := { s with ops := mmod s.ops id fun o => { o with resp := some ([], fate) } }

/-- A load or value-returning atomic is refused or lost (R237), and so are GRD and GCONF (DESIGN CHOICE, log 101: R237 does not name them). -/
def State.refuseRead (s : State) (id : Nat) (o : Op) (lost : Bool) : State :=
  let due := if lost then s.mayLose o else s.refusalDue o
  if !due then s
  else if o.heldThere then s.failThere id (if lost then .lost else .refused)
  else s.opFailRead id o (if lost then 9 else 8)

/-- LOAD_REFUSED_OR_LOST (R237). -/
def execLoadRefusedOrLost (op : Nat) (lost : Bool) (s : State) : Out :=
  opFrame s op fun o =>
    match o.kind with
    | .ld _ | .ldro _ | .atom .. | .cas _ | .grd | .gconf _ => s.refuseRead op o lost
    | .fill | .eng _ => if lost && s.mayLose o then s.failThere op .lost else s
    | _ => s

/-! ### Stores and atomics -/

/-- A thread's failure is counted, wherever the thread now is: on a core, or in a saved context (R91, R231). -/
def State.noteUid (s : State) (uid : Nat) (fate : Fate) : State :=
  let f := fun (t : Thread) => if t.uid == uid && t.status != .exited then t.noteFail fate else t
  { s with
    threads := mmap s.threads fun _ t => f t
    saved := s.saved.map fun x => { x with threads := mmap x.threads fun _ t => f t } }

/-- An item with no thread left that would count its failure. -/
def HeldItem.unheard (x : HeldItem) (uid : Nat) : HeldItem :=
  match x with
  | .store k u a d va p who g => .store k u a d va p (if u == uid then [] else who) g
  | .red k u a op w d va p who g => .red k u a op w d va p (if u == uid then [] else who) g
  | .signal .. => x

/-- An item that has left the egress hold buffer fails: its thread counts it, or, once for the command, every thread that counts an engine
command's failure (R91, R231). -/
def State.noteEgress (s : State) (o : Op) (fate : Fate) : State :=
  let s := o.who.foldl (fun s m => s.noteUid m.2 fate) (s.noteUid o.uid fate)
  if o.who.isEmpty then s
  else s.modTask o.task fun t => { t with leaving := t.leaving.map (·.unheard o.uid), held := t.held.map (·.unheard o.uid) }

/-- A write failed (R91, R95). -/
def State.opFailWrite (s : State) (id : Nat) (o : Op) (fate : Fate) : State :=
  let s1 := if o.egress then s.noteEgress o fate else s.opDeliver o (Thread.noteFail · fate)
  (if fate == .lost then s1 else s1.opSample o).opDone id o

/-- The tag under which operation id enters the egress hold buffer. -/
def Op.holdTag (o : Op) (id : Nat) : HTag where
  seq := id
  ord := o.ord
  smp := o.tag

/-- A store is performed at its port, or enters the egress hold buffer, which samples it as it performs it (R90, R91, R230, R377). -/
def State.performOp (s : State) (id : Nat) (o : Op) : State :=
  if o.void then s
  else if s.heldBack o then s.holdItem o.task (.store o.thread o.uid o.acc o.data o.va o.part [] (o.holdTag id))
  else (s.performStore o.acc o.data o.part o.ord).opSample o

/-- Must an operation wait to enter the egress hold buffer (R305)? -/
def State.holdFull (s : State) (o : Op) : Bool := !o.void && s.heldBack o && !s.holdRoom o.inst (dieOfCore o.core) o.data.length

/-- STORE_COMPLETE (R90, R91, R95): also the failure of a RED. -/
def State.completeStore (s : State) (id : Nat) (o : Op) (fate : Fate) : State :=
  if !s.fateOk o fate then s
  else if o.core == feCore && !o.egress then
    -- a stream's store: its stream takes the outcome (R266, R271)
    if o.heldThere || o.resp.isSome then s
    else (if fate == .performed then s.performStore o.acc o.data o.part o.ord else s).modOp id fun o => { o with resp := some ([], fate) }
  else if o.heldThere then (if fate == .performed then s else s.failThere id fate)
  else
    match fate with
    | .performed => if o.kind == .st && !s.holdFull o then (s.performOp id o).opDone id o else s
    | f => s.opFailWrite id o f

/-- STORE_COMPLETE (R90). -/
def execStoreComplete (op : Nat) (fate : Fate) (s : State) : Out :=
  opFrame s op fun o =>
    match o.kind with
    | .st | .red .. => s.completeStore op o fate
    | _ => s

/-- An atomic delivers the old value (R93); a RED delivers nothing. -/
def State.atomDeliver (s : State) (o : Op) (old : List Byte) : State :=
  let s1 := if o.kind.isRed then s else s.opDeliver o fun t => t.setRunD o.d (wordsOfBytes old)
  if Ord16.isAcq o.ord then s1.dropRoc o.core else s1

/-- An atomic or RED is performed at its port (R93). A line that an error has struck since the issue fails it: an atomic as a load (R363, R237),
a RED as a store, which never traps (R237). -/
def State.completeAtomic (s : State) (id : Nat) (o : Op) : State :=
  if o.heldThere || s.opRefused o then s
  else if o.void && !o.sent then s.opDone id o
  else if s.accBad o.acc o.n && o.kind.isRed then s.opFailWrite id o .refused
  else if s.accBad o.acc o.n then s.opFailRead id o 12
  else if o.kind.isRed && !o.sent && s.heldBack o then
    match o.kind with
    | .red op w =>
      if s.holdFull o then s else (s.holdItem o.task (.red o.thread o.uid o.acc op w o.data o.va o.part [] (o.holdTag id))).opDone id o
    | _ => s
  else
    match o.acc.loc.home with
    | some h =>
      let old := s.bytes h o.n
      let s1 := match o.kind.newValue (leNat old) (leNat o.data) (leNat o.cmp) with
        | some m => s.writeHome h (leBytes o.n m)
        | none => s
      ((s1.atomDeliver o old).opSample o).opDone id o
    | none =>
      match o.resp with
      | some (bs, .performed) => ((s.atomDeliver o bs).opSample o).opDone id o
      | _ => s

/-- ATOMIC_COMPLETE (R93, R94). -/
def execAtomicComplete (op : Nat) (s : State) : Out :=
  opFrame s op fun o => if o.kind.atomic && !o.done then s.completeAtomic op o else s

/-! ### CPA, FENCE, GRD, GCONF -/

/-- The n valid bytes of a CPA's source: of this package, or the fabric's response. -/
def State.cpaSource (s : State) (o : Op) (n : Nat) : Option (List Byte) :=
  if n == 0 then some []
  else
    match o.acc.loc.home with
    | some h => some (s.bytes h n)
    | none =>
      match o.resp with
      | some (bs, .performed) => some (bs.take n)
      | _ => none

/-- CPA_COMPLETE (R96): all 32 bytes land, or the copy fails (R91, R231): after an earlier fence has taken its word, which reports earlier
writes only. -/
def State.completeCpa (s : State) (id : Nat) (o : Op) (n : Nat) (dst : Acc) (fate : Fate) : State :=
  let refused := (n != 0 && s.refusalDue o) || s.refusedAt o.core o.part dst.loc
  match fate with
  | .performed =>
    if refused then s
    else if n != 0 && s.accBad o.acc n && s.fenceBefore id o then s
    else if n != 0 && s.accBad o.acc n then s.opFailWrite id o .refused
    else
      match s.cpaSource o n, s.opLogRead o with
      | some bs, some s1 =>
        ((s1.performStore dst ((List.range 32).map fun i => if i < n then bs.getD i 0 else 0) o.part).opSample o).opDone id o
      | _, _ => s
  | .refused => if (refused || dst.loc.pkg?.isSome) && !s.fenceBefore id o then s.opFailWrite id o .refused else s
  | .lost => if (s.mayLose o || s.lostTo dst.loc o.issued) && !s.fenceBefore id o then s.opFailWrite id o .lost else s

/-- CPA_COMPLETE (R96). -/
def execCpaComplete (op : Nat) (fate : Fate) (s : State) : Out :=
  opFrame s op fun o =>
    match o.kind with
    | .cpa n dst _ => s.completeCpa op o n dst fate
    | _ => s

/-- Is a store of a thread still held in the egress hold buffer (R95, R231)? A RED there counts as a store (DESIGN CHOICE, log 85: the manual
speaks of stores). -/
def State.holdsStore (s : State) (uid : Nat) : Bool := many s.tasks fun _ t => t.held.any (·.from uid)

/-- FENCE's status word (R95). -/
def fenceWord (t : Thread) (held : Bool) : Word :=
  BitVec.ofNat 32 (t.nfail * 256 + boolNat held * 4 + boolNat t.refused * 2 + boolNat t.deadlink)

/-- FENCE_COMPLETE (R95, R231): the word is taken and the counters are cleared; an acquire drops the read-only path cache (R228). -/
def execFenceComplete (op : Nat) (s : State) : Out :=
  opFrame s op fun o =>
    match o.kind with
    | .fence k =>
      let held := s.holdsStore o.uid
      let s1 := s.opDeliver o fun t => { t.setD o.d (fenceWord t held) with nfail := 0, refused := false, deadlink := false }
      (if FenceKind.isAcq k then s1.dropRoc o.core else s1).opDone op o
    | _ => s

/-- The status word of GRD (R97); nothing while another package has not answered, and of a slice whose port refuses it (log 101). -/
def State.grdWord (s : State) (o : Op) : Option Nat :=
  if s.opRefused o then none
  else if !o.acc.graded then some 0x80
  else
    match o.acc.gradedLine with
    | some l => some (s.line l).byte
    | none =>
      match o.resp with
      | some (bs, .performed) => some (bs.headD 0).toNat
      | _ => none

/-- GRD_COMPLETE (R97). -/
def execGrdComplete (op : Nat) (s : State) : Out :=
  opFrame s op fun o =>
    match o.kind with
    | .grd =>
      match s.grdWord o with
      | some w => (s.opDeliver o fun t => t.setD o.d (BitVec.ofNat 32 w)).opDone op o
      | none => s
    | _ => s

/-- GCONF's status and the state after it (R98); nothing while another package has not answered. -/
def State.gconfAct (s : State) (o : Op) (g : Grade) : Option (Nat × State) :=
  if s.opRefused o then none
  else if !o.acc.graded then some (3, s)
  else
    match o.acc.gradedLine with
    | some l => some (s.confirmLine l g (s.taint o.task))
    | none =>
      match o.resp with
      | some (bs, .performed) => some ((bs.headD 0).toNat, s)
      | _ => none

/-- GCONF_COMPLETE (R98). -/
def execGconfComplete (op : Nat) (s : State) : Out :=
  opFrame s op fun o =>
    match o.kind with
    | .gconf g =>
      match s.gconfAct o g with
      | some (st, s1) => (s1.opDeliver o fun t => t.setD o.d (BitVec.ofNat 32 st)).opDone op o
      | none => s
    | _ => s

/-! ### The gathering pool (R210, R211) -/

/-- The records in the pool of a run. -/
def State.poolCount (s : State) (inst : Nat) : Nat :=
  s.pool.foldl (fun n b => if b.key.inst == inst then n + (b.recs.filter fun r => !r.spilled).length else n) 0

/-- The reserved share of a run (R210, R279). -/
def State.poolShare (s : State) (inst : Nat) : Nat := ((s.graphOf inst).map (·.pool)).getD 0

/-- The pool's room that is taken: the running runs' shares, or their records where those are more (R210). -/
def State.poolTaken (s : State) : Nat :=
  s.insts.foldl (fun n x => if x.2.ended then n else n + max (s.poolShare x.1) (s.poolCount x.1)) 0

/-- The records in a level-1 partition's spill area. -/
def State.spillCount (s : State) (lp1 : Nat) : Nat :=
  s.pool.foldl (fun n b => if (s.inst? b.key.inst).any (·.lp1 == lp1) then n + (b.recs.filter (·.spilled)).length else n) 0

/-- Where a record of a run finds room (R210): in the pool, in the spill area (true), or nowhere. -/
def State.poolRoom (s : State) (inst : Nat) : Option Bool :=
  let lp1 := ((s.inst? inst).map (·.lp1)).getD 0
  if s.poolCount inst < s.poolShare inst || s.poolTaken < Config.gatherPool then some false
  else if s.spillCount lp1 < (s.lp1 lp1).gspill then some true
  else none

/-- A partial band is released (R211). -/
def State.releaseBand (s : State) (b : PartialBand) : State :=
  { s with pool := s.pool.filter (· != b), released := s.released ++ [⟨b.key, b.recs, s.clk, none⟩] }

/-- The oldest partial band of a run: they stand in the order in which they were opened. -/
def State.oldestBand (s : State) (inst : Nat) : Option PartialBand := s.pool.find? (·.key.inst == inst)

/-- A record is accepted into its key's partial band, which is released where R211 says so. -/
def State.acceptRec (s : State) (key : GatherKey) (r : PoolRec) : State :=
  let old := s.pool.find? (·.key == key)
  let b : PartialBand := match old with
    | some b => { b with recs := b.recs ++ [r] }
    | none => ⟨key, [r], s.clk⟩
  let s : State := match old with
    | some _ => { s with pool := s.pool.map fun x => if x.key == key then b else x }
    | none => { s with pool := s.pool ++ [b] }
  if b.recs.length == 32 || bitAt ((r.words.headD 0).toNat) 0 then s.releaseBand b
  else if s.poolShare key.inst ≤ s.poolCount key.inst then
    match s.oldestBand key.inst with
    | some x => s.releaseBand x
    | none => s
  else s

/-- The ENTRY of a record's word 0 (R111). -/
def recEntry (w : Word) : Nat := bits w.toNat 31 5

/-- A record's status and the state after it (R111, R299). The operation carries its issuer's role and node as `va` and `n`.
DEDUCED, log 67. -/
def State.contAct (s : State) (o : Op) : Nat × State :=
  let w0 := o.words.headD 0
  if bits w0.toNat 4 1 != 0 || !s.inCode o.inst (s.codeBase o.inst o.n o.va + BitVec.ofNat 56 (32 * recEntry w0)) then (2, s)
  else if s.cancelled o.inst || (s.task? o.task).any (·.refire.isSome) then (0, s)
  else
    match s.poolRoom o.inst with
    | none => (1, s)
    | some sp => (0, s.acceptRec ⟨o.inst, o.n, o.va, recEntry w0⟩ ⟨o.words, o.task, s.taint o.task, sp, o.va⟩)

/-! ### ENQ (R112, R289) -/

/-- Words of the queue-buffer SRAM that queues for which p holds take (R267). -/
def State.sramWords (s : State) (p : Nat → Bool) : Nat :=
  s.queues.foldl (fun n x => if p x.1 then n + (x.2.words.filter (·.place == .sram)).length else n) 0

/-- The level-1 partition with the highest ratio of SRAM held to weighted share, the lowest of them (R267). -/
def State.heaviest (s : State) : Nat :=
  let held (p : Nat) : Nat := s.sramWords fun k => k / 1024 == p
  (List.range 16).foldl (fun m p => if held m * (s.lp1 p).qweight < held p * (s.lp1 m).qweight then p else m) 0

/-- Move the last n SRAM words of a queue to its swap area. -/
def Queue.evict (q : Queue) (n : Nat) : Queue :=
  let keep := (q.words.filter (·.place == .sram)).length - n
  let go (acc : Nat × List QWord) (w : QWord) : Nat × List QWord :=
    if w.place == .sram then (acc.1 + 1, acc.2 ++ [if acc.1 < keep then w else { w with place := .swap }]) else (acc.1, acc.2 ++ [w])
  { q with words := (q.words.foldl go (0, [])).2 }

/-- R267: where n more words find no room, the last entries of the queue furthest from execution are evicted, once for each queue at
most. -/
def State.makeRoom : Nat → Nat → State → State
  | 0, _, s => s
  | f + 1, n, s =>
    let used := s.sramWords fun _ => true
    let cap := Config.queueBuffer / 4
    if used + n ≤ cap then s
    else
      let p := s.heaviest
      let ks := mkeys s.queues fun k _ => k / 1024 == p
      let held (k : Nat) : Nat := ((s.queue k).words.filter (·.place == .sram)).length
      match ks with
      | [] => s
      | k0 :: rest =>
        let k := rest.foldl (fun m k => if held m < held k then k else m) k0
        State.makeRoom f n (s.setQueue k ((s.queue k).evict (used + n - cap)))

/-- Words appended to a queue's stream (R265, R267, R289): in the queue buffer as far as it has room for them, the last ones evicted where
they alone are more. -/
def State.appendWords (s : State) (k : Nat) (ws : List Word) : State :=
  let s := State.makeRoom s.queues.length ws.length s
  let q := s.queue k
  let room := Config.queueBuffer / 4 - s.sramWords fun _ => true
  s.setQueue k { q with words := q.words ++ (ws.take room).map (fun w => ⟨w, .sram⟩) ++ (ws.drop room).map fun w => ⟨w, .swap⟩ }

/-- Bytes written by a party outside the cores within one line of a space; nothing where the place fails or is a graded page. -/
def State.outerWrite (s : State) (sp : Space) (va : Nat) (bs : List Byte) : Option State :=
  match s.place sp feCore va .write with
  | (.ok a, s) => if a.graded then none else some ((s.countAcc sp feCore a 0 1).performStore a bs sp.part)
  | _ => none

/-- Is an entry in the spill area? -/
def Place.spilled : Place → Bool
  | .spill _ => true
  | _ => false

/-- An entry is written into the spill area of queue k (R289), through the tables of the record that names the queue (R265). The front end
keeps the words too: they serve where the area cannot be read back (DESIGN CHOICE, log 99). -/
def State.spillEntry (s : State) (k : Nat) (ws : List Word) : State :=
  let q := s.queue k
  let va := q.spbase.toNat % 2 ^ 56 + 8 * (q.spills % 2 ^ q.splog2)
  let s := match s.findBind false (k / 1024) (k % 1024) with
    | some t => (s.outerWrite (s.spaceOf t (s.bind t).part) va (ws.flatMap fun (w : Word) => leBytes 4 w.toNat)).getD s
    | none => s
  s.setQueue k { q with
    spills := q.spills + 1
    words := q.words ++ ((List.range ws.length).zip ws).map fun (x : Nat × Word) => (⟨x.2, .spill (va + 4 * x.1)⟩ : QWord) }

/-- Where an entry of two words goes, and the status (R289). DEDUCED, log 17. -/
def State.enqAct (s : State) (lp1 a : Nat) (ws : List Word) : Nat × State :=
  if 1024 ≤ a then (3, s)
  else
    let k := 1024 * lp1 + a
    let q := s.queue k
    if q.splog2 == 0 || q.state == 0 then (3, s)
    else if 4 * q.words.length < 2 ^ q.qlog2 then (0, s.appendWords k ws)
    else if (q.words.filter (·.place.spilled)).length < 2 * 2 ^ q.splog2 then (1, s.spillEntry k ws)
    else (2, s)

/-- ENQ_COMPLETE (R112, R289); not while the front end pauses (R359). -/
def execEnqComplete (op : Nat) (s : State) : Out :=
  opFrame s op fun o =>
    if o.kind == .enq && !s.pause then
      let (st, s1) := s.enqAct (s.part o.part).parent o.va o.words
      (s1.opDeliver o fun t => t.setD o.d (BitVec.ofNat 32 st)).opDone op o
    else s

/-! ### Watches (R104) -/

/-- MONITOR_FIRE (R104, R137): a watch fires once, for a write or as lost, and arrives on its hasp; on one that is invalid it is counted or held
as on a valid one (DESIGN CHOICE, log 105: R137 gives it no thread to trap). Of a line of another package the event itself reports the write
there. DESIGN CHOICE, log 7. -/
def execMonitorFire (watch : Nat) (lost : Bool) (s : State) : Out :=
  match mget s.watches watch with
  | none => .next s
  | some w =>
    if !lost && !w.written && w.line < 2 ^ 52 then .next s
    else
      let h := s.hasp w.hasp
      .next ({ s with watches := mdel s.watches watch }.arriveHeld (w.hasp / 32) (w.hasp % 32)
        { h with moncnt := h.moncnt - 1 } lost).settle

end Sys2Proof.Machine
end

