-- ==== Sys2Proof/Machine/Engine.lean ====
section
/-! DEFINITION. What the engines' commands share (R145-R150): acceptance, the checks made then, the order in which commands run, their
reads and writes of memory, faults, and completion. -/

namespace Sys2Proof.Machine

/-! ### Acceptance -/

/-- The engine of a command: the matrix engine or the copy engine. -/
def CmdKind.engine : CmdKind → Seq
  | .copy .. => .cp
  | _ => .mx

/-- How many accepted, incomplete commands an engine holds (R145). A copy instruction whose layout record is being read takes a place already
(DESIGN CHOICE, log 107). -/
def State.engineLoad (s : State) (c : Nat) (q : Seq) : Nat :=
  (mkeys s.cmds fun _ x => x.core == c && x.kind.engine == q).length + (mkeys s.ops fun _ o => o.core == c && o.kind.isLayout && q == .cp).length

/-- The capacity of an engine (R145). -/
def engineCap : Seq → Nat
  | .mx => Config.mxCapacity
  | .cp => Config.cpCapacity

/-- A result of an instruction that has no effect where it traps or parks: its state is then the one before it (R235, R246). -/
def Res.undo (s0 : State) : Res → Res
  | .trap _ c => .trap s0 c
  | .park _ va kind reason => .park s0 va kind reason
  | r => r

/-- An engine takes a command: when it last took one from a band is kept (R145). -/
def State.noteTaken (s : State) (p : Party) (q : Seq) : State :=
  match p, q with
  | .band _, .mx => s.modCore p.core fun c => { c with mxAt := s.clk + 1 }
  | .band _, .cp => s.modCore p.core fun c => { c with cpAt := s.clk + 1 }
  | .strand _, _ => s

/-- R145: has an engine taken a band's command in this clk, before which a strand's would have been accepted? The strand's then comes to
the engine in a later clk. -/
def State.bandTook (s : State) (p : Party) (q : Seq) : Bool :=
  match p, q with
  | .strand _, .mx => (s.core p.core).mxAt == s.clk + 1
  | .strand _, .cp => (s.core p.core).cpAt == s.clk + 1
  | .band _, _ => false

/-- An accepted command's result. -/
def Res.taken (p : Party) (q : Seq) : Res → Res
  | .ok s => .ok (s.noteTaken p q)
  | r => r

/-- The frame of an engine instruction: in a free band it traps (R194); the block must hold the engine (R201); a full engine holds the
issuer at its slot, as does a band's command of the same clk (R145). A trap or a park leaves no effect of the operands' reads. -/
def engineFrameOf (s : State) (q : Seq) (free : Cause) (body : State → Party → List Nat → Nat → Block → Res) : Out :=
  uniFrame s fun s p ks =>
    match s.blockOfParty p with
    | none => .trap s free
    | some (n, b) =>
      if !b.hasEngine q then .trap s ⟨1, 4, 0⟩
      else if engineCap q ≤ s.engineLoad p.core q || s.bandTook p q then .stay s
      else ((body s p ks n b).undo s).taken p q

/-- The frame of an engine instruction that names no hasp. -/
def engineFrame (s : State) (q : Seq) (body : State → Party → List Nat → Nat → Block → Res) : Out := engineFrameOf s q cIllegal body

/-- A register of a party. -/
def State.partyS (s : State) (p : Party) (n : Fin 32) : Word :=
  match p with
  | .band b => s.bandS b n.val
  | .strand q => (s.strand q).s[n]

/-- The address of t through a party's windows (R83). -/
def State.partyVa (s : State) (p : Party) (t : Nat) : Except Nat Nat :=
  formVa s.pkg.toNat (s.partyS p 28) (s.partyS p 29) (s.partyS p 30) t

/-- The space of a party's addresses. -/
def State.partySpace (s : State) (p : Party) : Space :=
  match p with
  | .band b => s.bandSpace b
  | .strand q => s.blockSpace (s.strand q).block

/-- An address operand A + OFS formed at acceptance (R149): alignment, then the window. -/
def State.engineAddr (s : State) (p : Party) (w : Word) (ofs : BitVec 22) (align : Nat) (go : Nat → Res) : Res :=
  let t := (w + ofs.signExtend 32).toNat
  if t % align != 0 then .trap s cMisaligned
  else
    match s.partyVa p t with
    | .error d => .trap s (cAccess d)
    | .ok va => go va

/-- The pieces of n bytes from an address that lie within one 64-byte line each. -/
def piecesFuel : Nat → Nat → Nat → List (Nat × Nat)
  | 0, _, _ => []
  | f + 1, va, n =>
    if n == 0 then []
    else
      let k := min n (64 - va % 64)
      (va, k) :: piecesFuel f (va + k) (n - k)

/-- The pieces of n bytes from an address, one for each 64-byte line: an access each (R376). -/
def pieces (va n : Nat) : List (Nat × Nat) := piecesFuel (n / 64 + 2) va n

/-- The core whose slice an address reaches, and the offset in it, where it is a slice of this package. -/
def State.sliceOf (s : State) (sp : Space) (c va : Nat) : Option (Nat × Nat) :=
  match s.sliceAcc sp c va with
  | .ok ⟨.slice d o, _, _, _⟩ => some (d, o)
  | _ => none

/-- The DETAIL with which a range fails at acceptance (R149): a slice range that leaves its core, an operand that must lie in the
issuer's own slice elsewhere, an address that reaches host memory. -/
def State.rangeBadIn (s : State) (sp : Space) (core va n : Nat) (own : Bool) : Option Nat :=
  if isSlice va then
    match s.sliceAcc sp core va with
    | .bad d => some d
    | .park _ => none
    | .ok a =>
      if 2 ^ 21 < va % 2 ^ 21 + n then some 2
      else
        match a.loc with
        | .slice d _ => if own && d != core then some 13 else none
        | _ => if own then some 13 else none
  else if own then some 13
  else if (pieces va n).any fun x =>
      match (s.translate sp core x.1 .read).1 with
      | .ok a => a.loc.isHost
      | _ => false
    then some 4
  else none

/-- The same of a party's operand. -/
def State.rangeBad (s : State) (p : Party) (va n : Nat) (own : Bool) : Option Nat := s.rangeBadIn (s.partySpace p) p.core va n own

/-- The operations of a thread that a command accepted after them waits for (R147, R222): acquires, releases and fences; with ACQ every
earlier load. -/
def State.cmdAfter (s : State) (ms : List (Nat × Nat)) (acq : Bool) : List Nat :=
  mkeys s.ops fun _ o => ms.contains (o.thread, o.uid) && !o.done &&
    (o.holds || o.waits || (acq && o.kind.reads) ||
      match o.kind with
      | .fence _ => true
      | _ => false)

/-- A command is accepted (R145-R148): it takes the next number in issue order, and in a band raises the flag of each thread of P. -/
def State.acceptCmd (s : State) (p : Party) (ks : List Nat) (blk : Nat) (ab : Option Ab) (kind : CmdKind) (acq rel : Bool) : State :=
  let ts := ks.filterMap fun k => (s.thread? k).map fun t => (k, t)
  let ms := ts.map fun x => (x.1, x.2.uid)
  let fl := ts.filterMap fun x => (ab.bind fun sel => s.flagOf x.1 x.2 sel).map fun f => (x.1, x.2.uid, f)
  let issuer := match p with
    | .band b => Issuer.band b (ks.headD 0)
    | .strand q => .strand q
  let b := s.block? blk
  let c : Cmd := {
    core := p.core
    block := blk
    task := (b.map (·.task)).getD 0
    part := (b.map (·.part)).getD 0
    issuer := issuer
    kind := kind
    flags := fl
    members := ms
    after := s.cmdAfter ms acq
    afterCmds := if acq then mkeys s.cmds fun _ x => (match x.issuer, issuer with
      | .band a _, .band b _ => a == b
      | .strand a, .strand b => a == b
      | _, _ => false) else []
    relAfter := mkeys s.ops fun _ o => ms.contains (o.thread, o.uid) && !o.done && !o.egress && !o.kind.isLayout
    acq := acq
    rel := rel
    pc := s.partyPc p ks
    src := s.pkg.toNat * 512 + dieOfCore p.core * 128 + p.core % 96
    marks := []
    got := []
    latched := []
    counted := []
    failed := false
    parked := none
    replay := false
    since := s.clk }
  let s := fl.foldl (fun s x => s.modThread x.1 fun t => t.raise (some x.2.2)) s
  let (id, s) := s.fresh
  { s with cmds := mput s.cmds id c }

/-! ### Order -/

/-- Do two issuers agree: one band, or one strand (R147)? -/
def Issuer.same (a b : Issuer) : Bool :=
  match a, b with
  | .band x _, .band y _ => x == y
  | .strand x, .strand y => x == y
  | _, _ => false

/-- The accumulator rows a command touches: the first and their number (R162). -/
def CmdKind.rows : CmdKind → Nat × Nat
  | .mxmm _ _ v row0 .. => (row0, v)
  | .accz r n | .accld _ _ r n | .accmv _ _ r n => (r, n)
  | _ => (0, 0)

/-- The plane a command writes or is bound to (R154). -/
def CmdKind.plane : CmdKind → Option (Fin 2)
  | .mxld _ p .. => some p
  | .mxmm _ _ _ _ _ p .. => some p
  | _ => none

/-- Is a command an MXMM? -/
def CmdKind.isMxmm : CmdKind → Bool
  | .mxmm .. => true
  | _ => false

/-- Must a command wait for an earlier one of its matrix engine (R54, R154, R162)? -/
def Cmd.behind (c e : Cmd) : Bool :=
  c.core == e.core && c.kind.engine == .mx && e.kind.engine == .mx &&
    ((c.kind.isMxmm && e.kind.isMxmm) ||
      (c.kind.plane.isSome && c.kind.plane == e.kind.plane) ||
      (c.issuer.same e.issuer && c.kind.rows.1 < e.kind.rows.1 + e.kind.rows.2 && e.kind.rows.1 < c.kind.rows.1 + c.kind.rows.2))

/-- Is some operation of a list still to be performed? -/
def State.opsLeft (s : State) (ids : List Nat) : Bool := ids.any fun i => (mget s.ops i).any fun o => !o.done

/-- Has the issuer of command id something left that the command's release, or its amendment, waits for (R148, R312): an earlier access that
is not performed, or an item that the egress hold buffer has released? What the buffer holds is none (R230; DEDUCED, log 114). -/
def State.relLeft (s : State) (id : Nat) (c : Cmd) : Bool :=
  s.opsLeft c.relAfter || c.members.any fun m =>
    s.leavingBefore m.2 id || many s.ops fun _ o => o.egress && o.uid == m.2 && o.seq < id && !o.done

/-- May a command run (R147, R149, R154, R162)? -/
def State.cmdRuns (s : State) (id : Nat) (c : Cmd) : Bool :=
  c.parked.isNone && !c.replay && !(s.core c.core).unavail && !s.opsLeft c.after && !(c.afterCmds.any fun j => (mget s.cmds j).isSome) &&
    !many s.cmds fun j e => j < id && c.behind e

/-! ### Completion, failures and faults -/

/-- Change a command. -/
def State.modCmd (s : State) (id : Nat) (f : Cmd → Cmd) : State := { s with cmds := mmod s.cmds id f }

/-- A command leaves its engine: its flags fall and its strand may end (R146, R122). -/
def State.dropCmd (s : State) (id : Nat) (c : Cmd) : State :=
  let s := { s with cmds := mdel s.cmds id, ops := s.ops.filter fun x => x.2.kind != .eng id }
  let s := c.flags.foldl (fun s x => s.lowerFlag x.1 x.2.1 (some x.2.2)) s
  match c.issuer with
  | .strand q => s.reapStrand q
  | .band .. => s

/-- The threads that count a command's failure (R149): those of P, or those of the band that executed the FORK. -/
def State.cmdThreads (s : State) (c : Cmd) : List Nat :=
  match c.issuer with
  | .band .. => c.members.filterMap fun m => if (s.thread? m.1).any (·.uid == m.2) then some m.1 else none
  | .strand q =>
    match (s.strand q).forker with
    | some b => mkeys s.threads fun k _ => bandOfThread k == b
    | none => []

/-- A command's failure counts once in each of its threads (R149). -/
def State.failCmd (s : State) (id : Nat) (fate : Fate) : State :=
  match mget s.cmds id with
  | some c =>
    if c.failed || fate == .performed then s
    else ((s.cmdThreads c).foldl (fun s k => s.modThread k (Thread.noteFail · fate)) s).modCmd id fun c => { c with failed := true }
  | none => s

/-- The code base and role of a command's issuer. -/
def State.cmdBase (s : State) (c : Cmd) : Addr × Nat :=
  match c.issuer with
  | .band b _ => (s.bandBase b, ((s.band? b).map (·.role)).getD 0)
  | .strand q => (s.strandBase q, s.strandRole q)

/-- A command stops (R149): its block faults as for an unhandled trap, naming the command's instruction. -/
def State.stopCmd (s : State) (id : Nat) (c : Cmd) (why : Cause) : State :=
  let (base, role) := s.cmdBase c
  let stat := trapWord why false true 0 (slotOf c.pc)
  ((s.dropCmd id c).faultBlock c.block role stat.toNat (c.pc - base).toNat).settle

/-- Who stalls, for the fault queue (R149, R248): the thread of P with the lowest lane home, or the strand. -/
def State.cmdWho (s : State) (c : Cmd) : FaultWho :=
  let b := s.block? c.block
  let (base, _) := s.cmdBase c
  let ofs := (c.pc - base).toNat
  let slot := (b.map (·.slot)).getD 0
  let inst := (b.map (·.inst)).getD 0
  match c.issuer with
  | .band _ low => ⟨c.core, slotOfThread low, false, 0, c.part, slot, ofs, inst⟩
  | .strand q => ⟨c.core, 0, true, q % 2, c.part, slot, ofs, inst⟩

/-- A recoverable fault stalls the command (R149). -/
def State.parkCmd (s : State) (id : Nat) (c : Cmd) (va kind reason : Nat) : State :=
  let p : Park := ⟨va, kind, reason, s.clk⟩
  (s.faultEntry (s.cmdWho c) p).modCmd id fun c => { c with parked := some p }

/-- What an attempt to run a command came to: it has its effect, must be tried again, met a recoverable fault, stops, or met an
amendment-depth fault. -/
inductive CmdOut where
  | done (s : State)
  | wait (s : State)
  | park (s : State) (va kind reason : Nat)
  | stop (s : State) (c : Cause)
  | depth (s : State)

/-- A command completes, once what its REL waits for is performed (R148). -/
def State.finishCmd (s : State) (id : Nat) (c : Cmd) : State := (s.dropCmd id c).settle

/-- A depth fault of a command: it stops and the run is cancelled (R308). -/
def State.depthCmd (s : State) (id : Nat) (c : Cmd) : State :=
  let b := s.block? c.block
  ((s.dropCmd id c).cancelInst ((b.map (·.inst)).getD 0) 1 ((b.map (·.node)).getD 0) (s.cmdBase c).2 0 0 0).settle

/-- An attempt's outcome applied; `go` says what follows the effect. -/
def State.cmdApply (id : Nat) (c : Cmd) (go : State → State) : CmdOut → State
  | .done s => go s
  | .wait s => s
  | .park s va kind reason => s.parkCmd id c va kind reason
  | .stop s why => s.stopCmd id c why
  | .depth s => s.depthCmd id c

/-! ### Memory -/

/-- Pieces of a range placed (R149). -/
inductive PRes where
  | ok (s : State) (xs : List (Nat × Acc × Nat))
  | park (s : State) (va reason : Nat)
  | bad (s : State) (d : Nat)

/-- Place every piece of a command's access; an address that reaches host memory or the I/O window, or a line that no code corrects
(R363), is unrecoverable. -/
def State.placeAll (s : State) (sp : Space) (c : Nat) (use : Use) : List (Nat × Nat) → List (Nat × Acc × Nat) → PRes
  | [], out => .ok s out.reverse
  | (va, n) :: rest, out =>
    match s.place sp c va use false with
    | (.park r, s) => .park s va r
    | (.bad d, s) => .bad s d
    | (.ok a, s) =>
      match a.loc with
      | .bell _ => .bad s 6
      | _ => if ((use == .read || a.graded) && s.accBad a n) || s.accDead a n then .bad s 12 else s.placeAll sp c use rest ((va, a, n) :: out)

/-- An operation of a command on another package; a write that adds carries the word 1. -/
def engOp (id : Nat) (c : Cmd) (inst uid : Nat) (va : Nat) (a : Acc) (n : Nat) (data mask : List Byte) (add : Bool) (clk : Nat) : Op where
  kind := .eng id
  core := c.core
  thread := 0
  uid := uid
  flag := none
  d := .discard
  va := va
  acc := a
  n := n
  data := data
  cmp := mask
  ord := .relaxed
  task := c.task
  part := c.part
  inst := inst
  words := if add then [1] else []
  pc := c.pc
  issued := clk
  sent := false
  resp := none
  done := false
  tag := none
  void := false
  egress := false
  who := []
  laid := []
  plane := none
  seq := 0

/-- The operation by which a command reaches n bytes at an address of another package. -/
def State.engFind (s : State) (id va n : Nat) : Option Op :=
  (s.ops.find? fun x => x.2.kind == .eng id && x.2.va == va && x.2.n == n).map (·.2)

/-- Send what a command asks of other packages, once for each address: the address, its place, the bytes read, or the data written and
its byte mask; `add` that it is added there. -/
def State.engSend (s : State) (id : Nat) (c : Cmd) (xs : List (Nat × Acc × Nat × List Byte × List Byte)) (add : Bool := false) : State :=
  let inst := ((s.block? c.block).map (·.inst)).getD 0
  (xs.foldl (fun s x =>
    if (s.engFind id x.1 x.2.2.1).isSome then s
    else
      let (j, s) := s.fresh
      s.addOp j (engOp id c inst j x.1 x.2.1 x.2.2.1 x.2.2.2.1 x.2.2.2.2 add s.clk)) s).sendReady

/-- The reads of a command in its task's logs (R150); nothing where one must wait (R297). -/
def State.logLinesOf (s : State) (task : Nat) : List Nat → Option State
  | [] => some s
  | l :: ls => (s.logRead task l).bind fun s => s.logLinesOf task ls

/-- The bytes of one placed piece of a command's read, and how it failed: a refused or lost read supplies zero bytes (R149). Nothing
while another package has not answered. -/
def State.pieceBytes (s : State) (id : Nat) (c : Cmd) (x : Nat × Acc × Nat) : Option (List Byte × Fate) :=
  let zeros := List.replicate x.2.2 (0 : Byte)
  if s.refusedAt c.core c.part x.2.1.loc then some (zeros, .refused)
  else
    match x.2.1.loc.home with
    | some h => some (s.bytes h x.2.2, .performed)
    | none =>
      match (s.engFind id x.1 x.2.2).bind (·.resp) with
      | some (bs, .performed) => some (bs.take x.2.2, .performed)
      | some (_, f) => some (zeros, f)
      | none => none

/-- All pieces, in order. -/
def State.allBytes (s : State) (id : Nat) (c : Cmd) : List (Nat × Acc × Nat) → Option (List Byte × List Fate)
  | [] => some ([], [])
  | x :: xs =>
    match s.pieceBytes id c x, s.allBytes id c xs with
    | some (bs, f), some (rest, fs) => some (bs ++ rest, f :: fs)
    | _, _ => none

/-- Sample a command's request (R377). -/
def State.sampleCmd (s : State) (c : Cmd) (va kind : Nat) (a : Acc) : State :=
  let w := s.cmdWho c
  s.sampleNow c.core (if w.strand then w.seq else w.tslot) w.strand c.part w.pcofs va kind a.loc

/-- A mark of a command is set. -/
def State.markCmd (s : State) (id m : Nat) : State := s.modCmd id fun c => { c with marks := m :: c.marks }

/-- Has a command a mark? -/
def State.marked (s : State) (id m : Nat) : Bool := (mget s.cmds id).any fun c => c.marks.contains m

/-- The mark of a graded line that a command has written; m + 2^96 says that it was refused or lost. -/
def gradedMark (va : Nat) : Nat := 2 ^ 72 + va / 64

/-- The mark of a line that a command has counted as read or written. -/
def countMark (va : Nat) (write : Bool) : Nat := 2 ^ 100 + 2 * (va / 64) + boolNat write

/-- A command's placed pieces are counted and may be sampled as requests, once for each 64-byte line (R376, R377). -/
def State.touchLines (s : State) (id : Nat) (c : Cmd) (write : Bool) (xs : List (Nat × Acc × Nat)) : State :=
  xs.foldl (fun s x =>
    let m := countMark x.1 write
    if s.marked id m then s
    else
      ((s.markCmd id m).countAcc (s.blockSpace c.block) c.core x.2.1 (boolNat !write) (boolNat write)).sampleCmd c x.1 (if write then 6 else 5) x.2.1) s

/-- The pieces of a command's read are read (R149, R150): the bytes go to `go`. -/
def State.cmdRead (s : State) (id : Nat) (c : Cmd) (ps : List (Nat × Nat)) (go : State → List Byte → CmdOut) : CmdOut :=
  let sp := s.blockSpace c.block
  match s.placeAll sp c.core .read ps [] with
  | .park s va r => .park s va 5 r
  | .bad s d => .stop s (cAccess d)
  | .ok s xs =>
    let s := s.engSend id c ((xs.filter fun x => x.2.1.loc.pkg?.isSome).map fun x => (x.1, x.2.1, x.2.2, [], []))
    match s.allBytes id c xs, s.logLinesOf c.task (xs.flatMap fun x => x.2.1.lines x.2.2) with
    | some (bs, fs), some s =>
      go (fs.foldl (fun s f => s.failCmd id f) (s.touchLines id c false xs)) bs
    | _, _ => .wait s

/-- The parts of bytes written from an address that lie within one 64-byte line each. -/
def lineParts (va : Nat) (data : List Byte) : List (Nat × List Byte) :=
  (linesOf va data.length).filterMap fun l =>
    let lo := max va (64 * l)
    let hi := min (va + data.length) (64 * l + 64)
    if lo < hi then some (lo, (data.drop (lo - va)).take (hi - lo)) else none

/-- Units of a command, each a byte of it with its address, joined into runs that lie within one 64-byte line: the address, the bytes,
the units. -/
def joinRuns : List (Nat × Nat × Byte) → List (Nat × List Byte × List Nat)
  | [] => []
  | (j, a, b) :: xs =>
    match joinRuns xs with
    | (va, bs, js) :: rest =>
      if va == a + 1 && va / 64 == a / 64 then (a, b :: bs, j :: js) :: rest else (a, [b], [j]) :: (va, bs, js) :: rest
    | [] => [(a, [b], [j])]

/-- Units joined into ranges. -/
def joinUnits : List Nat → List (Nat × Nat)
  | [] => []
  | j :: js =>
    match joinUnits js with
    | (k, n) :: rest => if k == j then (k, n) :: rest else if k == j + 1 then (j, n + 1) :: rest else (j, 1) :: (k, n) :: rest
    | [] => [(j, 1)]

/-- Has a unit of a command been performed? -/
def Cmd.has (c : Cmd) (j : Nat) : Bool := c.got.any fun r => r.1 ≤ j && j < r.1 + r.2

/-- The units of a range that a command has still to perform. -/
def Cmd.rest (c : Cmd) (lo n : Nat) : List Nat := ((List.range n).map (lo + ·)).filter fun j => !c.has j

/-- How many units a command has performed. -/
def Cmd.gotten (c : Cmd) : Nat := (c.got.map (·.2)).sum

/-- Units of a command are performed. -/
def State.gotUnits (s : State) (id : Nat) (js : List Nat) : State := s.modCmd id fun c => { c with got := joinUnits js ++ c.got }

/-- Bytes of a command's source, each a place with its address, as they are now or as they were read ahead (R168, R217). -/
def State.cmdFetch (s : State) (id : Nat) (c : Cmd) (need : List (Nat × Nat)) (go : State → Table Byte → CmdOut) : CmdOut :=
  let miss := need.filter fun x => (mget c.latched x.1).isNone
  s.cmdRead id c ((joinRuns (miss.map fun x => (x.1, x.2, 0))).map fun r => (r.1, r.2.1.length)) fun s bs =>
    go s ((miss.zip bs).foldl (fun m x => mput m x.1.1 x.2) c.latched)

/-- Bytes that a command has read ahead are kept. -/
def State.latch (s : State) (id : Nat) (m : Table Byte) : State := s.modCmd id fun c => { c with latched := m }

/-- FP32 words added onto FP32 words (R161). -/
def addWords : List Byte → List Byte → List Byte
  | a0 :: a1 :: a2 :: a3 :: as, b0 :: b1 :: b2 :: b3 :: bs =>
    leBytes 4 (rne32 (faddEx .nearest (fp32.read (leNat [a0, a1, a2, a3])) (fp32.read (leNat [b0, b1, b2, b3]))).1).toNat ++ addWords as bs
  | _, _ => []

/-- Where a command's write stands: going on, its last part written or lost, or ended. -/
inductive WAcc where
  | go (s : State) (lost : Bool)
  | halt (o : CmdOut)

/-- A write of a command to a graded line of this package (R150, R92): it requests FINAL. One that amends waits for the issuer's earlier
operations, which it releases (R312). -/
def State.cmdGraded (s : State) (id : Nat) (c : Cmd) (h : Nat) (data : List Byte) : WAcc :=
  let inst := ((s.block? c.block).map (·.inst)).getD 0
  if s.wouldAmend h data && s.relLeft id c then .halt (.wait s)
  else
    match s.gradedWrite h data .final (some c.task) (s.depthLimit inst) with
    | (.final, s) => .halt (.stop s cFinality)
    | (.depth, s) => .halt (.depth s)
    | (.waitLog, s) | (.waitAck, s) => .halt (.wait s)
    | (.lost, s) => .go (s.failCmd id .lost) true
    | (_, s) => .go s false

/-- A write of n bytes of a command to a graded line of another package, by its answer (R306); one that adds reads the line too (R150,
R161). -/
def State.cmdGradedThere (s : State) (id : Nat) (c : Cmd) (va n : Nat) (a : Acc) (add : Bool) : WAcc :=
  match (s.engFind id va n).bind (·.resp) with
  | none => .halt (.wait s)
  | some (bs, .performed) =>
    match (bs.headD 0).toNat with
    | 4 => .halt (.stop s cFinality)
    | 5 => .halt (.depth s)
    | _ =>
      match if add then s.logLinesOf c.task (a.lines n) else some s with
      | none => .halt (.wait s)
      | some s => .go s false
  | some (_, f) => .go (s.failCmd id f) true

/-- The items by which a held write waits in the egress hold buffer (R150, R304): one that adds leaves as one message for each word, which is
indivisible (R161; DESIGN CHOICE, log 110). -/
def heldItems (a : Acc) (add : Bool) (data : List Byte) (va part thread uid : Nat) (who : List (Nat × Nat)) (g : HTag) : List HeldItem :=
  if add then
    (List.range (data.length / 4)).map fun i =>
      let loc := match a.loc with
        | .remote p v g => Loc.remote p (v + 4 * i) g
        | l => l
      .red thread uid { a with loc := loc } .fadd false ((data.drop (4 * i)).take 4) (va + 4 * i) part who g
  else [.store thread uid a data va part who g]

/-- A write of a command to another package that is not graded: held, sent, refused or lost (R149, R150). One that adds is indivisible in each
message, of one line (R161; DESIGN CHOICE, log 110). -/
def State.cmdAway (s : State) (id : Nat) (c : Cmd) (a : Acc) (add : Bool) (data : List Byte) (va : Nat) (fate : Fate) : WAcc :=
  if a.offChip && s.holds c.task then
    if !s.holdRoom (((s.block? c.block).map (·.inst)).getD 0) (dieOfCore c.core) data.length then .halt (.wait s)
    else
      let (uid, s) := s.fresh
      let who := (s.cmdThreads c).filterMap fun k => (s.thread? k).map fun t => (k, t.uid)
      .go ((heldItems a add data va c.part (2048 * c.core) uid who { seq := id }).foldl (fun s x => s.holdItem c.task x) s) false
  else if fate != .performed then .go (s.failCmd id fate) true
  else if add then
    match a.loc with
    | .remote pk v _ =>
      .go (s.send 3 pk { s.blankMsg with
        addr := BitVec.ofNat 56 v, part := Fin.ofNat 64 c.part, n := data.length, data := data, op := some .fadd }) false
    | _ => .go s false
  else .go (s.performStore a data c.part) false

/-- One placed part of a command's write. -/
def State.cmdPlaced (s : State) (id : Nat) (c : Cmd) (va : Nat) (a : Acc) (data : List Byte) (add : Bool) (fate : Fate) : WAcc :=
  if s.refusedAt c.core c.part a.loc then .go (s.failCmd id .refused) true
  else
    match a.loc.home with
    | some h =>
      let bytes := if add then addWords (s.bytes h data.length) data else data
      if a.graded then
        match if add then s.logRead c.task (h / 64) else some s with
        | none => .halt (.wait s)
        | some s => s.cmdGraded id c h bytes
      else .go (s.writeHome h bytes) false
    | none => if a.graded then s.cmdGradedThere id c va data.length a add else s.cmdAway id c a add data va fate

/-- Does a fate fit a command's write: a refusal only where it reaches another package, a loss only where every such part of it may have been
lost (R149, R358)? -/
def State.cmdFateOk (s : State) (c : Cmd) (xs : List (Nat × Acc × Nat)) (fate : Fate) : Bool :=
  match fate with
  | .performed => true
  | .refused => xs.any fun x => x.2.1.loc.pkg?.isSome
  | .lost =>
    let far := xs.filter fun x => x.2.1.loc.pkg?.isSome && !x.2.1.graded
    !far.isEmpty && far.all fun x => s.lostTo x.2.1.loc c.since

/-- A location moved back to the start of its line. -/
def Loc.lineStart : Loc → Loc
  | .slice c o => .slice c (o - o % 64)
  | .dev pa => .dev (pa - pa % 64)
  | .remote p va g => .remote p (va - va % 64) g
  | l => l

/-- Bytes with their addresses laid over n old bytes from an address on, and the mask of those given. -/
def imageOf (xs : List (Nat × Byte)) (base n : Nat) (old : List Byte) : List Byte × List Bool :=
  let at? (i : Nat) : Option Byte := (xs.reverse.find? fun x => x.1 == base + i).map (·.2)
  ((List.range n).map fun i => (at? i).getD (old.getD i 0), (List.range n).map fun i => (at? i).isSome)

/-- A mask as 8 bytes (R357). -/
def maskBytes (m : List Bool) : List Byte := leBytes 8 ((List.range 64).foldl (fun t i => t + if m.getD i false then 2 ^ i else 0) 0)

/-- A part of a command's write: its address, place, bytes and units, and the byte mask where it is a graded line. A graded line is
written whole, with every byte of the command in it (R150). -/
structure WPart where
  va   : Nat
  acc  : Acc
  data : List Byte
  mask : List Byte
  js   : List Nat

/-- The part that a placed run belongs to; `whole` lists a command's bytes in a line. -/
def State.wpart (s : State) (whole : Nat → List (Nat × Nat × Byte)) (add : Bool) (x : (Nat × Acc × Nat) × List Byte × List Nat) : WPart :=
  if x.1.2.1.graded then
    let xs := whole (x.1.1 / 64)
    let a := { x.1.2.1 with loc := x.1.2.1.loc.lineStart }
    let base := x.1.1 - x.1.1 % 64
    let old := match a.loc.home with
      | some g => if add then [] else s.bytes g 64
      | none => []
    let (bs, m) := imageOf (xs.map (·.2)) base 64 old
    ⟨base, a, bs, maskBytes m, (xs.map (·.1)).eraseDups⟩
  else ⟨x.1.1, x.1.2.1, x.2.1, [], x.2.2.eraseDups⟩

/-- One part of a command's write, a graded line once only. -/
def State.cmdPart (s : State) (id : Nat) (c : Cmd) (add : Bool) (fate : Fate) (x : WPart) : WAcc :=
  let m := gradedMark x.va
  if x.acc.graded && s.marked id m then .go s (s.marked id (m + 2 ^ 96))
  else
    match s.cmdPlaced id c x.va x.acc x.data add fate with
    | .go s lost =>
      let s := if x.acc.graded then s.markCmd id m else s
      .go (if x.acc.graded && lost then s.markCmd id (m + 2 ^ 96) else s) lost
    | o => o

/-- The parts of a command's write, one after another; `land` says what follows each one's units, and whether they were lost. -/
def State.cmdParts (s : State) (id : Nat) (c : Cmd) (add : Bool) (fate : Fate) (land : State → List Nat → Bool → State) : List WPart → WAcc
  | [] => .go s false
  | x :: xs =>
    match s.cmdPart id c add fate x with
    | .go s lost =>
      let js := x.js.filter fun j => !(mget s.cmds id).any fun c => c.has j
      (land (s.gotUnits id js) js lost).cmdParts id c add fate land xs
    | o => o

/-- The waits that the parts of an indivisible write begin, each alone (R307). -/
def State.cmdProbe (s : State) (id : Nat) (c : Cmd) (add : Bool) (fate : Fate) (xs : List WPart) : State :=
  xs.foldl (fun s x =>
    match s.cmdPart id c add fate x with
    | .halt (.wait t) => t
    | _ => s) s

/-- What an indivisible write came to: all of it, or none (R161). -/
def WAcc.whole (s probe : State) : WAcc → WAcc
  | .go t lost => .go t lost
  | .halt (.wait _) => .halt (.wait probe)
  | .halt (.stop _ why) => .halt (.stop s why)
  | .halt (.depth _) => .halt (.depth s)
  | .halt o => .halt o

/-- The bytes of a command's write, each with its unit and address (R149, R150, R161): an add is indivisible. -/
def State.cmdWrite (s : State) (id : Nat) (c : Cmd) (xs : List (Nat × Nat × Byte)) (whole : Nat → List (Nat × Nat × Byte)) (add : Bool)
    (fate : Fate) (land : State → List Nat → Bool → State) : WAcc :=
  let runs := joinRuns xs
  match s.placeAll (s.blockSpace c.block) c.core .write (runs.map fun r => (r.1, r.2.1.length)) [] with
  | .park s va r => .halt (.park s va 6 r)
  | .bad s d => .halt (.stop s (cAccess d))
  | .ok s ps =>
    if !s.cmdFateOk c ps fate then .halt (.wait s)
    else
      let s := s.touchLines id c true ps
      let ws := (ps.zip (runs.map (·.2))).map (s.wpart whole add)
      -- a graded write of another package may amend there: it is sent as a release (R312; log 37)
      let far := ws.filter fun x => x.acc.graded && x.acc.loc.pkg?.isSome && !s.marked id (gradedMark x.va) && !s.relLeft id c
      let s := s.engSend id c (far.map fun x => (x.va, x.acc, x.data.length, x.data, x.mask)) add
      let r := s.cmdParts id c add fate land ws
      if add then r.whole s (s.cmdProbe id c add fate ws) else r

end Sys2Proof.Machine
end

