-- ==== Sys2Proof/Machine/Matrix.lean ====
section
/-! DEFINITION. The matrix engine: alignment of blocks (R50, R51), its commands at acceptance (R153-R161) and what each does when it runs
(R53, R54, R158, R161). -/

namespace Sys2Proof.Machine

/-! ### Blocks (R48-R52) -/

/-- An aligned block: signs and magnitudes of its 32 elements, the exponent, the non-finite mark (R48, R50). -/
structure ABlock where
  mags : List (Bool × Nat)
  exp  : Int
  nf   : Bool

/-- The block of 32 zero cells. -/
def ABlock.zeros (nf : Bool) : ABlock := ⟨List.replicate 32 (false, 0), 0, nf⟩

/-- align_block (R50): P is the significand width, W the width of the aligned magnitude. -/
def alignFloat (f : FFmt) (p w : Nat) (codes : List Nat) : ABlock :=
  let xs := codes.map f.read
  let fin : FVal → Bool
    | .fin .. => true
    | _ => false
  if !xs.all fin then ABlock.zeros true
  else
    let exps := xs.filterMap fun x =>
      match x with
      | .fin _ m e => if m == 0 then none else some (e + ((p : Int) - 1))
      | _ => none
    match exps with
    | [] => ABlock.zeros false
    | e0 :: es =>
      let emax := es.foldl max e0
      ⟨xs.map fun x =>
        match x with
        | .fin s m e => (s, (roundInt .nearest s m ((w : Int) - p - (emax - (e + ((p : Int) - 1))))).1)
        | _ => (false, 0),
        emax - ((p : Int) - 1) - ((w : Int) - p), false⟩

/-- A 4-bit element of a byte list: the low nibble of a byte first (R36). -/
def nibble (bs : List Byte) (j : Nat) : Nat := (bs.getD (j / 2) 0).toNat / 16 ^ (j % 2) % 16

/-- An FP4 element's sign and twice its magnitude (R51). -/
def fp4Twice (c : Nat) : Bool × Nat := (bitAt c 3, [0, 1, 2, 3, 4, 6, 8, 12].getD (c % 8) 0)

/-- A block of 32 elements aligned (R51): W is the width for float blocks, sx the E8M0 scale of an MXFP4 block. -/
def alignBlock (fmt : MFmt) (w : Nat) (bs : List Byte) (sx : Nat) : ABlock :=
  match fmt with
  | .mxfp4 =>
    if sx == 255 then ABlock.zeros true else ⟨(List.range 32).map fun j => fp4Twice (nibble bs j), (sx : Int) - 128, false⟩
  | .s8 =>
    ⟨(List.range 32).map fun j =>
      let x := sextNat 8 (bs.getD j 0).toNat
      (decide (x < 0), x.natAbs), 0, false⟩
  | .e4m3 => alignFloat fe4m3 4 w ((List.range 32).map fun j => (bs.getD j 0).toNat)
  | .bf16 => alignFloat bf16 8 w ((List.range 32).map fun j => leNat [bs.getD (2 * j) 0, bs.getD (2 * j + 1) 0])

/-- The exact sum of a block (R52). -/
def blockSum (a w : List (Bool × Nat)) : Int :=
  (a.zip w).foldl (fun t x => t + (if (x.1.1 ^^ x.2.1) then -((x.1.2 * x.2.2 : Nat) : Int) else ((x.1.2 * x.2.2 : Nat) : Int))) 0

/-- FP32 product rounded to nearest even (R53). -/
def mulRne (a b : Word) : Word := rne32 (fmulEx (rd32 a) (rd32 b)).1

/-- FP32 sum rounded to nearest even (R53). -/
def addRne (a b : Word) : Word := rne32 (faddEx .nearest (rd32 a) (rd32 b)).1

/-- One block's value added to an accumulator element (R53). -/
def promote (acc : Word) (a w : ABlock) (sa sw : Word) (fp8 : Bool) : Word :=
  let bad := a.nf || w.nf || (rd32 sa).isNan || (rd32 sw).isNan
  let t := blockSum a.mags w.mags
  let v := rne32 (.fin (decide (t < 0)) t.natAbs (a.exp + w.exp))
  addRne acc (if bad then nan32 else if fp8 then mulRne v (mulRne sa sw) else v)

/-! ### The engine's tables -/

/-- The cores whose arrays a block's matrix commands drive: the leader's and, on a welt, the follower's (R152, R208). -/
def State.arrays (s : State) (blk c : Nat) : List Nat := if (s.block? blk).any (·.welt) then [c, c + 1] else [c]

/-- FP32 1.0. -/
def one32 : Word := 0x3F800000

/-- Change a matrix engine. -/
def State.modEngine (s : State) (c : Nat) (f : Engine → Engine) : State := s.setEngine c (f (s.engine c))

/-- A plane's cells and marks are zeroed and its scales set to 1.0 (R49, R151, R153). -/
def Engine.reformat (e : Engine) (p : Fin 2) (fmt : MFmt) : Engine :=
  { e with
    cells := e.cells.filter fun x => x.1 / 65536 != p.val
    ew := e.ew.filter fun x => x.1 / 2048 != p.val
    nf := e.nf.filter fun x => x.1 / 2048 != p.val
    fmt := e.fmt.set p fmt }

/-- One aligned block written to a column of a plane (R48). -/
def Engine.putBlock (e : Engine) (p : Fin 2) (b col : Nat) (x : ABlock) : Engine :=
  let rows := (List.range 32).zip x.mags
  { e with
    cells := rows.foldl (fun m r => sput 0 m ((256 * p.val + 32 * b + r.1) * 256 + col) (boolNat r.2.1 * 2048 + r.2.2)) e.cells
    ew := sput 0 e.ew ((8 * p.val + b) * 256 + col) x.exp
    nf := sput false e.nf ((8 * p.val + b) * 256 + col) x.nf }

/-- One aligned block read from a column of a plane. -/
def Engine.getBlock (e : Engine) (p : Fin 2) (b col : Nat) : ABlock :=
  ⟨(List.range 32).map fun r =>
      let x := sget 0 e.cells ((256 * p.val + 32 * b + r) * 256 + col)
      (bitAt x 11, x % 2048),
    sget 0 e.ew ((8 * p.val + b) * 256 + col), sget false e.nf ((8 * p.val + b) * 256 + col)⟩

/-- The format that a plane will hold once the accepted MXLDs to it have run: a format change is judged, and the scales are reset, at
acceptance, where MXSC takes effect too (R151, R153, R156; DEDUCED, log 24). -/
def State.planeFmt (s : State) (c : Nat) (p : Fin 2) : MFmt :=
  s.cmds.foldl (fun f x =>
    match x.2.kind with
    | .mxld g q .. => if x.2.core == c && q == p then g else f
    | _ => f) ((s.engine c).fmt[p])

/-- Bytes of a column record (R153). -/
def recBytes : MFmt → Nat
  | .mxfp4 => 16
  | .s8 | .e4m3 => 32
  | .bf16 => 64

/-- Bytes of a block image of C columns (R153). -/
def imageBytes (fmt : MFmt) (cols : Nat) : Nat := cols * recBytes fmt + if fmt == .mxfp4 then cols else 0

/-- Bytes from one activation row to the next (R157). -/
def pitchOf : MFmt → Nat
  | .mxfp4 => 144
  | .s8 | .e4m3 => 256
  | .bf16 => 512

/-- The width of an aligned activation (R50). -/
def actWidth : MFmt → Nat
  | .mxfp4 => 4
  | .s8 | .e4m3 => 8
  | .bf16 => 16

/-! ### Acceptance -/

/-- MXLD (R153). -/
def execMxld (fmt : MFmt) (p : Fin 2) (ab : Ab) (a : UniSrc) (ofs : BitVec 22) (d b : UniSrc) (s : State) : Out :=
  engineFrame s .mx fun s y ks n _ =>
    let (va, s) := s.uniSrc y false a
    let (b0, s) := s.uniSrc y false d
    let (nb, s) := s.uniSrc y false b
    if 7 < b0.toNat || 8 < b0.toNat + nb.toNat then .trap s cIllegal
    else
      s.engineAddr y va ofs 64 fun va =>
        let arr := s.arrays n y.core
        match s.rangeBad y va (nb.toNat * imageBytes fmt (256 * arr.length)) false with
        | some e => .trap s (cAccess e)
        | none =>
          let s := if s.planeFmt y.core p != fmt then
              arr.foldl (fun s c => s.modEngine c fun e => { e with sw := e.sw.filter fun x => x.1 / 4 != p.val }) s
            else s
          .ok (s.acceptCmd y ks n (some ab) (.mxld fmt p va b0.toNat nb.toNat) false false)

/-- MXSW (R155): at acceptance. -/
def execMxsw (p : Fin 2) (s : State) : Out :=
  engineFrame s .mx fun s y _ n _ => .ok ((s.arrays n y.core).foldl (fun s c => s.modEngine c fun e => { e with active := p }) s)

/-- A tile scale's place: the array and its tile (R151, R152). -/
def Engine.setScale (e : Engine) (p : Fin 2) (t : Nat) (w : Word) : Engine := { e with sw := sput one32 e.sw (4 * p.val + t) w }

/-- MXSC, a weight tile's scale (R156). -/
def execMxscW (p : Fin 2) (t : Fin 8) (a : UniSrc) (s : State) : Out :=
  engineFrame s .mx fun s y _ n _ =>
    let (w, s) := s.uniSrc y true a
    match (s.arrays n y.core)[t.val / 4]? with
    | none => .trap s cIllegal
    | some c => .ok (s.modEngine c fun e => e.setScale p (t.val % 4) w)

/-- MXSC, the activation scale table (R156): kept as its offset in the issuer's own slice. -/
def execMxscA (a : UniSrc) (ofs : BitVec 22) (s : State) : Out :=
  engineFrame s .mx fun s y _ _ _ =>
    let (w, s) := s.uniSrc y false a
    s.engineAddr y w ofs 8 fun va =>
      match s.rangeBad y va 8 true with
      | some e => .trap s (cAccess e)
      | none => .ok (s.modEngine y.core fun e => { e with asc := some (va % 2 ^ 21) })

/-- MXSC, no activation scale table (R156). -/
def execMxscANone (s : State) : Out :=
  engineFrame s .mx fun s y _ _ _ => .ok (s.modEngine y.core fun e => { e with asc := none })

/-- The tile scales of a plane over a block's arrays, four for each (R158: latched at acceptance). -/
def State.latchScales (s : State) (arr : List Nat) (p : Fin 2) : List Word :=
  arr.flatMap fun c => (List.range 4).map fun t => sget one32 (s.engine c).sw (4 * p.val + t)

/-- MXMM (R157, R158): u is U - 1. -/
def execMxmm (fmt : MFmt) (u : Fin 128) (ab : Ab) (a : UniSrc) (ofs : BitVec 22) (d b : UniSrc) (s : State) : Out :=
  engineFrame s .mx fun s y ks n _ =>
    let (va, s) := s.uniSrc y false a
    let (row0, s) := s.uniSrc y false d
    let (v, s) := s.uniSrc y false b
    let un := u.val + 1
    if 256 < row0.toNat + un then .trap s cIllegal
    else
      s.engineAddr y va ofs 64 fun va =>
        match s.rangeBad y va (un * pitchOf fmt) true with
        | some e => .trap s (cAccess e)
        | none =>
          let e := s.engine y.core
          if fmt == .e4m3 && e.asc.any (fun x => decide (2 ^ 21 < x + 8 * un)) then .trap s (cAccess 2)
          else
            .ok (s.acceptCmd y ks n (some ab) (.mxmm fmt un (min v.toNat un) row0.toNat (va % 2 ^ 21) e.active
              (s.latchScales (s.arrays n y.core) e.active) e.asc) false false)

/-- The rows of an accumulator move: the first and their number (R161). -/
def State.moveRows (s : State) (y : Party) (d b : UniSrc) (go : State → Nat → Nat → Res) : Res :=
  let (row0, s) := s.uniSrc y false d
  let (n, s) := s.uniSrc y false b
  if 256 < row0.toNat + n.toNat then .trap s cIllegal else go s row0.toNat n.toNat

/-- ACCZ (R161). -/
def execAccz (d b : UniSrc) (s : State) : Out :=
  engineFrame s .mx fun s y ks n _ => s.moveRows y d b fun s r k => .ok (s.acceptCmd y ks n none (.accz r k) false false)

/-- An accumulator move with an address accepted (R149, R161): `w` is the bytes of an element. -/
def State.acceptMove (s : State) (y : Party) (ks : List Nat) (n : Nat) (ab : Ab) (a : UniSrc) (ofs : BitVec 22) (d b : UniSrc) (w : Nat)
    (kind : Nat → Nat → Nat → CmdKind) (acq rel : Bool) : Res :=
  let (va, s) := s.uniSrc y false a
  s.moveRows y d b fun s r k =>
    s.engineAddr y va ofs 64 fun va =>
      match s.rangeBad y va (k * w * 256 * (s.arrays n y.core).length) false with
      | some e => .trap s (cAccess e)
      | none => .ok (s.acceptCmd y ks n (some ab) (kind va r k) acq rel)

/-- ACCLD (R161). -/
def execAccld (h : Bool) (acq : Option Scope) (ab : Ab) (a : UniSrc) (ofs : BitVec 22) (d b : UniSrc) (s : State) : Out :=
  engineFrame s .mx fun s y ks n _ => s.acceptMove y ks n ab a ofs d b (if h then 2 else 4) (.accld h) acq.isSome false

/-- ACCMV, stored as FP32 or BF16 (R161). -/
def execAccmv (h : Bool) (rel : Option Scope) (ab : Ab) (a : UniSrc) (ofs : BitVec 22) (d b : UniSrc) (s : State) : Out :=
  engineFrame s .mx fun s y ks n _ =>
    s.acceptMove y ks n ab a ofs d b (if h then 2 else 4) (.accmv (if h then .bf else .st)) false rel.isSome

/-- ACCMV, added onto memory (R161). -/
def execAccmvAdd (rel : Option Scope) (ab : Ab) (a : UniSrc) (ofs : BitVec 22) (d b : UniSrc) (s : State) : Out :=
  engineFrame s .mx fun s y ks n _ => s.acceptMove y ks n ab a ofs d b 4 (.accmv .add) false rel.isSome

/-! ### Running -/

/-- A block image written into one array (R153, R208): k is the array's place. -/
def Engine.loadImage (e : Engine) (fmt : MFmt) (p : Fin 2) (b k cols : Nat) (img : List Byte) : Engine :=
  (List.range 256).foldl (fun e n =>
    let col := 256 * k + n
    let raw := (img.drop (col * recBytes fmt)).take (recBytes fmt)
    let sx := (img.getD (cols * recBytes fmt + col) 0).toNat
    e.putBlock p b n (alignBlock fmt 11 raw sx)) e

/-- An MXLD in another format than its plane's first sets every cell and mark of the plane to zero (R49). -/
def State.reformat (s : State) (arr : List Nat) (p : Fin 2) (fmt : MFmt) : State :=
  arr.foldl (fun s c => s.modEngine c fun e => if e.fmt[p] != fmt then e.reformat p fmt else e) s

/-- MXLD's effect on a plane of its format (R153). -/
def State.runMxld (s : State) (arr : List Nat) (fmt : MFmt) (p : Fin 2) (b0 nb : Nat) (data : List Byte) : State :=
  let cols := 256 * arr.length
  let size := imageBytes fmt cols
  ((List.range arr.length).zip arr).foldl (fun s x =>
    s.modEngine x.2 fun e =>
      (List.range nb).foldl (fun e b => e.loadImage fmt p (b0 + b) x.1 cols ((data.drop (b * size)).take size)) e) s

/-- The aligned blocks of an activation row (R51, R157). -/
def actBlocks (fmt : MFmt) (row : List Byte) : List ABlock :=
  (List.range 8).map fun b =>
    match fmt with
    | .mxfp4 => alignBlock .mxfp4 4 ((row.drop (16 * b)).take 16) (row.getD (128 + b) 0).toNat
    | f => alignBlock f (actWidth f) ((row.drop (pitchOf f / 8 * b)).take (pitchOf f / 8)) 0

/-- One output element of an MXMM pass (R53, R160): the blocks of an activation row against a column of an array. -/
def Engine.pass (e : Engine) (p : Fin 2) (fmt : MFmt) (acts : List ABlock) (sa sw : List Word) (col : Nat) (acc : Word) : Word :=
  if e.parity.contains (256 * p.val + col) then addRne acc nan32
  else
    let fp8w := e.fmt[p] == .e4m3
    ((List.range 8).zip acts).foldl (fun acc x =>
      promote acc x.2 (e.getBlock p x.1 col) (if fmt == .e4m3 then sa.getD (x.1 / 4) one32 else one32)
        (if fp8w then sw.getD (2 * (col / 128) + x.1 / 4) one32 else one32) (fmt == .e4m3 || fp8w)) acc

/-- Add one activation row into an accumulator row of an array (R158). -/
def Engine.addRow (e : Engine) (p : Fin 2) (fmt : MFmt) (acts : List ABlock) (sa sw : List Word) (row : Nat) : Engine :=
  { e with acc := (List.range 256).foldl (fun m n =>
      sput 0 m (256 * row + n) (e.pass p fmt acts sa sw n (sget 0 m (256 * row + n)))) e.acc }

/-- The bytes of the tile that an MXMM of V rows reads, and behind them, with a scale table, those of the rows' scales (R157). -/
def mxmmBytes (fmt : MFmt) (v : Nat) (asc : Option Nat) : Nat := v * pitchOf fmt + if fmt == .e4m3 && asc.isSome then 8 * v else 0

/-- The offset in the issuer's slice of byte j of them. -/
def mxmmAt (fmt : MFmt) (v ofs : Nat) (asc : Option Nat) (j : Nat) : Nat :=
  if j < v * pitchOf fmt then ofs + j else asc.getD 0 + (j - v * pitchOf fmt)

/-- The activation scales of row m, from those bytes (R157, R158). -/
def rowScales (fmt : MFmt) (v : Nat) (asc : Option Nat) (bs : List Byte) (m : Nat) : List Word :=
  if fmt == .e4m3 && asc.isSome then wordsOfBytes ((bs.drop (v * pitchOf fmt + 8 * m)).take 8) else [one32, one32]

/-- MXMM's effect (R158): the valid rows, in order, into each array, from the bytes read. -/
def State.runMxmm (s : State) (arr : List Nat) (fmt : MFmt) (v row0 : Nat) (p : Fin 2) (sw : List Word) (asc : Option Nat) (bs : List Byte) : State :=
  (List.range v).foldl (fun t m =>
    let acts := actBlocks fmt ((bs.drop (m * pitchOf fmt)).take (pitchOf fmt))
    let sa := rowScales fmt v asc bs m
    ((List.range arr.length).zip arr).foldl (fun t x =>
      t.modEngine x.2 fun e => e.addRow p fmt acts sa ((sw.drop (4 * x.1)).take 4) (row0 + m)) t) s

/-- The parity failures that an MXMM met are logged in one entry: the leader's core, the plane, and how many columns failed (R160, R364). -/
def State.logParity (s : State) (c : Nat) (arr : List Nat) (p : Fin 2) (v : Nat) : State :=
  let n := (arr.map fun c => ((s.engine c).parity.filter fun x => x / 256 == p.val).length).sum
  if n == 0 || v == 0 then s else s.rasEntry 2 (dieOfCore c) (c % 96) p.val 0 n

/-- Element e of an accumulator move, whose rows lie over a block's arrays (R161). -/
def State.accElem (s : State) (arr : List Nat) (row0 e : Nat) : Word :=
  let cols := 256 * arr.length
  sget 0 (s.engine (arr.getD (e % cols / 256) 0)).acc (256 * (row0 + e / cols) + e % 256)

/-- Write elements of an accumulator move. -/
def State.setAccElems (s : State) (arr : List Nat) (row0 : Nat) (xs : List (Nat × Word)) : State :=
  let cols := 256 * arr.length
  ((List.range arr.length).zip arr).foldl (fun s x =>
    s.modEngine x.2 fun e => { e with acc := (xs.filter fun y => y.1 % cols / 256 == x.1).foldl (fun m y =>
      sput 0 m (256 * (row0 + y.1 / cols) + y.1 % 256) y.2) e.acc }) s

/-- The bytes an accumulator word is moved as (R161, R45). -/
def moveBytes (form : MvForm) (w : Word) : List Byte :=
  match form with
  | .st | .add => leBytes 4 w.toNat
  | .bf => leBytes 2 (bf16.deliver .nearest (rd32 w)).1

/-- BF16 widened to FP32: a NaN becomes the canonical one (R45). -/
def canonWide (w : Word) : Word := if (rd32 w).isNan then nan32 else w

/-- An accumulator element from its bytes in memory: FP32, or BF16 widened (R161). -/
def loadElem (h : Bool) (bs : List Byte) : Word :=
  if h then canonWide (BitVec.ofNat 32 (leNat bs) <<< (16 : Nat)) else BitVec.ofNat 32 (leNat bs)

/-- Bytes a moved element takes (R161). -/
def moveSize : MvForm → Nat
  | .bf => 2
  | _ => 4

/-- The bytes that an ACCMV writes for elements of its rows, each with its element and address. -/
def State.moveOut (s : State) (arr : List Nat) (form : MvForm) (va row0 : Nat) (js : List Nat) : List (Nat × Nat × Byte) :=
  js.flatMap fun e =>
    let bs := moveBytes form (s.accElem arr row0 e)
    ((List.range bs.length).zip bs).map fun x => (e, va + moveSize form * e + x.1, x.2)

/-- The elements of an ACCMV that a 64-byte line holds. -/
def lineElems (form : MvForm) (va total l : Nat) : List Nat :=
  ((List.range (64 / moveSize form)).map fun i => (64 * l - va) / moveSize form + i).filter fun e => e < total

/-- ACCMV's rows added onto memory, each indivisible (R161). -/
def State.addRows (s : State) (id : Nat) (c : Cmd) (arr : List Nat) (va row0 : Nat) (fate : Fate) : List Nat → CmdOut
  | [] => .done s
  | i :: is =>
    let cols := 256 * arr.length
    let elems := (List.range cols).map (cols * i + ·)
    if (mget s.cmds id).any fun c => c.has (cols * i) then s.addRows id c arr va row0 fate is
    else
      match s.cmdWrite id c (s.moveOut arr .add va row0 elems) (fun l => s.moveOut arr .add va row0 (lineElems .add va (cols * (i + 1)) l)) true fate
          fun s _ _ => s with
      | .go s _ => s.addRows id c arr va row0 fate is
      | .halt o => o

/-- The units of a matrix command that a part of it performs: those of a range, or all that are left (R163). -/
def unitsOf (part : Option (Nat × Nat)) (total : Nat) : Nat × Nat :=
  match part with
  | none => (0, total)
  | some (lo, n) => (lo, min n (total - lo))

/-- A matrix command runs (R153, R158, R161), whole or in part: MXLD and MXMM read bytes of their sources ahead, and have their effect
with the rest; of an accumulator move, elements are moved, and whole rows where they are added. Copies have events of their own.
DEDUCED, log 9. -/
def State.runMatrix (s : State) (id : Nat) (c : Cmd) (part : Option (Nat × Nat)) (fate : Fate) : CmdOut :=
  let arr := s.arrays c.block c.core
  let cols := 256 * arr.length
  let local_ (o : CmdOut) : CmdOut := if fate == .performed then o else .wait s
  match c.kind with
  | .mxld fmt p va b0 nb =>
    let s := s.reformat arr p fmt
    let size := nb * imageBytes fmt cols
    let (lo, n) := unitsOf part size
    if fate != .performed then .wait s
    else
      s.cmdFetch id c ((List.range n).map fun i => (lo + i, va + lo + i)) fun s m =>
        if part.isSome then .done (s.latch id m) else .done (s.runMxld arr fmt p b0 nb ((List.range size).map (sget 0 m)))
  | .mxmm fmt _ v row0 ofs p sw asc =>
    let total := mxmmBytes fmt v asc
    let (lo, n) := unitsOf part total
    let at_ (j : Nat) : Nat := c.core * 2097152 + mxmmAt fmt v ofs asc j
    let need := (c.rest lo n).filter fun j => (mget c.latched j).isNone
    if fate != .performed then .wait s
    else if need.any fun j => s.homeBad (at_ j) then .stop s (cAccess 12)
    else
      let m := need.foldl (fun m j => mput m j (s.byte (at_ j))) c.latched
      if part.isSome then .done (s.latch id m)
      else .done ((s.runMxmm arr fmt v row0 p sw asc ((List.range total).map (sget 0 m))).logParity c.core arr p v)
  | .accz row0 k =>
    let (lo, n) := unitsOf part (k * cols)
    let js := c.rest lo n
    local_ (.done ((s.setAccElems arr row0 (js.map fun e => (e, 0))).gotUnits id js))
  | .accld h va row0 k =>
    let w := if h then 2 else 4
    let (lo, n) := unitsOf part (k * cols)
    let js := c.rest lo n
    local_ (s.cmdFetch id c (js.flatMap fun e => (List.range w).map fun i => (w * e + i, va + w * e + i)) fun s m =>
      .done ((s.setAccElems arr row0 (js.map fun e => (e, loadElem h ((List.range w).map fun i => sget 0 m (w * e + i))))).gotUnits id js))
  | .accmv .add va row0 k =>
    let (lo, n) := unitsOf (part.map fun x => (x.1 / cols, x.2 / cols)) k
    s.addRows id c arr va row0 fate ((List.range n).map (lo + ·))
  | .accmv form va row0 k =>
    let (lo, n) := unitsOf part (k * cols)
    let js := c.rest lo n
    match s.cmdWrite id c (s.moveOut arr form va row0 js) (fun l => s.moveOut arr form va row0 (lineElems form va (k * cols) l)) false fate
        fun s _ _ => s with
    | .go s _ => .done s
    | .halt o => o
  | .copy .. => .wait s

end Sys2Proof.Machine
end

