-- ==== Sys2Proof/Machine/Copy.lean ====
section
/-! DEFINITION. The copy engine (R164-R168): layout records, the placing of a box's elements, the copies' acceptance, and their rows as
they land and are counted. -/

namespace Sys2Proof.Machine

/-! ### Layout records (R164) -/

/-- A layout record's fields (R164); the element size as its logarithm. -/
structure LRec where
  base   : Nat
  scope  : Nat
  rel    : Bool
  acq    : Bool
  swz    : Nat
  esz    : Nat
  ndim   : Nat
  box    : List Nat
  stride : List Int
  bound  : List Nat
  dpitch : Nat
deriving DecidableEq, Repr

/-- The fields of a layout record's 16 words (R164). Strides and bounds are listed by dimension; dimension 0 is contiguous. -/
def lrecOf (ws : List Word) : LRec :=
  let w (i : Nat) : Nat := (ws.getD i 0).toNat
  { base := bits (w 1) 23 0 * 2 ^ 32 + w 0
    scope := bits (w 2) 14 12
    rel := bitAt (w 2) 11
    acq := bitAt (w 2) 10
    swz := bits (w 2) 9 6
    esz := bits (w 2) 5 3
    ndim := bits (w 2) 2 0
    box := [bits (w 3) 15 0, bits (w 3) 31 16, bits (w 4) 15 0, bits (w 4) 31 16, bits (w 5) 15 0]
    stride := 0 :: (List.range 4).map fun i => sextNat 32 (w (6 + i))
    bound := (List.range 5).map fun i => w (10 + i)
    dpitch := bits (w 15) 19 0 }

/-- Bytes of an element. -/
def LRec.size (r : LRec) : Nat := 2 ^ r.esz

/-- A box extent; 0 counts as 1 (R165). -/
def LRec.ext (r : LRec) (k : Nat) : Nat := max 1 (r.box.getD k 0)

/-- Bytes of one box row. -/
def LRec.rowBytes (r : LRec) : Nat := r.ext 0 * r.size

/-- Slice bytes between box rows (R164). -/
def LRec.pitch (r : LRec) : Nat := if r.dpitch == 0 then r.rowBytes else r.dpitch

/-- The rows of a box (R165). -/
def LRec.rows (r : LRec) : Nat := r.ext 1 * r.ext 2 * r.ext 3 * r.ext 4

/-- Is a record invalid (R164)? -/
def lrecBad (ws : List Word) : Bool :=
  let w (i : Nat) : Nat := (ws.getD i 0).toNat
  let r := lrecOf ws
  bits (w 1) 31 24 != 0 || bits (w 2) 31 15 != 0 || bits (w 5) 31 16 != 0 || bits (w 15) 31 20 != 0 ||
    r.ndim == 0 || 5 < r.ndim || 4 < r.esz || 3 < r.swz || 4 < r.scope || (r.scope != 0 && !r.acq && !r.rel) ||
    ((List.range 5).any fun k => if k < r.ndim then r.box.getD k 0 == 0 else r.box.getD k 0 != 0) ||
    r.base % r.size != 0 || (r.stride.any fun x => x % (r.size : Int) != 0) ||
    r.dpitch % 16 != 0 || (r.dpitch != 0 && r.dpitch < r.rowBytes) || (r.swz != 0 && r.pitch % (64 * 2 ^ r.swz) != 0)

/-! ### Placing elements (R165) -/

/-- The box indexes i1 to i4 of a row (R165). -/
def LRec.rowIdx (r : LRec) (row : Nat) : List Nat :=
  [row % r.ext 1, row / r.ext 1 % r.ext 2, row / (r.ext 1 * r.ext 2) % r.ext 3, row / (r.ext 1 * r.ext 2 * r.ext 3)]

/-- The tensor coordinates g1 to g(NDIM-1) of a row, with their dimensions: for CPG the entry of the index list stands for g1 (R165,
R166). -/
def LRec.rowCoords (r : LRec) (coords : List Int) (entry : Option Int) (row : Nat) : List (Nat × Int) :=
  (List.range (r.ndim - 1)).map fun j =>
    let k := j + 1
    let g := coords.getD k 0 + ((r.rowIdx row).getD j 0 : Nat)
    (k, if k == 1 then entry.getD g else g)

/-- The elements of a row that lie in the tensor: from the first to past the last box index of dimension 0 (R165: inb). -/
def LRec.rowSpan (r : LRec) (coords : List Int) (gs : List (Nat × Int)) : Nat × Nat :=
  if gs.all fun g => 0 ≤ g.2 && g.2 < (r.bound.getD g.1 0 : Nat) then
    let c0 := coords.getD 0 0
    let lo := (max 0 (-c0)).toNat
    let hi := min (r.ext 0) ((r.bound.getD 0 0 : Nat) - c0).toNat
    (lo, max lo hi)
  else (0, 0)

/-- The address of the tensor element of a row at box index i0, in the 56-bit space (R165). -/
def LRec.tensorVa (r : LRec) (coords : List Int) (gs : List (Nat × Int)) (i0 : Nat) : Nat :=
  let a : Int := r.base + (coords.getD 0 0 + i0) * r.size + gs.foldl (fun t g => t + g.2 * r.stride.getD g.1 0) 0
  (a % 2 ^ 56).toNat

/-- The slice offset of an element in the box, swizzled (R165). -/
def LRec.sliceOfs (r : LRec) (row i0 : Nat) : Nat :=
  let o := row * r.pitch + i0 * r.size
  if r.swz == 0 then o
  else
    let n := 4 * 2 ^ r.swz
    let c := o / 16 % n
    o - 16 * c + 16 * (c ^^^ (row % n))

/-! ### Acceptance (R164, R166) -/

/-- The party of an issuer. -/
def Issuer.party : Issuer → Party
  | .band k _ => .band k
  | .strand q => .strand q

/-- Does the layout-record read of a party's copy instruction stand open? -/
def State.layoutOpen (s : State) (w : Issuer) : Bool :=
  many s.ops fun _ o =>
    match o.kind with
    | .layout _ _ _ _ _ v => v.same w
    | _ => false

/-- The read of a layout record, made as a load by the issuer: in a band, of every thread `ms` of P (R147, R164, R222). `hi` is the high
half of the clock, where the record's address was read from SP.CLK: it is latched once the instruction is accepted (R30, R235). -/
def State.layoutOp (s : State) (w : Issuer) (kind : OpKind) (blk : Block) (uid pcv : Nat) (va : Nat) (a : Acc) (ms : List (Nat × Nat))
    (hi : List Word) : Op where
  kind := kind
  core := w.party.core
  thread := match w with
    | .band _ low => low
    | .strand _ => 0
  uid := uid
  flag := none
  d := .discard
  va := va
  acc := a
  n := 64
  data := []
  cmp := []
  ord := .relaxed
  task := blk.task
  part := blk.part
  inst := blk.inst
  words := hi
  pc := BitVec.ofNat 56 pcv
  issued := s.clk
  sent := false
  resp := none
  done := false
  tag := none
  void := false
  egress := false
  who := ms
  laid := []
  plane := none
  seq := 0

/-- A layout-record read, a load, is counted, and sampled where it is the one that is tagged (R377). -/
def State.sampleLayout (s : State) (o : Op) (w : Issuer) : State :=
  let (tag, s) := s.countReq o.core o.part
  if tag then
    match w with
    | .band k low => s.sampleReq o.core (slotOfThread low) false o.part (o.pc - s.bandBase k).toNat o.va 0 o.acc.loc (s.clk - o.issued)
    | .strand q => s.sampleReq o.core 0 true o.part (o.pc - s.strandBase q).toNat o.va 0 o.acc.loc (s.clk - o.issued)
  else s

/-- A copy instruction at its slot: it asks for its layout record and waits there until the record is read (R164). -/
def copyFrame (kind : CopyKind) (cnt : Option (Fin 32)) (ab : Ab) (d a : UniSrc) (ofs : BitVec 22) (b : Fin 32) (s : State) : Out :=
  engineFrameOf s .cp ((cnt.map fun h => cHasp h.val).getD cIllegal) fun s p ks _ blk =>
    let w : Issuer := match p with
      | .band k => .band k (ks.headD 0)
      | .strand q => .strand q
    if s.layoutOpen w then .stay s
    else
      let (x, s1) := s.uniSrc p false a
      s1.engineAddr p x ofs 64 fun va =>
        s.placeVa (s.partySpace p) p.core va 64 0 .read false fun s acc =>
          let s := s.countAcc (s.partySpace p) p.core acc 1 0
          let (id, s) := s.fresh
          let uid := match p with
            | .band _ => ((s.thread? (ks.headD 0)).map (·.uid)).getD 0
            | .strand _ => id
          let ms := ks.filterMap fun k => (s.thread? k).map fun t => (k, t.uid)
          let hi := if a == .sp 12 then [BitVec.ofNat 32 (s.clk / 2 ^ 32)] else []
          let o := s.layoutOp w (.layout kind cnt ab d b w) blk uid (s.partyPc p ks).toNat va acc ms hi
          .stay ((s.addOp id o).sendReady)

/-- CPT (R166). -/
def execCpt (cnt : Option (Fin 32)) (ab : Ab) (d a : UniSrc) (ofs : BitVec 22) (b : Fin 32) (s : State) : Out :=
  copyFrame .cpt cnt ab d a ofs b s

/-- CPG (R166). -/
def execCpg (cnt : Option (Fin 32)) (ab : Ab) (d a : UniSrc) (ofs : BitVec 22) (b : Fin 32) (s : State) : Out :=
  copyFrame .cpg cnt ab d a ofs b s

/-- CPS (R166). -/
def execCps (cnt : Option (Fin 32)) (ab : Ab) (d a : UniSrc) (ofs : BitVec 22) (b : Fin 32) (s : State) : Out :=
  copyFrame .cps cnt ab d a ofs b s

/-- CPZ (R166): it names no coordinates. -/
def execCpz (cnt : Option (Fin 32)) (ab : Ab) (d a : UniSrc) (ofs : BitVec 22) (s : State) : Out :=
  copyFrame .cpz cnt ab d a ofs 0 s

/-- The coordinates of a copy (R165): sB to s(B + NDIM - 1); CPZ has none. -/
def State.copyCoords (s : State) (p : Party) (kind : CopyKind) (b : Fin 32) (ndim : Nat) : List Int :=
  if kind == .cpz then []
  else (List.range ndim).map fun k => if h : b.val + k < 32 then (s.partyS p ⟨b.val + k, h⟩).toInt else 0

/-- Does some in-bounds row of a copy reach host memory, or a slice where it may not (R149)? The rows of a CPG are not known before its
index list is read: State.gatherBad judges them then (DEDUCED, log 26). -/
def State.tensorBad (s : State) (p : Party) (kind : CopyKind) (r : LRec) (coords : List Int) : Option Nat :=
  if kind == .cpg || kind == .cpz then none
  else
    (List.range r.rows).findSome? fun row =>
      let gs := r.rowCoords coords none row
      let (lo, hi) := r.rowSpan coords gs
      if lo < hi then s.rangeBad p (r.tensorVa coords gs lo) ((hi - lo) * r.size) false else none

/-- The high half of the clock that a party latched (R30). -/
def State.setClkh (s : State) (p : Party) (hi : Word) : State :=
  match p with
  | .band b => s.modBand b fun x => { x with clkh := hi }
  | .strand q => s.setStrand q { s.strand q with clkh := hi }

/-- The checks of a copy at acceptance, with its record valid, and the command (R149, R165, R166); `hi` is the latch that the record's
address left. -/
def State.acceptCopy (s0 : State) (p : Party) (ks : List Nat) (n : Nat) (kind : CopyKind) (cnt : Option (Fin 32)) (ab : Ab) (d : UniSrc)
    (b : Fin 32) (ws hi : List Word) : Res :=
  let s := hi.foldl (fun s h => s.setClkh p h) s0
  Res.undo s0 <|
  let r := lrecOf ws
  if kind != .cpz && 31 < b.val + r.ndim - 1 then .trap s cIllegal
  else if kind == .cpg && r.ndim < 2 then .trap s cIllegal
  else
    let (dw, s) := s.uniSrc p false d
    s.engineAddr p dw 0 16 fun dst =>
      if !isSlice dst then .trap s (cAccess 13)
      else
        match s.rangeBad p dst (r.rows * r.pitch) false with
        | some e => .trap s (cAccess e)
        | none =>
          let coords := s.copyCoords p kind b r.ndim
          match s.tensorBad p kind r coords with
          | some e => .trap s (cAccess e)
          | none =>
            let go (ix : Nat) : Res := .ok (s.acceptCmd p ks n (some ab) (.copy kind ws dst coords ix (cnt.map (·.val))) r.acq r.rel)
            if kind == .cpg then
              s.engineAddr p (s.partyS p (b + 1)) 0 4 fun ix =>
                match s.rangeBad p ix (4 * r.ext 1) true with
                | some e => .trap s (cAccess e)
                | none => go ix
            else go 0

/-- The record of a copy instruction as it returned: its words, or the DETAIL with which the read failed (R237); nothing where it has
not come, or where the read must wait for the read log (R297). -/
def State.layoutWords (s : State) (o : Op) : Option (Except Nat (List Word × State)) :=
  if s.opRefused o then some (.error 8)
  else if s.accBad o.acc 64 then some (.error 12)
  else
    match o.acc.loc.home, o.resp with
    | some h, _ => (s.opLogRead o).map fun s => .ok (wordsOfBytes (s.bytes h 64), s)
    | none, some (bs, .performed) => (s.opLogRead o).map fun s => .ok (wordsOfBytes bs, s)
    | none, some (_, .refused) => some (.error 8)
    | none, some (_, .lost) => some (.error 9)
    | none, none => none

/-- Does the issuer of a copy instruction still stand at it? -/
def State.layoutWaits (s : State) (o : Op) (w : Issuer) : Bool :=
  match w with
  | .strand q => s.strandFree q && (s.strand q).pc == o.pc
  | .band _ low =>
    match s.thread? low with
    | some t => t.uid == o.uid && t.pc == o.pc && (t.trapMode || s.meeting low == .complete (s.threadsP (bandOfThread low)))
    | none => false

/-- What the instruction does with its record applied to its issuer (R164). -/
def State.layoutFinish (w : Issuer) (ks : List Nat) : Res → State :=
  match w with
  | .band .. => State.bandFinish ks
  | .strand q => State.strandFinish q

/-- LAYOUT_RECORD_READ (R164): the copy instruction is accepted, or traps; where its issuer has ended, the record is dropped. -/
def execLayoutRecordRead (op : Nat) (s : State) : Out :=
  opFrame s op fun o =>
    match o.kind with
    | .layout kind cnt ab d b w =>
      let ks := match w with
        | .band _ low => s.rendezvousP low
        | .strand _ => []
      let gone (s : State) : State := { s with ops := mdel s.ops op }
      if !s.layoutWaits o w then
        (match w with
          | .band _ low => if (s.thread? low).any fun t => t.uid == o.uid && t.pc == o.pc then s else gone s
          | .strand q => if (s.strand q).status == .run && (s.strand q).pc == o.pc then s else gone s)
      else if s.bandTook w.party .cp then s
      else
        match s.layoutWords o with
        | none => s
        | some (.error e) => (State.layoutFinish w ks (.trap (gone s) (cAccess e))).settle
        | some (.ok (ws, s)) =>
          let s := s.sampleLayout o w
          let s := gone s
          if lrecBad ws then (State.layoutFinish w ks (.trap s ⟨1, 3, 0⟩)).settle
          else
            match s.blockOfParty w.party with
            | none => s
            | some (n, _) => (State.layoutFinish w ks ((s.acceptCopy w.party ks n kind cnt ab d b ws o.words).taken w.party .cp)).settle
    | _ => s

/-! ### Bytes (R165-R168) -/

/-- The bytes of a box: the units of a copy, row after row. -/
def LRec.total (r : LRec) : Nat := r.rows * r.rowBytes

/-- The box row of byte j, its element in the row, and the byte of the element. -/
def LRec.byteAt (r : LRec) (j : Nat) : Nat × Nat × Nat := (j / r.rowBytes, j % r.rowBytes / r.size, j % r.size)

/-- The slice offset of byte j in the box (R165). -/
def LRec.sliceAt (r : LRec) (j : Nat) : Nat :=
  let (row, i0, b) := r.byteAt j
  r.sliceOfs row i0 + b

/-- The address of the tensor byte that byte j of the box stands for, where it lies in the tensor (R165). -/
def LRec.tensorAt (r : LRec) (coords : List Int) (gs : Nat → List (Nat × Int)) (j : Nat) : Option Nat :=
  let (row, i0, b) := r.byteAt j
  let (lo, hi) := r.rowSpan coords (gs row)
  if lo ≤ i0 && i0 < hi then some (r.tensorVa coords (gs row) i0 + b) else none

/-- Do bytes j - 1 and j of a box lie in one aligned 4-byte word (R217)? -/
def joined (at? : Nat → Option Nat) (j : Nat) : Bool :=
  j != 0 &&
    match at? (j - 1), at? j with
    | some a, some b => a / 4 == b / 4
    | _, _ => false

/-- The first byte of the word that byte j lies in, at most n bytes back. -/
def wordLow (at? : Nat → Option Nat) : Nat → Nat → Nat
  | 0, j => j
  | n + 1, j => if joined at? j then wordLow at? n (j - 1) else j

/-- Past the last byte of the word that byte j - 1 lies in, at most n bytes on. -/
def wordHigh (at? : Nat → Option Nat) : Nat → Nat → Nat
  | 0, j => j
  | n + 1, j => if joined at? j then wordHigh at? n (j + 1) else j

/-- A part of a copy splits no word that the copy writes (R217). -/
def wordWhole (at? : Nat → Option Nat) (total lo n : Nat) : Bool :=
  !joined at? lo && (lo + n == total || !joined at? (lo + n))

/-- Count n landed bytes on a hasp of this package: into the active slot whose SRC names the issuing core, where the hasp is valid (R140,
R167). LANDED holds 24 bits (log 25). DESIGN CHOICE, log 94. -/
def State.landOn (s : State) (hk src n : Nat) : Option Counted × State :=
  let h := s.hasp hk
  match (List.finRange 4).find? fun i => h.slots[i].act && h.slots[i].src == src with
  | some i =>
    if h.valid && n != 0 then
      let x := h.slots[i]
      (some ⟨hk, i.val, h.phase, n⟩,
        (s.setHasp hk { h with slots := h.slots.set i { x with landed := (x.landed + n) % 2 ^ 24 } }).tryComplete (hk / 32) (hk % 32))
    else (none, s)
  | none => (none, s)

/-- Landed bytes of a command count on a hasp of core c (R167). -/
def State.countLanded (s : State) (id : Nat) (c : Cmd) (cnt : Option Nat) (core n : Nat) : State :=
  match cnt with
  | none => s
  | some h =>
    match s.landOn (haspKey core h) c.src n with
    | (some k, s) => s.modCmd id fun c => { c with counted := c.counted ++ [k] }
    | (none, s) => s

/-- Where a copy's box lies (R166): its place, through the block's space. -/
def State.boxLoc (s : State) (c : Cmd) (dst : Nat) : Option Loc :=
  match s.sliceAcc (s.blockSpace c.block) c.core dst with
  | .ok a => some a.loc
  | _ => none

/-- The place in a CPG's latch of byte i of its index list. -/
def indexKey (i : Nat) : Nat := 2 ^ 60 + i

/-- The home of byte i of a CPG's index list, in the issuer's own slice (R166). -/
def State.indexHome (s : State) (c : Cmd) (idxVa i : Nat) : Option Nat :=
  (s.sliceOf (s.blockSpace c.block) c.core (idxVa + i)).map fun x => x.1 * 2097152 + x.2

/-- The latch with the index entries that box rows use, each read once (R217). -/
def State.readIndex (s : State) (c : Cmd) (r : LRec) (idxVa : Nat) (rows : List Nat) : Table Byte :=
  (rows.flatMap fun row => (List.range 4).map (4 * (row % r.ext 1) + ·)).foldl (fun m i =>
    if (mget m (indexKey i)).isSome then m
    else
      match s.indexHome c idxVa i with
      | some h => mput m (indexKey i) (s.byte h)
      | none => m) c.latched

/-- The index-list entry of a row of a CPG from the latch (R166). -/
def indexEntry (m : Table Byte) (i1 : Nat) : Int := sextNat 32 (leNat ((List.range 4).map fun b => sget 0 m (indexKey (4 * i1 + b))))

/-- The coordinates of a row. -/
def copyRow (kind : CopyKind) (r : LRec) (coords : List Int) (m : Table Byte) (row : Nat) : List (Nat × Int) :=
  r.rowCoords coords (if kind == .cpg then some (indexEntry m (row % r.ext 1)) else none) row

/-- Bytes written into a box of another package, a message for each line (R357), and counted there. -/
def State.sendBytes (s : State) (c : Cmd) (pk va : Nat) (cnt : Option Nat) (xs : List (Nat × Byte)) : State :=
  let lines := (xs.map fun x => (va + x.1) / 64).eraseDups
  lines.foldl (fun s l =>
    let (bs, m) := imageOf (xs.map fun x => (va + x.1, x.2)) (64 * l) 64 []
    s.send 9 pk { s.blankMsg with
      addr := BitVec.ofNat 56 (64 * l), part := Fin.ofNat 64 c.part, n := 64, data := bs, mask := maskOf (maskBytes m)
      node := (cnt.map (· + 1)).getD 0, core := c.src % 512 / 128 * 96 + c.src % 128 }) s

/-- Bytes of CPT, CPG or CPZ, each with its offset, land in the box and are counted there (R166, R167). Those for another package are lost only
where the message of each of their lines may have been (R358). -/
def State.landBox (s : State) (id : Nat) (c : Cmd) (dst : Nat) (cnt : Option Nat) (js : List Nat) (xs : List (Nat × Byte)) (fate : Fate) : State :=
  match s.boxLoc c dst with
  | some (.slice d o) =>
    if fate != .performed then s
    else
      let s := xs.foldl (fun s x => s.writeHome (d * 2097152 + o + x.1) [x.2]) s
      (s.gotUnits id js).countLanded id c cnt d js.length
  | some (.remote pk va _) =>
    match fate with
    | .performed => (s.sendBytes c pk va cnt xs).gotUnits id js
    | .refused => (s.failCmd id .refused).gotUnits id js
    | .lost => if xs.all fun x => s.lostSince c.since pk (va + x.1) then (s.failCmd id .lost).gotUnits id js else s
  | _ => s

/-- Bytes of CPT or CPG: the tensor bytes in bounds are read, by whole words, zero elsewhere (R166, R217). -/
def State.bytesIn (s : State) (id : Nat) (c : Cmd) (r : LRec) (at? : Nat → Option Nat) (dst : Nat) (cnt : Option Nat) (lo n : Nat)
    (fate : Fate) : CmdOut :=
  let js := c.rest lo n
  let l := wordLow at? 3 lo
  let h := if lo + n < r.total then wordHigh at? 3 (lo + n) else r.total
  let need := ((List.range (h - l)).map (l + ·)).filterMap fun j => if lo ≤ j && j < lo + n && c.has j then none else (at? j).map fun a => (j, a)
  s.cmdFetch id c need fun s m =>
    .done ((s.latch id (m.filter fun x => 2 ^ 60 ≤ x.1 || x.1 < lo || lo + n ≤ x.1)).landBox id c dst cnt js
      (js.map fun j => (r.sliceAt j, if (at? j).isSome then sget 0 m j else 0)) fate)

/-- R149: how a row of a CPG that has bytes among those copied fails: its tensor bytes in bounds leave a slice, or reach host memory. Its place
is known once the index list is read (DEDUCED, log 26). -/
def State.gatherBad (s : State) (c : Cmd) (r : LRec) (coords : List Int) (gs : Nat → List (Nat × Int)) (rows : List Nat) : Option Nat :=
  rows.findSome? fun row =>
    let (lo, hi) := r.rowSpan coords (gs row)
    if lo < hi then s.rangeBadIn (s.blockSpace c.block) c.core (r.tensorVa coords (gs row) lo) ((hi - lo) * r.size) false else none

/-- The byte of a box at an offset, in a slice of this package or read from another package. -/
def State.boxByte (s : State) (at_ : Except (List Byte) Nat) (o : Nat) : Byte :=
  match at_ with
  | .ok h => s.byte (h + o)
  | .error bs => bs.getD o 0

/-- Bytes of a CPS: those of the tensor in bounds are written from the box, read by whole words; the others are skipped; all count but
those lost (R149, R166, R167). -/
def State.bytesOut (s : State) (id : Nat) (c : Cmd) (r : LRec) (at? : Nat → Option Nat) (box : Except (List Byte) Nat) (cnt : Option Nat)
    (lo n : Nat) (fate : Fate) : CmdOut :=
  let js := c.rest lo n
  let slot (j : Nat) : Option Nat := some (r.sliceAt j)
  let l := wordLow slot 3 lo
  let h := if lo + n < r.total then wordHigh slot 3 (lo + n) else r.total
  let need := ((List.range (h - l)).map (l + ·)).filter fun j => !c.has j && (mget c.latched j).isNone
  let bad := match box with
    | .ok g => need.any fun j => s.homeBad (g + r.sliceAt j)
    | .error _ => false
  if bad then .stop s (cAccess 12)
  else
    let m := need.foldl (fun m j => mput m j (s.boxByte box (r.sliceAt j))) c.latched
    let val (j : Nat) : Byte := (mget m j).getD (s.boxByte box (r.sliceAt j))
    let land (s : State) (js : List Nat) (lost : Bool) : State := if lost then s else s.countLanded id c cnt c.core js.length
    let skip := js.filter fun j => (at? j).isNone
    let unit (j : Nat) : Option (Nat × Nat × Byte) := (at? j).map fun a => (j, a, val j)
    let s := land ((s.latch id m).gotUnits id skip) skip false
    match s.cmdWrite id c (js.filterMap unit)
        (fun ln => ((List.range r.total).filter fun j => (at? j).any fun a => a / 64 == ln).filterMap unit) false fate land with
    | .go s _ => .done s
    | .halt o => o

/-- The box of a CPS in a slice of another package, read whole once (R166, R149). -/
def State.farBox (s : State) (id : Nat) (c : Cmd) (r : LRec) (dst : Nat) (go : State → List Byte → CmdOut) : CmdOut :=
  match s.placeAll (s.blockSpace c.block) c.core .read (pieces dst (r.rows * r.pitch)) [] with
  | .park s va k => .park s va 5 k
  | .bad s e => .stop s (cAccess e)
  | .ok s xs =>
    let s := s.engSend id c (xs.map fun x => (x.1, x.2.1, x.2.2, [], []))
    match s.allBytes id c xs with
    | some (bs, fs) => go (fs.foldl (fun s f => s.failCmd id f) s) bs
    | none => .wait s

/-- Bytes lo to lo + n - 1 of a copy are performed (R165-R168), where they split no word that it writes (R217). A box or a counting hasp
that belongs to another partition refuses the copy whole, uncounted. -/
def State.copyPart (s : State) (id lo n : Nat) (c : Cmd) (fate : Fate) : CmdOut :=
  match c.kind with
  | .copy kind ws dst coords idxVa cnt =>
    let r := lrecOf ws
    let rows := if kind == .cpg then (List.range r.rows).filter fun i => lo / r.rowBytes ≤ i + 1 && i ≤ (lo + n) / r.rowBytes else []
    let m := s.readIndex c r idxVa rows
    let gs := copyRow kind r coords m
    let at? := r.tensorAt coords gs
    let slot (j : Nat) : Option Nat := some (r.sliceAt j)
    let box := s.boxLoc c dst
    if (box.any fun l => s.refusedAt c.core c.part l) then .done ((s.failCmd id .refused).modCmd id fun c => { c with got := [(0, r.total)] })
    else if !wordWhole (if kind == .cps then at? else slot) r.total lo n then .wait s
    else if kind == .cpg && rows.any (fun i => (s.indexHome c idxVa (4 * (i % r.ext 1))).any s.homeBad) then
      .stop s (cAccess 12)
    else
      match kind with
      | .cpz => .done (s.landBox id c dst cnt (c.rest lo n) ((c.rest lo n).map fun j => (r.sliceAt j, 0)) fate)
      | .cps =>
        match box with
        | some (.slice d o) => s.bytesOut id c r at? (.ok (d * 2097152 + o)) cnt lo n fate
        | _ => s.farBox id c r dst fun s bs => s.bytesOut id c r at? (.error bs) cnt lo n fate
      | _ =>
        match s.gatherBad c r coords gs (rows.filter fun i => lo < (i + 1) * r.rowBytes && i * r.rowBytes < lo + n) with
        | some e => .stop s (cAccess e)
        | none => (s.latch id m).bytesIn id { c with latched := m } r at? dst cnt lo n fate
  | _ => .wait s

/-- Would a part of a copy perform the last bytes that are left? -/
def Cmd.lastBytes (c : Cmd) (r : LRec) (lo n : Nat) : Bool := c.gotten + (c.rest lo n).length == r.total

/-- Bytes of a copy land (R167, R168, R148): they are written and counted, the last of a REL once what the release orders is performed.
The schedule chooses which, in any order. -/
def State.copyLanded (s : State) (cmd lo n : Nat) (fate : Fate) : State :=
  match mget s.cmds cmd with
  | none => s
  | some c =>
    match c.kind with
    | .copy _ ws _ _ _ _ =>
      let r := lrecOf ws
      if !s.cmdRuns cmd c || r.total < lo + n || (c.rest lo n).isEmpty then s
      else if c.rel && c.lastBytes r lo n && s.relLeft cmd c then s
      else
        let s1 := if c.acq then s.dropRoc c.core else s
        (State.cmdApply cmd c State.settle (s1.copyPart cmd lo n c fate))
    | _ => s

/-- A command completes (R146, R148): a matrix command has its effect, the rest of it where `part` names none of its units; a copy
completes once every byte has landed. A part of a matrix command is performed ahead of its completion (R163). -/
def State.engineCompleted (s : State) (cmd : Nat) (part : Option (Nat × Nat)) (fate : Fate) : State :=
  match mget s.cmds cmd with
  | none => s
  | some c =>
    if !s.cmdRuns cmd c || (part.isNone && c.rel && s.relLeft cmd c) then s
    else
      match c.kind with
      | .copy _ ws _ _ _ _ => if part.isNone && c.gotten == (lrecOf ws).total then (s.finishCmd cmd c) else s
      | _ =>
        let s1 := if c.acq then s.dropRoc c.core else s
        (State.cmdApply cmd c (fun t => if part.isNone then t.finishCmd cmd c else t.settle) (s1.runMatrix cmd c part fate))

end Sys2Proof.Machine
end

