-- ==== Sys2Proof/Machine/Save.lean ====
section
/-! DEFINITION. Saving and restoring a core context (R232, R322-R327), zeroing a core (R330), switching a core (R315-R317) and the release
that ends a recall (R320). -/

namespace Sys2Proof.Machine

/-! ### What a core holds -/

/-- The blocks on a core. -/
def State.blocksOn (s : State) (c : Nat) : List Nat := mkeys s.blocks fun _ b => b.core == c

/-- The free bands on a core (R194). -/
def State.freeBandsOn (s : State) (c : Nat) : List Nat := mkeys s.bands fun k b => coreOfBand k == c && b.block.isNone

/-- Does a core hold a block or a free band (R322)? -/
def State.holdsWork (s : State) (c : Nat) : Bool := !(s.blocksOn c).isEmpty || !(s.freeBandsOn c).isEmpty

/-- The block on a core that holds a hasp (R199). -/
def State.haspHolder (s : State) (c n : Nat) : Option Nat := (s.blocks.find? fun x => x.2.core == c && x.2.holds n).map (·.1)

/-! ### Moving keys from one core to another -/

/-- A thread key of core a, on core b. -/
def moveThread (a b k : Nat) : Nat := if coreOfThread k == a then k - 2048 * a + 2048 * b else k
/-- A band key of core a, on core b. -/
def moveBand (a b k : Nat) : Nat := if coreOfBand k == a then k - 64 * a + 64 * b else k
/-- A hasp key of core a, on core b. -/
def moveHasp (a b k : Nat) : Nat := if k / 32 == a then k - 32 * a + 32 * b else k
/-- A sequencer key of core a, on core b. -/
def moveSeq (a b q : Nat) : Nat := if q / 2 == a then q - 2 * a + 2 * b else q

/-- A thread moved. -/
def Thread.move (t : Thread) (a b : Nat) : Thread := { t with heldBy := t.heldBy.map (moveThread a b) }

/-- A hasp moved: its arrivals name threads (R325). -/
def Hasp.move (h : Hasp) (a b : Nat) : Hasp :=
  { h with arr := h.arr.map (moveThread a b), heldArr := h.heldArr.map fun x => { x with thread := x.thread.map (moveThread a b) } }

/-- A block moved. -/
def Block.move (x : Block) (a b : Nat) : Block := { x with core := b, chosen := x.chosen.map (moveBand a b) }

/-- A strand moved. -/
def Strand.move (x : Strand) (a b : Nat) : Strand := { x with forker := x.forker.map (moveBand a b) }

/-- An issuer moved. -/
def Issuer.move (x : Issuer) (a b : Nat) : Issuer :=
  match x with
  | .band k low => .band (moveBand a b k) (moveThread a b low)
  | .strand q => .strand (moveSeq a b q)

/-- A command moved; `f` renumbers operations. -/
def Cmd.move (c : Cmd) (a b : Nat) (f : Nat → Nat) : Cmd :=
  { c with
    core := b
    issuer := c.issuer.move a b
    flags := c.flags.map fun x => (moveThread a b x.1, x.2)
    members := c.members.map fun x => (moveThread a b x.1, x.2)
    after := c.after.map f
    afterCmds := c.afterCmds.map f
    relAfter := c.relAfter.map f }

/-- An operation moved. -/
def Op.move (o : Op) (a b : Nat) : Op := { o with core := b, thread := moveThread a b o.thread }

/-! ### Operations in flight (R232) -/

/-- How a store in flight ends at a halt: as its port has it; on its way to another package as the fabric has it (log 4). -/
def State.haltFate (s : State) (o : Op) : Fate × State :=
  match o.acc.loc with
  | .remote .. =>
    let (n, s) := s.freeNumber
    (if n % 3 == 1 then .refused else if n % 3 == 2 && s.mayLose o then .lost else .performed, s)
  | l => (if s.refusedAt o.core o.part l then .refused else .performed, s)

/-- An atomic in flight completes exactly once; its old value waits for the restore (R232). One whose line an error has struck fails (R363,
R237). DEDUCED, log 68. -/
def State.haltAtomic (s : State) (id : Nat) (o : Op) : State :=
  match o.acc.loc.home with
  | some h =>
    let old := s.bytes h o.n
    let s1 := match o.kind.newValue (leNat old) (leNat o.data) (leNat o.cmp) with
      | some m => s.writeHome h (leBytes o.n m)
      | none => s
    { s1 with ops := mmod s1.ops id fun o => { o with resp := some (old, .performed), done := true } }
  | none => s

/-- One operation of a halted thread (R232): a store or RED in flight completes; an atomic of this package completes and keeps its old
value; everything else is saved as it stands. -/
def State.haltOp (s : State) (id : Nat) : State :=
  match mget s.ops id with
  | none => s
  | some o =>
    if !s.mayPerform id o || o.done || o.heldThere then s
    else
      match o.kind with
      | .st =>
        let (f, s) := s.haltFate o
        s.completeStore id o f
      | .red .. => if s.opRefused o then s.completeStore id o .refused else s.completeAtomic id o
      | .atom .. | .cas _ => if s.opRefused o then s else if s.accBad o.acc o.n then s.opFailRead id o 12 else s.haltAtomic id o
      | _ => s

/-- The operations of a core's threads, in issue order; what has left the egress hold buffer is the buffer's. -/
def State.opsOn (s : State) (c : Nat) : List Nat := mkeys s.ops fun _ o => o.core == c && !o.egress

/-! ### Copies (R325) -/

/-- Do some counted bytes of a copy lie in a completed phase? -/
def State.countedPast (s : State) (c : Cmd) : Bool := c.counted.any fun k => (s.hasp k.hasp).phase != k.phase

/-- Does a copy of another context count on a hasp that a block on core c holds (R325)? -/
def State.countsOn (s : State) (x : Cmd) (c : Nat) : Bool :=
  match x.kind with
  | .copy kind _ dst _ _ (some h) =>
    x.core != c && kind != .cps && (s.haspHolder c h).isSome &&
      (match s.boxLoc x dst with
        | some (.slice d _) => d == c
        | _ => false)
  | _ => false

/-- The copies that a save of core c rolls back: the context's own and those that count on its hasps. -/
def State.copiesAt (s : State) (c : Nat) : List Nat :=
  mkeys s.cmds fun _ x => x.kind.engine == .cp && (x.core == c || s.countsOn x c)

/-- Counted bytes are subtracted from the slot that counted them (R325). DEDUCED, log 54. -/
def State.uncount (s : State) (k : Counted) : State :=
  let h := s.hasp k.hasp
  if hs : k.slot < 4 then
    let x := h.slots[k.slot]
    s.setHasp k.hasp { h with slots := h.slots.set k.slot { x with landed := x.landed - k.bytes } }
  else s

/-- All that a copy counted is subtracted as one event, after which the hasps are looked at (R131, R325). -/
def State.uncountAll (s : State) (ks : List Counted) : State :=
  (ks.map (·.hasp)).eraseDups.foldl (fun s h => s.tryComplete (h / 32) (h % 32)) (ks.foldl State.uncount s)

/-- A copy is rolled back: nothing has landed but graded lines, which stay written (R92, R325). Its failure has counted (R149). -/
def State.rollBack (s : State) (id : Nat) : State :=
  match mget s.cmds id with
  | some c =>
    let s := s.uncountAll c.counted
    let s := { s with ops := s.ops.filter fun x => x.2.kind != OpKind.eng id }
    s.modCmd id fun c => { c with
      counted := [], got := [], latched := [], parked := none
      marks := c.marks.filter fun m => m < 2 ^ 73 || (2 ^ 96 + 2 ^ 72 ≤ m && m < 2 ^ 96 + 2 ^ 73) }
  | none => s

/-! ### A block's end (R203) -/

/-- Has every store, atomic and RED of a task been performed, failed, or entered the egress hold buffer (R333)? One that was discarded counts
as soon as it is, unless it has been sent: it is performed still (R299, R304). -/
def State.writesOut (s : State) (task : Nat) : Bool :=
  !many s.ops fun _ o => o.task == task && o.kind.stores && !o.done && !o.egress && !(o.void && !o.sent)

/-- May a block end (R203, R333): it holds no band, no strand of it runs, no command of it is incomplete, and its threads' writes are
performed? -/
def State.blockOver (s : State) (n : Nat) : Bool :=
  (s.bandsOf n).isEmpty && (s.strandsOf n).isEmpty && (!many s.cmds fun _ c => c.block == n) &&
    (s.block? n).all fun b => s.writesOut b.task

/-- A stopped task run is over without completing (R250, R309). -/
def State.stopTask (s : State) (k : Nat) : State := s.modTask k fun t => { t with complete := true, stopped := true }

/-- The node counts a block that ends complete; a re-run has counted already (R203, R300). -/
def State.countEnd (s : State) (b : Block) : State :=
  if b.faulted || b.stopping || b.rerun then s else s.modNode b.inst b.node fun st => { st with ended := st.ended + 1 }

/-- A block's end (R203): its hasps become invalid and unheld, its engines unheld; its task run completes, and its node counts it. -/
def State.closeBlock (s : State) (block : Nat) (b : Block) : State :=
  let s := (maskNums b.hasps).foldl (fun s h => s.invalidate b.core h) s
  let s := { s with blocks := mdel s.blocks block, strands := mmap s.strands fun _ x => if x.block == block then { x with block := 0, forker := none } else x }
  (if b.faulted || b.stopping then s.stopTask b.task else s.completeTask b.task).countEnd b

/-- A core's blocks that have ended, also in the course of a save (R203). -/
def State.closeOver (s : State) (c : Nat) : State :=
  (s.blocksOn c).foldl (fun s n =>
    match s.block? n with
    | some b => if s.blockOver n then s.closeBlock n b else s
    | none => s) s

/-! ### The save (R323) -/

/-- An abandoned routine: a thread that entered it stands at its resume pc (R171). A trap mode that it was in there is lost with the routine
(DESIGN CHOICE, log 111). -/
def Thread.leaveRoutine (t : Thread) : Thread :=
  match t.resume with
  | some pc =>
    { t with
      resume := none
      pc := pc
      status := if t.status == .exited then .exited else .ready
      trapMode := false
      yielded := false
      bpSkip := false
      brkSkip := false }
  | none => { t with yielded := false }

/-- The routine of a block is left by every thread of the chosen band (R171, R172). The threads of the block that become ready by it, those
that the routine or the recall held, have this clk as their ready time (R196). -/
def State.leaveRoutine (s : State) (blk : Nat) : State :=
  match (s.block? blk).bind (·.chosen) with
  | some b =>
    let out (t : Thread) : Bool := t.resume.isSome && t.status != .ready && t.status != .exited
    let ks := mkeys s.threads fun k t => s.blockOf k == some blk &&
      ((bandOfThread k == b && (out t || t.yielded)) || (t.status == .ready && s.recallHolds k t))
    let s := { s with threads := mmap s.threads fun k t => if bandOfThread k == b then t.leaveRoutine else t }
    ks.foldl (fun s k => s.readied k) (s.modBlock blk fun x => { x with chosen := none })
  | none => s

/-- Must a save of a core wait for a copy to run to its end (R325)? -/
def State.mustWait (s : State) (c : Nat) : Bool := (s.copiesAt c).any fun id => (mget s.cmds id).any s.countedPast

/-- Entries in a level-2 partition's watch table (R327). -/
def State.watchCount (s : State) (part : Nat) : Nat :=
  s.saved.foldl (fun n x => if x.part == part then n + (x.watches.filter fun w => !w.lost).length else n) 0

/-- The armed watches of a core as they enter the watch table, which may be full (R327). -/
def State.saveWatches (s : State) (c part : Nat) : List SavedWatch :=
  let ws := (s.watches.filter fun w => w.2.core == c).map (·.2)
  let room := Config.watchTable - s.watchCount part
  ((List.range ws.length).zip ws).map fun x => ⟨x.2.line, x.2.hasp, x.2.inst, x.2.written, room ≤ x.1⟩

/-- A core's slice as it is listed in memory. -/
def State.sliceCells (s : State) (c : Nat) : List Host.Cell := s.mem.filter fun x => x.1 / 2097152 == c && x.1 < 2 ^ 44

/-- The slot and partition of what a core holds. DESIGN CHOICE, log 58. -/
def State.contextOf (s : State) (c : Nat) : Nat × Nat :=
  match (s.blocksOn c).head?.bind s.block?, (s.freeBandsOn c).head?.bind s.band? with
  | some b, _ => (b.slot, b.part)
  | none, some x => (x.slot, x.part)
  | none, none => (((s.core c).running).getD 0, 0)

/-- Is a core bound to a level-2 partition (R315)? -/
def State.boundTo (s : State) (c part : Nat) : Bool :=
  (List.range 128).any fun t => (s.bind t).valid && (s.bind t).part == part && bitAt (s.bind t).cores.toNat c

/-- Does a core's pair meet a welt's conditions (R207)? -/
def State.weltRoom (s : State) (c part : Nat) : Bool :=
  c % 2 == 0 && s.boundTo (c + 1) part && !(s.core (c + 1)).unavail && !many s.blocks fun _ b => b.core == c + 1 && b.mx

/-- Does a welt of the pair hold a core's matrix engine (R207)? -/
def State.weltHolds (s : State) (c : Nat) : Bool := c % 2 == 1 && many s.blocks fun _ b => b.core + 1 == c && b.welt

/-- Words 0 to 15 of a context's image (R323). The version and the size are free (log 58). -/
def State.imageHeader (s : State) (slot origin gen inst : Nat) (welt mx : Bool) : List Word :=
  [Config.contextVersion % 2 ^ 16 * 2 ^ 16, Config.contextKbytes welt, s.pkg.toNat * 2 ^ 9 + origin / 96 * 2 ^ 7 + origin % 96,
    gen * 2 ^ 16 + slot, inst, boolNat welt * 2 + boolNat mx].map (BitVec.ofNat 32) ++ List.replicate 10 0

/-- The image of a core's context (R322, R323), as the core stands once its operations are settled. -/
def State.imageOf (s : State) (c : Nat) (byRecall : Bool) (held : List Nat) : Saved :=
  let (slot, part) := s.contextOf c
  let x := s.ctx (512 * slot + c)
  let bs := s.blocksOn c
  let welt := bs.any fun b => (s.block? b).any (·.welt)
  let mx := bs.any fun b => (s.block? b).any (·.mx)
  let origin := if x.origin == 0 then c else x.origin - 1
  let gen := (x.gen + 1) % 2 ^ 16
  let inst := ((bs.head?.bind s.block?).map (·.inst)).getD (((s.freeBandsOn c).head?.bind s.band?).map (·.inst) |>.getD 0)
  { slot := slot
    part := part
    core := c
    origin := origin
    gen := gen
    inst := inst
    welt := welt
    mx := mx
    header := s.imageHeader slot origin gen inst welt mx
    records := (s.hasps.filter fun h => h.1 / 32 == c).map fun h => (h.1, h.2.record)
    threads := s.threads.filter fun t => coreOfThread t.1 == c
    bands := s.bands.filter fun b => coreOfBand b.1 == c
    blocks := (s.blocks.filter fun b => b.2.core == c).map fun b => (b.1, { b.2 with rstate := .held, chosen := none, summ := false })
    hasps := s.hasps.filter fun h => h.1 / 32 == c
    strands := s.strands.filter fun q => q.1 / 2 == c
    engine := if s.weltHolds c then none else some (s.engine c)
    engine2 := if welt then some (s.engine (c + 1)) else none
    slice := s.sliceCells c
    cmds := s.cmds.filter fun x => x.2.core == c
    ops := s.ops.filter fun x => x.2.core == c && !x.2.egress && !x.2.kind.isLayout && (match x.2.kind with
      | .fill | .eng _ => false
      | _ => true)
    watches := s.saveWatches c part
    growQ := (s.core c).growQ
    cstat := x.cstat
    byRecall := byRecall
    held := held }

/-- The core without what was saved. -/
def State.clearCore (s : State) (c : Nat) (x : Saved) : State :=
  let s := { s with
    threads := s.threads.filter fun t => coreOfThread t.1 != c
    bands := s.bands.filter fun b => coreOfBand b.1 != c
    blocks := s.blocks.filter fun b => b.2.core != c
    hasps := s.hasps.filter fun h => h.1 / 32 != c
    strands := s.strands.filter fun q => q.1 / 2 != c
    cmds := s.cmds.filter fun x => x.2.core != c
    ops := s.ops.filter fun x => x.2.core != c || x.2.egress
    watches := s.watches.filter fun w => w.2.core != c
    saved := s.saved ++ [x] }
  (s.modCore c fun k => { k with growQ := [] }).setCtx (512 * x.slot + c) { gen := x.gen, origin := 0, cstat := false }

/-- SAVING A CORE CONTEXT (R323): operations are settled, copies rolled back, the image taken, and the core left empty; what belongs to a
cancelled run leaves the image (R309). A block that has ended by then is in no image (R203), and a core that holds nothing more has none.
Nothing where a copy must first run to its end (R325). -/
def State.saveContext (s : State) (c : Nat) (byRecall : Bool) : Option State :=
  let s := (s.blocksOn c).foldl State.leaveRoutine s
  let s := (s.opsOn c).foldl State.haltOp s
  if s.mustWait c then none
  else
    let s := s.closeOver c
    if !s.holdsWork c then some s
    else
    let held := (s.copiesAt c).filter fun id => (mget s.cmds id).any fun x => x.core != c
    let s := (s.copiesAt c).foldl State.rollBack s
    let s := held.foldl (fun s id => s.modCmd id fun x => { x with replay := true }) s
    let s := s.clearCore c (s.imageOf c byRecall held)
    some ((mkeys s.insts fun _ i => i.cancelled && !i.ended).foldl State.purgeSaved s)

/-! ### The restore (R321, R326, R327) -/

/-- The runs of the graph that a bind record names, in its partition (R199, R213); their saved contexts belong to its slot (R319). -/
def State.instsOf (s : State) (t : Nat) : List Nat :=
  let b := s.bind t
  mkeys s.insts fun _ i => b.isGraph && i.lp1 == b.lp1 && i.handle == b.handle && i.part == b.part

/-- May a saved context of slot t be restored on a core (R322, R321, R201, R207, R135): it holds nothing, its matrix engine is not a welt's
where the context needs it, a welt's is even with a partner that meets R207, and no reserved field of a hasp record is nonzero? -/
def State.canHold (s : State) (t c : Nat) (x : Saved) : Bool :=
  !s.holdsWork c && (s.core c).recallTag.isNone && !(s.core c).saving && !(s.core c).unavail &&
    bitAt (s.bind t).cores.toNat c && (s.bind t).valid && (x.records.all fun r => recordClean r.2) &&
    !(x.mx && s.weltHolds c) && (!x.welt || s.weltRoom c x.part)

/-- A saved watch on its new core (R327): armed again, or one arrival on its hasp. -/
def State.restoreWatch (s : State) (c part : Nat) (w : SavedWatch) : State :=
  let hk := haspKey c (w.hasp % 32)
  if w.fired || w.lost then
    let h := s.hasp hk
    s.arriveHeld c (w.hasp % 32) { h with moncnt := h.moncnt - 1 } w.lost
  else
    let (id, s) := s.fresh
    { s with watches := mput s.watches id ⟨c, w.line, hk, part, w.inst, false⟩ }

/-- The numbers that a context's operations and commands take at its restore: fresh ones in the same order of issue, so that a late response
to an old number is dropped (R232); an atomic that another package is performing keeps its own. -/
def renumber (ops : Table Op) (cmds : Table Cmd) (next : Nat) : List (Nat × Nat) :=
  let kept (o : Op) : Bool := o.sent && (o.kind.atomic || o.heldThere)
  let order := (ops.foldl (fun m o => mput m o.1 (kept o.2)) ((cmds.map fun c => (c.1, false)) : Table Bool))
  ((List.range order.length).zip order).map fun x => (x.2.1, if x.2.2 then x.2.1 else next + x.1)

/-- The renumbering as a function. -/
def renumbered (ids : List (Nat × Nat)) (i : Nat) : Nat := ((ids.find? fun y => y.1 == i).map (·.2)).getD i

/-- The old value of an atomic completed at the save is delivered (R232). -/
def State.deliverSaved (s : State) (id : Nat) : State :=
  match mget s.ops id with
  | some o => if o.done then ((s.atomDeliver o ((o.resp.map (·.1)).getD [])).dropOp id o) else s
  | none => s

/-- A copy's destination on the core to which its context has moved (R325): the slice of core `a` becomes that of core `b`. -/
def moveDst (a b dst : Nat) : Nat :=
  if isSlice dst && 96 * bits dst 29 28 + bits dst 27 21 == a then dst - bits dst 29 21 * 2 ^ 21 + (b / 96 * 128 + b % 96) * 2 ^ 21 else dst

/-- A copy held for a context goes on, its destination and count moved with it (R325). -/
def Cmd.unhold (x : Cmd) (a b : Nat) : Cmd :=
  match x.kind with
  | .copy k ws dst co ix cnt => { x with replay := false, kind := .copy k ws (moveDst a b dst) co ix cnt }
  | _ => { x with replay := false }

/-- A thread at its restore: it re-issues where it was parked (R246), and stays halted only while the right is held (R372). -/
def Thread.restore (t : Thread) (right : Bool) : Thread :=
  { t with parked := none, halted := t.halted && right, haltReq := t.haltReq && right, stepping := t.stepping && right }

/-- A strand at its restore (R246, R372). -/
def Strand.restore (x : Strand) (right : Bool) : Strand :=
  { x with parked := none, halted := x.halted && right, haltReq := x.haltReq && right, stepping := x.stepping && right }

/-- An access of a restored context placed anew where it reaches a slice of this package: one that names its ORIGIN core reaches the slice of
the core on which it now runs (R326). -/
def State.rehome (s : State) (o : Op) (a : Acc) (va : Nat) : Acc :=
  match a.loc with
  | .slice .. =>
    match s.sliceAcc (s.bandSpace (bandOfThread o.thread)) o.core va with
    | .ok b => b
    | _ => a
  | _ => a

/-- An operation that is asked for anew names its places anew, a CPA its destination too (R232, R326). -/
def State.rehomeOp (s : State) (id : Nat) : State :=
  s.modOp id fun o =>
    match o.kind with
    | .cpa n dst dva =>
      let dst := s.rehome o dst dva
      { o with kind := .cpa n dst dva, acc := if n == 0 then dst else s.rehome o o.acc o.va }
    | _ => if o.done then o else { o with acc := s.rehome o o.acc o.va }

/-- An operation at its restore: asked for anew unless another package is performing it (R232). -/
def Op.restore (o : Op) (a b : Nat) (same : Bool) : Op :=
  if same then o.move a b else { o.move a b with sent := false, resp := if o.done then o.resp else none }

/-- Put entries of one table into another, their keys and entries changed. -/
def mputAll {α : Type} (m : Table α) (key : Nat → Nat) (f : α → α) (xs : Table α) : Table α :=
  xs.foldl (fun m x => mput m (key x.1) (f x.2)) m

/-- An operation that is asked for anew is counted again where it reads (R232, R376). -/
def State.countReplay (s : State) (id : Nat) : State :=
  match mget s.ops id with
  | some o => if o.kind.loads && !o.done then s.countAcc (s.bandSpace (bandOfThread o.thread)) o.core o.acc 1 0 else s
  | none => s

/-- RESTORING A CORE CONTEXT of slot t on core c (R321, R326, R327). -/
def State.restoreContext (s : State) (t c : Nat) (x : Saved) : State :=
  let a := x.core
  let ids := renumber x.ops x.cmds s.nextId
  let f := renumbered ids
  let right := (s.part x.part).right
  let s := { s with
    nextId := s.nextId + ids.length
    saved := (s.saved.filter (· != x)).map (fun (y : Saved) => { y with held := y.held.map f })
    threads := mputAll s.threads (moveThread a c) (fun t => (t.move a c).restore right) x.threads
    bands := mputAll s.bands (moveBand a c) (fun b => { b with slot := t }) x.bands
    blocks := mputAll s.blocks id (fun b => { b.move a c with slot := t }) x.blocks
    hasps := mputAll s.hasps (moveHasp a c) (fun h => h.move a c)
      (mmap x.hasps fun k h => match mget x.records k with
        | some ws => h.ofRecord ws
        | none => h)
    strands := mputAll s.strands (moveSeq a c) (fun q => (q.move a c).restore right) x.strands
    cmds := mputAll s.cmds f (fun k => { k.move a c f with parked := none }) x.cmds
    ops := x.ops.foldl (fun (m : Table Op) (o : Nat × Op) => mput m (f o.1) (o.2.restore a c (f o.1 == o.1))) s.ops
    mem := x.slice.foldl (fun (m : List Host.Cell) (b : Host.Cell) => sput 0 m (b.1 - a * 2097152 + c * 2097152) b.2) (s.zeroRange (c * 2097152) ((c + 1) * 2097152)).mem }
  let s := match x.engine with
    | some e => if s.weltHolds c then s else s.setEngine c e
    | none => s
  let s := match x.engine2 with
    | some e => s.setEngine (c + 1) e
    | none => s
  let s := s.setCtx (512 * t + c) { gen := x.gen, origin := x.origin + 1, cstat := x.cstat }
  let s := (s.modCore c fun k => { k with growQ := x.growQ.map (moveBand a c), running := some t, lastPart := some x.part, roc := [] })
  let s := x.held.foldl (fun s id => { s.modCmd id (fun k => k.unhold a c) with
    saved := s.saved.map (fun (y : Saved) => { y with cmds := mmod y.cmds id fun k => k.unhold a c }) }) s
  let s := x.watches.foldl (fun s w => s.restoreWatch c x.part w) s
  let s := x.ops.foldl (fun s o => if f o.1 == o.1 then s else s.rehomeOp (f o.1)) s
  -- a replayed load counts again (R376)
  let s := x.ops.foldl (fun s o => if f o.1 == o.1 then s else s.countReplay (f o.1)) s
  -- bands that were to stop while they were saved stop now (R250)
  let s := (mkeys x.bands fun _ b => b.stopping).foldl (fun s b => s.stopBand (moveBand a c b)) s
  (((x.ops.map fun o => f o.1).foldl State.deliverSaved s).sendReady).settle

/-! ### Zeroing and switching (R315-R317, R330) -/

/-- A core is zeroed when its running slot changes to another level-2 partition (R330). -/
def State.zeroCore (s : State) (c : Nat) : State :=
  let s := s.zeroRange (c * 2097152) ((c + 1) * 2097152)
  let s := { s with
    hasps := s.hasps.filter fun h => h.1 / 32 != c
    watches := s.watches.filter fun w => w.2.core != c }
  (s.setEngine c Engine.zero).dropRoc c

/-- A core's running slot becomes t (R315, R317): the core is zeroed for another partition, and the slice count starts. -/
def State.runSlot (s : State) (c t : Nat) : State :=
  let p := (s.bind t).part
  let s := if (s.core c).lastPart.isSome && (s.core c).lastPart != some p then s.zeroCore c else s
  s.modCore c fun x => { x with running := some t, sliceAt := s.clk, lastPart := some p }

/-- Has a slot work for a core (R316): a ready node, a released band of records, an unexecuted queue entry, or a saved context? -/
def State.slotWork (s : State) (t c : Nat) : Bool :=
  let b := s.bind t
  b.valid && bitAt b.cores.toNat c &&
    ((s.ready.any fun e => (s.instsOf t).contains e.inst) || (s.released.any fun r => (s.instsOf t).contains r.key.inst) ||
      (!b.isGraph && (let q := s.queue (1024 * b.lp1 + b.handle); q.state == 1 && !q.words.isEmpty)) ||
      s.saved.any fun x => (s.instsOf t).contains x.inst)

/-- The rotation of a core: the valid records that name it, in ascending order (R315). -/
def State.rotation (s : State) (c : Nat) : List Nat := (List.range 128).filter fun t => (s.bind t).valid && bitAt (s.bind t).cores.toNat c

/-- The next running slot (R316): of the highest class with work, the first after the current slot in rotation order, wrapping round. The
running slot counts while it has work, so that no lower class comes before it (R331); nothing where it stays. -/
def State.nextSlot (s : State) (c : Nat) : Option Nat :=
  let cur := (s.core c).running
  let ws := (s.rotation c).filter fun t => s.slotWork t c || (some t == cur && s.holdsWork c)
  match (ws.map fun t => (s.bind t).cls).min? with
  | none => none
  | some k =>
    let ws := ws.filter fun t => (s.bind t).cls == k
    let next := match cur with
      | some r => (ws.find? (r < ·)).orElse fun _ => ws.head?
      | none => ws.head?
    if next == cur then none else next

/-- The context that a switch restores: the one of the slot that was saved on this core (R317). DEDUCED, log 59. -/
def State.contextHere (s : State) (t c : Nat) : Option Saved := s.saved.find? fun x => (s.instsOf t).contains x.inst && x.core == c && !x.byRecall

/-- The next slot starts on a core that holds nothing (R317). -/
def State.startSlot (s : State) (c t : Nat) : State :=
  let s := s.runSlot c t
  match s.contextHere t c with
  | some x => if s.canHold t c x then s.restoreContext t c x else s
  | none => s

/-- A core goes to its next slot, or stays free (R320). -/
def State.switchNext (s : State) (c : Nat) : State :=
  match s.nextSlot c with
  | some t => s.startSlot c t
  | none => s

/-! ### Recalls (R320) -/

/-- RELEASED: free bands still on the core are saved first; the request in hand and every queued recall are answered; the next slot. -/
def State.released_ (s : State) (c : Nat) : State :=
  let s := if s.holdsWork c then (s.saveContext c true).getD s else s
  let x := s.core c
  let s := match x.recallTag with
    | some tag => s.answer tag c 0
    | none => s
  let s := x.recallQ.foldl (fun s tag => s.answer tag c 0) s
  (s.modCore c fun x => { x with recallTag := none, recallQ := [], saving := false }).switchNext c

/-- A save goes on (R323): once it is complete a recall is answered, and a switch starts the next slot. -/
def State.pumpSave (s : State) (c : Nat) : State :=
  if !(s.core c).saving then s
  else
    -- a recall that was queued meanwhile is answered with the request in hand (R320, R332)
    let asked := (s.core c).recallTag.isSome || !(s.core c).recallQ.isEmpty
    match s.saveContext c asked with
    | none => s
    | some s =>
      let s := s.modCore c fun x => { x with saving := false }
      if asked then s.released_ c else s.switchNext c

/-- Every save that waits for a copy goes on (R325). -/
def State.pumpSaves (s : State) : State := (mkeys s.cores fun _ x => x.saving).foldl State.pumpSave s

/-- SAVING begins on a core (R320, R323): issue stops, and the context is saved at once unless a copy must end first. -/
def State.beginSave (s : State) (c : Nat) : State :=
  let s := { s with blocks := mmap s.blocks fun _ b => if b.core == c then { b with rstate := .saving } else b }
  (s.modCore c fun x => { x with saving := true }).pumpSave c

/-- The band that a surrender routine runs in: the lowest position whose PM is not empty (R170). -/
def State.chooseBand (s : State) (blk : Nat) : Option Nat :=
  let bs := (s.bandsOf blk).filter fun b => (s.band? b).any fun x => x.pm != 0
  let pos (b : Nat) : Nat := ((s.band? b).map (·.pos)).getD 0
  match (bs.map pos).min? with
  | some p => bs.find? fun b => pos b == p
  | none => none

/-- The routine of a block starts in band b (R170, R171). -/
def State.startRoutine (s : State) (blk b : Nat) : State :=
  let s := s.modBlock blk fun x => { x with
    rstate := .routine, chosen := some b, count := 0, countAt := 0, routine := s.nextId, entered := false }
  (s.threadsP b).foldl State.takeBlocked s

/-- A recall of a core in HELD (R320). -/
def State.startRecall (s : State) (c tag : Nat) : State :=
  match (s.blocksOn c).filterMap fun n => (s.block? n).map fun b => (n, b) with
  | [] => if (s.freeBandsOn c).isEmpty then (s.modCore c fun x => { x with recallTag := some tag }).released_ c else (s.modCore c fun x => { x with recallTag := some tag }).beginSave c
  | (n, b) :: _ =>
    if b.lease == 0 then s.answer tag c 2
    else
      let s := s.modCore c fun x => { x with recallTag := some tag }
      if b.lease == 2 then
        match b.surr, s.chooseBand n with
        | some _, some k => s.startRoutine n k
        | _, _ => s.beginSave c
      else s.beginSave c

/-- Is a core's recall state HELD (R320)? -/
def State.coreHeld (s : State) (c : Nat) : Bool := (s.core c).recallTag.isNone && !(s.core c).saving

/-- The oldest queued recalls are taken while the core is in HELD (R320). -/
def State.takeQueued (s : State) (c : Nat) : State :=
  (List.range Config.recallQueue).foldl (fun s _ =>
    match (s.core c).recallQ with
    | tag :: rest => if s.coreHeld c then (s.modCore c fun x => { x with recallQ := rest }).startRecall c tag else s
    | [] => s) s

/-- A recall arrives at a core (R175, R320). -/
def State.recallCore (s : State) (c tag : Nat) : State :=
  if s.coreHeld c then s.startRecall c tag
  else if (s.core c).recallQ.length < Config.recallQueue then s.modCore c fun x => { x with recallQ := x.recallQ ++ [tag] }
  else s.answer tag c 2

end Sys2Proof.Machine
end

