-- ==== Sys2Proof/Machine/Surrender.lean ====
section
/-! DEFINITION. Surrender (R169-R175) and the system instructions (R176-R178), with CONT's completion, for which a summary waits. -/

namespace Sys2Proof.Machine

/-! ### SURR, YIELD, RCLQ -/

/-- SURR's bound (R169): 0 stands for 2,048. -/
def surrBound (n : Nat) : Option Nat := if n == 0 then some 2048 else if 64 ≤ n && n ≤ 65535 then some n else none

/-- SURR (R169, R171, R194). -/
def execSurr (d : UniDst) (imm : Word) (a : UniSrc) (s : State) : Out :=
  uniFrame s fun s p ks =>
    match p, s.blockOfParty p with
    | .band _, some (n, b) =>
      let (w, s1) := s.uniSrc p false a
      if s.inRoutine p then .trap s cIllegal
      else
        match surrBound w.toNat with
        | none => .trap s cIllegal
        | some bound =>
          if b.lease == 2 then
            .ok ((s1.modBlock n fun b => { b with surr := some ⟨clauseTarget (s.partyPc p ks) imm, bound⟩ }).setUni p d 0)
          else .ok (s1.setUni p d 1)
    | _, _ => .trap s cIllegal

/-- The bound of a block's routine (R169). -/
def Block.bound (b : Block) : Nat := (b.surr.map (·.bound)).getD 2048

/-- Has the routine of a block reached its bound before this clk (R171)? -/
def Block.spent (b : Block) (clk : Nat) : Bool :=
  b.bound ≤ (if b.countAt == clk + 1 then b.count - 1 else b.count) && !b.summ

/-- The frame of a YIELD (R172): the threads of P of the chosen band, all in the routine. The scalar pipe executes it (R117), though no thread goes
on past it. Where the count had reached the bound before, the recall proceeds as for SAVED (R171). -/
def yieldFrame (s : State) (body : State → Nat → Block → List Nat → State) : Out :=
  uniFrame s fun s p ks =>
    match p, s.blockOfParty p with
    | .band _, some (n, b) =>
      if s.inRoutine p && ks.all (fun k => (s.thread? k).any (·.resume.isSome)) then
        .stay ((if b.spent s.clk then (s.beginSave b.core).settle else body s n b ks).piped (ks.headD 0) (ks.any fun k => (s.thread? k).any (·.trapMode)) false)
      else .trap s cIllegal
    | _, _ => .trap s cIllegal

/-- SP.RECALL after a YIELD.done (R173). -/
def recallWord (queued refused : Nat) : Word := BitVec.ofNat 32 (min queued 7 * 16 + min refused 7 * 2 + 1)

/-- YIELD.done (R172, R173, R320): the block goes on, and the finish bound starts. -/
def execYieldDone (s : State) : Out :=
  yieldFrame s fun s n b _ =>
    (s.leaveRoutine n).modBlock n fun x => { x with
      rstate := .finishing, finStart := s.ns, spRecall := recallWord (s.core b.core).recallQ.length b.used }

/-- Is a CONT that was issued in a block's routine without its status (R172)? -/
def State.contsLeft (s : State) (b : Block) : Bool :=
  many s.ops fun id o => b.routine ≤ id && o.kind == .cont && b.chosen == some (bandOfThread o.thread) && s.opThread o

/-- Once the CONT statuses of a summary are in, the block's threads end, its strands stop and its hasps are invalidated (R172). -/
def State.endSummary (s : State) (n : Nat) : State :=
  match s.block? n with
  | none => s
  | some b =>
    if !(b.summ && b.rstate == .routine) || s.contsLeft b then s
    else
      let s := s.modBlock n fun x => { x with rstate := .released, chosen := none }
      let bs := s.bandsOf n
      let s := (mkeys s.threads fun k _ => bs.contains (bandOfThread k)).foldl State.endThread s
      let s := (s.strandsOf n).foldl State.stopStrand s
      (maskNums b.hasps).foldl (fun s h => s.invalidate b.core h) s

/-- YIELD.summ (R172). -/
def execYieldSumm (s : State) : Out :=
  yieldFrame s fun s n _ ks =>
    let s := ks.foldl (fun s k => s.modThread k fun t => { t with yielded := true }) s
    ((s.modBlock n fun b => { b with summ := true }).endSummary n).settle

/-- YIELD.refuse (R172, R320): with a refusal left the recall is turned away and the next is taken; otherwise the block is saved. -/
def execYieldRefuse (s : State) : Out :=
  yieldFrame s fun s n b _ =>
    if b.used < b.rlim then
      let s := (s.leaveRoutine n).modBlock n fun x => { x with used := x.used + 1, rstate := .held }
      let s := match (s.core b.core).recallTag with
        | some tag => s.answer tag b.core 1
        | none => s
      (s.modCore b.core fun c => { c with recallTag := none }).takeQueued b.core
    else s.beginSave b.core

/-- RCLQ's word (R174). DEDUCED, log 27. -/
def rclqWord (b : Block) (queued : Nat) : Word :=
  BitVec.ofNat 32 (boolNat b.surr.isSome * 2048 + boolNat (b.lease == 2) * 1024 + min b.rlim 7 * 128 + min b.used 7 * 16 +
    boolNat (b.rstate == .routine) * 8 + min queued 4)

/-- RCLQ (R174, R194). -/
def execRclq (d : UniDst) (s : State) : Out :=
  uniFrame s fun s p _ =>
    match s.blockOfParty p with
    | some (_, b) => .ok (s.setUni p d (rclqWord b (s.core b.core).recallQ.length))
    | none => .ok (s.setUni p d 0)

/-- CONT_COMPLETE (R111); a summary may have waited for it (R172). Not while the front end pauses (R359). -/
def execContComplete (op : Nat) (s : State) : Out :=
  opFrame s op fun o =>
    if o.kind == .cont && !s.pause then
      let (st, s1) := s.contAct o
      let s2 := (s1.opDeliver o fun t => t.setD o.d (BitVec.ofNat 32 st)).opDone op o
      match s2.blockOf o.thread with
      | some n => (s2.endSummary n).settle
      | none => s2
    else s

/-! ### TRET, SNOP, SBRK -/

/-- The frame of a TRET (R176, R179): the thread that is in trap mode. -/
def tretFrame (s : State) (skip : Bool) : Out :=
  uniFrame s fun s p ks =>
    match p, ks with
    | .band _, k :: _ =>
      match s.thread? k with
      | some t =>
        if t.trapMode then
          let s := s.setThread k (t.endClause s.clk (s.headerAt (s.instOf k) t.pc).yld)
          .stay ((s.returnTrap k skip).settleHalt k)
        else .trap s cIllegal
      | none => .trap s cIllegal
    | _, _ => .trap s cIllegal

/-- TRET.redo (R176). -/
def execTretRedo (s : State) : Out := tretFrame s false

/-- TRET.skip (R176). -/
def execTretSkip (s : State) : Out := tretFrame s true

/-- SNOP (R177). -/
def execSnop (s : State) : Out := uniFrame s fun s _ _ => .ok s

/-- The partition of a party. -/
def State.partyPart (s : State) (p : Party) : Nat :=
  match p with
  | .band b => ((s.band? b).map (·.part)).getD 0
  | .strand q => ((s.block? (s.strand q).block).map (·.part)).getD 0

/-- SBRK (R178, R369): with the debug right it halts; once resumed, the party goes on after it (DEDUCED, log 23). -/
def execSbrk (s : State) : Out :=
  uniFrame s fun s p ks =>
    let right := (s.part (s.partyPart p)).right
    match p with
    | .strand q =>
      if right && !(s.strand q).brkSkip then
        let s := s.haltStrand q
        .stay (s.setStrand q { s.strand q with brkSkip := true })
      else .ok s
    | .band _ =>
      if !right then .trap s ⟨9, 1, 0⟩
      else if ks.all fun k => (s.thread? k).any (·.brkSkip) then .ok s
      else .stay (ks.foldl (fun s k => (s.haltThread k).modThread k fun t => { t with brkSkip := true }) s)

end Sys2Proof.Machine
end

