-- ==== Sys2Proof/Machine/Launch.lean ====
section
/-! DEFINITION. Registered graphs (R279-R282, R381), launch words and frames (R284, R285), and graph runs starting and ending (R286). -/

namespace Sys2Proof.Machine

/-! ### The front end's pause (R359) -/

/-- A write or frame that arrives at the front end: in the pause of an update it is kept, and no write or frame is dropped (R359).
DESIGN CHOICE, log 55. -/
def portFrame (s : State) (i : Instr) (body : State → State) : Out :=
  if s.pause then .next { s with input := s.input ++ [i] } else .next (body s)

/-- Must what the host sends through a link wait behind an earlier write through it (R219)? What names no link waits behind every one
(DESIGN CHOICE, log 97). -/
def State.linkWaits (s : State) (link : Option (Fin 2)) : Bool := s.waiting.any fun x => x.1.isNone || link.isNone || x.1 == link

/-- What the host sends is performed in the order in which its link delivers it (R219): behind a write that waits, it waits too. -/
def hostFrame (s : State) (link : Option (Fin 2)) (i : Instr) (body : State → Out) : Out :=
  if s.linkWaits link then .next { s with waiting := s.waiting ++ [(link, i)] } else body s

/-! ### Graph images (R279-R281) -/

/-- Bytes of a device-memory range through a space's tables, for firmware and the front end: nothing where a read faults in translation
or leaves device memory. -/
def State.readVa (s : State) (sp : Space) (va n : Nat) : Option (List Byte) :=
  (pieces va n).foldl (fun acc x =>
    acc.bind fun bs =>
      if isSlice x.1 then none
      else
        match (s.translate sp feCore x.1 .read).1 with
        | .ok ⟨.dev pa, _, _, _⟩ => if s.accBad ⟨.dev pa, false, 0, none⟩ x.2 then none else some (bs ++ s.bytes (devHome pa) x.2)
        | _ => none) (some [])

/-- A graph image's header (R279). -/
structure ImageHead where
  nnode : Nat
  nkern : Nat
  nsucc : Nat
  codeb : Nat
  progw : Nat
  win   : Nat
  pool  : Nat
  egrs  : Nat
  part  : Nat
  enqn  : Nat
  enqq  : List Nat

/-- The header's fields (R279), and whether its reserved fields are 0. -/
def imageHead (ws : List Word) : ImageHead × Bool :=
  let w (i : Nat) : Nat := (ws.getD i 0).toNat
  (⟨bits (w 0) 31 16, bits (w 0) 15 0, bits (w 1) 15 0, w 2, bits (w 3) 15 0, bits (w 4) 31 16, bits (w 4) 15 0, bits (w 5) 21 6,
      bits (w 5) 5 0, bits (w 6) 3 0, (List.range 4).flatMap fun i => [bits (w (7 + i)) 15 0, bits (w (7 + i)) 31 16]⟩,
    bits (w 1) 31 16 == 0 && bits (w 3) 31 16 == 0 && bits (w 5) 31 22 == 0 && bits (w 6) 31 4 == 0 &&
      (List.range 5).all fun i => w (11 + i) == 0)

/-- Are a header's counts and sizes legal (R279)? -/
def ImageHead.legal (h : ImageHead) : Bool :=
  1 ≤ h.nnode && h.nnode ≤ 4096 && 1 ≤ h.nkern && h.nkern ≤ 4096 && h.codeb % 32 == 0 && 32 ≤ h.codeb && h.codeb ≤ 2 ^ 24 &&
    h.enqn ≤ 8 && (h.enqq.drop h.enqn).all (· == 0)

/-- The next multiple of an alignment. -/
def alignUp (n a : Nat) : Nat := (n + a - 1) / a * a

/-- Byte offset of the kernel table in an image (R279). -/
def kernOfs : Nat := 64
/-- Byte offset of the node table. -/
def ImageHead.nodeOfs (h : ImageHead) : Nat := alignUp (kernOfs + 16 * h.nkern) 64
/-- Byte offset of the successor array. -/
def ImageHead.succOfs (h : ImageHead) : Nat := h.nodeOfs + 64 * h.nnode
/-- Byte offset of the code section. -/
def ImageHead.codeOfs (h : ImageHead) : Nat := alignUp (h.succOfs + 2 * h.nsucc) 32
/-- Byte offset of the command program. -/
def ImageHead.progOfs (h : ImageHead) : Nat := h.codeOfs + h.codeb
/-- Bytes of the image. -/
def ImageHead.size (h : ImageHead) : Nat := h.progOfs + 4 * h.progw

/-- A kernel descriptor (R280), and whether it is legal for a code section of so many bytes. -/
def kernelOf (codeb : Nat) (ws : List Word) : Kernel × Bool :=
  let w (i : Nat) : Nat := (ws.getD i 0).toNat
  let k : Kernel := {
    kpc := bits (w 0) 18 0
    hasps := ws.getD 1 0
    memb := ws.getD 2 0
    maxbud := bits (w 3) 14 10
    enq := bitAt (w 3) 9
    cp := bitAt (w 3) 8
    mx := bitAt (w 3) 7
    maxb := bits (w 3) 5 0 + 1 }
  (k, bits (w 0) 31 19 == 0 && bits (w 3) 31 15 == 0 && !bitAt (w 3) 6 && k.maxbud ≤ 19 && 32 * k.kpc < codeb)

/-- A role of a launch node (R281), and whether its reserved fields are 0. -/
def roleOf (w0 w1 : Nat) : Role × Bool :=
  (⟨bits w0 31 30, bits w0 29 24 + 1, 8 * (bits w0 23 19 + 1), bits w0 15 0, bits w1 31 13⟩, bits w0 18 16 == 0 && bits w1 12 0 == 0)

/-- A launch node (R281), and whether its fields are legal. -/
def nodeOfWords (nkern nsucc : Nat) (ws : List Word) : Node × Bool :=
  let w (i : Nat) : Nat := (ws.getD i 0).toNat
  let rs := (List.range 4).map fun i => roleOf (w (2 * i)) (w (2 * i + 1))
  let n : Node := {
    roles := rs.map (·.1)
    grid := bits (w 8) 23 0
    pred := bits (w 9) 31 20
    succn := bits (w 9) 19 8
    argslot := bits (w 9) 7 0
    succix := bits (w 10) 31 16
    stagger := bits (w 10) 15 0
    mingrade := gradeOfCode (bits (w 11) 31 30)
    lease := bits (w 11) 29 28
    rlim := bits (w 11) 27 25
    cls := bits (w 11) 24 23
    welt := bitAt (w 11) 22
    gated := bitAt (w 11) 21
    lsz := bits (w 11) 20 17
    lslots := bits (w 11) 16 5
    lbase := w 12 }
  (n, rs.all (·.2) && bits (w 8) 31 24 == 0 && bits (w 11) 4 0 == 0 && ((List.range 3).all fun i => w (13 + i) == 0) &&
    n.mingrade != .none && n.lease != 3 && n.cls != 3 && n.grid != 0 && n.succix + n.succn ≤ nsucc &&
    n.roles.all fun r => r.kind == 0 || r.kidx < nkern)

/-! ### Checks at registration (R282) -/

/-- The roles of a node that are used. -/
def Node.used (n : Node) : List Role := n.roles.filter (·.kind != 0)

/-- Code 2 (R282): roles not contiguous from role 0, a strand role with a nonzero COUNT, two strand roles of one kind. -/
def Node.rolesBad (n : Node) : Bool :=
  let us := n.used
  us.isEmpty || ((n.roles.take us.length).any (·.kind == 0)) || (us.any fun r => 2 ≤ r.kind && r.count != 1) ||
    1 < (us.filter (·.kind == 2)).length || 1 < (us.filter (·.kind == 3)).length

/-- The kernel of a role. -/
def roleKernel (ks : List Kernel) (r : Role) : Kernel := ks.getD r.kidx ⟨0, 0, 0, 0, false, false, false, 0⟩

/-- The hasps of a node's blocks (R201). -/
def Node.haspSet (n : Node) (ks : List Kernel) : BitVec 32 := n.used.foldl (fun m r => m ||| (roleKernel ks r).hasps) 0

/-- The membership hasps of a node's blocks (R200). -/
def Node.membSet (n : Node) (ks : List Kernel) : BitVec 32 := n.used.foldl (fun m r => m ||| (roleKernel ks r).memb) 0

/-- The initial band count of a node's blocks (R200). -/
def Node.bands (n : Node) : Nat := n.used.foldl (fun t r => if r.kind == 1 then t + r.count else t) 0

/-- The maximum band count of a node's blocks (R200). -/
def Node.maxBands (n : Node) (ks : List Kernel) : Nat := n.used.foldl (fun t r => if r.kind == 1 then t + (roleKernel ks r).maxb else t) 0

/-- Code 3 (R282): a budget above MAXBUD or the partition's budget (log 45), more than 64 bands, more than 16 hasps. -/
def Node.sizeBad (n : Node) (ks : List Kernel) (budget : Nat) : Bool :=
  (n.used.any fun r => 8 * ((roleKernel ks r).maxbud + 1) < r.budget || budget < r.budget) || 64 < n.bands || 64 < n.maxBands ks ||
    16 < popcount 32 (n.haspSet ks).toNat

/-- The successors of a node. -/
def Node.succs (n : Node) (succ : List Nat) : List Nat := (succ.drop n.succix).take n.succn

/-- Nodes whose predecessors have all been removed are removed, once for each node: what stays lies on a cycle. -/
def stripAcyclic (ns : List (List Nat)) : Nat → List Nat → List Nat
  | 0, live => live
  | f + 1, live => stripAcyclic ns f (live.filter fun i => live.any fun j => (ns.getD j []).contains i)

/-- Code 4 (R282): a successor beyond NNODE, PRED that differs from the edges, or a cycle. -/
def edgesBad (ns : List Node) (succ : List Nat) : Bool :=
  let outs := ns.map fun n => n.succs succ
  (outs.any fun o => o.any (ns.length ≤ ·)) ||
    (((List.range ns.length).zip ns).any fun x => x.2.pred != (outs.map fun o => (o.filter (· == x.1)).length).sum) ||
    !(stripAcyclic outs ns.length (List.range ns.length)).isEmpty

/-- Code 5 (R282, R328): a class, lease, welt, stagger or GRID that the partition does not permit (log 45). -/
def Part.forbids (p : Part) (n : Node) : Bool :=
  !bitAt p.cls n.cls || !bitAt p.lse n.lease || (n.welt && !p.wlt) || p.maxStag < n.stagger || p.maxGrid < n.grid

/-- Code 6 (R282): a kernel with ENQ and no queue listed, or a listed queue that is off or has no spill reservation. -/
def State.enqBad (s : State) (lp1 : Nat) (h : ImageHead) (ks : List Kernel) : Bool :=
  (ks.any (·.enq) && h.enqn == 0) || (h.enqq.take h.enqn).any fun q =>
    1024 ≤ q || !(s.queue (queueKey lp1 q)).enable || (s.queue (queueKey lp1 q)).splog2 == 0

/-- The graphs of a level-1 partition. -/
def State.graphsOf (s : State) (lp1 : Nat) : List Graph := (s.graphs.filter fun g => g.2.lp1 == lp1).map (·.2)

/-- Code 7 (R282, R381): the node store, the partition's share of it, or its code area is full. -/
def State.storeFull (s : State) (lp1 : Nat) (h : ImageHead) : Bool :=
  let nodes (gs : List Graph) : Nat := (gs.map fun g => g.nodes.length).sum
  Config.nodeStore < nodes (s.graphs.map (·.2)) + h.nnode || (s.lp1 lp1).maxNodes < nodes (s.graphsOf lp1) + h.nnode ||
    (s.lp1 lp1).maxCode < ((s.graphsOf lp1).map fun g => 4 * g.ncode + 4 * g.nprog).sum + h.codeb + 4 * h.progw

/-- The lowest free handle of a level-1 partition (R282). -/
def State.freeHandle (s : State) (lp1 : Nat) : Option Nat := lowestFree ((s.graphsOf lp1).map (·.handle)) 65535

/-- The key of a graph. -/
def graphKey (lp1 handle : Nat) : Nat := 65536 * lp1 + handle

/-- The node-store index of a new graph's first node: past every registered graph's (DESIGN CHOICE, log 28). -/
def State.storeNext (s : State) : Nat := s.graphs.foldl (fun n g => max n (g.2.nsbase + g.2.nodes.length)) 0

/-- A graph image validated (R282): its graph with the words of its code and program, or the code with which it is refused. -/
def State.validate (s : State) (r : RegReq) (codeVa : Addr) (area : Nat) : Except Nat (Graph × List Word) :=
  let sp := s.templateSpace r.part
  let part (ofs n : Nat) : Option (List Word) := (s.readVa sp (r.va + ofs) n).map wordsOfBytes
  if r.bad || !(s.part r.part).live || (s.part r.part).parent != r.lp1 || r.va % 64 != 0 then .error 1
  else
    match part 0 64 with
    | none => .error 1
    | some hw =>
      let (h, clean) := imageHead hw
      if !clean || !h.legal || h.part != r.part then .error 1
      else
        match part kernOfs (16 * h.nkern), part h.nodeOfs (64 * h.nnode), s.readVa sp (r.va + h.succOfs) (2 * h.nsucc),
          part h.codeOfs h.codeb, part h.progOfs (4 * h.progw) with
        | some kw, some nw, some sb, some code, some prog =>
          let kx := (List.range h.nkern).map fun i => kernelOf h.codeb (kw.drop (4 * i))
          let nx := (List.range h.nnode).map fun i => nodeOfWords h.nkern h.nsucc (nw.drop (16 * i))
          let succ := (List.range h.nsucc).map fun i => leNat ((sb.drop (2 * i)).take 2)
          let ks := kx.map (·.1)
          let ns := nx.map (·.1)
          if !(kx.all (·.2)) || !(nx.all (·.2)) then .error 1
          else if ns.any Node.rolesBad then .error 2
          else if ns.any fun n => n.sizeBad ks (s.part r.part).budget then .error 3
          else if edgesBad ns succ then .error 4
          else if ns.any (s.part r.part).forbids then .error 5
          else if s.enqBad r.lp1 h ks then .error 6
          else if s.storeFull r.lp1 h then .error 7
          else
            match s.freeHandle r.lp1 with
            | none => .error 8
            | some hd => .ok ({
                lp1 := r.lp1
                handle := hd
                part := r.part
                kernels := ks
                nodes := ns
                succ := succ
                codeVa := codeVa &&& ~~~31#56
                area := area
                ncode := code.length
                nprog := prog.length
                win := if h.win == 0 then Config.defaultWindow else 250 * h.win
                pool := if h.pool == 0 then 256 else h.pool
                egrs := if h.egrs == 0 then 16 else h.egrs
                enqq := h.enqq.take h.enqn
                nsbase := s.storeNext
                imageVa := r.va }, code ++ prog)
        | _, _, _, _, _ => .error 1

/-! ### The doorbells (R282) -/

/-- Add 1 to PORTERR, a 32-bit saturating counter (R264, R352). -/
def State.portError (s : State) (lp1 : Nat) : State := s.modLp1 lp1 fun b => { b with porterr := min (b.porterr + 1) (2 ^ 32 - 1) }

/-- The REGISTER doorbell is written with n bytes (R282): a request in firmware's hands. -/
def State.registerBell (s : State) (lp1 bytes w : Nat) : State :=
  if bytes < 8 then s.portError lp1
  else { s with regReqs := s.regReqs ++ [⟨lp1, bits w 61 56, bits w 55 0, bits w 63 62 != 0⟩] }

/-- REGISTER (R282, R219): behind a host write that waits it waits too, as it releases the image (DESIGN CHOICE, log 97). DEDUCED, log 57. -/
def execRegister (lp1 : Fin 16) (bytes : Nat) (w : DWord) (s : State) : Out :=
  hostFrame s none (.register lp1 bytes w) fun s => .next (s.registerBell lp1.val bytes w.toNat)

/-- The registration record (R290). -/
def State.regEvent (s : State) (lp1 code handle va : Nat) : State :=
  s.event lp1 ⟨2, code, handle, 0, 0, 0, 0, va % 2 ^ 32, va / 2 ^ 32⟩

/-- REGISTRATION_RESULT (R282): firmware answers the oldest request of a partition; it writes the code and the program into the code area,
in device memory from `place.2`, which tenants see at `place.1`. DESIGN CHOICE, log 44. -/
def execRegistrationResult (lp1 : Fin 16) (place : Addr × Nat) (s : State) : Out :=
  match s.regReqs.find? fun r => r.lp1 == lp1.val with
  | none => .next s
  | some r =>
    if place.2 % 32 != 0 || Config.deviceBytes < place.2 + 2 ^ 25 then .next s
    else
    let s1 := { s with regReqs := s.regReqs.erase r }
    match s1.validate r place.1 place.2 with
    | .error code => .next (s1.regEvent lp1.val code 0xFFFF r.va)
    | .ok (g, ws) =>
      let s2 := s1.writeDev place.2 (ws.flatMap fun w => leBytes 4 w.toNat)
      .next ({ s2 with graphs := mput s2.graphs (graphKey lp1.val g.handle) g }.regEvent lp1.val 0 g.handle r.va)

/-- Does a graph run have not ended (R286)? -/
def State.running (s : State) (n : Nat) : Bool := (s.inst? n).any fun i => !i.ended

/-- The UNREGISTER doorbell is written with n bytes (R282): a graph with a run that has not ended is refused with code 9; a handle that names
no graph does nothing. -/
def State.unregisterBell (s : State) (lp1 bytes h : Nat) : State :=
  if bytes < 8 then s.portError lp1
  else
    match if h < 65536 then mget s.graphs (graphKey lp1 h) else none with
    | none => s
    | some g =>
      if many s.insts fun _ i => i.graph == graphKey lp1 h && !i.ended then s.regEvent lp1 9 h g.imageVa
      else { s with graphs := mdel s.graphs (graphKey lp1 h) }

/-- UNREGISTER (R282, R219). -/
def execUnregister (lp1 : Fin 16) (bytes : Nat) (w : DWord) (s : State) : Out :=
  hostFrame s none (.unregister lp1 bytes w) fun s => .next (s.unregisterBell lp1.val bytes w.toNat)

/-! ### Starting a graph run (R284, R286) -/

/-- The number of the next graph run (R286): the counter's value, past 0 and past numbers in use; and the counter after it. -/
def State.nextInst (s : State) : Nat × Nat :=
  let used := s.insts.filter fun x => !x.2.ended
  let ok (n : Nat) : Bool := n != 0 && used.all fun x => x.1 != n
  let n := (((List.range (used.length + 2)).map fun i => (s.instCtr + i) % 2 ^ 32).find? ok).getD 1
  (n, (n + 1) % 2 ^ 32)

/-- A node as its run starts (R286). -/
def Node.start (n : Node) : NodeSt where
  count := n.pred + boolNat n.gated
  gateOpen := false
  grid := n.grid
  started := 0
  ended := 0
  lastAt := none
  floor := .final
  args := none
  queued := false
  complete := false
  faulted := false
  edges := List.replicate n.succn false

/-- The registers of a command program at its start (R268). -/
def progRegs (n ap flags : Nat) : Vector DWord 16 :=
  (((Vector.replicate 16 0).set 1 (BitVec.ofNat 64 ap)).set 2 (BitVec.ofNat 64 (n * 2 ^ 32))).set 3 (BitVec.ofNat 64 flags)

/-- A task that has just begun. -/
def Task.start (kind : TaskKind) (inst node die : Nat) : Task where
  kind := kind
  inst := inst
  node := node
  die := die
  reads := []
  writes := []
  parents := []
  nodes := []
  refire := none
  complete := false
  lifted := false
  stopped := false
  mute := false
  held := []
  leaving := []
  recs := []

/-- Words of device memory. -/
def State.devWords (s : State) (pa n : Nat) : List Word := wordsOfBytes (s.bytes (devHome pa) (4 * n))

/-- R286: a graph run starts in this clk, with the code and the program as they stand in the code area (R21; log 44); every node whose
count is 0 enters the ready queue. -/
def State.startInst (s : State) (g : Graph) (ap flags : Nat) : Nat × State :=
  let (n, ctr) := s.nextInst
  let (t, s) := s.fresh
  let i : Inst := {
    lp1 := g.lp1
    graph := graphKey g.lp1 g.handle
    part := g.part
    handle := g.handle
    ap := ap
    amdep := flags % 8
    notify := bitAt flags 3
    nodes := g.nodes.map fun x => { x.start with queued := x.start.count == 0 }
    pc := 0
    stack := []
    strm := ⟨progRegs n ap flags, none⟩
    progEnd := false
    cancelled := false
    ended := false
    task := t
    code := s.devWords g.area g.ncode
    prog := s.devWords (g.area + 4 * g.ncode) g.nprog }
  let s := { s with
    insts := mput s.insts n i
    instCtr := ctr
    tasks := mput s.tasks t (Task.start .program n 0 0) }
  (n, ((List.range g.nodes.length).zip g.nodes).foldl (fun s x =>
    if x.2.start.count == 0 then s.pushReady ⟨x.2.cls, s.clk, n, x.1, none⟩ else s) s)

/-- The reason for which a launch is refused (R284). DESIGN CHOICE, log 51. -/
def State.launchRefused (s : State) (lp1 handle flags : Nat) : Option Nat :=
  if (mget s.graphs (graphKey lp1 handle)).isNone then some 1
  else if bits flags 7 4 != 0 then some 3
  else if (s.lp1 lp1).maxInst ≤ (s.insts.filter fun x => x.2.lp1 == lp1 && !x.2.ended).length then some 2
  else none

/-- A launch word taken (R284): the run's number, or the reason of its refusal with its event record of type 6. -/
def State.launch (s : State) (lp1 : Nat) (w : Nat) : Except Nat Nat × State :=
  let h := bits w 63 48
  match s.launchRefused lp1 h (bits w 7 0), mget s.graphs (graphKey lp1 h) with
  | none, some g =>
    let (n, s) := s.startInst g (bits w 47 8 * 256) (bits w 7 0)
    (.ok n, s)
  | r, _ => (.error (r.getD 1), s.event lp1 ⟨6, r.getD 1, h, 0, 0, 0, 0, w % 2 ^ 32, w / 2 ^ 32⟩)

/-- LAUNCH_WORD (R284). -/
def execLaunchWord (lp1 : Fin 16) (w : DWord) (s : State) : Out :=
  hostFrame s none (.launchWord lp1 w) fun s => portFrame s (.launchWord lp1 w) fun s => (s.launch lp1.val w.toNat).2

/-- Is a launch frame's every field legal (R285)? -/
def frameLegal (f : Frame) : Bool :=
  f.magic == 0x4B46 && f.version == 1 && 1 ≤ f.n.toNat && f.n.toNat ≤ 32 && f.lp1.toNat < 16 && f.zero == 0 && f.words.length == f.n.toNat

/-- The number under which the operations of RoCE writes received on a port stand, where others have their thread's (R285). -/
def roceUid (port : Nat) : Nat := 2 ^ 66 + port

/-- The words of an accepted frame are processed in order (R285). -/
def State.frameWords (s : State) (f : Frame) : State := f.words.foldl (fun s w => (s.launch f.lp1.toNat w.toNat).2) s

/-- Is one of the RoCE writes that a frame waits for still to be performed (R285)? -/
def State.frameWaits (s : State) (ids : List Nat) : Bool := ids.any fun i => (mget s.ops i).isSome

/-- The frames whose RoCE writes have been performed are processed (R285), but not while the front end pauses (R359). -/
def State.framesDue (s : State) : State :=
  if s.pause then s
  else
    let due := s.frames.filter fun x => !s.frameWaits x.2
    due.foldl (fun s x => s.frameWords x.1) { s with frames := s.frames.filter fun x => s.frameWaits x.2 }

/-- LAUNCH_FRAME (R285): accepted, its words are processed in order, once every RoCE write received before on its port has been performed: one
to this package's memory was as it arrived, one to another package's is an operation (DESIGN CHOICE, log 113). Any other frame is dropped
whole and counted in FRAMEREF of the partition it names (DEDUCED, log 29: one that names no partition is counted nowhere). On a port that is
not enabled nothing arrives (R361). -/
def execLaunchFrame (f : Frame) (s : State) : Out :=
  if s.linkCounts.2.1 ≤ f.port.val then .next s
  else portFrame s (.launchFrame f) fun s =>
    let p := f.lp1.toNat
    if frameLegal f && (s.lp1 p).sources.contains f.src && f.tag == (s.lp1 p).tag then
      let ids := mkeys s.ops fun _ o => o.uid == roceUid f.port.val
      if ids.isEmpty then s.frameWords f else { s with frames := s.frames ++ [(f, ids)] }
    else if p < 16 then s.modLp1 p fun b => { b with framref := min (b.framref + 1) (2 ^ 32 - 1) }
    else s

/-! ### The end of a graph run (R286) -/

/-- Is a node of a run neither ready, nor running, nor holding records or bands (R286)? -/
def State.nodeRests (s : State) (inst node : Nat) : Bool :=
  (s.nodeSt inst node).all (fun st => !st.queued || st.complete || st.faulted) && s.nodeIdle inst node

/-- Has a run no block, band or command left? -/
def State.workGone (s : State) (inst : Nat) : Bool :=
  !many s.blocks (fun _ b => b.inst == inst) && !many s.bands (fun _ b => b.inst == inst) &&
    !(s.saved.any fun x => many x.bands (fun _ b => b.inst == inst) || many x.blocks fun _ b => b.inst == inst) &&
    !(s.ready.any fun r => r.inst == inst)

/-- May a run end (R286)? -/
def State.instDone (s : State) (n : Nat) (i : Inst) : Bool :=
  s.workGone n &&
    (i.cancelled ||
      (i.progEnd && ((List.range i.nodes.length).all fun k => s.nodeRests n k) &&
        s.tasks.all fun t => t.2.inst != n || ((t.2.lifted || t.2.stopped) && t.2.refire.isNone)))

/-- INSTANCE_COMPLETE (R286, R290): the run ends; one that completes and was to notify writes its record. A cancelled run only ends. -/
def execInstanceComplete (inst : Nat) (s : State) : Out :=
  match s.inst? inst with
  | none => .next s
  | some i =>
    if i.ended || !s.instDone inst i then .next s
    else
      let s := s.modInst inst fun i => { i with ended := true }
      .next (if i.notify && !i.cancelled then s.event i.lp1 ⟨3, 0, i.handle, inst, 0, 0, 0, 0, 0⟩ else s)

end Sys2Proof.Machine
end

