-- ==== Sys2Proof/Machine/Resume.lean ====
section
/-! DEFINITION. Resuming parked work (R246, R249), and the events of the engines' commands, after which a save that waited goes on (R325). -/

namespace Sys2Proof.Machine

/-! ### Engine events -/

/-- COPY_BYTES_LANDED (R167, R148). -/
def execCopyBytesLanded (cmd : Nat) (units : Nat × Nat) (fate : Fate) (s : State) : Out :=
  .next (s.copyLanded cmd units.1 units.2 fate).pumpSaves

/-- ENGINE_COMMAND_COMPLETE (R146, R148). -/
def execEngineCommandComplete (cmd : Nat) (ended : Option (Nat × Nat) × Fate) (s : State) : Out :=
  .next (s.engineCompleted cmd ended.1 ended.2).pumpSaves

/-! ### Resume records (R249) -/

/-- The three words of a resume record that an error record carries (R249, R290). -/
def resumeWords (r : ResumeRec) : Nat × Nat × Nat :=
  (r.pgl.toNat * 2 ^ 16 + r.res0.toNat * 4 + r.psz.val, r.act.val * 2 ^ 28 + r.res1.toNat * 2 ^ 24 + r.pgh.toNat, r.res2.toNat * 64 + r.part.val)

/-- Is a record valid for a level-1 partition (R249)? -/
def State.resumeOk (s : State) (lp1 : Nat) (r : ResumeRec) : Bool :=
  r.res0 == 0 && r.res1 == 0 && r.res2 == 0 && r.res3 == 0 && r.act.val ≤ 1 && (s.part r.part.val).live && (s.part r.part.val).parent == lp1

/-- Does a faulting address lie in the page that a record names (R249)? -/
def pageCovers (r : ResumeRec) (va : Nat) : Bool :=
  let page := r.pgh.toNat * 2 ^ 32 + r.pgl.toNat * 2 ^ 16
  match r.psz.val with
  | 0 => va / 2 ^ 16 == page / 2 ^ 16
  | 1 => va / 2 ^ 21 == page / 2 ^ 21
  | 2 => va / 2 ^ 29 == page / 2 ^ 29
  | _ => true

/-- The parked threads that a record matches. -/
def State.matchedThreads (s : State) (r : ResumeRec) : List Nat :=
  mkeys s.threads fun k t => t.parked.any (fun p => pageCovers r p.va) && (s.band? (bandOfThread k)).any (·.part == r.part.val)

/-- The stalled strands that a record matches. -/
def State.matchedStrands (s : State) (r : ResumeRec) : List Nat :=
  mkeys s.strands fun _ x => x.parked.any (fun p => pageCovers r p.va) && (s.block? x.block).any (·.part == r.part.val)

/-- The stalled commands that a record matches. -/
def State.matchedCmds (s : State) (r : ResumeRec) : List Nat := mkeys s.cmds fun _ c => c.parked.any (fun p => pageCovers r p.va) && c.part == r.part.val

/-- A parked thread is resumed (R246, R196): it re-issues, with its fault time as its ready time; a surrender routine that waits for it takes
it (R170). -/
def State.unparkThread (s : State) (k : Nat) : State :=
  match s.thread? k with
  | some t =>
    match t.parked with
    | some p =>
      let t1 : Thread := { t with parked := none, readyAt := p.time, clauses := 0, status := if t.status == .arrived then .arrived else .ready }
      let s := s.setThread k t1
      match s.routineEntry k t1 with
      | some pc => s.enterRoutine k pc
      | none => s.settleWait k
    | none => s
  | none => s

/-- A parked thread takes the unrecoverable-access trap with DETAIL 7 at its faulting instruction (R249): at the rendezvous where that is
one (R35), at the clause boundary where it was a clause fetch. -/
def State.failThread (s : State) (k : Nat) : State :=
  match s.thread? k with
  | some t =>
    -- it is ready again, with its fault time as its ready time (R196)
    let s := s.modThread k fun t => { t with parked := none, readyAt := (t.parked.map (·.time)).getD t.readyAt, clauses := 0 }
    if t.status == .arrived then s.bandTrap (s.rendezvousP k) (cAccess 7) 1
    else if slotOf t.pc == 0 then s.edgeTrap k t (cAccess 7)
    else s.laneTrap k (cAccess 7)
  | none => s

/-- A stalled strand's instruction fails (R179, R249). -/
def State.failStrand (s : State) (q : Nat) : State := (s.setStrand q { s.strand q with parked := none }).strandTrap q (cAccess 7)

/-- A stalled command stops (R149, R249). -/
def State.failStalled (s : State) (id : Nat) : State :=
  match mget s.cmds id with
  | some c => s.stopCmd id c (cAccess 7)
  | none => s

/-- A resume record is accepted, or dropped with an error record (R249). -/
def State.resume (s : State) (lp1 : Nat) (r : ResumeRec) : State :=
  if !s.resumeOk lp1 r then
    let (a, b, c) := resumeWords r
    s.event lp1 ⟨7, 0, 0, 0, 0, 0, a, b, c⟩
  else
    let ts := s.matchedThreads r
    let qs := s.matchedStrands r
    let cs := s.matchedCmds r
    if r.act.val == 0 then
      let s := ts.foldl State.unparkThread s
      let s := qs.foldl (fun s q => s.setStrand q { s.strand q with parked := none }) s
      cs.foldl (fun s id => s.modCmd id fun c => { c with parked := none }) s
    else
      let s := ts.foldl State.failThread s
      let s := qs.foldl State.failStrand s
      ((cs.foldl State.failStalled s).settle).pumpSaves

/-- RESUME_RETRY (R249): a record whose ACT is not 1. -/
def execResumeRetry (lp1 : Fin 16) (rec : ResumeRec) (s : State) : Out :=
  if rec.act = 1 then .next s
  else hostFrame s none (.resumeRetry lp1 rec) fun s => portFrame s (.resumeRetry lp1 rec) fun s => s.resume lp1.val rec

/-- RESUME_FAIL (R249): a record whose ACT is not 0. -/
def execResumeFail (lp1 : Fin 16) (rec : ResumeRec) (s : State) : Out :=
  if rec.act = 0 then .next s
  else hostFrame s none (.resumeFail lp1 rec) fun s => portFrame s (.resumeFail lp1 rec) fun s => s.resume lp1.val rec

end Sys2Proof.Machine
end

