-- ==== Sys2Proof/Machine/Blocks.lean ====
section
/-! DEFINITION. Blocks starting and ending (R199-R208, R283, R288, R300, R320, R321), and bands started from continuation records
(R210-R213). -/

namespace Sys2Proof.Machine

/-! ### Room on a core -/

/-- Is the slot a core runs a valid record that binds the core (R314, R315)? -/
def State.slotHere (s : State) (c : Nat) : Option Nat :=
  (s.core c).running.filter fun t => (s.bind t).valid && bitAt (s.bind t).cores.toNat c

/-- May dispatch place work on a core: it exists, is available, and is under no recall and no save (R199, R320, R366)? -/
def State.coreOpen (s : State) (c : Nat) : Bool := c < Config.cores && !(s.core c).unavail && s.coreHeld c

/-- The free frames of a core, the lowest first (R192, R193). -/
def State.freeFrames (s : State) (c : Nat) : List Nat :=
  ((List.range Config.framesPerCore).map (64 * c + ·)).filter fun b => (s.band? b).isNone

/-- The local slots of a graph's node that bands have, resident or saved (R283). -/
def State.localTaken (s : State) (graph node : Nat) : List Nat :=
  let mine (b : Band) : Option Nat := if b.node == node && ((s.inst? b.inst).map (·.graph)).getD (2 ^ 64) == graph then b.local? else none
  (s.bands.filterMap fun x => mine x.2) ++ s.saved.flatMap fun x => x.bands.filterMap fun y => mine y.2

/-- The free local slots of a graph's node, the lowest first. -/
def State.localFree (s : State) (graph node : Nat) (n : Node) : List Nat :=
  let used := s.localTaken graph node
  (List.range n.lslots).filter fun j => !used.contains j

/-- Have m bands of a node the local slots they need (R283)? -/
def State.localRoom (s : State) (graph node : Nat) (n : Node) (m : Nat) : Bool := n.lsz == 0 || m ≤ (s.localFree graph node n).length

/-! ### A node's block -/

/-- The matrix engine of a node's blocks (R201, R207): a matrix strand, a kernel with matrix instructions, or a welt. -/
def Node.needsMx (n : Node) (ks : List Kernel) : Bool := n.welt || n.used.any fun r => r.kind == 2 || (roleKernel ks r).mx

/-- The copy engine of a node's blocks (R201). -/
def Node.needsCp (n : Node) (ks : List Kernel) : Bool := n.used.any fun r => r.kind == 3 || (roleKernel ks r).cp

/-- The initial bands of a node's block: the role of each, role 0's first (R200). -/
def Node.bandRoles (n : Node) : List (Nat × Role) :=
  ((List.range n.roles.length).zip n.roles).flatMap fun x => if x.2.kind == 1 then List.replicate x.2.count (x.1, x.2) else []

/-- The budget of a band started from records (R212). -/
def Node.recBudget (n : Node) (role : Nat) : Nat := max (((n.roles[role]?).map (·.budget)).getD 16) 16

/-- The role of records of one band. -/
def recsRole (recs : List PoolRec) : Nat := (recs.head?.map (·.role)).getD 0

/-- What a start of the next block of a ready entry needs: the graph's key, its graph, the node and its state. -/
structure Launch where
  gkey  : Nat
  graph : Graph
  node  : Node
  st    : NodeSt

/-- The launch of a ready entry. -/
def State.launchOf (s : State) (e : ReadyEntry) : Option Launch :=
  match s.inst? e.inst, s.graphOf e.inst, s.nodeOf e.inst e.node, s.nodeSt e.inst e.node with
  | some i, some g, some n, some st => if i.cancelled || i.ended then none else some ⟨i.graph, g, n, st⟩
  | _, _, _, _ => none

/-- The records of the bands that a re-run starts beside its block (R300). -/
def State.besideRecs (s : State) (e : ReadyEntry) : List (List PoolRec) :=
  match e.rerun with
  | some (_, old) => ((s.task? old).map (·.recs)).getD []
  | none => []

/-- Has a saved context a block of a node (R321)? -/
def State.savedBlock (s : State) (inst node : Nat) : Bool := s.saved.any fun x => many x.blocks fun _ b => b.inst == inst && b.node == node

/-- The stagger of a node (R204). -/
def State.staggerOk (s : State) (e : ReadyEntry) (l : Launch) : Bool :=
  e.rerun.isSome || l.st.lastAt.all fun t => t + 8 * l.node.stagger ≤ s.clk

/-- May the next block of a ready entry start on core c (R199, R201, R204, R207, R288, R320, R321)? -/
def State.canPlace (s : State) (c : Nat) (e : ReadyEntry) : Bool :=
  match s.launchOf e, s.slotHere c with
  | some l, some t =>
    let ks := l.graph.kernels
    let mine := (s.blocks.filter fun b => b.2.core == c).map (·.2)
    let roles := l.node.bandRoles
    let beside := s.besideRecs e
    let regs := (roles.map fun r => 32 * r.2.budget).sum + (beside.map fun r => 32 * l.node.recBudget (recsRole r)).sum
    let n := roles.length + beside.length
    s.coreOpen c && (s.instsOf t).contains e.inst && s.staggerOk e l && (e.rerun.isSome || !s.savedBlock e.inst e.node) &&
      n ≤ (s.freeFrames c).length && regs ≤ s.freeRegs c && s.localRoom l.gkey e.node l.node n &&
      (mine.all fun b => b.lease == l.node.lease && b.lease != 2 && (b.hasps &&& l.node.haspSet ks) == 0 &&
        !(b.mx && l.node.needsMx ks) && !(b.cp && l.node.needsCp ks)) &&
      !(l.node.needsMx ks && s.weltHolds c) && (!l.node.welt || s.weltRoom c l.graph.part)
  | _, _ => false

/-- R283: the argument block of a node, read once in a run; nothing where the read faults. -/
def State.readArgs (s : State) (t : Nat) (e : ReadyEntry) (l : Launch) : Option (List Word × State) :=
  match l.st.args with
  | some ws => some (ws, s)
  | none =>
    let ap := ((s.inst? e.inst).map (·.ap)).getD 0
    (s.outerRead (s.spaceOf t l.graph.part) true true (ap + 128 * l.node.argslot) 128).map fun (bs, s) =>
      let ws := wordsOfBytes bs
      (ws, s.modNode e.inst e.node fun st => { st with args := some ws })

/-- A band is given frame b with its threads (R193): `regs` gives a lane's first registers and its pc. -/
def State.placeBand (s : State) (b : Nat) (x : Band) (lane : Nat → List Word × Addr) : State :=
  let ls := (List.range 32).filter fun l => bitAt x.present.toNat l
  let s := s.setBand b x
  ls.foldl (fun s l =>
    let (id, s) := s.fresh
    let (ws, pc) := lane l
    s.setThread (threadOf b l) ((Thread.start id pc s.clk).setRun 0 ws)) s

/-- A context begins on a core that held nothing: it has no origin and no edit yet (R326, R374). -/
def State.beginContext (s : State) (c t : Nat) : State :=
  if s.holdsWork c then s else s.setCtx (512 * t + c) { s.ctx (512 * t + c) with origin := 0, cstat := false }

/-- Who a re-run takes over from (R300): the old task's write log, the lines it wrote last, and what the egress hold buffer has released of it,
which is performed first (R304). -/
def State.takeOver (s : State) (old new : Nat) : (List Nat × List HeldItem) × State :=
  match s.task? old with
  | none => (([], []), s)
  | some t =>
    ((t.writes, t.leaving), { s with
      tasks := mdel s.tasks old
      ops := mmap s.ops fun _ o => if o.egress && o.task == old then { o with task := new } else o
      lines := mmap s.lines fun _ m => { m with
        users := m.users.filter (· != old)
        writer := if m.writer == some old then some new else m.writer } })

/-- A band from records, free, in frame b (R212); in place of the record band `old` where that one was re-fired (R300). -/
def State.placeRecs (s : State) (b t : Nat) (inst node role : Nat) (l : Launch) (args : List Word) (old : Option Nat)
    (recs : List PoolRec) : State :=
  let c := coreOfBand b
  let (id, s) := s.fresh
  let (past, s) := match old with
    | some o => s.takeOver o id
    | none => (([], []), s)
  let s := { s with tasks := mput s.tasks id { Task.start (.record node) inst node (dieOfCore c) with
    parents := (recs.map PoolRec.task).eraseDups, recs := [recs], writes := past.1, leaving := past.2 } }
  let pm := BitVec.ofNat 32 (2 ^ recs.length - 1)
  let loc := if l.node.lsz == 0 then none else (s.localFree l.gkey node l.node).head?
  let base := s.codeBase inst node role
  let x : Band := { Band.start args pm (l.node.recBudget role) role node inst l.st.grid l.graph.part t id with
    isRec := true, recs := recs, local? := loc }
  (s.placeBand b x fun i =>
    let ws := ((recs[i]?).map PoolRec.words).getD []
    (ws, base + BitVec.ofNat 56 (32 * recEntry (ws.headD 0)))).dropRoc c

/-- The bands of a block's start, in positions 0 upward (R200, R126). -/
def State.placeBands (s : State) (c t bid task : Nat) (e : ReadyEntry) (l : Launch) (args : List Word) : State :=
  ((List.range l.node.bandRoles.length).zip l.node.bandRoles).foldl (fun (s : State) x =>
    match (s.freeFrames c).head? with
    | none => s
    | some b =>
      let loc := if l.node.lsz == 0 then none else (s.localFree l.gkey e.node l.node).head?
      let y : Band := { Band.start args (BitVec.allOnes 32) x.2.2.budget x.2.1 e.node e.inst l.st.grid l.graph.part t task with
        block := some bid, pos := x.1, mb := 32, local? := loc }
      (s.placeBand b y fun _ => ([], s.codeBase e.inst e.node x.2.1)).countMembers b) s

/-- The strands of a block's strand roles (R202). -/
def State.placeStrands (s : State) (c bid : Nat) (e : ReadyEntry) (l : Launch) (args : List Word) : State :=
  ((List.range l.node.roles.length).zip l.node.roles).foldl (fun (s : State) x =>
    if 2 ≤ x.2.kind then
      s.setStrand (2 * c + (x.2.kind - 2)) { Strand.zero with
        s := startRegs args 0
        pc := s.codeBase e.inst e.node x.1
        status := .run
        block := bid
        nband := BitVec.ofNat 32 l.node.bands }
    else s) s

/-- The block's hasps at its start (R134): membership hasps valid in phase 0 with the sum of MB expected; the others invalid. -/
def State.placeHasps (s : State) (c : Nat) (hasps membs : BitVec 32) (n : Nat) : State :=
  (maskNums hasps).foldl (fun s h =>
    let m := bitAt membs.toNat h
    s.setHasp (haspKey c h) { Hasp.zero with valid := m, memb := m, expArr := if m then 32 * n else 0 }) s

/-- A block that starts. -/
def Launch.block (l : Launch) (c t task blockId : Nat) (e : ReadyEntry) : Block where
  core := c
  inst := e.inst
  node := e.node
  blockId := blockId
  part := l.graph.part
  slot := t
  task := task
  welt := l.node.welt
  hasps := l.node.haspSet l.graph.kernels
  membs := l.node.membSet l.graph.kernels &&& l.node.haspSet l.graph.kernels
  mx := l.node.needsMx l.graph.kernels
  cp := l.node.needsCp l.graph.kernels
  maxBands := l.node.maxBands l.graph.kernels
  lease := l.node.lease
  rlim := l.node.rlim
  surr := none
  rstate := .held
  chosen := none
  count := 0
  countAt := 0
  routine := 0
  entered := false
  used := 0
  finStart := 0
  spRecall := 0
  summ := false
  faulted := false
  stopping := false
  rerun := e.rerun.isSome

/-- The matrix engine that a block holds begins with tile scales of 1.0, plane 0 active and no activation scale table (R151, R256). The engine of a welt's follower
is zeroed at a change of that core's own running slot only (R330; DESIGN CHOICE, log 108). -/
def State.resetEngine (s : State) (b : Block) : State :=
  if !b.mx then s
  else (if b.welt then [b.core, b.core + 1] else [b.core]).foldl (fun s c => s.modEngine c fun e => { e with sw := [], active := 0, asc := none }) s

/-- The ready queue and the node after a start (R204, R288): an entry leaves with its last block. -/
def State.noteStart (s : State) (e : ReadyEntry) (l : Launch) : State :=
  let s := { s with ready := if e.rerun.isSome || l.st.grid ≤ l.st.started + 1 then s.ready.erase e else s.ready }
  if e.rerun.isSome then s
  else s.modNode e.inst e.node fun st => { st with started := st.started + 1, lastAt := some s.clk }

/-- A BLOCK STARTS as one gang (R199-R204, R283): its task, its record, its hasps, its bands and its strands, in one clk. -/
def State.startBlock (s : State) (c t : Nat) (e : ReadyEntry) (l : Launch) : State :=
  match s.readArgs t e l with
  | none => s.cancelInst e.inst 3 e.node 0 0 0 0
  | some (args, s) =>
    let blockId := match e.rerun with
      | some (n, _) => n
      | none => l.st.started
    let beside := s.besideRecs e
    let s := s.beginContext c t
    let (bid, s) := s.fresh
    let (task, s) := s.fresh
    let (past, s) := match e.rerun with
      | some (_, old) => s.takeOver old task
      | none => (([], []), s)
    let blk := l.block c t task blockId e
    let s := { s with
      tasks := mput s.tasks task { Task.start (.block e.node blockId) e.inst e.node (dieOfCore c) with writes := past.1, leaving := past.2 }
      blocks := mput s.blocks bid blk }
    let s := s.resetEngine blk
    let s := s.placeHasps c blk.hasps blk.membs l.node.bands
    let s := s.placeBands c t bid task e l args
    let s := s.placeStrands c bid e l args
    let s := beside.foldl (fun s r =>
      match (s.freeFrames c).head? with
      | some b => s.placeRecs b t e.inst e.node (recsRole r) l args none r
      | none => s) s
    -- the start is an acquire at PKG scope (R333, R312)
    ((s.dropRoc c).noteStart e l).settle

/-! ### BLOCK_START -/

/-- May a saved context be restored on core c now (R317, R321)? One that a recall saved never returns to its old core before every other
bound core; any other returns to its own core while that is bound. -/
def State.mayRestore (s : State) (t c : Nat) (x : Saved) : Bool :=
  s.canHold t c x &&
    if x.byRecall then x.core != c || !((List.range Config.cores).any fun d => d != c && s.canHold t d x)
    else x.core == c || !bitAt (s.bind t).cores.toNat x.core || (s.core x.core).unavail

/-- The first ready entry whose next block can start on core c, with no entry before it that could start anywhere (R288). -/
def State.nextReady (s : State) (c : Nat) : Option ReadyEntry :=
  match s.ready.find? fun e => s.canPlace c e with
  | none => none
  | some e => if (s.ready.takeWhile (· != e)).any fun d => (List.range Config.cores).any fun k => s.canPlace k d then none else some e

/-- A core that holds nothing and runs no valid slot takes its next one (R315, R316). -/
def State.takeSlot (s : State) (c : Nat) : State := if (s.slotHere c).isNone && !s.holdsWork c then s.switchNext c else s

/-- BLOCK_START (R199, R288, R321): a saved context of the core's running slot before any new block. -/
def execBlockStart (core : Nat) (s : State) : Out :=
  if !s.coreOpen core then .next s
  else
    let s := s.takeSlot core
    match s.slotHere core with
    | none => .next s
    | some t =>
      match s.saved.find? fun x => (s.instsOf t).contains x.inst && s.mayRestore t core x with
      | some x => .next (s.restoreContext t core x)
      | none =>
        match s.nextReady core with
        | none => .next s
        | some e =>
          match s.launchOf e with
          | some l => .next (s.startBlock core t e l)
          | none => .next s

/-! ### BLOCK_END -/

/-- A block ends, once it may (R203, R287, R320); a recall that waited for the block is answered, and a save that waited goes on. -/
def State.endBlock (s : State) (block : Nat) : State :=
  match s.block? block with
  | none => s
  | some b =>
    if !s.blockOver block then s
    else
      let saving := (s.core b.core).saving
      let s := s.closeBlock block b
      let s := if saving then s.pumpSave b.core
        else if b.rstate != .held && (s.core b.core).recallTag.isSome then s.released_ b.core else s
      s.settle

/-- BLOCK_END (R203). DEDUCED, log 60. -/
def execBlockEnd (block : Nat) (s : State) : Out := .next (s.endBlock block)

/-- Every block ends in the clk in which it may: as the step that leaves it so is done (R203). -/
def State.endBlocks (s : State) : State := (mkeys s.blocks fun n _ => s.blockOver n).foldl State.endBlock s

/-! ### Records -/

/-- GATHERING_WINDOW_EXPIRY (R211): the window has run since the first record of a partial band. -/
def execGatheringWindowExpiry (key : GatherKey) (s : State) : Out :=
  match s.pool.find? (·.key == key) with
  | none => .next s
  | some b =>
    let win := ((s.graphOf key.inst).map (·.win)).getD Config.defaultWindow
    if s.clk < b.since + win then .next s else .next (s.releaseBand b)

/-- The released band of a run that is started next: the earliest, in the order of release (R211, R300). -/
def State.nextReleased (s : State) (inst : Nat) : Option RelBand :=
  let rs := s.released.filter fun r => r.key.inst == inst
  match (rs.map (·.time)).min? with
  | some t => rs.find? fun r => r.time == t
  | none => none

/-- May a band from records start on core c (R213, R315)? -/
def State.canPlaceRecs (s : State) (c : Nat) (r : RelBand) (l : Launch) : Bool :=
  s.coreOpen c && ((s.slotHere c).any fun t => (s.instsOf t).contains r.key.inst) && !(s.freeFrames c).isEmpty &&
    32 * l.node.recBudget r.key.role ≤ s.freeRegs c && s.localRoom l.gkey r.key.node l.node 1

/-- RECORD_BAND_START (R212, R213): on the lowest-numbered core with room. -/
def execRecordBandStart (inst : Nat) (s : State) : Out :=
  match s.nextReleased inst with
  | none => .next s
  | some r =>
    let e : ReadyEntry := ⟨0, 0, inst, r.key.node, none⟩
    match s.launchOf e with
    | none => .next s
    | some l =>
      match (List.range Config.cores).find? fun c => s.canPlaceRecs c r l with
      | none => .next s
      | some c =>
        match s.slotHere c, (s.freeFrames c).head? with
        | some t, some b =>
          match s.readArgs t e l with
          | none => .next (s.cancelInst inst 3 r.key.node 0 0 0 0)
          | some (args, s) =>
            let s := { s with released := s.released.erase r }
            .next ((s.beginContext c t).placeRecs b t inst r.key.node r.key.role l args r.old r.recs)
        | _, _ => .next s

end Sys2Proof.Machine
end

