-- ==== Sys2Proof/Machine/Queues.lean ====
section
/-! DEFINITION. Queue registers and tail ports (R263-R267). -/

namespace Sys2Proof.Machine

/-! ### ENABLE and RESTART (R263) -/

/-- Does a queue's descriptor pass the check at enable (R263)? -/
def Queue.legal (q : Queue) : Bool :=
  12 ≤ q.qlog2 && q.qlog2 ≤ 24 && q.qbase.toNat % 2 ^ q.qlog2 == 0 &&
    (q.splog2 == 0 || (3 ≤ q.splog2 && q.splog2 ≤ 16 && q.spbase.toNat % 2 ^ (q.splog2 + 3) == 0))

/-- ENABLE is written 1 (R263): a descriptor that fails the check halts the queue with ERR 8. -/
def State.enableQueue (s : State) (k : Nat) : State :=
  let q := s.queue k
  if q.enable then s
  else if q.legal then
    s.setQueue k { q with enable := true, state := 1, qhead := 0, qexec := 0, pend := none, words := [], strm := Stream.zero, spills := 0 }
  else (s.setQueue k { q with enable := true }).haltQueue k 8 2

/-- ENABLE is written 0 (R263). -/
def State.disableQueue (s : State) (k : Nat) : State :=
  let q := s.queue k
  s.setQueue k { q with enable := false, state := 0, pend := none, words := [], strm := { q.strm with wait := none } }

/-- RESTART is written 1 (R263). -/
def State.restartQueue (s : State) (k : Nat) : State :=
  let q := s.queue k
  if q.state == 2 || q.state == 3 then s.setQueue k { q with state := 1 } else s

/-- QUEUE_ENABLE (R263). -/
def execQueueEnable (lp1 : Fin 16) (q : Fin 1024) (s : State) : Out := .next (s.enableQueue (queueKey lp1.val q.val))

/-- QUEUE_DISABLE (R263). -/
def execQueueDisable (lp1 : Fin 16) (q : Fin 1024) (s : State) : Out := .next (s.disableQueue (queueKey lp1.val q.val))

/-- QUEUE_RESTART (R263, R266). -/
def execQueueRestart (lp1 : Fin 16) (q : Fin 1024) (s : State) : Out := .next (s.restartQueue (queueKey lp1.val q.val))

/-! ### Tails (R265) -/

/-- Ring bytes from stream byte j on, n of them, through a space (R264): up to the ring's end, then from its start. -/
def State.ringBytes (s : State) (sp : Space) (q : Queue) (j n : Nat) : Option (List Byte × State) :=
  let size := 2 ^ q.qlog2
  let o := j % size
  let a := min n (size - o)
  match s.outerRead sp true true (q.qbase.toNat % 2 ^ 56 + o) a with
  | none => none
  | some (x, s) => (s.outerRead sp true true (q.qbase.toNat % 2 ^ 56) (n - a)).map fun (y, s) => (x ++ y, s)

/-- One snapshot of ring bytes up to T (R265): appended to the stream; a read that faults halts the queue with ERR 4. -/
def State.snapshot (s : State) (k slot t : Nat) : State :=
  let q := s.queue k
  match s.ringBytes (s.spaceOf slot (s.bind slot).part) q q.qhead (t - q.qhead) with
  | none => s.haltQueue k 4 2
  | some (bs, s) =>
    let s := s.appendWords k (wordsOfBytes bs)
    s.setQueue k { s.queue k with qhead := t, pend := none }

/-- A tail is written to the port of queue k (R265). -/
def State.tailWritten (s : State) (k t : Nat) : State :=
  let q := s.queue k
  if q.state != 1 then s.portError (k / 1024)
  else if t % 8 != 0 then s.haltQueue k 1 2
  else if t < q.qhead then s.haltQueue k 3 2
  else if 2 ^ q.qlog2 < t - q.qhead then s.haltQueue k 2 2
  else
    match s.findBind false (k / 1024) (k % 1024) with
    | none => s.setQueue k { q with pend := some t }
    | some slot => s.snapshot k slot t

/-- TAIL_WRITE (R265). -/
def execTailWrite (lp1 : Fin 16) (q : Fin 1024) (t : DWord) (s : State) : Out :=
  hostFrame s none (.tailWrite lp1 q t) fun s => portFrame s (.tailWrite lp1 q t) fun s => s.tailWritten (queueKey lp1.val q.val) t.toNat

/-- The pending tail of a queue that has just been bound is snapshotted (R265). -/
def State.takePending (s : State) (k slot : Nat) : State :=
  match (s.queue k).pend with
  | some t => s.snapshot k slot t
  | none => s

/-! ### Swapping (R267, R289) -/

/-- A word that comes back: one of the spill area is read there (R289). -/
def State.wordBack (s : State) (k : Nat) (w : QWord) : QWord × State :=
  match w.place, s.findBind false (k / 1024) (k % 1024) with
  | .spill va, some t =>
    match s.outerRead (s.spaceOf t (s.bind t).part) false false va 4 with
    | some (bs, s) => (⟨BitVec.ofNat 32 (leNat bs), .sram⟩, s)
    | none => (⟨w.w, .sram⟩, s)
  | _, _ => (⟨w.w, .sram⟩, s)

/-- The first words of a stream that are not in the queue buffer come back, at most n of them. -/
def State.readback (s : State) (k : Nat) : Nat → List QWord → List QWord × State
  | _, [] => ([], s)
  | n, w :: ws =>
    if w.place == .sram then let (xs, s) := s.readback k n ws; (w :: xs, s)
    else
      match n with
      | 0 => (w :: ws, s)
      | n + 1 =>
        let (x, s) := s.wordBack k w
        let (xs, s) := s.readback k n ws
        (x :: xs, s)

/-- QUEUE_SWAP_READBACK (R267, R289): the first entry that was evicted or spilled returns to the queue buffer, which makes room for it. -/
def execQueueSwapReadback (lp1 : Fin 16) (q : Fin 1024) (s : State) : Out :=
  let k := queueKey lp1.val q.val
  let s := State.makeRoom s.queues.length 2 s
  let (ws, s) := s.readback k 2 (s.queue k).words
  .next (s.setQueue k { s.queue k with words := ws })

end Sys2Proof.Machine
end

