-- ==== Sys2Proof/Machine/Pages.lean ====
section
/-! DEFINITION. Graded pages cleared by the host (R293), TLB invalidations (R245, R353), and the BAR4 windows (R354, R308). -/

namespace Sys2Proof.Machine

/-! ### GCLR (R293) -/

/-- The pages of a clear, each translated: the frames, or the STATUS of the refusal. -/
def State.clearFrames (s : State) (lp1 : Nat) : Nat → Nat → List Nat → Except Nat (List Nat)
  | 0, _, out => .ok out
  | n + 1, va, out =>
    if isSlice va then .error 3
    else
      match (s.translate (s.templateSpace (s.lp1 lp1).gcPart) feCore va .read).1 with
      | .ok a =>
        match a.loc with
        | .dev pa => if a.graded then s.clearFrames lp1 n (va + 65536) ((pa / 65536) :: out) else .error 3
        | _ => .error 3
      | .bad 3 => .error 3
      | _ => .error 4

/-- The frame of a line of device memory. -/
def frameOfLine (l : Nat) : Nat := (64 * l - 2 ^ 44) / 65536

/-- Does a line lie in one of the frames? -/
def inFrames (fs : List Nat) (l : Nat) : Bool := 2 ^ 44 ≤ 64 * l && 64 * l < 2 ^ 45 && fs.contains (frameOfLine l)

/-- Is a line of the frames logged by a run that has not ended (R293)? A task of another package that reads or last wrote a line below FINAL
counts as of such a run, until a cancel token drops it (DEDUCED, log 98); what is outside any run there names none. -/
def State.framesLogged (s : State) (fs : List Nat) : Bool :=
  (many s.tasks fun _ t => s.running t.inst && ((t.reads.any (inFrames fs)) || t.writes.any (inFrames fs))) ||
    many s.lines fun l m => inFrames fs l && (m.far.any (·.2.1 != 0) || m.remote.any (·.2.1 != 0))

/-- The check of a clear: its frames, or the STATUS with which it is refused (R293). -/
def State.clearCheck (s : State) (lp1 : Nat) : Except Nat (List Nat) :=
  let b := s.lp1 lp1
  if b.gcPages == 0 || b.gcVa.toNat % 65536 != 0 || 2 ^ 56 ≤ b.gcVa.toNat || (s.part b.gcPart).parent != lp1 || !(s.part b.gcPart).live then
    .error 3
  else
    match s.clearFrames lp1 b.gcPages b.gcVa.toNat [] with
    | .error e => .error e
    | .ok fs => if s.framesLogged fs then .error 2 else .ok fs

/-- Word 3 of the GCLR block is written (R293): PART is RW; GO starts a clear or refuses it, and is ignored while one runs. -/
def State.clearWritten (s : State) (lp1 w : Nat) : State :=
  if bitAt w 31 && (s.lp1 lp1).gcGo then s
  else
    let s := s.modLp1 lp1 fun b => { b with gcPart := bits w 5 0 }
    if !bitAt w 31 then s
    else
      match s.clearCheck lp1 with
      | .error e => s.modLp1 lp1 fun b => { b with gcStat := e }
      | .ok fs => s.modLp1 lp1 fun b => { b with gcGo := true, gcStat := 1, gcFrames := fs }

/-- GCLR_START (R293, R219). -/
def execGclrStart (lp1 : Fin 16) (w3 : Word) (s : State) : Out :=
  hostFrame s none (.gclrStart lp1 w3) fun s => .next (s.clearWritten lp1.val w3.toNat)

/-- The packages of the domain learn that a line is at NONE (R293; log 20). -/
def State.tellNone (s : State) (l : Nat) : State :=
  s.present.foldl (fun s p => s.send 4 p { s.blankMsg with addr := lineAddr l, grade := .none, mask := 0 }) s

/-- GCLR_DONE (R293, R363): every line of the range is at NONE to every party, and an error in its metadata is gone; the data is as it
was. -/
def execGclrDone (lp1 : Fin 16) (s : State) : Out :=
  let b := s.lp1 lp1.val
  if b.gcGo then
    let cleared := fun x : Nat × LineMeta =>
      if !inFrames b.gcFrames x.1 then some x else if x.2.bad then some (x.1, { LineMeta.zero with bad := true }) else none
    let told := mkeys s.lines fun l m => inFrames b.gcFrames l && m.grade != .none
    let s := told.foldl State.tellNone { s with lines := s.lines.filterMap cleared }
    .next (s.setLp1 lp1.val { b with gcGo := false, gcStat := 0, gcFrames := [] }).settle
  else .next s

/-! ### TLB invalidation (R245, R353) -/

/-- Bytes of an invalidation's page (R353). -/
def invBytes (psz : Nat) : Nat :=
  match psz with
  | 0 => 2 ^ 16
  | 1 => 2 ^ 21
  | _ => 2 ^ 29

/-- Does an invalidation cover an address range (R353)? -/
def InvRange.covers (b : InvRange) (lo hi : Nat) : Bool := b.psz == 3 || (lo < b.va + b.n * invBytes b.psz && b.va < hi)

/-- The range that a partition's invalidation registers name (R353). -/
def Lp1.invRange (b : Lp1) : InvRange := ⟨b.invVa.toNat, b.invN, b.invPsz, b.invPart⟩

/-- Does an invalidation cover a translation? -/
def InvRange.drops (b : InvRange) (x : TlbEntry) : Bool :=
  x.part == b.part && b.covers (x.page * 2 ^ pageBits x.level) ((x.page + 1) * 2 ^ pageBits x.level)

/-- Every TLB drops the entries that an invalidation covers (R245). -/
def State.dropTlb (s : State) (b : InvRange) : State :=
  { s with tlbs := (s.tlbs.map fun x => (x.1, x.2.filter fun e => !b.drops e)).filter fun x => !x.2.isEmpty }

/-- Does an operation reach into the range of an invalidation? -/
def Op.within (o : Op) (b : InvRange) : Bool := o.part == b.part && b.covers o.va (o.va + max o.n 1)

/-- The operations translated through the range and not yet performed. -/
def State.opsIn (s : State) (b : InvRange) : List Nat := mkeys s.ops fun _ o => !o.done && o.within b

/-- Was an access item translated through the range? -/
def HeldItem.within (x : HeldItem) (b : InvRange) : Bool :=
  match x with
  | .store _ _ _ data va part _ _ => part == b.part && b.covers va (va + data.length)
  | .red _ _ _ _ _ data va part _ _ => part == b.part && b.covers va (va + data.length)
  | .signal .. => false

/-- Does the egress hold buffer hold an access translated through the range (R245)? -/
def State.heldIn (s : State) (b : InvRange) : Bool := many s.tasks fun _ t => (t.leaving ++ t.held).any fun x => x.within b

/-- Is an invalidation refused (R353)? -/
def State.invRefused (s : State) (lp1 : Nat) (b : Lp1) : Bool :=
  b.invN == 0 || (b.invPsz != 3 && b.invVa.toNat % invBytes b.invPsz != 0) || !(s.part b.invPart).live || (s.part b.invPart).parent != lp1

/-- Word 3 of the invalidation block is written (R353): PSZ and PART are RW; GO takes the range, and is ignored while an invalidation
runs. -/
def State.invWritten (s : State) (lp1 w : Nat) : State :=
  if bitAt w 31 && (s.lp1 lp1).invGo then s
  else
    let b := { s.lp1 lp1 with invPsz := bits w 7 6, invPart := bits w 5 0 }
    if !bitAt w 31 then s.setLp1 lp1 b
    else if s.invRefused lp1 b then s.setLp1 lp1 { b with invStat := 2 }
    else s.setLp1 lp1 { b with invGo := true, invStat := 1, invOps := s.opsIn b.invRange, invRun := b.invRange }

/-- TLB_INVALIDATE (R353, R219). -/
def execTlbInvalidate (lp1 : Fin 16) (w3 : Word) (s : State) : Out :=
  hostFrame s none (.tlbInvalidate lp1 w3) fun s => .next (s.invWritten lp1.val w3.toNat)

/-- TLB_INVALIDATE_DONE (R245): every entry is dropped, and every access translated through one has been performed or has failed; until
then each access may use an old entry. -/
def execTlbInvalidateDone (lp1 : Fin 16) (s : State) : Out :=
  let b := s.lp1 lp1.val
  if !b.invGo || s.opsLeft b.invOps || s.heldIn b.invRun || !(s.opsIn b.invRun).isEmpty then .next s
  else .next ((s.dropTlb b.invRun).setLp1 lp1.val { b with invGo := false, invStat := 0, invOps := [] })

/-! ### BAR4 (R354) -/

/-- Is a PCIe link up: enabled by the configuration record (R361), and link 0 where the recovery window is open (R362)? -/
def State.linkUp (s : State) (link : Fin 2) : Bool := link.val < s.linkCounts.2.2 && (!s.recovery.active || link == 0)

/-- Is a function there on a link: PF0, or a partition's that firmware has enabled on it (R351)? DEDUCED, log 96. -/
def State.fnOn (s : State) (link : Fin 2) (fn : Nat) : Bool := fn == 16 || bitAt (s.lp1 fn).links link.val

/-- A window's control: B4BASE, B4PART and its size; window 16 is PF0's. -/
def State.window (s : State) (win : Nat) : Nat × Nat × Nat :=
  if win < 16 then let b := s.lp1 win; (b.b4base.toNat, b.b4part, b.b4log) else (s.pf0b4.1.toNat, s.pf0b4.2.1, s.pf0b4.2.2)

/-- Where an access through a window lands: the space and the address; nothing outside the window. -/
def State.windowVa (s : State) (win ofs n : Nat) : Option (Space × Nat) :=
  let (base, part, size) := s.window win
  if ofs + n ≤ 2 ^ size && (s.part part).live then some (s.templateSpace part, base + ofs) else none

/-- A read through a window: the data, or Completer Abort (R354). -/
def State.windowRead (s : State) (win : Fin 17) (ofs n : Nat) : State :=
  match (s.windowVa win.val ofs n).bind fun x => s.outerRead x.1 false false x.2 n with
  | some (bs, s) => { s with reply := s.reply ++ [.data bs] }
  | none => { s with reply := s.reply ++ [.abort] }

/-- BAR4_READ (R354, R351): Unsupported Request where the function is not enabled on the link; on a link that is down nothing arrives. -/
def execBar4Read (win : Fin 2 × Fin 17) (ofs n : Nat) (s : State) : Out :=
  if !s.linkUp win.1 then .next s
  else if !s.fnOn win.1 win.2.val then .next { s with reply := s.reply ++ [.unsupported] }
  else hostFrame s (some win.1) (.bar4Read win ofs n) fun s => .next (s.windowRead win.2 ofs n)

/-- The parts of a host write placed (R354): nothing where one fails. -/
def State.placeHost (s : State) (sp : Space) : List (Nat × List Byte) → List (Acc × Nat × List Byte) → Option (List (Acc × Nat × List Byte) × State)
  | [], out => some (out.reverse, s)
  | (va, bs) :: rest, out =>
    if isSlice va then none
    else
      match s.translate sp feCore va .write with
      | (.ok a, s) =>
        match a.loc with
        | .dev _ | .remote .. => if (a.graded && s.accBad a bs.length) || s.accDead a bs.length then none else s.placeHost sp rest ((a, va, bs) :: out)
        | _ => none
      | _ => none

/-- One part of a host write is performed: on a graded page as a graded store requesting FINAL, dropped without notice where it meets a
FINAL line or the depth limit (R308), and not performed yet where remote consumers must acknowledge first (R307). -/
def State.hostWrite (s : State) (part : Nat) (x : Acc × Nat × List Byte) : WOut × State :=
  let (a, _, bs) := x
  if a.graded then
    match a.loc with
    | .remote pk pa _ =>
      let (id, s) := s.fresh
      (.wrote, s.send 5 pk { s.blankMsg with
        tag := tagOf id, addr := BitVec.ofNat 56 pa, part := Fin.ofNat 64 part, n := bs.length, data := bs, grade := .final, amdep := 7 })
    | l =>
      match l.home with
      | some h => s.gradedWrite h bs .final none 7
      | none => (.wrote, s)
  else (.wrote, s.performStore a bs part)

/-- The parts of a host write in order, each counted (R376): the bytes before the first that waits for acknowledges, if one does. -/
def State.hostParts (s : State) (sp : Space) : Nat → List (Acc × Nat × List Byte) → Option Nat × State
  | _, [] => (none, s)
  | done, x :: rest =>
    match s.hostWrite sp.part x with
    | (.waitAck, s) => (some done, s)
    | (_, s) => (s.countAcc sp feCore x.1 0 1).hostParts sp (done + x.2.2.length) rest

/-- The PORTERR counter of a window: its partition's; PF0's counts in that of B4PART's parent. -/
def State.windowError (s : State) (win : Nat) : State := s.portError (if win < 16 then win else (s.part s.pf0b4.2.1).parent)

/-- A write through a window (R354, R308). The part that waits for acknowledges, and what follows it, is written when they have come
(R307). -/
def State.windowWrite (s : State) (link : Fin 2) (win : Fin 17) (ofs : Nat) (data : List Byte) : State :=
  match (s.windowVa win.val ofs data.length).bind fun x => (s.placeHost x.1 (lineParts x.2 data) []).map fun y => (x.1, y.1, y.2) with
  | some (sp, xs, s) =>
    match s.hostParts sp 0 xs with
    | (none, s) => s.settle
    | (some n, s) => { s with waiting := s.waiting ++ [(some link, .bar4Write (link, win) (ofs + n) (data.drop n))] }
  | none => s.windowError win.val

/-- BAR4_WRITE (R354, R351): nothing where the function is not enabled on the link, or the link is down. -/
def execBar4Write (win : Fin 2 × Fin 17) (ofs : Nat) (data : List Byte) (s : State) : Out :=
  if !s.linkUp win.1 || !s.fnOn win.1 win.2.val then .next s
  else hostFrame s (some win.1) (.bar4Write win ofs data) fun s => .next (s.windowWrite win.1 win.2 ofs data)

end Sys2Proof.Machine
end

