-- ==== Sys2Proof/Machine/Slots.lean ====
section
/-! DEFINITION. The slot table (R313-R319), recalls by command and by time (R171, R320), frames granted and scrubbed (R330, R365). -/

namespace Sys2Proof.Machine

/-! ### Bind records (R314, R315) -/

/-- A bind record's fields as firmware writes them (R314): the record, VALID as written, and whether its reserved fields are 0. -/
def bindOfWords (ws : List Word) : Bind × Bool × Bool :=
  let w (i : Nat) : Nat := (ws.getD i 0).toNat
  ({ Bind.zero with
      isGraph := bitAt (w 0) 30
      cls := bits (w 0) 29 28
      weight := bits (w 0) 27 20
      handle := bits (w 0) 15 0
      lp1 := bits (w 1) 27 24
      part := bits (w 1) 21 16
      finb := bits (w 1) 15 0
      root := w 2 + w 3 * 2 ^ 32
      cores := BitVec.ofNat 384 ((List.range 12).foldl (fun n i => n + w (8 + i) * 2 ^ (32 * i)) 0) },
    bitAt (w 0) 31,
    bits (w 0) 19 16 == 0 && bits (w 1) 31 28 == 0 && bits (w 1) 23 22 == 0 && (ws.drop 20).all (· == 0) && decide (ws.length = 32))

/-- Does a record pass the checks of R314 and R315? -/
def State.bindOk (s : State) (b : Bind) : Bool :=
  b.cls != 3 && b.weight != 0 && (s.part b.part).live && (s.part b.part).parent == b.lp1 && b.root % 2 ^ 14 == 0 && b.root < 2 ^ 44 &&
    (b.cores &&& ~~~(s.part b.part).cset) == 0 && (s.findBind b.isGraph b.lp1 b.handle).isNone

/-- A core that holds nothing and runs no valid slot goes to a slot that names it (R315, R317). -/
def State.offerSlot (s : State) (t : Nat) : State :=
  (List.range Config.cores).foldl (fun s c =>
    if bitAt (s.bind t).cores.toNat c && (s.slotHere c).isNone && !s.holdsWork c && s.coreHeld c then s.runSlot c t else s) s

/-- Cores whose running slot is bound anew for another level-2 partition run none: when they take it their running slot changes, and they
are zeroed (R330). -/
def State.leaveSlot (s : State) (t part : Nat) : State :=
  { s with cores := mmap s.cores fun _ x => if x.running == some t && x.lastPart != some part then { x with running := none } else x }

/-- A record becomes valid (R314, R265): its time is noted, cores that run nothing take it, a queue's pending tail is taken. -/
def State.bound (s : State) (t : Nat) (b : Bind) (hw : Bool) : State :=
  let s := s.leaveSlot t b.part
  let s := s.setBind t { b with valid := true, boundAt := s.ns, refused := false, hwmade := hw }
  -- firmware is interrupted for every record that hardware makes (R318)
  let s := if hw then { s with fw := { s.fw with irqs := s.fw.irqs + 1 } } else s
  let s := s.offerSlot t
  if b.isGraph then s else s.takePending (queueKey b.lp1 b.handle) t

/-- The tag by which hardware asks for a recall of its own (R320): by an unbinding of a slot, or by an Interactive slice end.
DESIGN CHOICE, log 75. -/
def hwTag (t : Nat) : Nat := 2 ^ 32 + t

/-- Has a slot a context on a core: a block or a free band (R319)? -/
def State.slotOn (s : State) (t c : Nat) : Bool :=
  (many s.blocks fun _ b => b.core == c && b.slot == t) || many s.bands fun k b => coreOfBand k == c && b.block.isNone && b.slot == t

/-- Is a core held by FIXED blocks (R320)? -/
def State.fixedCore (s : State) (c : Nat) : Bool := many s.blocks fun _ b => b.core == c && b.lease == 0

/-- A slot is unbound (R319): its cores are recalled, but for those held by FIXED blocks. -/
def State.unbind (s : State) (t : Nat) : State :=
  let s := s.setBind t { s.bind t with valid := false }
  (List.range Config.cores).foldl (fun s c => if s.slotOn t c && !s.fixedCore c then s.recallCore c (hwTag t) else s) s

/-- BIND_RECORD_WRITE (R314, R315). DESIGN CHOICE, log 45. -/
def execBindRecordWrite (slot : Fin 128) (words : List Word) (s : State) : Out :=
  let old := s.bind slot.val
  let (b, valid, clean) := bindOfWords words
  if old.valid then
    if valid then .next (s.setBind slot.val { old with refused := true }) else .next (s.unbind slot.val).settle
  else if !clean || (valid && !s.bindOk b) then .next (s.setBind slot.val { old with refused := true })
  else if valid then .next (s.bound slot.val b false).settle
  else .next (s.setBind slot.val { b with boundAt := old.boundAt, hwmade := old.hwmade })

/-- UNBIND (R319). -/
def execUnbind (slot : Fin 128) (s : State) : Out := .next (if (s.bind slot.val).valid then (s.unbind slot.val).settle else s)

/-! ### Slices (R316, R317) -/

/-- A slot's slice on a core, in clks (R316): 10 µs are 25,000 clks. -/
def State.slice (s : State) (t : Nat) : Nat := min (s.bind t).weight (s.part (s.bind t).part).wmax * 25000

/-- Has a core's rotation an Interactive slot with work, while it runs a Standard or Bulk slot (R316)? -/
def State.gained (s : State) (c t : Nat) : Bool :=
  (s.bind t).cls != 0 && (s.rotation c).any fun u => u != t && (s.bind u).cls == 0 && s.slotWork u c

/-- Is a surrender routine or a finish bound running on a core (R316)? -/
def State.surrendering (s : State) (c : Nat) : Bool := many s.blocks fun _ b => b.core == c && (b.rstate == .routine || b.rstate == .finishing)

/-- SLICE_END (R316, R317, R320): a slice that has run, or that an Interactive slot with work ends at once. With no other slot having work
the count restarts. An Interactive end that meets a NEGO core asks for a recall; any other halts and saves. -/
def execSliceEnd (core : Nat) (s : State) : Out :=
  match (s.core core).running with
  | none => .next s
  | some t =>
    let early := s.gained core t
    if !s.coreOpen core || s.fixedCore core || s.surrendering core || !(early || (s.core core).sliceAt + s.slice t ≤ s.clk) then .next s
    else
      match s.nextSlot core with
      | none => .next (s.modCore core fun x => { x with sliceAt := s.clk })
      | some u =>
        if !s.holdsWork core then .next (s.startSlot core u)
        else if early && many s.blocks fun _ b => b.core == core && b.lease == 2 then .next (s.recallCore core (hwTag u)).settle
        else .next (s.beginSave core).settle

/-! ### The starvation bound (R318) -/

/-- The key under which the start of starving work is kept. -/
def starveKey (isGraph : Bool) (lp1 handle : Nat) : Nat := if isGraph then 2 ^ 20 + graphKey lp1 handle else queueKey lp1 handle

/-- Interactive queues with work (R318). -/
def State.hungryQueues (s : State) : List Nat :=
  mkeys s.queues fun k q => q.cls == 0 && q.state == 1 && !q.words.isEmpty && (s.findBind false (k / 1024) (k % 1024)).isNone

/-- Interactive graphs with work (R318). -/
def State.hungryGraphs (s : State) : List Nat :=
  mkeys s.graphs fun k g => (s.findBind true g.lp1 g.handle).isNone && s.ready.any fun e => e.cls == 0 && (s.inst? e.inst).any fun i => i.graph == k

/-- Keep when Interactive work without a valid record began (R318). -/
def State.noteHunger (s : State) : State :=
  let ks := s.hungryQueues ++ s.hungryGraphs.map (2 ^ 20 + ·)
  let kept := s.starve.filter fun x => ks.contains x.1
  { s with starve := ks.foldl (fun m k => if (mget m k).isSome then m else mput m k s.clk) kept }

/-- The level-2 partition whose template binds the work: a graph's own; for a queue the lowest live child (DESIGN CHOICE, log 33). -/
def State.templatePart (s : State) (isGraph : Bool) (lp1 handle : Nat) : Nat :=
  match isGraph, mget s.graphs (graphKey lp1 handle) with
  | true, some g => g.part
  | _, _ => ((List.range 64).find? fun p => (s.part p).live && (s.part p).parent == lp1).getD 0

/-- Of two valid slots, is a rather unbound than b: lower priority, then less BOUNDAT, then lower number (R318)? -/
def State.ratherThan (s : State) (a b : Nat) : Bool :=
  let x := s.bind a
  let y := s.bind b
  y.cls < x.cls || (x.cls == y.cls && (x.boundAt < y.boundAt || (x.boundAt == y.boundAt && a < b)))

/-- The slot that the starvation bound takes (R318). -/
def State.slotToTake (s : State) : Nat :=
  match (List.range 128).find? fun t => !(s.bind t).valid with
  | some t => t
  | none => (List.range 128).foldl (fun m t => if s.ratherThan t m then t else m) 0

/-- STARVATION_BIND (R318): 1.5 ms are 3,750,000 clks. -/
def execStarvationBind (lp1 : Fin 16) (isGraph : Bool) (handle : Nat) (s : State) : Out :=
  let s := s.noteHunger
  match mget s.starve (starveKey isGraph lp1.val handle) with
  | none => .next s
  | some t0 =>
    if s.clk < t0 + 3750000 then .next s
    else
      let t := s.slotToTake
      let s := if (s.bind t).valid then s.unbind t else s
      let b := { (s.part (s.templatePart isGraph lp1.val handle)).template with isGraph := isGraph, handle := handle, cls := 0 }
      .next (s.bound t b true).settle

/-! ### Recalls (R171, R320) -/

/-- RECALL_COMMAND (R320). -/
def execRecallCommand (core tag : Nat) (s : State) : Out := .next (s.recallCore core tag).settle

/-- The block on a core whose recall state is r. -/
def State.blockIn (s : State) (c : Nat) (r : RState) : Option Block := (s.blocks.find? fun x => x.2.core == c && x.2.rstate == r).map (·.2)

/-- ROUTINE_BOUND_EXPIRY (R171). -/
def execRoutineBoundExpiry (core : Nat) (s : State) : Out :=
  match s.blockIn core .routine with
  | some b => if b.bound ≤ b.count && !b.summ then .next (s.beginSave core).settle else .next s
  | none => .next s

/-- FINISH_BOUND_EXPIRY (R320): FINB is in µs of the I/O die's time; 0 means 100 µs (R314). -/
def execFinishBoundExpiry (core : Nat) (s : State) : Out :=
  match s.blockIn core .finishing with
  | some b =>
    let finb := (s.bind b.slot).finb
    if b.finStart + (if finb == 0 then 100 else finb) * 1000 ≤ s.ns then .next (s.beginSave core).settle else .next s
  | none => .next s

/-- Is every thread of a band that holds the routine's count going: each of P that has not reached YIELD is held on a flag, a hasp, a fault
or a rendezvous, and none is halted (R171, R372)? -/
def State.routineHeld (s : State) (b : Nat) : Bool :=
  (s.threadsP b).all fun k => (s.thread? k).any fun t => !t.halted && (t.yielded || t.parked.isSome ||
    match t.status with
    | .header | .arrived | .hwait .. => true
    | _ => false)

/-- The routine counts of the blocks advance over the clks in which every thread is held (R171). -/
def State.countRoutines (s : State) (elapsed : Nat) : State :=
  { s with blocks := mmap s.blocks fun _ x =>
      match x.rstate, x.chosen with
      | .routine, some b => if x.entered && s.routineHeld b then { x with count := x.count + (s.clk + elapsed - max s.clk x.countAt) } else x
      | _, _ => x }

/-- The count of a routine advances by one in a clk in which the chosen band issues (R171); not while one of its threads is halted
(R372). -/
def State.countIssue (s : State) (k : Nat) : State :=
  match s.blockOf k with
  | none => s
  | some n =>
    let halted := (s.threadsP (bandOfThread k)).any fun j => (s.thread? j).any (·.halted)
    s.modBlock n fun x =>
      if x.rstate == .routine && x.entered && x.chosen == some (bandOfThread k) && x.countAt ≤ s.clk && !halted then
        { x with count := x.count + 1, countAt := s.clk + 1 }
      else x

/-! ### Frames and scrubbing (R330, R365) -/

/-- The lines of a frame. -/
def linesOfFrame (f : Nat) : List Nat := (List.range 1024).map (devHome (65536 * f) / 64 + ·)

/-- Has patrol scrub found repeated correctable errors on a row since the boot (R367)? The manual says neither how many are repeated nor how
long a row is: twice, and a line (DESIGN CHOICE, log 74). -/
def State.unfit (s : State) (line : Nat) : Bool := 1 < s.unfitRows.count line

/-- A correctable error on a line: a row of device memory that shows one again enters the repair record (R367). -/
def State.noteCorrected (s : State) (line : Nat) : State :=
  if line < 2 ^ 38 || 2 ^ 39 ≤ line then s
  else
    let u := { s with unfitRows := line :: s.unfitRows }
    if u.unfit line && !s.flash.repair.contains line then { u with flash := { u.flash with repair := u.flash.repair ++ [line] } } else u

/-- FRAME_GRANT (R330, R243): a frame whose last owner was another becomes pending-zero and its metadata returns to 0. Firmware grants no
frame that holds a row in the repair record that no boot has repaired (R367). -/
def execFrameGrant (lp1 : Fin 16) (frame : Nat) (s : State) : Out :=
  if Config.deviceBytes < 65536 * (frame + 1) || mget s.granted frame == some (lp1.val + 1) || (linesOfFrame frame).any s.unfit then .next s
  else
    let old := linesOfFrame frame
    .next { s with
      granted := mput s.granted frame (lp1.val + 1)
      pendZero := s.pendZero ++ old.filter fun l => !s.pendZero.contains l
      lines := s.lines.filter fun x => !inFrames [frame] x.1 }

/-- FRAME_SCRUB (R330): the scrub engine passes a line. -/
def execFrameScrub (line : Nat) (s : State) : Out := .next (s.settleLine line)

/-- The number by which patrol scrub names line i of a core's half of the accumulator memory, beyond every line of memory (R365). -/
def accLine (c i : Nat) : Nat := 2 ^ 60 + 4096 * c + i

/-- The die, core and structure of a line: slice, device memory or host memory (R364), or accumulator memory (R365). -/
def lineWhere (l : Nat) : Nat × Nat × Nat :=
  let a := 64 * l
  if 2 ^ 60 ≤ l then (dieOfCore ((l - 2 ^ 60) / 4096), (l - 2 ^ 60) / 4096 % 96, 8)
  else if a < 2 ^ 44 then (dieOfCore (a / 2097152), a / 2097152 % 96, 0) else (Config.dieOfFrame (frameOfLine l), 0, 1)

/-- A parity error in a thread's flag or return stack, or in the hasp record of its block: the block faults as for an unhandled trap, with
CAUSE 5 and DETAIL 12 and SLOT 0 (R363). -/
def State.parityFault (s : State) (k : Nat) : State :=
  let stat := trapWord (cAccess 12) false false 0 0
  match s.thread? k with
  | some t => ((s.setThread k { t with trapstat := stat }).unhandled k stat t.pc).settle
  | none => s

/-- The lowest occupied slot of the block that holds a hasp (R363). -/
def State.haspThread (s : State) (h : Nat) : Option Nat :=
  (mkeys s.threads fun k _ => coreOfThread k == h / 32 && ((s.blockOf k).bind s.block?).any fun b => bitAt b.hasps.toNat (h % 32)).min?

/-- A parity error in the record of a hasp: the block that holds it faults, named by its lowest occupied slot (R363). A block of strands alone
has none: its record has role 0 and PCOFS 0 (DESIGN CHOICE, log 115). -/
def State.haspFault (s : State) (h : Nat) : State :=
  match s.haspThread h, s.haspHolder (h / 32) (h % 32) with
  | some k, _ => s.parityFault k
  | none, some n => (s.faultBlock n 0 (trapWord (cAccess 12) false false 0 0).toNat 0).settle
  | none, none => s

/-- AN ERROR THAT NO CODE CORRECTS strikes the storage (R363, R160): a lane register traps its readers, an accumulator element reads as NaN,
a column of cells fails its parity, and a parity error in a hasp record, a flag or a return stack faults the block. It is logged as it
strikes (log 74). A column's failure lasts until the engine is zeroed or its planes restored (DESIGN CHOICE, log 109). -/
def State.strike (s : State) (u : Upset) : State :=
  let at_ (core st a : Nat) : State := s.rasEntry 1 (dieOfCore core) (core % 96) st a 1
  match u with
  | .register k n => (at_ (coreOfThread k) 4 n).modThread k fun t => { t with bad := if n < 160 then n :: t.bad else t.bad }
  | .flag k => (at_ (coreOfThread k) 5 k).parityFault k
  | .stack k => (at_ (coreOfThread k) 6 k).parityFault k
  | .hasp h => (at_ (h / 32) 7 h).haspFault h
  | .acc c e =>
    let s1 := at_ c 8 e
    s1.setEngine c { s1.engine c with acc := mput (s1.engine c).acc e nan32 }
  | .grade l => (s.setLine l { s.line l with dead := true }).rasEntry 1 (lineWhere l).1 (lineWhere l).2.1 (lineWhere l).2.2 (64 * l) 1
  | .cell c p col =>
    let s1 := s.rasEntry 2 (dieOfCore c) (c % 96) 9 (256 * p + col) 1
    s1.setEngine c { s1.engine c with parity := (256 * p + col) :: (s1.engine c).parity.filter (· != 256 * p + col) }

/-- Is a number that of a line which patrol scrub reads: of a slice, of HBM, or of accumulator memory (R365)? -/
def scrubbed (l : Nat) : Bool :=
  64 * l < 2097152 * Config.cores || (2 ^ 44 ≤ 64 * l && 64 * l < devHome Config.deviceBytes) ||
    (2 ^ 60 ≤ l && l < accLine Config.cores 0)

/-- PATROL_SCRUB (R363-R365, R367): a corrected error is logged and changes no data; an uncorrectable one makes the line fail its readers,
or the elements of an accumulator line read as NaN. The zeroing of pending-zero frames goes ahead. -/
def execPatrolScrub (line : Nat) (found : ScrubFind) (s : State) : Out :=
  let (die, core, st) := lineWhere line
  if s.pendZero.contains line || !scrubbed line then .next s
  else
    match found with
    | .clean => .next s
    | .corrected => .next ((s.noteCorrected line).rasEntry 0 die core st (64 * line) 1)
    | .uncorrectable =>
      if 2 ^ 60 ≤ line then
        let c := (line - 2 ^ 60) / 4096
        .next ((List.range 16).foldl (fun s i => s.strike (.acc c (16 * ((line - 2 ^ 60) % 4096) + i))) s)
      else .next ((s.setLine line { s.line line with bad := true }).rasEntry 1 die core st (64 * line) 1)

end Sys2Proof.Machine
end

