-- ==== Sys2Proof/Machine/Debug.lean ====
section
/-! DEFINITION. The debug blocks (R369-R375), stall samples (R378) and the skew registers (R379). -/

namespace Sys2Proof.Machine

/-! ### Targets -/

/-- What a TGT field names on a core (R370). -/
inductive Target where
  | thread (k : Nat)
  | strand (q : Nat)
deriving DecidableEq, Repr

/-- The target of a command, if the core has it (R370). -/
def State.target (s : State) (c tgt : Nat) : Option Target :=
  if tgt < 2048 then
    if (s.thread? (2048 * c + tgt)).any fun t => t.status != .exited then some (.thread (2048 * c + tgt)) else none
  else if tgt == 0x800 || tgt == 0x801 then
    let q := 2 * c + tgt % 2
    if (s.strand q).status == .idle then none else some (.strand q)
  else none

/-- The level-2 partition of a target, its slot and its core. -/
def State.targetPart (s : State) : Target → Nat × Nat
  | .thread k => (s.partOf k, ((s.band? (bandOfThread k)).map (·.slot)).getD 0)
  | .strand q => let b := s.block? (s.strand q).block; ((b.map (·.part)).getD 0, (b.map (·.slot)).getD 0)

/-- Is a target halted (R372)? -/
def State.isHalted (s : State) : Target → Bool
  | .thread k => (s.thread? k).any (·.halted)
  | .strand q => (s.strand q).halted

/-- Write RESULT (R370). -/
def State.dbgResult (s : State) (c r : Nat) : State := s.modCore c fun x => { x with dbg := { x.dbg with result := r } }

/-- A command has been judged for a partition in this clk (R375). -/
def State.judged (s : State) (part : Nat) : State := s.setPart part { s.part part with cmdAt := s.clk + 1 }

/-- The frame of a command to one target (R369, R370): RESULT 3 without such a target, 1 without the right, else that of `body`.
DESIGN CHOICE, log 61. -/
def debugFrame (s : State) (c : Nat) (tgt : BitVec 12) (body : Target → State) : State :=
  if (s.core c).dbg.busy then s
  else
    match s.target c tgt.toNat with
    | none => s.dbgResult c 3
    | some t => if (s.part (s.targetPart t).1).right then (body t).judged (s.targetPart t).1 else s.dbgResult c 1

/-! ### Halt, resume, step -/

/-- A halt command reaches a target at its next issue point: at once where it can issue, or
once its block ends, or once the instruction that holds it or at which it has arrived is done (R372). -/
def State.askHalt (s : State) : Target → State
  | .thread k =>
    match s.thread? k with
    | none => s
    | some t =>
      let waits := t.parked.isSome || match t.status with
        | .hwait .. | .arrived | .held => true
        | _ => false
      if t.halted then s else if waits then s.setThread k { t with haltReq := true } else s.haltThread k
  | .strand q =>
    let x := s.strand q
    if x.halted then s else if x.status == .run && x.parked.isNone then s.haltStrand q else s.setStrand q { x with haltReq := true }

/-- Resume makes a halted target ready now, wherever it stood: at a clause's header it waits anew, at a rendezvous it arrives anew (R371, R372,
R196). A halt that has not reached it is withdrawn. -/
def State.unhalt (s : State) : Target → State
  | .thread k =>
    match s.thread? k with
    | none => s
    | some t =>
      let t := { t with haltReq := false, stepping := false }
      if t.halted then
        s.setThread k { t with halted := false, bpSkip := true, status := .ready, readyAt := s.clk, clauses := 0 }
      else s.setThread k t
  | .strand q =>
    let x := s.strand q
    s.setStrand q { x with halted := false, haltReq := false, stepping := false, bpSkip := x.halted || x.bpSkip }

/-- A step lets a halted target go until it has issued one instruction (R373); RESULT reads 5 until then. -/
def State.stepTarget (s : State) (c : Nat) (t : Target) : State :=
  let s := (s.unhalt t).dbgResult c 5
  match t with
  | .thread k => s.modThread k fun t => { t with haltReq := true, stepping := true }
  | .strand q => s.setStrand q { s.strand q with stepping := true }

/-- CMD 1 (R370, R372). -/
def State.debugHalt (s : State) (c : Nat) (tgt : BitVec 12) : State := debugFrame s c tgt fun t => (s.askHalt t).dbgResult c 0

/-- CMD 2 (R370, R372). -/
def State.debugResume (s : State) (c : Nat) (tgt : BitVec 12) : State :=
  debugFrame s c tgt fun t => if s.isHalted t then (s.unhalt t).dbgResult c 0 else (s.unhalt t).dbgResult c 2

/-- CMD 3 (R370, R373). -/
def State.debugStep (s : State) (c : Nat) (tgt : BitVec 12) : State :=
  debugFrame s c tgt fun t => if s.isHalted t then s.stepTarget c t else s.dbgResult c 2

/-- DEBUG_HALT (R370). -/
def execDebugHalt (core : Nat) (tgt : BitVec 12) (s : State) : Out := .next (s.debugHalt core tgt)

/-- DEBUG_RESUME (R370). -/
def execDebugResume (core : Nat) (tgt : BitVec 12) (s : State) : Out := .next (s.debugResume core tgt)

/-- DEBUG_STEP (R373). -/
def execDebugStep (core : Nat) (tgt : BitVec 12) (s : State) : Out := .next (s.debugStep core tgt)

/-- The targets of a partition on a core (R370). -/
def State.partTargets (s : State) (c part : Nat) : List Target :=
  (mkeys s.threads fun k t => coreOfThread k == c && t.status != .exited && s.partOf k == part).map .thread ++
    ((mkeys s.strands fun q x => q / 2 == c && x.status != .idle).filter fun q => (s.targetPart (.strand q)).1 == part).map .strand

/-- CMD 6 (R370). -/
def State.debugHaltAll (s : State) (c part : Nat) : State :=
  if (s.core c).dbg.busy then s
  else if (s.part part).right then (((s.partTargets c part).foldl State.askHalt s).dbgResult c 0).judged part
  else s.dbgResult c 1

/-- CMD 7 (R370). -/
def State.debugResumeAll (s : State) (c part : Nat) : State :=
  if (s.core c).dbg.busy then s
  else if (s.part part).right then (((s.partTargets c part).foldl State.unhalt s).dbgResult c 0).judged part
  else s.dbgResult c 1

/-- DEBUG_HALT_ALL (R370). -/
def execDebugHaltAll (core : Nat) (part : Fin 64) (s : State) : Out := .next (s.debugHaltAll core part.val)

/-- DEBUG_RESUME_ALL (R370). -/
def execDebugResumeAll (core : Nat) (part : Fin 64) (s : State) : Out := .next (s.debugResumeAll core part.val)

/-! ### Registers (R374) -/

/-- A register of a halted thread, by SPACE and INDEX; nothing where it is refused (R370, R374). -/
def State.threadReg (s : State) (k : Nat) (t : Thread) (space index : Nat) : Option Word :=
  match space with
  | 0 => if index < 160 then some (t.getV index) else none
  | 1 => if index < 32 then some (s.bandS (bandOfThread k) index) else none
  | 2 => if h : index < 12 then some (t.f[index].setWidth 32) else none
  | 3 => some (t.pc.setWidth 32)
  | 4 => some ((t.pc >>> 32).setWidth 32)
  | 5 => some t.fstat
  | 6 => some t.trapstat
  | _ => none

/-- A register of a halted strand. -/
def Strand.reg (x : Strand) (space index : Nat) : Option Word :=
  match space with
  | 1 => if h : index < 32 then some x.s[index] else none
  | 3 => some (x.pc.setWidth 32)
  | 4 => some ((x.pc >>> 32).setWidth 32)
  | _ => none

/-- CMD 4: DATA takes the register (R374). -/
def State.debugRead (s : State) (c : Nat) (tgt : BitVec 12) : State :=
  if (s.core c).dbg.busy then s
  else
    let d := (s.core c).dbg
    let noRight := match s.target c tgt.toNat with
      | some t => !(s.part (s.targetPart t).1).right
      | none => false
    -- without the right a register read returns 0 (R369)
    if noRight then s.modCore c fun x => { x with dbg := { x.dbg with data := 0, result := 1 } }
    else
      debugFrame s c tgt fun t =>
        if !s.isHalted t then s.dbgResult c 2
        else
          let v := match t with
            | .thread k => (s.thread? k).bind fun t => s.threadReg k t d.space d.index
            | .strand q => (s.strand q).reg d.space d.index
          match v with
          | some w => s.modCore c fun x => { x with dbg := { x.dbg with data := w, result := 0 } }
          | none => s.dbgResult c 4

/-- May a pc be written (R374): a clause address or an instruction slot in the launch's code? -/
def State.pcOk (s : State) (inst : Nat) (pc : Addr) : Bool :=
  let h := s.headerAt inst pc
  pc.toNat % 4 == 0 && s.inCode inst (clauseOf pc) && (slotOf pc == 0 || (slotOf pc ≤ h.nslot && !s.isSecond inst pc))

/-- A half of a pc replaced: SPACE 3 the low 32 bits, 4 the high 24. -/
def halfPc (space : Nat) (pc : Addr) (w : Word) : Addr :=
  if space == 3 then BitVec.ofNat 56 (pc.toNat / 2 ^ 32 * 2 ^ 32 + w.toNat) else BitVec.ofNat 56 (w.toNat % 2 ^ 24 * 2 ^ 32 + pc.toNat % 2 ^ 32)

/-- A register of a halted thread written; nothing where the write is refused (R374). -/
def State.setThreadReg (s : State) (k : Nat) (t : Thread) (space index : Nat) (w : Word) : Option State :=
  let b := bandOfThread k
  match space with
  | 0 => if index < s.budgetOf k then some (s.setThread k (t.setV index w)) else none
  | 1 =>
    let open_ := ((s.threadsP b).any fun j => (s.thread? j).any (·.halted)) || s.bandS b 31 == 0
    if index < 32 && open_ then some (s.setS b index w) else none
  | 3 | 4 =>
    let pc := halfPc space t.pc w
    if s.pcOk (s.instOf k) pc && (space == 3 || w.toNat < 2 ^ 24) then
      some (s.setThread k { t with pc := pc, status := .ready, brkSkip := false })
    else none
  | 5 => some (s.setThread k { t with fstat := w &&& fstatMask })
  | _ => none

/-- A register of a halted strand written (R374). -/
def State.setStrandReg (s : State) (q space index : Nat) (w : Word) : Option State :=
  let x := s.strand q
  match space with
  | 1 => if index < 32 then some (s.setStrand q (x.setS index w)) else none
  | 3 | 4 =>
    let pc := halfPc space x.pc w
    if s.pcOk (s.strandInst q) pc && (space == 3 || w.toNat < 2 ^ 24) then
      some (s.setStrand q { x with pc := pc, brkSkip := false })
    else none
  | _ => none

/-- The first accepted edit in a context sets DBGEDIT and writes an event record of type 8 (R374). -/
def State.noteEdit (s : State) (c part slot : Nat) : State :=
  let k := 512 * slot + c
  if (s.ctx k).cstat then s
  else (s.setCtx k { s.ctx k with cstat := true }).event (s.part part).parent ⟨8, 0, 0, 0, 0, 0, 1, 0, 0⟩

/-- CMD 5 (R374). -/
def State.debugWrite (s : State) (c : Nat) (tgt : BitVec 12) : State :=
  debugFrame s c tgt fun t =>
    let d := (s.core c).dbg
    if !s.isHalted t then s.dbgResult c 2
    else
      let r := match t with
        | .thread k => (s.thread? k).bind fun t => s.setThreadReg k t d.space d.index d.data
        | .strand q => s.setStrandReg q d.space d.index d.data
      match r with
      | some s1 => (s1.noteEdit c (s.targetPart t).1 (s.targetPart t).2).dbgResult c 0
      | none => s.dbgResult c 4

/-- DEBUG_READ_REGISTER (R374). -/
def execDebugReadRegister (core : Nat) (tgt : BitVec 12) (s : State) : Out := .next (s.debugRead core tgt)

/-- DEBUG_WRITE_REGISTER (R374). -/
def execDebugWriteRegister (core : Nat) (tgt : BitVec 12) (s : State) : Out := .next (s.debugWrite core tgt)

/-- Word 35 of a debug block (R370). -/
def DebugBlk.status (d : DebugBlk) : Word :=
  BitVec.ofNat 32 (boolNat d.busy * 2 ^ 31 + d.result % 8 * 2 ^ 28 + boolNat d.hit * 2 ^ 27 + d.hslot % 4096 * 2 ^ 12)

/-- DEBUG_HIT_READ (R370): word 35 is read, and HIT clears. -/
def execDebugHitRead (core : Nat) (s : State) : Out :=
  let w := (s.core core).dbg.status
  .next { s.modCore core fun x => { x with dbg := { x.dbg with hit := false } } with reply := s.reply ++ [.data (leBytes 4 w.toNat)] }

/-! ### The right (R369, R375) -/

/-- DEBUG_RIGHT_GRANT (R369). -/
def execDebugRightGrant (part : Fin 64) (s : State) : Out := .next (s.setPart part.val { s.part part.val with right := true })

/-- A core without the breakpoints of a partition (R375). -/
def Core.dropBreaks (x : Core) (part : Nat) : Core :=
  { x with dbg := { x.dbg with bps := x.dbg.bps.map fun b => if b.part == part then ⟨0, false, 0⟩ else b } }

/-- Is a step pending on a core for a target of a partition? -/
def State.stepsOf (s : State) (c part : Nat) : Bool :=
  (s.partTargets c part).any fun t =>
    match t with
    | .thread k => (s.thread? k).any (·.stepping)
    | .strand q => (s.strand q).stepping

/-- A saved context without what a debugger asked of it (R372, R375). -/
def Saved.unhalt (x : Saved) : Saved := { x with
  threads := mmap x.threads fun _ t => t.restore false
  strands := mmap x.strands fun _ t => t.restore false }

/-- A right is revoked (R375): the partition's breakpoints are cleared, its halted threads and strands resume, pending steps are abandoned
(their RESULT is then 0: DESIGN CHOICE, log 61), and one event record is written. -/
def State.revoke (s : State) (p : Nat) : State :=
  let s := s.setPart p { s.part p with right := false, revoking := false }
  let s := { s with cores := mmap s.cores fun _ x => x.dropBreaks p }
  let s := (List.range Config.cores).foldl (fun s c => ((s.partTargets c p).foldl State.unhalt s).stepDone c (s.stepsOf c p)) s
  let edited := (s.ctxs.any fun x => x.2.cstat && (s.bind (x.1 / 512)).part == p) || s.saved.any fun x => x.part == p && x.cstat
  { s with saved := s.saved.map fun (x : Saved) => if x.part == p then x.unhalt else x }.event (s.part p).parent ⟨8, 1, 0, 0, 0, 0, boolNat edited, 0, 0⟩

/-- DEBUG_RIGHT_REVOKE (R375): where a command has been judged in this clk, the revocation falls in the next, so that no command of its own
clk is judged before it. -/
def execDebugRightRevoke (part : Fin 64) (s : State) : Out :=
  let p := part.val
  if !(s.part p).right then .next s
  else if (s.part p).cmdAt == s.clk + 1 then .next (s.setPart p { s.part p with revoking := true })
  else .next (s.revoke p)

/-- The revocations that fall in the clk that begins (R375). -/
def State.revokeDue (s : State) : State := (mkeys s.parts fun _ p => p.revoking).foldl State.revoke s

/-! ### Stall samples (R378) -/

/-- May a thread of a core be sampled now: its partition enables stall sampling, and its period has come (R377, R378)? -/
def State.samplable (s : State) (k : Nat) : Bool :=
  let b := (s.part (s.partOf k)).samp
  b.stallen && 4 ≤ b.stallp && b.stallp ≤ 24 && s.clk % 2 ^ b.stallp == 0

/-- The flags that a thread's clause header waits for and that are not zero. -/
def State.waitedFlags (s : State) (k : Nat) (t : Thread) : List Nat :=
  let h := s.headerAt (s.instOf k) t.pc
  (List.range 12).filter fun i => bitAt h.wait i && (if hi : i < 12 then t.f[i] != 0 else false)

/-- The flags that a thread's clause header names as SETA or SETB and whose count is too high for the clause to start (R18). -/
def State.fullFlags (s : State) (k : Nat) (t : Thread) : List Nat :=
  let h := s.headerAt (s.instOf k) t.pc
  (List.range 12).filter fun i => (h.seta == i || h.setb == i) && (if hi : i < 12 then 60 < (t.f[i]).toNat else false)

/-- Does a SHRINK stand at a thread's pc? -/
def State.atShrink (s : State) (k : Nat) (t : Thread) : Bool := bits (s.codeAt (s.instOf k) t.pc).toNat 31 24 == 0xB1

/-- The conditions of R378 that hold of a thread, by their REASON codes 1 to 8. -/
def State.stallReasons (s : State) (k : Nat) (t : Thread) : List Nat :=
  let starts := t.status == .header || (slotOf t.pc == 0 && t.status == .ready)
  let fs := if starts then s.waitedFlags k t else []
  let full := if starts then (s.fullFlags k t).filter fun i => !fs.contains i else []
  let mem (i : Nat) : Bool := many s.ops fun _ o => o.thread == k && o.uid == t.uid && o.flag.any (·.val == i) && o.kind.isMemory
  let met := t.status == .arrived && s.meeting k != .waiting
  -- a thread that executes a rendezvous alone is held at it (R116)
  let holds := met || t.status == .held
  [(1, t.parked.isSome),
    (2, match t.status with
      | .hwait .. => true
      | _ => false),
    (3, fs.any mem), (4, !full.isEmpty || fs.any fun i => !mem i), (5, t.status == .arrived && !met), (6, holds && s.atShrink k t),
    (7, s.free k t && t.status == .ready && fs.isEmpty && full.isEmpty),
    (8, t.halted || t.heldBy.isSome || s.recallHolds k t || (s.core (coreOfThread k)).saving || (holds && !s.atShrink k t))].filterMap fun x =>
      if x.2 then some x.1 else none

/-- The pc at which a thread has issued in this clk, and its nonzero flags there, if it has (R378). -/
def State.issuedHere (s : State) (k : Nat) : Option (Addr × Nat) :=
  let x := s.core (coreOfThread k)
  if x.grpAt == s.clk + 1 then (x.issuedAs.find? fun y => y.1 == k).map (·.2) else none

/-- The pc and the nonzero flags of a thread as a stall sample records them: as it issued, or as it stands (R378). -/
def State.stallPlace (s : State) (k : Nat) (t : Thread) : Addr × Nat := (s.issuedHere k).getD (t.pc, t.flagNz)

/-- The words of a stall record after its first two (R378). -/
def State.stallWords (s : State) (k : Nat) (t : Thread) (drops : Nat) : List Nat :=
  let c := coreOfThread k
  let rs := s.stallReasons k t
  let issued := (s.issuedHere k).isSome
  let reason := if issued then 0 else (rs.min?).getD 8
  let mask := if issued then 0 else rs.foldl (fun n r => n + 2 ^ (r - 1)) 0
  let (pc, nz) := s.stallPlace k t
  let h := s.headerAt (s.instOf k) pc
  [reason * 2 ^ 28 + mask * 2 ^ 8, h.wait * 2 ^ 20 + nz, s.dieNs (dieOfCore c) % 2 ^ 32, s.dieNs (dieOfCore c) / 2 ^ 32 % 2 ^ 32, drops, 0]

/-- A core's sample of thread k is recorded; the drops since the last stall record are then counted anew (R377, R378). -/
def State.stallRecord (s : State) (c k : Nat) (t : Thread) : State :=
  let p := s.partOf k
  let tail := (s.part p).samp.stail
  let ofs := ((s.stallPlace k t).1 - s.bandBase (bandOfThread k)).toNat
  let s1 := s.sampleRecord p fun s b => sampleHead 2 c (slotOfThread k) false ofs ++ s.stallWords k t b.dropSince
  if (s1.part p).samp.stail == tail then s1
  else s1.setPart p { s1.part p with samp := { (s1.part p).samp with dropSince := 0 } }

/-- STALL_SAMPLE (R378): the slot comes from an LFSR whose polynomial the manual does not give: a free number (log 4); the next occupied
slot where it is empty. A core takes one sample in a clk. -/
def execStallSample (core : Nat) (s : State) : Out :=
  let ks := mkeys s.threads fun k t => coreOfThread k == core && t.status != .exited && s.samplable k
  if ks.isEmpty || (s.core core).sampAt == s.clk + 1 then .next s
  else
    let (n, s) := s.freeNumber
    let slot := 2048 * core + n % 2048
    match (ks.find? (slot ≤ ·)).orElse fun _ => ks.head? with
    | none => .next s
    | some k =>
      match s.thread? k with
      | none => .next s
      | some t => .next ((s.modCore core fun x => { x with sampAt := s.clk + 1 }).stallRecord core k t)

/-! ### Skew (R379) -/

/-- The dies of a skew entry (R379): the pairs in their order, die 4 the I/O die; nothing for a link's. -/
def skewPair (e : Nat) : Option (Nat × Nat) :=
  [(0, 1), (0, 2), (0, 3), (0, 4), (1, 2), (1, 3), (1, 4), (2, 3), (2, 4), (3, 4)][e]?

/-- What a measurement of an entry finds (R379): counter(B) - counter(A) of two dies, in 1/16 ns, which is what they stood apart at reset, since
both count one time; of a link the offset to its switch plane's counter, which is not this package's. -/
def skewOf (e : Nat) (ofs : Word) : Word :=
  match skewPair e with
  | some (a, b) => BitVec.ofNat 32 (Config.dieOffset b) - BitVec.ofNat 32 (Config.dieOffset a)
  | none => ofs

/-- SKEW_MEASURE (R379): an entry is measured; `age` keeps the time of the measurement in ms. A dead link's entry stays as it is.
DEDUCED, log 73. -/
def execSkewMeasure (entry : Fin 28) (ofs : Word) (unc : BitVec 15) (s : State) : Out :=
  if 10 ≤ entry.val && !bitAt s.planes.toNat (entry.val - 10) then .next s
  else .next { s with skew := mput s.skew entry.val ⟨skewOf entry.val ofs, true, unc.toNat, s.upNs / 1000000⟩ }

/-! ### Time (R171, R316, R318, R359) -/

/-- A clk ends: nodes complete (R287), the clk's faults are written (R247), and complete rendezvous take their places (R117). -/
def State.endClk (s : State) : State := s.sweep.flushFaults.keepPipes

/-- The active complex, while it runs, has written its heartbeat each ms (R359). -/
def State.beat (s : State) : State :=
  if s.fw.alive then { s with fw := { s.fw with heartbeat := s.upNs / 1000000 * 1000000 } } else s

/-- Time passes (R171, R316, R318): the clk ends; routine counts, the slices of cores that FIXED blocks hold, the start of starving work,
the heartbeat (R359). DESIGN CHOICE, log 46. -/
def State.passTime (s : State) (elapsed : Nat) : State :=
  let s := if elapsed == 0 then s else s.endClk
  let s := s.noteHunger
  let s := s.countRoutines elapsed
  let held := (s.blocks.filterMap fun x => if x.2.lease == 0 then some x.2.core else none).eraseDups
  let s := held.foldl (fun s c => s.modCore c fun x => { x with sliceAt := x.sliceAt + elapsed }) s
  let s := { s with clk := s.clk + elapsed }.beat
  if elapsed == 0 then s else s.revokeDue

end Sys2Proof.Machine
end

