-- ==== Sys2Proof/Machine/Firmware.lean ====
section
/-! DEFINITION. Firmware complexes and live update (R359), boot and recovery (R360-R362), throttling (R368), self-test (R366) and SPDM
(R360). -/

namespace Sys2Proof.Machine

/-! ### Boot (R360, R361) -/

/-- Is an image authentic for a least version (R360)? -/
def authenticFor (image : List Byte) (minver : Nat) : Bool := Config.authentic image && decide (minver ≤ Config.imageVersion image)

/-- The settings at boot (R361): MINVER, the launch-frame port, the enabled links, and the order in which each die's physical pairs are
taken; the configuration record's where it is authentic, else the defaults. -/
def bootSettings (config : List Byte) : Nat × Nat × (Nat × Nat × Nat) × (Nat → List Nat) :=
  if Config.configAuthentic config then Config.configFields config else (0, 19270, (18, 6, 2), fun _ => List.range 50)

/-- The image that boots: slot A's, else slot B's (R360). -/
def bootImage (f : Flash) (minver : Nat) : Option (List Byte) :=
  if authenticFor f.slotA minver then some f.slotA else if authenticFor f.slotB minver then some f.slotB else none

/-- The physical pairs of a die that back its exposed pairs in their order: those that pass their self-test at boot (R366). -/
def backing (order bad : List Nat) (die : Nat) : List Nat := (order.filter fun p => !bad.contains (50 * die + p)).take 48

/-- The exposed pairs of the package as (exposed, physical), the physical one absent where none is left (R366). -/
def exposed (order : Nat → List Nat) (bad : List Nat) : List (Nat × Option Nat) :=
  (List.range 4).flatMap fun d =>
    let ps := backing (order d) bad d
    (List.range 48).map fun i => (48 * d + i, ps[i]?)

/-- A core set without the cores of a pair. -/
def dropPair (cores : BitVec 384) (c : Nat) : BitVec 384 := cores &&& ~~~(BitVec.ofNat 384 (3 * 2 ^ c))

/-- An exposed pair becomes unavailable (R366): a RAS entry names it, and its cores leave every core set and descriptor. -/
def State.losePair (s : State) (pair : Nat) : State :=
  let c := 2 * pair
  let s := (s.modCore c fun x => { x with unavail := true }).modCore (c + 1) fun x => { x with unavail := true }
  let s := { s with
    binds := mmap s.binds fun _ b => { b with cores := dropPair b.cores c }
    parts := mmap s.parts fun _ p => { p with cset := dropPair p.cset c, template := { p.template with cores := dropPair p.template.cores c } }
    lp1s := mmap s.lp1s fun _ b => { b with bounds := { b.bounds with cset := dropPair b.bounds.cset c } } }
  s.rasEntry 1 (dieOfCore c) (c % 96) 2 0 1

/-- The spare map at boot (R366): each exposed pair takes its physical pair; one that no pair can back is unavailable. -/
def State.mapPairs (s : State) (order : Nat → List Nat) : State :=
  (exposed order s.badPairs).foldl (fun s x =>
    match x.2 with
    | some p => if p == x.1 % 48 then s else { s with spare := mput s.spare x.1 p }
    | none => s.losePair x.1) s

/-- THE RESET of a package (R360-R362, R366, R367): everything is as after reset but the flash, the host's memory, the pairs that have
failed or fail their self-test now, the domain around it and the schedule; the settings of the configuration record are in force, the rows of the repair record are
repaired, and what was booted is measured. With no authentic image only the recovery window opens. The codes of RSTAT and the bytes of this
boot's error log are free (log 4); the logs of the last three boots are kept. -/
def State.boot (s : State) : State :=
  let (minver, port, counts, order) := bootSettings s.flash.config
  let (errs, s) := s.freeBytes 960
  let base : State := { State.reset with
    script := s.script
    freeCtr := s.freeCtr
    pkg := s.pkg
    present := s.present
    mem := s.mem.filter fun c => decide (2 ^ 45 ≤ c.1)
    flash := { s.flash with errors := (errs :: s.flash.errors).take 4 }
    badPairs := (s.badPairs ++ s.worn).eraseDups
    minver := minver
    udpPort := port
    linkCounts := counts
    planes := BitVec.ofNat 18 (2 ^ counts.1 - 1) }
  match bootImage s.flash minver with
  | some image =>
    let ms := [Config.digest Config.bootRom, Config.digest image, Config.digest s.flash.config]
    { base with fw := { base.fw with images := base.fw.images.set 0 image, measured := ms, key := Config.attestKey ms } }.mapPairs order
  | none =>
    let (stage, base) := base.freeNumber
    let (cause, base) := base.freeNumber
    let ms := [Config.digest Config.bootRom, Config.digest s.flash.config]
    { base with
      planes := 0
      recovery := ⟨true, stage % 256, cause % 256, false, 0, [], []⟩
      fw := { base.fw with alive := false, measured := ms, key := Config.attestKey ms } }

/-- RESET (R360). -/
def execReset (s : State) : Out := .next s.boot

/-! ### The recovery window (R362) -/

/-- CMD 1: the valid staging bytes are appended. -/
def State.recoverAppend (s : State) : State :=
  let r := s.recovery
  if r.active && !r.busy && 1 ≤ r.len && r.len ≤ Config.stagingBytes then
    { s with recovery := { r with image := r.image ++ (List.range r.len).map fun i => r.staging.getD i 0 } }
  else s

/-- CMD 2 and 3: the appended image is authenticated before flash is written; where that fails flash is unchanged and RSTAT reports a
cause (log 4). DESIGN CHOICE, log 72. -/
def State.recoverCommit (s : State) (b : Bool) : State :=
  let r := s.recovery
  if !r.active || r.busy then s
  else if authenticFor r.image s.minver then
    { s with
      flash := if b then { s.flash with slotB := r.image } else { s.flash with slotA := r.image }
      recovery := { r with image := [] } }
  else
    let (n, s) := s.freeNumber
    { s with recovery := { r with cause := n % 256, image := [] } }

/-- CMD 4: the device is reset. -/
def State.recoverReset (s : State) : State := if s.recovery.active && !s.recovery.busy then s.boot else s

/-- RECOVERY_APPEND (R362). -/
def execRecoveryAppend (s : State) : Out := .next s.recoverAppend

/-- RECOVERY_COMMIT_A (R362). -/
def execRecoveryCommitA (s : State) : Out := .next (s.recoverCommit false)

/-- RECOVERY_COMMIT_B (R362). -/
def execRecoveryCommitB (s : State) : Out := .next (s.recoverCommit true)

/-- RECOVERY_RESET (R362). -/
def execRecoveryReset (s : State) : Out := .next s.recoverReset

/-! ### The firmware complexes (R359) -/

/-- The other complex. -/
def otherComplex (n : Nat) : Nat := 1 - n % 2

/-- The pause of the front end ends (R359): what arrived in it is handled in its order. -/
def State.endPause (s : State) : State :=
  { s with pause := false, input := [], script := s.input.map (fun i => ⟨0, .outside i⟩) ++ s.script }

/-- STANDBY_TAKEOVER (R359): no heartbeat for 10 ms; the standby takes over from the state table last committed. The slot table and the saved
contexts are unchanged. A live update under way ends, and with it its pause (DESIGN CHOICE, log 72). -/
def execStandbyTakeover (s : State) : Out :=
  if s.fw.heartbeat + 10000000 ≤ s.upNs then
    .next { s with fw := { s.fw with
      active := otherComplex s.fw.active
      alive := true
      heartbeat := s.upNs
      imported := s.fw.table
      updating := none
      ready := false } }.endPause
  else .next s

/-- LIVE_UPDATE (R359, steps 1 to 3): the standby complex authenticates the image, boots it, and imports the state table; an image that
fails, or that cannot read the table's version, ends the update with nothing changed. -/
def execLiveUpdate (image : List Byte) (readable : Bool) (s : State) : Out :=
  if s.fw.ready then .next s
  else if authenticFor image s.minver && readable then
    .next { s with fw := { s.fw with updating := some image, ready := true, failed := false, imported := s.fw.table } }
  else .next { s with fw := { s.fw with failed := true } }

/-- UPDATE_TAKEOVER (R359, steps 4 and 5): at a boundary between packets the front end pauses; then the new image is active, the old complex
is standby with the old image, and what arrived in the pause is handled in order. -/
def execUpdateTakeover (s : State) : Out :=
  match s.fw.updating with
  | none => .next s
  | some image =>
    if !s.fw.ready then .next s
    else if !s.pause then .next { s with pause := true }
    else
      let n := otherComplex s.fw.active
      .next { s with fw := { s.fw with
        active := n
        images := if h : n < 2 then s.fw.images.set n image else s.fw.images
        alive := true
        heartbeat := s.upNs
        updating := none
        ready := false } }.endPause

/-! ### Heat, self-test, attestation -/

/-- THROTTLE (R368): logged; results do not change. -/
def execThrottle (core : Nat) (s : State) : Out :=
  .next ((s.modCore core fun x => { x with throttled := true }).rasEntry 4 (dieOfCore core) (core % 96) 0 0 1)

/-- THROTTLE_END (R368). -/
def execThrottleEnd (core : Nat) (s : State) : Out := .next (s.modCore core fun x => { x with throttled := false })

/-- THERMAL_SHUTDOWN (R368): a RAS entry is written, every context of the package is lost, and the package needs a reset. -/
def execThermalShutdown (core : Nat) (s : State) : Out :=
  let s := s.rasEntry 4 (dieOfCore core) (core % 96) 0 0 1
  .next { s with
    thermal := true
    issue := []
    threads := []
    bands := []
    blocks := []
    hasps := []
    strands := []
    engines := []
    watches := []
    cmds := []
    ops := []
    saved := []
    ctxs := []
    frames := [] }

/-- How many physical pairs of a die have failed (R366). -/
def State.failedPairs (s : State) (die : Nat) : Nat := (s.badPairs.filter fun p => p / 50 == die).length

/-- IN_SERVICE_SELF_TEST_FAILURE (R366): the physical pair behind an exposed one fails. Where the die has a spare left for it, the next boot
maps the exposed pair to that, and the pair runs on until then; past two failures nothing can back it (DESIGN CHOICE, log 112). -/
def execInServiceSelfTestFailure (die : Fin 4) (pair : Fin 48) (s : State) : Out :=
  let e := 48 * die.val + pair.val
  let p := 50 * die.val + (mget s.spare e).getD pair.val
  let s := { s with badPairs := p :: s.badPairs.filter (· != p) }
  .next (if 2 < s.failedPairs die.val then s.losePair e else s)

/-- SPDM_REQUEST (R360, R366): the identity certificate, and the measurements of the boot ROM, the image and the configuration record signed
with the attestation key, with the unavailable cores in the part's identity. -/
def execSpdmRequest (s : State) : Out :=
  .next { s with reply := s.reply ++
    [.data (Config.certificate ++ Config.spdmSigned s.fw.key s.fw.measured (mkeys s.cores fun _ x => x.unavail))] }

end Sys2Proof.Machine
end

