-- ==== Sys2Proof/Machine/Fabric.lean ====
section
/-! DEFINITION. What arrives at the package from outside: the messages of the fabric (R306, R307, R309, R357), links (R358), and RoCE
(R355, R356). How the parts of a graded message are laid out, and how grades are made known, is DESIGN CHOICE (log 19, log 20). -/

namespace Sys2Proof.Machine

/-! ### Places -/

/-- The home number of a message's address, for its partition: the slice of a core that the partition last held (R84), or device memory;
nothing where the access is refused: past the 384 GB of a package too (R1). DESIGN CHOICE, log 76. -/
def State.msgHome (s : State) (m : Msg) : Option Nat :=
  let va := m.addr.toNat
  if isSlice va then
    let core := bits va 27 21
    let c := 96 * bits va 29 28 + core
    if core < 96 && (s.core c).lastPart == some m.part.val then some (c * 2097152 + bits va 20 0) else none
  else if Config.deviceBytes ≤ va % 2 ^ 44 then none
  else some (devHome (va % 2 ^ 44))

/-- The task of another package that sent a message (R306). -/
def farOf (m : Msg) : Nat × Nat × Nat := (m.spkg.toNat, m.ginst, m.node * 2 ^ 32 + m.block.toNat)

/-- A response to a message (R357): its tag echoed. -/
def State.respond (s : State) (m : Msg) (data : List Byte) (g : Grade) (fate : Fate) : State :=
  s.send 4 m.spkg.toNat { s.blankMsg with
    tag := m.tag, addr := m.addr, part := m.part, ginst := m.ginst, n := data.length, data := data, grade := g, fate := fate }

/-- Bytes under a byte mask laid over old ones, the lowest first. -/
def mergeMask (mask : DWord) (old new : List Byte) : List Byte :=
  (List.range old.length).map fun i => if mask.getLsbD i then new.getD i 0 else old.getD i 0

/-- A masked write of home bytes. -/
def State.writeMasked (s : State) (h : Nat) (mask : DWord) (data : List Byte) : State :=
  ((List.range data.length).zip data).foldl (fun s x => if mask.getLsbD x.1 then s.writeHome (h + x.1) [x.2] else s) s

/-- A reader on another package becomes a consumer of a line that is GUESS or PROV (R292, R306). Past the list's entries OVF is set, and
the reader is still known (log 19). -/
def State.logFar (s : State) (l : Nat) (r : Nat × Nat × Nat) : State :=
  let m := s.line l
  if m.grade == .none || m.grade == .final || m.remote.contains r then s
  else s.setLine l { m with remote := m.remote ++ [r], cons := true, ovf := m.ovf || decide (Config.consumers ≤ m.users.length + m.remote.length) }

/-- Is a line under n bytes from a home one that no code corrects (R363)? DEDUCED, log 70. -/
def State.farBad (s : State) (h n : Nat) : Bool := (linesOf h (max n 1)).any fun l => (s.line l).bad || (s.line l).dead

/-! ### Reads, writes and atomics (R357) -/

/-- A read at its home: the data and the line's grade return together (R306, R312); of no bytes, the line's metadata (R97). -/
def State.farRead (s : State) (m : Msg) : State :=
  match s.msgHome m with
  | none => s.respond m [] .none .refused
  | some h =>
    if m.n == 0 then s.respond m [BitVec.ofNat 8 (s.line (h / 64)).byte] (s.line (h / 64)).grade .performed
    else if s.farBad h m.n then s.respond m [] .none .refused
    else (s.logFar (h / 64) (farOf m)).respond m (s.bytes h m.n) (s.line (h / 64)).grade .performed

/-- TUITUR_READ (R357). -/
def execTuiturRead (m : Msg) (s : State) : Out := .next (s.farRead m)

/-- TUITUR_WRITE (R357): the masked bytes are written; a refused write writes nothing. -/
def execTuiturWrite (m : Msg) (s : State) : Out :=
  match s.msgHome m with
  | none => .next s
  | some h => .next (if s.line (h / 64) |>.dead then s else (s.writeMasked h m.mask m.data).settle)

/-- What an atomic message writes over old bytes, if it writes: a compare and swap, or an operation; FADD of more than one element adds
element by element (R161). -/
def Msg.atomNew (m : Msg) (old : List Byte) : Option (List Byte) :=
  match m.cas, m.op with
  | some c, _ => if leNat old == c.toNat then some m.data else none
  | none, some op =>
    if op == .fadd then some (addWords old m.data)
    else some (leBytes m.n (Machine.atomNew op (m.n == 8) (leNat old) (leNat m.data)))
  | none, none => none

/-- The number by which a graded write's outcome returns: as AMEND's (R276). -/
def WOut.code : WOut → Nat
  | .wrote => 0
  | .amended => 1
  | .confirmed => 2
  | .same => 3
  | .final => 4
  | .depth => 5
  | _ => 3

/-- The response to a graded write or atomic: its outcome, and behind it the old value of an atomic of one element; an engine's add of more
asks for none (R161, R357; log 19). -/
def State.respondOut (s : State) (m : Msg) (l code : Nat) (old : List Byte) : State :=
  s.respond m (BitVec.ofNat 8 code :: if m.n ≤ 8 then old else []) (s.line l).grade .performed

/-- A graded write of another package's task is applied by the line's tumbler (R306), with an atomic's old value for its response. While it
waits for remote consumers nothing is sent; the message `again` is kept with the amendment, and is given again when they have acknowledged
(R307). -/
def State.farGraded (s : State) (m : Msg) (again : Instr) (h : Nat) (data old : List Byte) : State :=
  match s.gradedWrite h data m.grade none m.amdep (some (farOf m)) (some again) with
  | (.waitLog, s) | (.waitAck, s) => s
  | (.lost, s) => s.respond m [] (s.line (h / 64)).grade .lost
  | (w, s) => s.respondOut m (h / 64) w.code old

/-- An atomic or RED at its home: the old value returns; on a graded line it is a graded read and a graded write (R93). -/
def State.farAtomic (s : State) (m : Msg) : State :=
  match s.msgHome m with
  | none => s.respond m [] .none .refused
  | some h =>
    if s.farBad h m.n then s.respond m [] .none .refused
    else
      let old := s.bytes h m.n
      match Msg.atomNew m old with
      | none => if m.grade == .none then s.respond m old .none .performed
          else (s.logFar (h / 64) (farOf m)).respondOut m (h / 64) 3 old
      | some new =>
        if m.grade == .none then (s.writeHome h new).respond m old .none .performed
        else
          let s1 := s.logFar (h / 64) (farOf m)
          if new == old then s1.respondOut m (h / 64) 3 old else s1.farGraded m (.tuiturAtomic m) h new old

/-- TUITUR_ATOMIC (R357). -/
def execTuiturAtomic (m : Msg) (s : State) : Out := .next (s.farAtomic m).settle

/-! ### Graded messages (R306, R307, R309) -/

/-- A graded write at its home: a confirmation without bytes (R98), a lift's confirmation, which counts only for the last writer (R303), or
a write (R294). -/
def State.farGradedWrite (s : State) (m : Msg) : State :=
  match s.msgHome m with
  | none => s.respond m [] .none .refused
  | some h =>
    let l := h / 64
    if m.n == 0 && m.mask == 0 then
      let x := s.line l
      if x.far == some (farOf m) && x.grade != .final then s.putLine l { x with grade := .final } else s
    else if m.n == 0 then
      let (st, s) := s.confirmLine l m.grade .final
      s.respond m [BitVec.ofNat 8 st] (s.line l).grade .performed
    else if s.farBad h m.n then s.respond m [] .none .refused
    else s.farGraded m (.tuiturGradedWrite m) h (mergeMask m.mask (s.bytes h m.n) m.data) []

/-- TUITUR_GRADED_WRITE (R306). -/
def execTuiturGradedWrite (m : Msg) (s : State) : Out := .next (s.farGradedWrite m).settle

/-- Reads a task a line: it has logged it, or a read of it is on its way, also from a saved context (R297, R307)? -/
def State.readsLine (s : State) (k : Nat) (t : Task) (l : Nat) : Bool :=
  let asks (o : Op) : Bool := o.task == k && !o.void && (o.acc.lines o.n).contains l
  t.reads.contains l || (many s.ops fun _ o => asks o) || s.saved.any fun x => many x.ops fun _ o => asks o

/-- The tasks that a re-fire names (R307): the block's run; where it names no block, the other tasks of the node. Those that have not read the
line since their start are consumers no more (R300). -/
def State.farTasks (s : State) (m : Msg) : List Nat :=
  let l := remoteLine m.spkg.toNat m.addr.toNat
  mkeys s.tasks fun k t => t.inst == m.ginst && s.readsLine k t l &&
    match t.kind with
    | .block n b => n == m.node && b == m.block.toNat
    | .program => false
    | _ => t.node == m.node && m.block.toNat == 2 ^ 32 - 1

/-- TUITUR_REFIRE (R307): the consumer's front end re-fires its tasks and acknowledges. -/
def execTuiturRefire (m : Msg) (s : State) : Out :=
  let s1 := (s.farTasks m).foldl State.refire s
  .next (s1.send 7 m.spkg.toNat { s1.blankMsg with tag := m.tag, addr := m.addr, ginst := m.ginst, node := m.node, block := m.block }).settle

/-- The amendment that a tag names (R307). -/
def State.amendTagged (s : State) (tag : BitVec 16) : Option (Nat × Amendment) := s.amends.find? fun x => tagOf x.1 == tag

/-- What waits is given again (R219, R307): another package's write whose amendment has its answer, and what the host sent, in its order. -/
def State.wakeHost (s : State) (again : Option Instr) : State :=
  { s with waiting := [], script := (again.toList ++ s.waiting.map (·.2)).map (fun i => ⟨0, .outside i⟩) ++ s.script }

/-- May the re-fire that an amendment sent to a package, or its acknowledge, have been lost (R307, R358)? -/
def State.refireLost (s : State) (a : Amendment) (pkg : Nat) : Bool :=
  let va := (lineAddr a.line).toNat
  s.lostAt a.since pkg va || s.lostSince a.since s.pkg.toNat va

/-- TUITUR_ACK (R307): once every consumer has acknowledged, the write goes on; a re-fire lost through a dead link fails it. -/
def execTuiturAck (m : Msg) (s : State) : Out :=
  match s.amendTagged m.tag with
  | none => .next s
  | some (id, a) =>
    if m.fate == .lost then
      if s.refireLost a m.spkg.toNat && a.acks.any (fun r => r.1 == m.spkg.toNat) then
        .next ({ s with amends := mput s.amends id { a with failed := true } }.wakeHost a.again)
      else .next s
    else
      let x := s.line a.line
      let s1 := s.setLine a.line { x with remote := x.remote.filter (· != farOf m) }
      let acks := a.acks.filter (· != farOf m)
      if acks.isEmpty && !a.failed then .next ({ s1 with amends := mdel s1.amends id }.wakeHost a.again)
      else .next ({ s1 with amends := mput s1.amends id { a with acks := acks } }.wakeHost none)

/-- TUITUR_CANCEL_TOKEN (R309, R311): the consumer-list entries and waiting writes of the run are dropped; what it wrote last is never
lifted. -/
def execTuiturCancelToken (m : Msg) (s : State) : Out :=
  let his (r : Nat × Nat × Nat) : Bool := r.1 == m.spkg.toNat && r.2.1 == m.ginst
  .next { s with
    lines := mmap s.lines fun _ x => { x with remote := x.remote.filter fun r => !his r, far := x.far.filter fun r => !his r }
    amends := s.amends.filter fun a => a.2.far.all fun r => !his r }

/-! ### Responses (R357) -/

/-- A grade that another package made known (log 20): a line whose grade is known here takes it. -/
def State.learnGrade (s : State) (l : Nat) (g : Grade) : State := s.setLine l (LineMeta.settle { s.line l with grade := g })

/-- What a response to a graded access makes known: the line's grade; a write below FINAL enters the write log (R297, R306). -/
def State.learn (s : State) (o : Op) (m : Msg) : State :=
  match o.acc.loc with
  | .remote p va true =>
    let l := remoteLine p va
    let s := s.learnGrade l m.grade
    let wrote := match o.kind with
      | .st | .atom .. | .cas _ | .red .. => true
      | .eng _ => !o.data.isEmpty
      | _ => false
    if wrote && (m.data.headD 3).toNat < 2 && m.grade != .final then s.logWrite (some o.task) l else s
  | _ => s

/-- Does a response answer operation id? -/
def Op.answeredBy (id : Nat) (o : Op) (m : Msg) : Bool :=
  tagOf id == m.tag && o.sent && o.resp.isNone && o.acc.loc.pkg? == some m.spkg.toNat

/-- Does a response answer an operation of a saved context that still awaits it (R323)? -/
def Op.answeredSaved (id : Nat) (o : Op) (m : Msg) : Bool := o.answeredBy id m && (o.kind.atomic || o.heldThere)

/-- A saved context with a response in it. -/
def Saved.answer (x : Saved) (m : Msg) : Saved :=
  { x with ops := mmap x.ops fun id o => if o.answeredSaved id m then { o with resp := some (m.data, m.fate) } else o }

/-- What a response makes known of the lines of operations of saved contexts (R297). -/
def State.learnSaved (s : State) (m : Msg) : State :=
  (s.saved.flatMap fun x => x.ops.filter fun y => y.2.answeredSaved y.1 m).foldl (fun s y => s.learn y.2 m) s

/-- TUITUR_RESPONSE (R357): the operation of its tag has its answer; a response without a byte mask answers none and makes a grade known
(log 20). -/
def execTuiturResponse (m : Msg) (s : State) : Out :=
  if m.mask == 0 then
    let l := remoteLine m.spkg.toNat m.addr.toNat
    .next (if (s.line l).grade == .none then s else (s.learnGrade l m.grade).settle)
  else
    match s.ops.find? fun x => x.2.answeredBy x.1 m with
    | some (id, o) =>
      let s1 := if m.fate == .performed then s.learn o m else s
      .next { s1 with ops := mmod s1.ops id fun o => { o with resp := some (m.data, m.fate) } }.settle
    | none =>
      let s1 := if m.fate == .performed then s.learnSaved m else s
      .next { s1 with saved := s1.saved.map (Saved.answer · m) }.settle

/-- TUITUR_COPY_DATA (R357): the bytes land in the destination slice and count on the hasp that the copy names (R167); a slice of another
partition refuses them. -/
def execTuiturCopyData (m : Msg) (s : State) : Out :=
  match s.msgHome m with
  | none => .next s
  | some h =>
    if !isSlice m.addr.toNat then .next s
    else
      let s1 := s.writeMasked h m.mask m.data
      let n := ((List.range m.data.length).filter fun i => m.mask.getLsbD i).length
      let src := m.spkg.toNat * 512 + dieOfCore m.core * 128 + m.core % 96
      .next (if m.node == 0 then s1 else (s1.landOn (haspKey (h / 2097152) (m.node - 1)) src n).2).settle

/-! ### Links (R358) -/

/-- LINK_DEAD (R358, R364, R379): the plane leaves the hash, the link's skew entry is not measured, the log gets an entry. -/
def execLinkDead (link : Fin 18) (s : State) : Out :=
  if !s.planes.getLsbD link.val then .next s
  else
    let s1 := { s with
      planes := s.planes &&& ~~~(1#18 <<< link.val)
      deadAt := mput s.deadAt link.val s.clk
      skew := sput Skew.zero s.skew (10 + link.val) { sget Skew.zero s.skew (10 + link.val) with valid := false } }
    .next (s1.rasEntry 3 4 0 link.val 0 1)

/-- Is a message of the package in flight (R358): a request unanswered, a store on its way, or a re-fire unacknowledged? -/
def State.inFlight (s : State) : Bool :=
  (many s.ops fun _ o => o.acc.loc.pkg?.isSome && ((o.sent && o.resp.isNone) || (o.kind == .st && !o.done))) || !s.amends.isEmpty

/-- LINK_REJOIN (R358): a dead link, one of those that the configuration record enables (R361), joins the planes again. -/
def execLinkRejoin (link : Fin 18) (s : State) : Out :=
  let dead := !s.planes.getLsbD link.val && (mget s.deadAt link.val).isSome && decide (link.val < s.linkCounts.1)
  .next (if s.inFlight || s.recovery.active || !dead then s else { s with planes := s.planes ||| (1#18 <<< link.val), deadAt := mdel s.deadAt link.val })

/-! ### RoCE (R355, R356) -/

/-- ROCE_DOORBELL (R356): the store to a queue pair's doorbell is performed. -/
def execRoceDoorbell (qp : Nat) (pi : DWord) (s : State) : Out := .next (s.roceDoorbell qp pi.toNat)

/-- The parts of an access by the RoCE engine placed: only pages that are not graded, in device memory or on another package; nothing where
one fails (R355). -/
def State.roceParts (s : State) (sp : Space) (use : Use) : List (Nat × Nat) → List (Nat × Acc × Nat) → Option (List (Nat × Acc × Nat) × State)
  | [], out => some (out.reverse, s)
  | (va, n) :: rest, out =>
    if isSlice va then none
    else
      match s.translate sp feCore va use with
      | (.ok a, s) =>
        if a.graded || (use == .read && s.accBad a n) then none
        else
          match a.loc with
          | .dev _ | .remote .. => s.roceParts sp use rest ((va, a, n) :: out)
          | _ => none
      | _ => none

/-- One placed part written: at once in this package's memory; to another package as an operation of its own under the number of whom it
belongs to, until it is performed there (DESIGN CHOICE, log 113). -/
def State.rocePut (s : State) (uid : Nat) (sp : Space) (va : Nat) (a : Acc) (bs : List Byte) : State :=
  match a.loc with
  | .remote .. =>
    let (id, s) := s.fresh
    s.addOp id (egressOp id 0 s.clk {} (2048 * feCore, uid, a, va, sp.part, .st, bs, []))
  | _ => s.performStore a bs sp.part

/-- The placed parts written in order, each counted (R376). -/
def State.roceStore (s : State) (uid : Nat) (sp : Space) : List (Nat × Acc × Nat) → List Byte → State
  | [], _ => s
  | (va, a, n) :: rest, bs => ((s.countAcc sp feCore a 0 1).rocePut uid sp va a (bs.take n)).roceStore uid sp rest (bs.drop n)

/-- Write bytes through a space; nothing where a part fails, and then nothing is written. -/
def State.roceWrite (s : State) (uid : Nat) (sp : Space) (va : Nat) (bs : List Byte) : Option State :=
  (s.roceParts sp .write (linePieces va bs.length) []).map fun x => x.2.roceStore uid sp x.1 bs

/-- Read bytes through a space (R355); another package's are free (log 32). -/
def State.roceRead (s : State) (sp : Space) (va n : Nat) : Option (List Byte × State) :=
  (s.roceParts sp .read (linePieces va n) []).map fun x =>
    x.1.foldl (fun (acc : List Byte × State) p =>
      let s := acc.2.countAcc sp feCore p.2.1 1 0
      match p.2.1.loc.home with
      | some h => (acc.1 ++ s.bytes h p.2.2, s)
      | none => let (b, s) := s.freeBytes p.2.2; (acc.1 ++ b, s)) ([], x.2)

/-- Do a queue pair's rings lie in device memory (R1, R356)? -/
def Qp.fits (x : Qp) : Bool := x.sq + 32 * 2 ^ x.sqLog ≤ Config.deviceBytes && x.cq + 32 * 2 ^ x.cqLog ≤ Config.deviceBytes

/-- A completion entry is written into a queue pair's completion ring; the manual gives no layout, so its bytes are free (log 34). -/
def State.roceEntry (s : State) (q : Nat) (x : Qp) : State :=
  let (bs, s) := s.freeBytes 32
  let s := if x.fits then s.writeDev (x.cq + 32 * (x.cpi % 2 ^ x.cqLog)) bs else s
  { s with qps := mmod s.qps q fun x => { x with cpi := x.cpi + 1, work := x.work.tail } }

/-- The number under which the operations stand that write a queue pair's READs (R356). -/
def readUid (qp : Nat) : Nat := 2 ^ 67 + qp

/-- Is a write of a queue pair's READ to another package still to be performed (R356)? -/
def State.readWaits (s : State) (qp : Nat) : Bool := many s.ops fun _ o => o.uid == readUid qp

/-- RDMA_COMPLETION (R356): the oldest request completes. A READ's bytes are written to LVA, and the entry follows once they are performed;
a request in error, or one whose bytes cannot be written, completes with error. -/
def execRdmaCompletion (qp : Nat) (data : List Byte) (ok : Bool) (s : State) : Out :=
  match mget s.qps qp with
  | none => .next s
  | some x =>
    match x.work with
    | [] => .next s
    | r :: rest =>
      let s1 : State := if r.wrote || r.bad || !ok || r.op != 2 || data.length != r.len then s
        else (s.roceWrite (readUid qp) (s.templateSpace x.part) r.lva data).getD s
      .next (if s1.readWaits qp then { s1 with qps := mput s1.qps qp { x with work := { r with wrote := true } :: rest } } else s1.roceEntry qp x).settle

/-- The space that a request's remote key names, where the range holds it (R355). -/
def State.keySpace (s : State) (p : RdmaPkt) : Option Space :=
  if (mget s.qps p.qpn).isNone then none
  else
    match mget s.rkeys p.key.toNat with
    | none => none
    | some k => if k.va ≤ p.va.toNat && p.va.toNat + p.len ≤ k.va + k.len then some (s.templateSpace k.part) else none

/-- A packet received on a port: on one that the configuration record does not enable nothing arrives (R361). -/
def rdmaFrame (s : State) (p : RdmaPkt) (body : State) : Out := if s.linkCounts.2.1 ≤ p.port.val then .next s else .next body

/-- An incoming write: performed, or nothing where it is answered with a NAK (R355). -/
def State.roceIncoming (s : State) (p : RdmaPkt) : Option State :=
  if p.data.length != p.len then none else (s.keySpace p).bind fun sp => s.roceWrite (roceUid p.port.val) sp p.va.toNat p.data

/-- RDMA_WRITE (R355). -/
def execRdmaWrite (p : RdmaPkt) (s : State) : Out :=
  rdmaFrame s p <|
  match s.roceIncoming p with
  | some s1 => { s1 with reply := s1.reply ++ [Reply.data []] }.settle
  | none => { s with reply := s.reply ++ [.nak] }

/-- RDMA_WRITE_WITH_IMMEDIATE (R355): the immediate is delivered as an event record of type 5, code 1, with the immediate in word 3. -/
def execRdmaWriteWithImmediate (p : RdmaPkt) (s : State) : Out :=
  rdmaFrame s p <|
  match s.roceIncoming p with
  | some s1 =>
    let lp1 := ((mget s1.qps p.qpn).map (·.lp1)).getD 0
    ({ s1 with reply := s1.reply ++ [Reply.data []] }.event lp1 ⟨5, 1, 0, 0, 0, 0, p.imm.toNat, p.qpn, 0⟩).settle
  | none => { s with reply := s.reply ++ [.nak] }

/-- RDMA_READ (R355). -/
def execRdmaRead (p : RdmaPkt) (s : State) : Out :=
  rdmaFrame s p <|
  match (s.keySpace p).bind fun sp => s.roceRead sp p.va.toNat p.len with
  | some (bs, s1) => { s1 with reply := s1.reply ++ [.data bs] }
  | none => { s with reply := s.reply ++ [.nak] }

end Sys2Proof.Machine
end

