-- ==== Sys2Proof/Machine/Registers.lean ====
section
/-! DEFINITION. Register writes by the host and by firmware through BAR0 and BAR2 (R247, R263, R264, R290, R293, R352-R354, R362, R364,
R370, R377). -/

namespace Sys2Proof.Machine

/-! ### Halves and rings -/

/-- A 64-bit register with its low or high word replaced. -/
def setHalf (hi : Bool) (d : DWord) (w : Word) : DWord :=
  if hi then BitVec.ofNat 64 (w.toNat * 2 ^ 32 + d.toNat % 2 ^ 32) else BitVec.ofNat 64 (d.toNat / 2 ^ 32 * 2 ^ 32 + w.toNat)

/-- Word i of a ring's control block is written (R247): TAIL is read only, LOST is cleared by writing 1. -/
def Ring.write (r : Ring) (i : Nat) (w : Word) : Ring :=
  match i with
  | 0 => { r with base := setHalf false r.base w }
  | 1 => { r with base := setHalf true r.base w }
  | 2 => { r with log2n := w.toNat % 32 }
  | 3 => { r with head := w.toNat % 65536 }
  | 5 => if bitAt w.toNat 0 then { r with lost := false } else r
  | _ => r

/-- B4BASE aligned to its window's size (R354). DEDUCED, log 56. -/
def alignBase (size : Nat) (d : DWord) : DWord := BitVec.ofNat 64 (d.toNat / 2 ^ size * 2 ^ size)

/-! ### A partition's block (R352) -/

/-- A word of a partition's block whose write has no other behaviour. Everything else is read only or not listed: ignored. -/
def Lp1.write (b : Lp1) (ofs : Nat) (w : Word) : Lp1 :=
  match ofs with
  | 0x100 => { b with invVa := setHalf false b.invVa w }
  | 0x104 => { b with invVa := setHalf true b.invVa w }
  | 0x108 => { b with invN := w.toNat % 65536 }
  | 0x200 => { b with b4base := alignBase b.b4log (setHalf false b.b4base w) }
  | 0x204 => { b with b4base := alignBase b.b4log (setHalf true b.b4base w) }
  | 0x300 => if w == 0 then { b with porterr := 0 } else b
  | 0x304 => if w == 0 then { b with framref := 0 } else b
  | 0x10200 => { b with gcVa := setHalf false b.gcVa w }
  | 0x10204 => { b with gcVa := setHalf true b.gcVa w }
  | 0x10208 => { b with gcPages := w.toNat % 65536 }
  | _ =>
    if 0x10000 ≤ ofs && ofs < 0x10020 then { b with fq := b.fq.write ((ofs - 0x10000) / 4) w }
    else if 0x10100 ≤ ofs && ofs < 0x10120 then { b with ev := b.ev.write ((ofs - 0x10100) / 4) w }
    else b

/-- Does a registered graph list a queue (R282)? -/
def State.listed (s : State) (k : Nat) : Bool := many s.graphs fun _ g => g.lp1 == k / 1024 && g.enqq.contains (k % 1024)

/-- Word 6 of a queue's descriptor (R263): RESTART, then ENABLE. -/
def State.queueControl (s : State) (k : Nat) (w : Word) : State :=
  let s := if bitAt w.toNat 1 then s.restartQueue k else s
  if bitAt w.toNat 0 then s.enableQueue k else if (s.queue k).enable then s.disableQueue k else s

/-- Word i of a queue's descriptor is written (R263). -/
def State.queueWrite (s : State) (k i : Nat) (w : Word) : State :=
  let q := s.queue k
  match i with
  | 0 => if q.enable then s else s.setQueue k { q with qbase := setHalf false q.qbase w }
  | 1 => if q.enable then s else s.setQueue k { q with qbase := setHalf true q.qbase w }
  | 2 => s.setQueue k { q with qlog2 := w.toNat % 32 }
  | 3 => s.setQueue k { q with spbase := setHalf false q.spbase w }
  | 4 => s.setQueue k { q with spbase := setHalf true q.spbase w }
  | 5 => if w.toNat % 32 == 0 && s.listed k then s else s.setQueue k { q with splog2 := w.toNat % 32 }
  | 6 => s.queueControl k w
  | _ => s

/-- A word of a partition's block is written (R352). -/
def State.blockWrite (s : State) (p ofs : Nat) (w : Word) : State :=
  if ofs % 4 != 0 then s
  else if ofs == 0x10C then s.invWritten p w.toNat
  else if ofs == 0x1020C then s.clearWritten p w.toNat
  else if 0x20000 ≤ ofs && ofs < 0x30000 then s.queueWrite (queueKey p ((ofs - 0x20000) / 64)) ((ofs - 0x20000) % 64 / 4) w
  else if ofs < 0x10 then s
  else s.modLp1 p fun b => b.write ofs w

/-! ### PF0 (R352, R354, R364, R370, R377) -/

/-- The command of a debug block (R370). -/
def State.debugCommand (s : State) (c : Nat) (w : Word) : State :=
  let tgt : BitVec 12 := w.setWidth 12
  let part := bits w.toNat 17 12
  match bits w.toNat 31 28 with
  | 1 => s.debugHalt c tgt
  | 2 => s.debugResume c tgt
  | 3 => s.debugStep c tgt
  | 4 => s.debugRead c tgt
  | 5 => s.debugWrite c tgt
  | 6 => s.debugHaltAll c part
  | 7 => s.debugResumeAll c part
  | _ => s

/-- A breakpoint's low or high word (R370). -/
def BreakPt.write (b : BreakPt) (hi : Bool) (w : Word) : BreakPt :=
  if hi then { b with addr := bits w.toNat 23 0 * 2 ^ 32 + b.addr % 2 ^ 32, part := bits w.toNat 29 24 }
  else { b with addr := b.addr / 2 ^ 32 * 2 ^ 32 + w.toNat / 4 * 4, en := bitAt w.toNat 0 }

/-- A word of a debug block other than its command (R370). -/
def DebugBlk.write (d : DebugBlk) (i : Nat) (w : Word) : DebugBlk :=
  if h : i < 32 then
    have : i / 2 < 16 := by omega
    { d with bps := d.bps.set (i / 2) (d.bps[i / 2].write (i % 2 == 1) w) }
  else
    match i with
    | 33 => { d with space := bits w.toNat 31 28, index := bits w.toNat 7 0 }
    | 34 => { d with data := w }
    | _ => d

/-- A word of core c's debug block is written. -/
def State.debugBlockWrite (s : State) (c i : Nat) (w : Word) : State :=
  if i == 32 then s.debugCommand c w else s.modCore c fun x => { x with dbg := x.dbg.write i w }

/-- A word of a partition's sampling block: the driver writes SHEAD and clears SDROP (R377). -/
def Sampling.write (b : Sampling) (i : Nat) (w : Word) : Sampling :=
  match i with
  | 3 => { b with shead := w.toNat % 2 ^ 20 }
  | 6 => if w == 0 then { b with sdrop := 0 } else b
  | _ => b

/-- PF0's own BAR4 control (R354): B4PART is RW. -/
def State.pf0Window (s : State) (i : Nat) (w : Word) : State :=
  let (base, part, size) := s.pf0b4
  match i with
  | 0 => { s with pf0b4 := (alignBase size (setHalf false base w), part, size) }
  | 1 => { s with pf0b4 := (alignBase size (setHalf true base w), part, size) }
  | 2 => { s with pf0b4 := (base, w.toNat % 64, size) }
  | _ => s

/-- A word of PF0's global registers, or of a partition's block through PF0 (R352). -/
def State.globalWrite (s : State) (ofs : Nat) (w : Word) : State :=
  if ofs % 4 != 0 then s
  else if 0x1000 ≤ ofs && ofs < 0x1020 then { s with ras := s.ras.write ((ofs - 0x1000) / 4) w }
  else if 0x2000 ≤ ofs && ofs < 0x2010 then s.pf0Window ((ofs - 0x2000) / 4) w
  else if 0x100000 ≤ ofs && ofs < 0x100000 + 0x1000 * Config.cores then
    s.debugBlockWrite ((ofs - 0x100000) / 0x1000) ((ofs - 0x100000) % 0x1000 / 4) w
  else if 0x300000 ≤ ofs && ofs < 0x301000 then
    let p := (ofs - 0x300000) / 64
    s.setPart p { s.part p with samp := (s.part p).samp.write ((ofs - 0x300000) % 64 / 4) w }
  else if 0x1000000 ≤ ofs && ofs < 0x1000000 + 0x40000 * 16 then
    s.blockWrite ((ofs - 0x1000000) / 0x40000) ((ofs - 0x1000000) % 0x40000) w
  else s

/-! ### The recovery window (R362) -/

/-- Bytes laid into a list from an offset; what lies between reads 0. -/
def stageBytes (bs : List Byte) (ofs : Nat) (new : List Byte) : List Byte :=
  (List.range (max bs.length (ofs + new.length))).map fun i =>
    if ofs ≤ i && i < ofs + new.length then new.getD (i - ofs) 0 else bs.getD i 0

/-- A word of the recovery window is written: CMD, LEN or staging; ignored while busy. -/
def State.recoveryWrite (s : State) (ofs : Nat) (w : Word) : State :=
  let r := s.recovery
  if r.busy || ofs % 4 != 0 then s
  else if ofs == 4 then
    match w.toNat with
    | 1 => s.recoverAppend
    | 2 => s.recoverCommit false
    | 3 => s.recoverCommit true
    | 4 => s.recoverReset
    | _ => s
  else if ofs == 8 then { s with recovery := { r with len := w.toNat } }
  else if 0x2000 ≤ ofs && ofs < 0x2000 + Config.stagingBytes then
    { s with recovery := { r with staging := stageBytes r.staging (ofs - 0x2000) (leBytes 4 w.toNat) } }
  else s

/-! ### Ports (R264) -/

/-- The bytes of the port at an offset of BAR2, if there is one (R264). -/
def portBytes (ofs : Nat) : Option Nat :=
  if ofs < 8 then some 8
  else if 0x10 ≤ ofs && ofs < 0x20 then some 16
  else if 0x10000 ≤ ofs && ofs < 0x10000 + 8 * 1024 then some 8
  else none

/-- A resume record from the 16 bytes of its write (R249). -/
def resumeOf (w : BitVec 128) : ResumeRec where
  pgl := w.extractLsb' 16 16
  res0 := w.extractLsb' 2 14
  psz := (w.extractLsb' 0 2).toFin
  act := (w.extractLsb' 60 4).toFin
  res1 := w.extractLsb' 56 4
  pgh := w.extractLsb' 32 24
  res2 := w.extractLsb' 70 26
  part := (w.extractLsb' 64 6).toFin
  res3 := w.extractLsb' 96 32

/-- Eight bytes reach the ports at an offset: a launch word or a tail; too narrow for the resume port (R264). -/
def State.portDword (s : State) (p ofs : Nat) (w : DWord) : State :=
  match portBytes ofs with
  | none => s
  | some 8 => if ofs == 0 then (s.launch p w.toNat).2 else s.tailWritten (queueKey p ((ofs - 0x10000) / 8)) w.toNat
  | some _ => s.portError p

/-- A write of n bytes to the ports of a partition: a resume record is 16 bytes at its port, launch words and tails are 8 each; what is
narrower than its port is dropped and counted (R264). -/
def State.portWrite (s : State) (p ofs n : Nat) (w : BitVec 128) : State :=
  if ofs == 0x10 && n == 16 then s.resume p (resumeOf w)
  else if n < 8 || ofs % 8 != 0 then if (portBytes ofs).isSome then s.portError p else s
  else
    let s := s.portDword p ofs (w.setWidth 64)
    if n == 16 then s.portDword p (ofs + 8) ((w >>> 64).setWidth 64) else s

/-! ### The write -/

/-- A write of n bytes into a space of words: 4, 8 or 16 bytes are one word, two or four, the low one first; any other size is not a
register access, and is ignored (DESIGN CHOICE, log 35). -/
def wordWrites (f : State → Nat → Word → State) (s : State) (ofs n : Nat) (w : BitVec 128) : State :=
  let put (s : State) (i : Nat) : State := f s (ofs + 4 * i) ((w >>> (32 * i)).setWidth 32)
  if n == 4 then put s 0
  else if n == 8 then put (put s 0) 1
  else if n == 16 then put (put (put (put s 0) 1) 2) 3
  else s

/-- A write to partition p's block (R282, R352): the two doorbells take 8 bytes. -/
def State.blockAccess (s : State) (p ofs n : Nat) (w : BitVec 128) : State :=
  if ofs < 8 then s.registerBell p (if ofs == 0 then n else 0) (w.toNat % 2 ^ 64)
  else if ofs < 16 then s.unregisterBell p (if ofs == 8 then n else 0) (w.toNat % 2 ^ 64)
  else wordWrites (fun s ofs w => s.blockWrite p ofs w) s ofs n w

/-- Where in a partition's block an offset of PF0's BAR0 lies, if in one (R352). -/
def blockPlace (ofs : Nat) : Option (Nat × Nat) :=
  if 0x1000000 ≤ ofs && ofs < 0x1000000 + 0x40000 * 16 then some ((ofs - 0x1000000) / 0x40000, (ofs - 0x1000000) % 0x40000) else none

/-- Is the function through which a register is reached there on a link (R351)? -/
def State.regOn (s : State) (link : Fin 2) : RegAddr → Bool
  | .block p _ | .port p _ => s.fnOn link p.val
  | .pf0 _ | .pf0Port .. => true

/-- A register is written (R352, R264, R362): while the recovery window is open nothing else answers. -/
def State.registerWritten (s : State) (link : Fin 2) (r : RegAddr) (n : Nat) (w : BitVec 128) : Out :=
  if s.recovery.active then
    match r with
    | .pf0 ofs => .next (wordWrites State.recoveryWrite s ofs n w)
    | _ => .next s
  else
    match r with
    | .block p ofs => .next (s.blockAccess p.val ofs n w)
    | .pf0 ofs =>
      match blockPlace ofs with
      | some (p, o) => .next (s.blockAccess p o n w)
      | none => .next (wordWrites State.globalWrite s ofs n w)
    | .port p ofs | .pf0Port p ofs => portFrame s (.registerWrite (link, r) n w) fun s => s.portWrite p.val ofs n w

/-- REGISTER_WRITE (R352, R351): nothing where the function is not enabled on the link, or the link is down; behind a host write that waits
it waits too (R219). -/
def execRegisterWrite (r : Fin 2 × RegAddr) (n : Nat) (w : BitVec 128) (s : State) : Out :=
  if !s.linkUp r.1 || !s.regOn r.1 r.2 then .next s
  else hostFrame s (some r.1) (.registerWrite r n w) fun s => s.registerWritten r.1 r.2 n w

end Sys2Proof.Machine
end

