-- ==== Sys2Proof/Machine/Arrivals.lean ====
section
/-! DEFINITION. Register reads (R352, R362, R370, R377, R379), and what else reaches the package from outside (R351, R355, R357, R359,
R363, R328). -/

namespace Sys2Proof.Machine

/-! ### The words of registers -/

/-- Word i of a ring's control block (R247). -/
def Ring.word (r : Ring) (i : Nat) : Nat :=
  match i with
  | 0 => r.base.toNat
  | 1 => r.base.toNat / 2 ^ 32
  | 2 => r.log2n
  | 3 => r.head
  | 4 => r.tail
  | 5 => boolNat r.lost
  | _ => 0

/-- Word i of a queue's descriptor (R263). -/
def Queue.word (q : Queue) (i : Nat) : Nat :=
  match i with
  | 0 => q.qbase.toNat
  | 1 => q.qbase.toNat / 2 ^ 32
  | 2 => q.qlog2
  | 3 => q.spbase.toNat
  | 4 => q.spbase.toNat / 2 ^ 32
  | 5 => q.splog2
  | 6 => q.err % 16 * 16 + q.state % 4 * 4 + boolNat q.enable
  | 8 => q.qhead
  | 9 => q.qhead / 2 ^ 32
  | 10 => q.qexec
  | 11 => q.qexec / 2 ^ 32
  | _ => 0

/-- The word of a partition's block at an offset (R352-R354, R293, R376); 0 where none is listed. -/
def State.blockWord (s : State) (p ofs : Nat) : Nat :=
  let b := s.lp1 p
  match ofs with
  | 0x100 => b.invVa.toNat
  | 0x104 => b.invVa.toNat / 2 ^ 32
  | 0x108 => b.invN
  | 0x10C => boolNat b.invGo * 2 ^ 31 + b.invStat % 4 * 2 ^ 29 + b.invPsz % 4 * 2 ^ 6 + b.invPart % 64
  | 0x200 => b.b4base.toNat
  | 0x204 => b.b4base.toNat / 2 ^ 32
  | 0x208 => b.b4part % 64
  | 0x300 => b.porterr
  | 0x304 => b.framref
  | 0x400 => b.sbase.toNat
  | 0x404 => b.sbase.toNat / 2 ^ 32
  | 0x408 => b.fbase.toNat
  | 0x40C => b.fbase.toNat / 2 ^ 32
  | 0x410 => b.nfr
  | 0x10200 => b.gcVa.toNat
  | 0x10204 => b.gcVa.toNat / 2 ^ 32
  | 0x10208 => b.gcPages
  | 0x1020C => boolNat b.gcGo * 2 ^ 31 + b.gcStat % 8 * 2 ^ 28 + b.gcPart % 64
  | _ =>
    if 0x10000 ≤ ofs && ofs < 0x10020 then b.fq.word ((ofs - 0x10000) / 4)
    else if 0x10100 ≤ ofs && ofs < 0x10120 then b.ev.word ((ofs - 0x10100) / 4)
    else if 0x20000 ≤ ofs && ofs < 0x30000 then (s.queue (queueKey p ((ofs - 0x20000) / 64))).word ((ofs - 0x20000) % 64 / 4)
    else 0

/-- Word i of a debug block (R370). -/
def DebugBlk.word (d : DebugBlk) (i : Nat) : Nat :=
  if h : i < 32 then
    have : i / 2 < 16 := by omega
    let b := d.bps[i / 2]
    if i % 2 == 1 then b.part % 64 * 2 ^ 24 + b.addr / 2 ^ 32 % 2 ^ 24 else b.addr % 2 ^ 32 / 4 * 4 + boolNat b.en
  else
    match i with
    | 33 => d.space % 16 * 2 ^ 28 + d.index % 256
    | 34 => d.data.toNat
    | 35 => d.status.toNat
    | 36 => d.hpcofs.toNat
    | _ => 0

/-- Word i of a sampling control block (R377). -/
def Sampling.word (b : Sampling) (i : Nat) : Nat :=
  match i with
  | 0 => b.base.toNat
  | 1 => b.base.toNat / 2 ^ 32
  | 2 => b.slog2
  | 3 => b.shead
  | 4 => b.stail
  | 5 => boolNat b.reqen * 2 ^ 31 + boolNat b.stallen * 2 ^ 30 + b.stallp % 32 * 2 ^ 8 + b.reqp % 32
  | 6 => b.sdrop
  | _ => 0

/-- A word of a skew entry (R379): AGE is in ms since the measurement, saturating. -/
def State.skewWord (s : State) (i : Nat) : Nat :=
  let x := sget Skew.zero s.skew (i / 2)
  if i % 2 == 0 then x.ofs.toNat else boolNat x.valid * 2 ^ 31 + x.unc % 2 ^ 15 * 2 ^ 16 + min (s.upNs / 1000000 - x.age) 65535

/-- The word of PF0's BAR0 at an offset; 0 where none is listed. -/
def State.globalWord (s : State) (ofs : Nat) : Nat :=
  match blockPlace ofs with
  | some (p, o) => s.blockWord p o
  | none =>
    if 0x1000 ≤ ofs && ofs < 0x1020 then s.ras.word ((ofs - 0x1000) / 4)
    else if ofs == 0x2000 then s.pf0b4.1.toNat
    else if ofs == 0x2004 then s.pf0b4.1.toNat / 2 ^ 32
    else if ofs == 0x2008 then s.pf0b4.2.1 % 64
    else if 0x100000 ≤ ofs && ofs < 0x100000 + 0x1000 * Config.cores then
      (s.core ((ofs - 0x100000) / 0x1000)).dbg.word ((ofs - 0x100000) % 0x1000 / 4)
    else if 0x300000 ≤ ofs && ofs < 0x301000 then (s.part ((ofs - 0x300000) / 64)).samp.word ((ofs - 0x300000) % 64 / 4)
    else if 0x310000 ≤ ofs && ofs < 0x310000 + 8 * 28 then s.skewWord ((ofs - 0x310000) / 4)
    else 0

/-- The bytes of the error logs, the newest first, 960 bytes each (R362; the manual gives no layout: DESIGN CHOICE, log 72). -/
def Flash.errorLog (f : Flash) : List Byte := f.errors.flatten

/-- A byte of the recovery window (R362); CMD reads 0 (DESIGN CHOICE, log 72). -/
def State.recoveryByte (s : State) (ofs : Nat) : Byte :=
  let r := s.recovery
  if ofs < 4 then BitVec.ofNat 8 ((r.stage % 256 * 2 ^ 24 + r.cause % 256 * 2 ^ 16 + boolNat r.busy) / 2 ^ (8 * ofs))
  else if 8 ≤ ofs && ofs < 12 then BitVec.ofNat 8 (r.len / 2 ^ (8 * (ofs - 8)))
  else if 0x100 ≤ ofs && ofs < 0x1000 then s.flash.errorLog.getD (ofs - 0x100) 0
  else if 0x1000 ≤ ofs && ofs < 0x2000 then Config.certificate.getD (ofs - 0x1000) 0
  else if 0x2000 ≤ ofs && ofs < 0x2000 + Config.stagingBytes then r.staging.getD (ofs - 0x2000) 0
  else 0

/-! ### The read -/

/-- n bytes from an offset of a space of words. -/
def wordBytes (f : Nat → Nat) (ofs n : Nat) : List Byte :=
  (List.range n).map fun i => BitVec.ofNat 8 (f ((ofs + i) / 4 * 4) / 2 ^ (8 * ((ofs + i) % 4)))

/-- A read that covers the word of PF0's BAR0 that holds a core's HIT clears it (R370). -/
def State.clearHits (s : State) (ofs n : Nat) : State :=
  (List.range n).foldl (fun s i =>
    let a := ofs + i
    if 0x100000 ≤ a && a < 0x100000 + 0x1000 * Config.cores && a % 0x1000 / 4 == 35 then
      s.modCore ((a - 0x100000) / 0x1000) fun x => { x with dbg := { x.dbg with hit := false } }
    else s) s

/-- The bytes that a read of registers returns (R352): of any port 0 (R264). -/
def State.regBytes (s : State) (r : RegAddr) (n : Nat) : List Byte :=
  match r with
  | .block p ofs => wordBytes (s.blockWord p.val) ofs n
  | .pf0 ofs => if s.recovery.active then (List.range n).map fun i => s.recoveryByte (ofs + i) else wordBytes s.globalWord ofs n
  | .port .. | .pf0Port .. => List.replicate n 0

/-- REGISTERS ARE READ by the host (R352): Unsupported Request where the function is not there on the link (R351, R362). -/
def State.registerRead (s : State) (link : Fin 2) (r : RegAddr) (n : Nat) : State :=
  let pf0 := match r with
    | .pf0 _ => true
    | _ => false
  if !s.linkUp link then s
  else if !s.regOn link r || (s.recovery.active && !pf0) then { s with reply := s.reply ++ [.unsupported] }
  else
    let s1 := match r with
      | .pf0 ofs => if s.recovery.active then s else s.clearHits ofs n
      | _ => s
    { s1 with reply := s1.reply ++ [.data (s.regBytes r n)] }

/-! ### What firmware sets -/

/-- Is a level-2 partition's descriptor within its parent's bounds (R328)? -/
def Bounds.allow (b : Bounds) (d : Part) : Bool :=
  (d.cset &&& ~~~b.cset) == 0 && d.hbmw ≤ b.hbmw && d.wmax ≤ b.wmax && d.cls &&& b.cls == d.cls && d.lse &&& b.lse == d.lse && (!d.wlt || b.wlt)

/-- The live children of a level-1 partition but one. -/
def State.children (s : State) (lp1 but : Nat) : Nat := ((List.range 64).filter fun p => p != but && (s.part p).live && (s.part p).parent == lp1).length

/-- Has a core set a core that is unavailable (R366)? -/
def State.hasDead (s : State) (cset : BitVec 384) : Bool := (List.range Config.cores).any fun c => cset.getLsbD c && (s.core c).unavail

/-- Firmware writes a level-2 partition's descriptor and its sampling block (R328, R377). One that breaks the nesting is not written
(DESIGN CHOICE, log 45). The driver's indexes, the records counted, the debug right and its commands stay. -/
def State.setDescriptor (s : State) (p : Nat) (d : Part) : State :=
  let ok := d.parent < 16 && (s.lp1 d.parent).bounds.allow d && s.children d.parent p < 16 && !s.hasDead d.cset &&
    1 ≤ d.hbmw && d.hbmw < 256 && 1 ≤ d.wmax && d.wmax < 256
  let old := s.part p
  if d.live && !ok then s
  else s.setPart p { d with
    right := old.right
    cmdAt := old.cmdAt
    revoking := old.revoking
    samp := { d.samp with
      shead := old.samp.shead, stail := old.samp.stail, sdrop := old.samp.sdrop, dropSince := old.samp.dropSince, seqn := old.samp.seqn } }

/-- Firmware sets what a level-1 partition has: its bounds (R328), its function's links (R351), its window's size and B4PART (R354), the
launch frames' sources and tag (R285), its shares and limits (R381, R267, R210), its side table (R376). A setting that its children break, or
a B4PART that is no child, is not made (DESIGN CHOICE, log 45). -/
def State.setFirmware (s : State) (p : Nat) (b : Lp1) : State :=
  let fits := (List.range 64).all fun k => !(s.part k).live || (s.part k).parent != p || b.bounds.allow (s.part k)
  let child := (s.part b.b4part).parent == p && (s.part b.b4part).live
  s.modLp1 p fun x => { x with
    bounds := if fits && !s.hasDead b.bounds.cset then b.bounds else x.bounds
    links := b.links % 4
    b4part := if child then b.b4part else x.b4part
    b4log := if 30 ≤ b.b4log && b.b4log ≤ 39 then b.b4log else x.b4log
    b4base := if 30 ≤ b.b4log && b.b4log ≤ 39 then alignBase b.b4log x.b4base else x.b4base
    sources := b.sources.take 16
    tag := b.tag
    maxNodes := b.maxNodes
    maxCode := b.maxCode
    maxInst := b.maxInst
    gspill := b.gspill
    hold := b.hold
    qweight := b.qweight
    sbase := b.sbase
    fbase := b.fbase
    nfr := b.nfr }

/-- Covers a key range a page that no remote key may: a graded page, slice space, host memory (R355)? -/
def State.keyBad (s : State) (k : RKey) : Bool :=
  (List.range ((k.va + k.len + 65535) / 65536 - k.va / 65536)).any fun i =>
    let va := (k.va / 65536 + i) * 65536
    isSlice va ||
      match (s.translate (s.templateSpace k.part) feCore va .read).1 with
      | .ok a => a.graded || match a.loc with
        | .host .. | .slice .. => true
        | _ => false
      | _ => false

/-- Firmware creates a remote key; a range that covers a page it may not is refused (R355). -/
def State.setKey (s : State) (n : Nat) (k : RKey) : State := if s.keyBad k then s else { s with rkeys := mput s.rkeys n k }

/-- Firmware assigns a queue pair, one of 4,096, with rings in device memory, to a level-1 partition (R355, R356); it starts empty. -/
def State.setQp (s : State) (n : Nat) (q : Qp) : State :=
  if n < 4096 && q.fits && q.lp1 < 16 && (s.part q.part).live && (s.part q.part).parent == q.lp1 then
    { s with qps := mput s.qps n { q with pi := 0, ci := 0, cpi := 0, work := [] } }
  else s

/-- Firmware's queue class table takes the class of queue 1024 * lp1 + handle (R318). -/
def State.setClass (s : State) (q cls : Nat) : State := if q < 16384 then s.setQueue q { s.queue q with cls := cls } else s

/-- The size of PF0's own window is set through its resizable BAR capability: 2^log2n bytes, 1 GiB to 512 GiB, to which B4BASE is aligned
(R354). -/
def State.setWindow (s : State) (log2n : Nat) : State :=
  if 30 ≤ log2n && log2n ≤ 39 then { s with pf0b4 := (alignBase log2n s.pf0b4.1, s.pf0b4.2.1, log2n) } else s

/-- A physical pair, one of 200, wears out: it will fail its self-test at the next boot (R366). -/
def State.wearPair (s : State) (pair : Nat) : State := if pair < 200 then { s with worn := pair :: s.worn.filter (· != pair) } else s

/-! ### Arrivals -/

/-- A RoCE request outside the subset: a SEND, an atomic or a memory window is answered with a NAK, anything else is dropped and counted for
its port (R355). On a port that is not enabled nothing arrives (R361). -/
def State.roceOther (s : State) (port : Nat) (nak : Bool) : State :=
  if s.linkCounts.2.1 ≤ port then s
  else if nak then { s with reply := s.reply ++ [.nak] }
  else { s with portDrops := mput s.portDrops port (sget 0 s.portDrops port + 1) }

/-- WHAT ARRIVES without a row of its own. A message of a type that is none is dropped and counted (R357); the state table is committed by
the complex that runs (R359). -/
def State.reached (s : State) : Arrival → State
  | .upset u => s.strike u
  | .read link r n => s.registerRead link r n
  | .unsupported => { s with reply := s.reply ++ [.unsupported] }
  | .roceOther port nak => s.roceOther port.val nak
  | .stray t => if 1 ≤ t.toNat && t.toNat ≤ 9 then s else { s with drops := s.drops + 1 }
  | .complexFails => { s with fw := { s.fw with alive := false } }
  | .commitTable bs => if s.fw.alive then { s with fw := { s.fw with table := bs } } else s
  | .setLp1 p b => s.setFirmware p.val b
  | .descriptor p d => s.setDescriptor p.val d
  | .queuePair n q => s.setQp n q
  | .remoteKey n k => s.setKey n k
  | .queueClass q cls => s.setClass q cls.val
  | .ownWindow log2n => s.setWindow log2n
  | .wear pair => s.wearPair pair

/-- May an actor move while the recovery window is open: no core runs, and only PF0 on link 0 is up (R362)? -/
def Actor.whileRecovering : Actor → Bool
  | .outside (.registerWrite ..) | .outside .recoveryAppend | .outside .recoveryCommitA | .outside .recoveryCommitB | .outside .recoveryReset
  | .outside .reset | .outside .spdmRequest | .arrive (.read ..) | .arrive .unsupported => true
  | _ => false

end Sys2Proof.Machine
end

