-- ==== Sys2Proof/Machine/Commands.lean ====
section
/-! DEFINITION. The command set (R268-R278): registers, memory, control transfers, launches, waits, AMEND and the rest. -/

namespace Sys2Proof.Machine

/-! ### Registers (R270) -/

/-- CLI: sign-extended (R270). -/
def execCli (d : CReg) (imm : Word) (s : State) : Out := cmdFrame s 2 fun s i _ => .ok (s.setC i d (imm.signExtend 64))

/-- CLI.u: zero-extended (R270). -/
def execCliU (d : CReg) (imm : Word) (s : State) : Out := cmdFrame s 2 fun s i _ => .ok (s.setC i d (imm.setWidth 64))

/-- CLI.hi: the high half (R270). -/
def execCliHi (d : CReg) (imm : Word) (s : State) : Out :=
  cmdFrame s 2 fun s i _ => .ok (s.setC i d (BitVec.ofNat 64 (imm.toNat * 2 ^ 32 + (s.getC i d).toNat % 2 ^ 32)))

/-- The second operand of CADD to CSHR (R270). -/
def State.copVal (s : State) (i : StreamId) (y : COp) : DWord :=
  match y with
  | .c n => s.getC i n
  | .imm x => x.signExtend 64

/-- A register command of cA and y (R270). -/
def regCmd (f : DWord → DWord → DWord) (d a : CReg) (y : COp) (s : State) : Out :=
  cmdFrame s 1 fun s i _ => .ok (s.setC i d (f (s.getC i a) (s.copVal i y)))

/-- Shift left, 0 from 64 on (R270). -/
def cshlVal (a y : DWord) : DWord := if 64 ≤ y.toNat then 0 else a <<< y.toNat

/-- Shift right with zero fill, 0 from 64 on (R270). -/
def cshrVal (a y : DWord) : DWord := if 64 ≤ y.toNat then 0 else a >>> y.toNat

/-- CADD (R270). -/
def execCadd (d a : CReg) (y : COp) (s : State) : Out := regCmd (· + ·) d a y s

/-- CSUB (R270). -/
def execCsub (d a : CReg) (y : COp) (s : State) : Out := regCmd (· - ·) d a y s

/-- CAND (R270). -/
def execCand (d a : CReg) (y : COp) (s : State) : Out := regCmd (· &&& ·) d a y s

/-- COR (R270). -/
def execCor (d a : CReg) (y : COp) (s : State) : Out := regCmd (· ||| ·) d a y s

/-- CSHL (R270). -/
def execCshl (d a : CReg) (y : COp) (s : State) : Out := regCmd cshlVal d a y s

/-- CSHR (R270). -/
def execCshr (d a : CReg) (y : COp) (s : State) : Out := regCmd cshrVal d a y s

/-! ### Memory (R268, R271) -/

/-- The task of a stream: a program's; a queue has none (R295). -/
def State.streamTask (s : State) : StreamId → Option Nat
  | .queue .. => none
  | .prog n => (s.inst? n).map (·.task)

/-- The amendment-depth limit of a stream (R308). -/
def State.streamLimit (s : State) : StreamId → Nat
  | .queue .. => 7
  | .prog n => s.depthLimit n

/-- The handle and graph run that a stream's records name (R277, R290). -/
def State.streamName (s : State) : StreamId → Nat × Nat
  | .queue _ q => (q.val, 0)
  | .prog n => (((s.inst? n).map (·.handle)).getD 0, n)

/-- An address of a stream placed for n bytes: nothing on an address fault (R268, R271): bits [63:56] of the register, misalignment, a fault
in translation, a refusal, a line that no code corrects (R363). -/
def State.streamPlace (s : State) (sp : Space) (reg : DWord) (ofs : Int) (n : Nat) (use : Use) : Option (Nat × Acc × State) :=
  let va := (((reg.toNat : Int) + ofs) % 2 ^ 56).toNat
  if bits reg.toNat 63 56 != 0 || va % n != 0 then none
  else
    match s.place sp feCore va use with
    | (.ok a, s) =>
      if !bellUse a n 1 use || s.refusedAt feCore sp.part a.loc || ((use == .read || a.graded) && s.accBad a n) || s.accDead a n then none
      else some (va, a, s.countAcc sp feCore a (if use == .read then 1 else 0) (if use == .read then 0 else 1))
    | _ => none

/-- The number under which a stream's operations and its items of the egress hold buffer stand, where others have their thread's. -/
def State.streamUid (s : State) (i : StreamId) : Nat :=
  match i with
  | .queue p q => 2 ^ 65 + queueKey p.val q.val
  | .prog _ => 2 ^ 64 + (s.streamTask i).getD 0

/-- An operation of a stream: it belongs to no thread. -/
def State.opOfStream (s : State) (i : StreamId) (sp : Space) (kind : OpKind) (va : Nat) (a : Acc) (n : Nat) (data : List Byte)
    (words : List Word) : Op where
    kind := kind
    core := feCore
    thread := 2048 * feCore
    uid := s.streamUid i
    flag := none
    d := .discard
    va := va
    acc := a
    n := n
    data := data
    cmp := []
    ord := .relaxed
    task := (s.streamTask i).getD (2 ^ 64)
    part := sp.part
    inst := (s.streamName i).2
    words := words
    pc := 0
    issued := s.clk
    sent := false
    resp := none
    done := false
    tag := none
    void := false
    egress := false
    who := []
    laid := []
    plane := none
    seq := 0

/-- An operation of a stream on another package is asked for. -/
def State.streamOp (s : State) (i : StreamId) (sp : Space) (kind : OpKind) (va : Nat) (a : Acc) (n : Nat) (data : List Byte)
    (words : List Word) : Nat × State :=
  let (id, s) := s.fresh
  (id, (s.addOp id (s.opOfStream i sp kind va a n data words)).sendReady)

/-- What a stream reads: the bytes; nothing while another package has not answered, with the operation that asks it; or a fault. -/
inductive SRead where
  | bytes (s : State) (bs : List Byte)
  | wait (s : State) (op : Nat)
  | bad

/-- Eight bytes as a stream reads them: its own items of the egress hold buffer lie over what the location holds (R87, R230). -/
def State.streamSees (s : State) (i : StreamId) (sp : Space) (va : Nat) (a : Acc) (bs : List Byte) : SRead :=
  let (bs, s) := s.opBytes (s.opOfStream i sp .fill va a 8 [] []) bs
  .bytes s bs

/-- Eight bytes read by a stream; `op` asks another package already. -/
def State.streamRead (s : State) (i : StreamId) (sp : Space) (va : Nat) (a : Acc) (op : Option Nat) : SRead :=
  match a.loc.home with
  | some h => s.streamSees i sp va a (s.bytes h 8)
  | none =>
    match op with
    | none =>
      let (id, s) := s.streamOp i sp .fill va a 8 [] []
      .wait s id
    | some id =>
      match (mget s.ops id).bind (·.resp) with
      | none => .wait s id
      | some (bs, .performed) => ({ s with ops := mdel s.ops id } : State).streamSees i sp va a bs
      | some _ => .bad

/-- The line number under which a location's grade is kept (R291, R306; log 20). -/
def Acc.lineKey (a : Acc) : Option Nat := (a.lines 1).head?

/-- Must a program's CLD wait for a line that is GUESS or PROV (R296)? -/
def State.cldWaits (s : State) (i : StreamId) (a : Acc) : Bool :=
  match i, a.lineKey with
  | .prog _, some l => let g := (s.line l).grade; g == .guess || g == .prov
  | _, _ => false

/-- CLD judged, at its issue and again while it waits (R271, R296). The address is kept once it is formed. -/
def State.judgeLoad (s : State) (i : StreamId) (sp : Space) (va : Nat) (op : Option Nat) (d : CReg) : CRes :=
  match s.streamPlace sp (BitVec.ofNat 64 va) 0 8 .read with
  | none => .fault s 7
  | some (va, a, s1) =>
    match s1.streamRead i sp va a op with
    | .bad => .fault s1 7
    | .wait s2 id => .wait s2 (.load va (some id)) d
    | .bytes s2 bs =>
      if s2.cldWaits i a then .wait s2 (.load va none) d else .ok (s2.setC i d (BitVec.ofNat 64 (leNat bs)))

/-- CLD (R271). Its ordering is at DOM at least, as every access of the model is. -/
def execCld (_ord : Fin 3) (d a : CReg) (x : BitVec 14) (s : State) : Out :=
  cmdFrame s 1 fun s i sp =>
    let reg := s.getC i a
    if bits reg.toNat 63 56 != 0 then .fault s 7
    else s.judgeLoad i sp (((reg.toNat : Int) + x.toInt) % 2 ^ 56).toNat none d

/-- Is what a stream sends off the chip held (R271, R277, R304)? -/
def State.streamHolds (s : State) (i : StreamId) : Option Nat := (s.streamTask i).filter s.holds

/-- A stream's item enters the egress hold buffer, or the stream waits for room (R305). -/
def State.streamHold (s : State) (k : Nat) (x : HeldItem) (go : State → CRes) : CRes :=
  match s.task? k with
  | some t => if s.holdRoom t.inst t.die x.size then go (s.holdItem k x) else .stay s
  | none => .stay s

/-- A stream past a plain store: AMEND's outcome 6 (R276), CST's none. -/
def State.stored (s : State) (i : StreamId) (d : Option CReg) : CRes :=
  match d with
  | some d => .ok (s.setC i d 6).settle
  | none => .ok s.settle

/-- A plain store of a stream: a program's off-chip store below FINAL is held (R271, R304; DEDUCED, log 49); one to another package is
waited for, as a refusal is an address fault (R266, R271; DESIGN CHOICE, log 50). -/
def State.streamStore (s : State) (i : StreamId) (sp : Space) (va : Nat) (a : Acc) (data : List Byte) (d : Option CReg) : CRes :=
  match if a.offChip then s.streamHolds i else none with
  | some k => s.streamHold k (.store (2048 * feCore) (s.streamUid i) a data va sp.part [] { seq := s.nextId }) fun s => s.stored i d
  | none =>
    match a.loc with
    | .remote .. =>
      let (id, s1) := s.streamOp i sp .st va a data.length data []
      .wait s1 (.amend id d.isNone) (d.getD 0)
    | _ => (s.performStore a data sp.part).stored i d

/-- An amendment-depth fault cancels a program's graph run and nothing from a queue (R308). -/
def State.streamDepth (s : State) : StreamId → State
  | .queue .. => s
  | .prog n => s.cancelInst n 1 0 0 0 0 0

/-- A graded write of a stream that has an outcome, numbered as AMEND's (R276); a write lost with a dead link has no number, and cD then
takes a free value (R307; log 4). -/
def State.streamOutcome (s : State) (i : StreamId) : WOut → Option (Nat × State)
  | .wrote => some (0, s)
  | .amended => some (1, s)
  | .confirmed => some (2, s)
  | .same => some (3, s)
  | .final => some (4, s)
  | .depth => some (5, s.streamDepth i)
  | .waitLog | .waitAck => none
  | .lost => some s.freeNumber

/-- A graded write of a stream: CST requests FINAL, and the stream learns no outcome (R271); AMEND's goes to cD (R276). -/
def State.streamGraded (s : State) (i : StreamId) (sp : Space) (va : Nat) (a : Acc) (data : List Byte) (g : Grade) (d : Option CReg) : CRes :=
  match a.loc.home with
  | some h =>
    match s.gradedWrite h data g (s.streamTask i) (s.streamLimit i) with
    | (w, s1) =>
      match s1.streamOutcome i w with
      | none => .stay s1
      | some (r, s2) =>
        match d with
        | some d => .ok (s2.setC i d (BitVec.ofNat 64 r)).settle
        | none => .ok s2.settle
  | none =>
    let (id, s1) := s.streamOp i sp .st va a data.length data [BitVec.ofNat 32 (gradeCode g)]
    .wait s1 (.amend id d.isNone) (d.getD 0)

/-- CST (R271). DESIGN CHOICE, log 50. -/
def execCst (_ord : Fin 3) (a : CReg) (x : BitVec 14) (b : CReg) (s : State) : Out :=
  cmdFrame s 1 fun s i sp =>
    match s.streamPlace sp (s.getC i a) x.toInt 8 .write with
    | none => .fault s 7
    | some (va, acc, s1) =>
      let data := leBytes 8 (s1.getC i b).toNat
      if acc.graded then s1.streamGraded i sp va acc data .final none else s1.streamStore i sp va acc data none

/-- AMEND (R276). -/
def execAmend (wide : Bool) (g : Grade) (d a b : CReg) (s : State) : Out :=
  cmdFrame s 1 fun s i sp =>
    let n := if wide then 8 else 4
    match s.streamPlace sp (s.getC i a) 0 n .write with
    | none => .fault s 7
    | some (va, acc, s1) =>
      let data := leBytes n (s1.getC i b).toNat
      if acc.graded then s1.streamGraded i sp va acc data g (some d) else s1.streamStore i sp va acc data (some d)

/-! ### Control transfers (R272) -/

/-- The frame of a control transfer: in a queue it halts the queue with ERR 6. -/
def transferFrame (s : State) (n : Nat) (body : Nat → Inst → CRes) : Out :=
  cmdFrame s n fun s i _ =>
    match i with
    | .queue .. => .fault s 6
    | .prog m =>
      match s.inst? m with
      | some x => body m x
      | none => .fault s 6

/-- The word that a transfer names (R272): its own first word + IMM. -/
def transferTo (x : Inst) (imm : Word) : Int := (x.pc : Int) + imm.toInt

/-- CBR's condition (R272). -/
def ccondVal (cc : CCond) (a b : DWord) : Bool :=
  match cc with
  | .eq => a == b
  | .ne => a != b
  | .lt => a.toInt < b.toInt
  | .ge => b.toInt ≤ a.toInt
  | .ltu => a.toNat < b.toNat
  | .geu => b.toNat ≤ a.toNat

/-- CBR (R272). -/
def execCbr (cc : CCond) (a b : CReg) (imm : Word) (s : State) : Out :=
  transferFrame s 2 fun _ x => if ccondVal cc x.strm.c[a] x.strm.c[b] then .goto s (transferTo x imm) else .ok s

/-- CJMP (R272). -/
def execCjmp (imm : Word) (s : State) : Out := transferFrame s 2 fun _ x => .goto s (transferTo x imm)

/-- CCALL (R272): a ninth push is a program fault. -/
def execCcall (imm : Word) (s : State) : Out :=
  transferFrame s 2 fun m x =>
    if 8 ≤ x.stack.length then .fault s 5
    else .goto (s.modInst m fun x => { x with stack := (x.pc + 2) :: x.stack }) (transferTo x imm)

/-- CRET (R272): an empty stack is a program fault. -/
def execCret (s : State) : Out :=
  transferFrame s 1 fun m x =>
    match x.stack with
    | pc :: rest => .goto (s.modInst m fun x => { x with stack := rest }) pc
    | [] => .fault s 5

/-- CLOOP (R272). -/
def execCloop (d : CReg) (imm : Word) (s : State) : Out :=
  transferFrame s 2 fun m x =>
    let w := x.strm.c[d] - 1
    let s1 := s.setC (.prog m) d w
    if w = 0 then .ok s1 else .goto s1 (transferTo x imm)

/-! ### Launches (R273, R274) -/

/-- A running graph run of a level-1 partition (R273). -/
def State.runningOf (s : State) (lp1 n : Nat) : Option Inst := (s.inst? n).filter fun i => i.lp1 == lp1 && !i.ended && !i.cancelled

/-- LAUNCH's status and the state after it (R273). -/
def State.openGate (s : State) (lp1 a b : Nat) : Nat × State :=
  if bits a 31 12 != 0 || (b != 0 && bits b 63 24 != 0) then (3, s)
  else
    let n := bits a 63 32
    let k := bits a 11 0
    match s.runningOf lp1 n with
    | none => (2, s)
    | some i =>
      match i.nodes[k]?, s.nodeOf n k with
      | some st, some nd =>
        if !nd.gated || st.gateOpen then (1, s)
        else (0, (s.modNode n k fun st => { st with gateOpen := true, grid := if b == 0 then st.grid else b }).decCount n k)
      | _, _ => (3, s)

/-- LAUNCH (R273). -/
def execLaunch (d a b : CReg) (s : State) : Out :=
  cmdFrame s 1 fun s i _ =>
    let (st, s1) := s.openGate (s.streamLp1 i) (s.getC i a).toNat (s.getC i b).toNat
    .ok (s1.setC i d (BitVec.ofNat 64 st)).settle

/-- GRAPH (R274): as a launch word with the argument pointer cA + 256 * idx. -/
def execGraph (d a : CReg) (handle : BitVec 16) (flags idx : Byte) (s : State) : Out :=
  cmdFrame s 2 fun s i _ =>
    let ap := (s.getC i a).toNat + 256 * idx.toNat
    match s.launch (s.streamLp1 i) (handle.toNat * 2 ^ 48 + bits ap 47 8 * 2 ^ 8 + flags.toNat) with
    | (.ok n, s1) => .ok (s1.setC i d (BitVec.ofNat 64 n))
    | (.error r, s1) => .ok (s1.setC i d (BitVec.ofNat 64 (2 ^ 63 + r)))

/-! ### Waits (R275) -/

/-- A program counts the taint of a node on which its CWAIT.node returned 0 (R296, R302). -/
def State.dependOn (s : State) (i : StreamId) (n k : Nat) : State :=
  match s.streamTask i with
  | some t => s.modTask t fun t => if t.nodes.contains (n, k) then t else { t with nodes := t.nodes ++ [(n, k)] }
  | none => s

/-- What CWAIT.node returns for a node of a run, if it may (R275). -/
def State.nodeStatus (s : State) (n k : Nat) : Option Nat :=
  match s.inst? n, s.nodeSt n k with
  | some i, some st => if st.complete then some 0 else if st.faulted || i.cancelled then some 1 else if i.ended then some 3 else none
  | _, _ => some 2

/-- A node waited for (R275). -/
def State.judgeNode (s : State) (i : StreamId) (n k : Nat) (d : CReg) : CRes :=
  match s.nodeStatus n k with
  | none => .wait s (.node n k) d
  | some r => .ok ((if r == 0 then s.dependOn i n k else s).setC i d (BitVec.ofNat 64 r)).settle

/-- A graph run waited for (R275). DESIGN CHOICE, log 53. -/
def State.judgeInst (s : State) (i : StreamId) (n : Nat) (d : CReg) : CRes :=
  match s.inst? n with
  | none => .ok (s.setC i d 2)
  | some x => if !x.ended then .wait s (.inst n) d else .ok (s.setC i d (if x.cancelled then 1 else 0))

/-- A word of memory waited for (R275): its return is an acquire. -/
def State.judgeMem (s : State) (i : StreamId) (sp : Space) (va least : Nat) (op : Option Nat) (d : CReg) : CRes :=
  match s.streamPlace sp (BitVec.ofNat 64 va) 0 8 .read with
  | none => .fault s 7
  | some (va, a, s1) =>
    match s1.streamRead i sp va a op with
    | .bad => .fault s1 7
    | .wait s2 id => .wait s2 (.mem va least (some id)) d
    | .bytes s2 bs => if least ≤ leNat bs then .ok (s2.setC i d (BitVec.ofNat 64 (leNat bs))) else .wait s2 (.mem va least none) d

/-- The time waited for (R275). -/
def State.judgeTime (s : State) (i : StreamId) (least : Nat) (d : CReg) : CRes :=
  if least ≤ s.ns then .ok (s.setC i d (BitVec.ofNat 64 s.ns)) else .wait s (.time least) d

/-- Another package's answer to a write (R276, R306): an AMEND of a page that is not graded has outcome 6. -/
def State.judgeAmend (s : State) (i : StreamId) (op : Nat) (cst : Bool) (d : CReg) : CRes :=
  match (mget s.ops op).bind (·.resp) with
  | none => .wait s (.amend op cst) d
  | some (bs, f) =>
    let s1 : State := { s with ops := mdel s.ops op }
    let r := if (mget s.ops op).any (·.acc.graded) then (bs.headD 0).toNat else 6
    match f with
    | .performed =>
      let s2 := if r == 5 then s1.streamDepth i else s1
      .ok (if cst then s2 else s2.setC i d (BitVec.ofNat 64 r)).settle
    | .refused => .fault s1 7
    | .lost =>
      let (n, s2) := s1.freeNumber
      .ok (if cst then s2 else s2.setC i d (BitVec.ofNat 64 n))

/-- CWAIT.node (R275). -/
def execCwaitNode (d a : CReg) (s : State) : Out :=
  cmdFrame s 1 fun s i _ =>
    let x := (s.getC i a).toNat
    let n := bits x 63 32
    let k := bits x 11 0
    if bits x 31 12 != 0 || (s.runningOf (s.streamLp1 i) n).isNone || (s.nodeSt n k).isNone then .ok (s.setC i d 2)
    else s.judgeNode i n k d

/-- CWAIT.inst (R275). -/
def execCwaitInst (d a : CReg) (s : State) : Out :=
  cmdFrame s 1 fun s i _ =>
    let n := bits (s.getC i a).toNat 63 32
    if (s.inst? n).any fun x => x.lp1 == s.streamLp1 i then s.judgeInst i n d else .ok (s.setC i d 2)

/-- CWAIT.mem (R275). -/
def execCwaitMem (d a b : CReg) (s : State) : Out :=
  cmdFrame s 1 fun s i sp =>
    if bits (s.getC i a).toNat 63 56 != 0 then .fault s 7
    else s.judgeMem i sp (s.getC i a).toNat (s.getC i b).toNat none d

/-- CWAIT.time (R275). -/
def execCwaitTime (d b : CReg) (s : State) : Out := cmdFrame s 1 fun s i _ => s.judgeTime i (s.getC i b).toNat d

/-- A waiting command judged again (R275, R296). -/
def State.judgeWait (s : State) (i : StreamId) (sp : Space) (w : CWait) (d : CReg) : CRes :=
  match w with
  | .node n k => s.judgeNode i n k d
  | .inst n => s.judgeInst i n d
  | .mem va least op => s.judgeMem i sp va least op d
  | .time least => s.judgeTime i least d
  | .load va op => s.judgeLoad i sp va op d
  | .amend op cst => s.judgeAmend i op cst d

/-- CWAIT_CONDITION_MET (R275): a waiting stream whose condition holds resumes with its result. -/
def execCwaitConditionMet (stream : StreamId) (s : State) : Out :=
  match (s.strm stream).wait, s.streamSpace stream with
  | some (w, d, n), some sp =>
    let s1 := s.setStrm stream { s.strm stream with wait := none }
    .next (State.cmdFinish stream n (s1.judgeWait stream sp w d))
  | _, _ => .next s

/-! ### SIGNAL, CFENCE, CTIME, CHALT (R277) -/

/-- SIGNAL (R277): a program's is held while its taint is below FINAL (R304). -/
def execSignal (vec : BitVec 11) (rse : Bool) (a : CReg) (imm : Word) (s : State) : Out :=
  cmdFrame s 2 fun s i _ =>
    let (handle, inst) := s.streamName i
    let x := HeldItem.signal (s.streamLp1 i) imm.toNat (s.getC i a).toNat (if rse then some vec.toNat else none) inst handle { seq := s.nextId }
    match s.streamHolds i with
    | some k => s.streamHold k x fun s => .ok s
    | none => .ok (s.performHeld x)

/-- CFENCE (R277): the stream's earlier CSTs and AMENDs have been performed, or are held and not waited for (R230). -/
def execCfence (s : State) : Out := cmdFrame s 1 fun s _ _ => .ok s

/-- CTIME (R277). -/
def execCtime (d : CReg) (s : State) : Out := cmdFrame s 1 fun s i _ => .ok (s.setC i d (BitVec.ofNat 64 s.ns))

/-- CHALT (R277): QEXEC passes it, then the queue stops with STATE 3; a program ends. -/
def execChalt (s : State) : Out :=
  cmdFrame s 1 fun s i _ =>
    match i with
    | .queue p q => .stay ((s.streamPast i 1).haltQueue (queueKey p.val q.val) 0 3)
    | .prog n =>
      match s.inst? n with
      | some x => .stay ((s.modInst n fun x => { x with progEnd := true }).completeTask x.task).settle
      | none => .stay s

end Sys2Proof.Machine
end

