-- ==== Sys2Proof/Machine/Control.lean ====
section
/-! DEFINITION. Lane control (R107-R110) and the issue of CONT and ENQ (R111, R112). -/

namespace Sys2Proof.Machine

/-! ### Branches and jumps -/

/-- A jump to the code base plus a byte offset (R16, R107). -/
def State.jump (s : State) (k : Nat) (w : Word) (go : State → Addr → Res) : Res :=
  if w.toNat % 32 != 0 then .trap s cMisaligned else go s (s.bandBase (bandOfThread k) + w.setWidth 56)

/-- BRA (R107). -/
def execBra (imm : Word) (s : State) : Out := laneFrame s [] [] fun _ t => .goto s (clauseTarget t.pc imm)

/-- BRZ (R107). -/
def execBrz (a : LaneSrc) (imm : Word) (s : State) : Out :=
  laneFrame s [] (LaneSrc.regs a) fun k t => if s.laneSrc k .int a = 0 then .goto s (clauseTarget t.pc imm) else .goto s (nextClause t.pc)

/-- BRNZ (R107). -/
def execBrnz (a : LaneSrc) (imm : Word) (s : State) : Out :=
  laneFrame s [] (LaneSrc.regs a) fun k t => if s.laneSrc k .int a = 0 then .goto s (nextClause t.pc) else .goto s (clauseTarget t.pc imm)

/-- JMPI (R107). -/
def execJmpi (a : LaneSrc) (s : State) : Out :=
  laneFrame s [] (LaneSrc.regs a) fun k _ => s.jump k (s.laneSrc k .int a) fun s pc => .goto s pc

/-! ### The return stack (R108, R283) -/

/-- The local area of a thread (R283): its address and its size in chunks; nothing where the band has no local slot. A thread's part of
its band's slot lies at its lane home's place (DEDUCED, log 22). -/
def State.localArea (s : State) (k : Nat) : Option (Nat × Nat) :=
  match s.band? (bandOfThread k) with
  | none => none
  | some b =>
    match b.local?, s.nodeOf b.inst b.node with
    | some j, some n => some (n.lbase * 2 ^ 16 + j * 2048 * n.lsz + laneOfThread k * 64 * n.lsz, n.lsz)
    | _, _ => none

/-- The bytes of a chunk: eight entries of 8 bytes, the oldest first (R108; log 22). -/
def chunkBytes (rs : List Addr) : List Byte := rs.reverse.flatMap fun a => leBytes 8 a.toNat

/-- The entries of a chunk, the latest first. -/
def chunkEntries : List Byte → List Addr
  | b0 :: b1 :: b2 :: b3 :: b4 :: b5 :: b6 :: b7 :: bs =>
    chunkEntries bs ++ [BitVec.ofNat 56 (leNat [b0, b1, b2, b3, b4, b5, b6, b7])]
  | _ => []

/-- The spill of a full return stack (R108): its eight entries as one chunk, a store of the thread. To a graded page of this package it is
a graded store, and one that amends waits as a release does (R312); to another package, or off the chip, it is performed at once and is never held (DESIGN CHOICE, log 86: the manual does
not say how a spill there is held or graded). -/
def State.spill (s : State) (k : Nat) (t : Thread) (go : State → Res) : Res :=
  match s.localArea k with
  | none => .trap s (cAccess 10)
  | some (base, n) =>
    if n ≤ t.spilled then .trap s (cAccess 10)
    else
      let va := base + 64 * t.spilled
      s.placeVa (s.bandSpace (bandOfThread k)) (coreOfThread k) va 64 7 .write false fun s acc =>
        let s := s.countOnce k t acc 0 1
        let emptied (s : State) : State := s.modThread k fun t => { t with rs := [], spilled := t.spilled + 1 }
        match acc.gradedLine with
        | some l =>
          let data := chunkBytes t.rs
          let o := { s.blankOp k t .st with va := va, acc := acc, n := 64, data := data, ord := s.gradedOrd (64 * l) data .relaxed }
          if !s.mayPerform s.nextId o then .stay s
          else
            match s.heldWrite k (64 * l) data .final emptied with
            | .ok s => go s
            | r => r
        | none => go (emptied (s.performStore acc (chunkBytes t.rs) (s.partOf k)))

/-- The chunk that a fill brings, with the read in the task's logs where its page is graded (R294, R297): it waits while the read log has no
room. -/
def State.fillWith (s : State) (k : Nat) (acc : Acc) (bs : List Byte) (go : State → List Addr → Res) : Res :=
  match (acc.lines 64).head? with
  | none => go s (chunkEntries bs)
  | some l =>
    match s.logRead (s.taskOf k) l with
    | some s => go s (chunkEntries bs)
    | none => .stay s

/-- The fill of an empty return stack from the latest chunk (R108): a load of the thread, which holds it where another package must
answer. -/
def State.fillStack (s : State) (k : Nat) (t : Thread) (go : State → List Addr → Res) : Res :=
  match s.localArea k with
  | none => .trap s (cAccess 10)
  | some (base, _) =>
    let va := base + 64 * (t.spilled - 1)
    s.placeVa (s.bandSpace (bandOfThread k)) (coreOfThread k) va 64 7 .read false fun s acc =>
      let s := s.countOnce k t acc 1 0
      match acc.loc.home with
      | some h => s.fillWith k acc (s.bytes h 64) go
      | none =>
        match s.ops.find? fun x => x.2.thread == k && x.2.uid == t.uid && x.2.kind == .fill with
        | none =>
          let (id, s) := s.fresh
          .stay (s.addOp id { s.blankOp k t .fill with va := va, acc := acc, n := 64 }).sendReady
        | some (id, o) =>
          match o.resp with
          | none => .stay s
          | some (bs, .performed) =>
            match s.fillWith k acc bs go with
            | .stay _ => .stay s
            | _ => (s.dropOp id o).fillWith k acc bs go
          | some (_, .refused) => .trap (s.dropOp id o) (cAccess 8)
          | some (_, .lost) => .trap (s.dropOp id o) (cAccess 9)

/-- A push and a transfer (R108). -/
def State.pushGo (s : State) (k : Nat) (t : Thread) (pc : Addr) : Res :=
  let push (s : State) : Res := .goto (s.modThread k fun t => { t with rs := nextClause t.pc :: t.rs }) pc
  if t.rs.length < 8 then push s else s.spill k t push

/-- CALL (R108). -/
def execCall (imm : Word) (s : State) : Out := laneFrame s [] [] fun k t => s.pushGo k t (clauseTarget t.pc imm)

/-- CALLI (R108). -/
def execCalli (a : LaneSrc) (s : State) : Out :=
  laneFrame s [] (LaneSrc.regs a) fun k t => s.jump k (s.laneSrc k .int a) fun s pc => s.pushGo k t pc

/-- A pop into the pc (R108). -/
def State.popGo (s : State) (k : Nat) : List Addr → Res
  | [] => .trap s ⟨1, 1, 0⟩
  | pc :: rs => .goto (s.modThread k fun t => { t with rs := rs }) pc

/-- RET (R108): on an empty stack with nothing spilled, a trap with DETAIL 1. -/
def execRet (s : State) : Out :=
  laneFrame s [] [] fun k t =>
    if t.rs.isEmpty && t.spilled != 0 then
      s.fillStack k t fun s rs => (s.modThread k fun t => { t with spilled := t.spilled - 1 }).popGo k rs
    else s.popGo k t.rs

/-! ### EXIT, NOP, BRK, TRAP -/

/-- EXIT (R109). -/
def execExit (s : State) : Out := laneFrame s [] [] fun k _ => .stay (s.endThread k).settle

/-- NOP (R107). -/
def execNop (s : State) : Out := laneFrame s [] [] fun _ _ => .ok s

/-- BRK (R110, R369): with the debug right held it halts the thread; one that it halted goes on after it when it is resumed (DEDUCED,
log 23). -/
def execBrk (s : State) : Out :=
  laneFrame s [] [] fun k t =>
    if !(s.part (s.partOf k)).right then .trap s ⟨9, 0, 0⟩
    else if t.brkSkip then .goto s (nextClause t.pc)
    else .stay ((s.haltThread k).modThread k fun t => { t with brkSkip := true })

/-- TRAP (R110). -/
def execTrap (n : Byte) (s : State) : Out := laneFrame s [] [] fun _ _ => .trap s ⟨8, 0, n.toNat⟩

/-! ### CONT and ENQ -/

/-- CONT (R111): the record is taken from the registers at issue; the operation carries the issuer's role and node. -/
def execCont (ab : Ab) (d : LaneDst) (n : Fin 145) (s : State) : Out :=
  laneFrame s (LaneDst.regs d) (runFrom 16 [n.val]) fun k t =>
    let b := s.band? (bandOfThread k)
    .ok (s.issueOp k t ab { s.blankOp k t .cont with
      d := d, words := t.run n.val 16, va := (b.map (·.role)).getD 0, n := (b.map (·.node)).getD 0 })

/-- ENQ (R112): the operation carries A. -/
def execEnq (ab : Ab) (d : LaneDst) (a : LaneSrc) (b : Fin 159) (s : State) : Out :=
  laneFrame s (LaneDst.regs d) (LaneSrc.regs a ++ [b.val, b.val + 1]) fun k t =>
    .ok (s.issueOp k t ab { s.blankOp k t .enq with d := d, words := t.run b.val 2, va := (s.laneSrc k .int a).toNat })

end Sys2Proof.Machine
end

