-- ==== Sys2Proof/Machine/HaspSetup.lean ====
section
/-! DEFINITION. Hasp setup and the strands' hasp instructions (R134-R144). -/

namespace Sys2Proof.Machine

/-- Does a party's block hold hasp n; is it a membership hasp (R138)? -/
def State.partyHasp (s : State) (p : Party) (n : Nat) : Bool × Bool :=
  match s.blockOfParty p with
  | some (_, b) => (b.holds n, b.holds n && bitAt b.membs.toNat n)
  | none => (false, false)

/-- The frame of a setup instruction on hasp n (R138): held by the block, and no membership hasp unless the instruction allows one. -/
def haspFrame (s : State) (n : Nat) (member : Bool) (body : State → Party → Nat → Res) : Out :=
  uniFrame s fun s p _ =>
    let (held, memb) := s.partyHasp p n
    if !held || (memb && !member) then .trap s (cHasp n) else body s p p.core

/-- A strand that waits on an invalidated hasp traps (R144). -/
def State.trapWaiters (s : State) (c n : Nat) : State :=
  [2 * c, 2 * c + 1].foldl (fun s q =>
    match (s.strand q).status with
    | .wait m _ _ => if m == n then s.strandTrap q (cHasp n) else s
    | _ => s) s

/-- The stages that an invalidation of hasp n reaches: itself, or its whole ring (R143): the hasps that are still stages of it,
with its RSTG and RHEAD (R142). -/
def State.ringOf (s : State) (c n : Nat) : List Nat :=
  let h := s.hasp (haspKey c n)
  if h.ring then
    ((List.range (h.rstg + 1)).map (· + h.rhead)).filter fun m =>
      let x := s.hasp (haspKey c m)
      m == n || (x.ring && x.rstg == h.rstg && x.rhead == h.rhead)
  else [n]

/-- HINV of hasp n, and of its ring (R143, R144). -/
def State.invalidateRing (s : State) (c n : Nat) : State :=
  (s.ringOf c n).foldl (fun s m => (s.invalidate c m).trapWaiters c m) s

/-- A hasp initialised (R139). -/
def State.initHasp (s : State) (c n exp : Nat) : State := s.setHasp (haspKey c n) ((s.hasp (haspKey c n)).init exp)

/-- HINIT (R139). -/
def execHinit (h : Fin 32) (a : UniSrc) (s : State) : Out :=
  haspFrame s h.val false fun s p c =>
    let (w, s1) := s.uniSrc p false a
    if 4095 < w.toNat then .trap s (cHasp h.val) else .ok ((s1.invalidateRing c h.val).initHasp c h.val w.toNat)

/-- Set a source slot of a hasp. -/
def Hasp.setSlot (h : Hasp) (i : Fin 4) (x : HSlot) : Hasp := { h with slots := h.slots.set i x }

/-- HSRC (R140, R134, R137). -/
def execHsrc (h : Fin 32) (i : Fin 4) (a b : UniSrc) (s : State) : Out :=
  haspFrame s h.val true fun s p c =>
    let (x, s1) := s.uniSrc p false a
    let (y, s1) := s1.uniSrc p false b
    let hk := haspKey c h.val
    if !(s.hasp hk).valid || bits x.toNat 31 17 != 0 || 96 ≤ bits x.toNat 6 0 || 2 ^ 24 ≤ y.toNat then .trap s (cHasp h.val)
    else .ok (s1.setHasp hk ((s.hasp hk).setSlot i ⟨true, x.toNat, y.toNat, 0⟩))

/-- HSRC with CLR (R140). -/
def execHsrcClr (h : Fin 32) (i : Fin 4) (s : State) : Out :=
  haspFrame s h.val true fun s _ c =>
    let hk := haspKey c h.val
    let x := s.hasp hk
    if !x.valid then .trap s (cHasp h.val) else .ok ((s.setHasp hk (x.setSlot i { x.slots[i] with act := false })).tryComplete c h.val)

/-- HEXP (R141, R134, R137). -/
def execHexp (h : Fin 32) (i : Fin 4) (a b : UniSrc) (s : State) : Out :=
  haspFrame s h.val true fun s p c =>
    let (x, s1) := s.uniSrc p false a
    let (y, s1) := s1.uniSrc p false b
    let hk := haspKey c h.val
    let r := s.hasp hk
    let q := r.slots[i]
    if !r.valid || (x != 0 && !q.act) || (y != 0 && (s.partyHasp p h.val).2) || 2 ^ 24 ≤ q.expect + x.toNat || 4095 < r.expArr + y.toNat then
      .trap s (cHasp h.val)
    else
      .ok ((s1.setHasp hk ({ r with expArr := r.expArr + y.toNat }.setSlot i { q with expect := q.expect + x.toNat })).tryComplete c h.val)

/-- HRING (R142). -/
def execHring (h : Fin 32) (a b : UniSrc) (s : State) : Out :=
  haspFrame s h.val false fun s p c =>
    let (x, s1) := s.uniSrc p false a
    let (y, s1) := s1.uniSrc p false b
    let k := x.toNat
    let stages := (List.range k).map (· + h.val)
    if k < 1 || 8 < k || 31 < h.val + k - 1 || 4095 < y.toNat || stages.any fun n => !(s.partyHasp p n).1 || (s.partyHasp p n).2 then
      .trap s (cHasp h.val)
    else
      let s := stages.foldl (fun s n => s.invalidateRing c n) s1
      .ok (stages.foldl (fun s n =>
        let s := s.initHasp c n y.toNat
        let hk := haspKey c n
        s.setHasp hk { s.hasp hk with ring := true, rbase := n == h.val, rstg := k - 1, rhead := h.val }) s)

/-- HINV (R143). -/
def execHinv (h : Fin 32) (s : State) : Out := haspFrame s h.val false fun s _ c => .ok (s.invalidateRing c h.val)

/-- SHARR (R144, R12, R137): it holds the strand until its earlier commands have completed. -/
def execSharr (h : Fin 32) (s : State) : Out :=
  uniFrame s fun s p _ =>
    match p with
    | .band _ => .trap s cIllegal
    | .strand q =>
      let hk := haspKey p.core h.val
      let x := s.hasp hk
      if !(s.partyHasp p h.val).1 || !x.valid then .trap s (cHasp h.val)
      else if !(s.strandCmds q).isEmpty then .stay s
      else if x.expArr < x.arrived + 1 then .trap s (cHasp h.val)
      else .ok ((s.setHasp hk { x with arrived := x.arrived + 1 }).tryComplete p.core h.val)

/-- SHWAIT (R144, R101). A strand that is being stepped halts when its wait ends (R373). -/
def execShwait (h : Fin 32) (a : UniSrc) (s : State) : Out :=
  uniFrame s fun s p _ =>
    match p with
    | .band _ => .trap s cIllegal
    | .strand q =>
      let (w, s1) := s.uniSrc p false a
      let x := s.hasp (haspKey p.core h.val)
      let ph := w.toNat % 2 ^ 16
      if !(s.partyHasp p h.val).1 || !x.valid then .trap s (cHasp h.val)
      else if phaseDone x.phase ph then .ok (s1.dropRoc p.core)
      else
        let y := s1.strand q
        let nxt := (s.headerAt (s.strandInst q) y.pc).after y.pc
        .stay (s1.setStrand q { y with status := .wait h.val ph nxt, haltReq := y.haltReq || y.stepping })

end Sys2Proof.Machine
end

