-- ==== Sys2Proof/Machine/LaneFloat.lean ====
section
/-! DEFINITION. Lane float, packed and conversion instructions, and moves (R66-R82). -/

namespace Sys2Proof.Machine

/-- The negated value (FSUB adds it). -/
def FVal.neg : FVal → FVal
  | .nan => .nan
  | .inf s => .inf (!s)
  | .fin s m e => .fin (!s) m e

/-- FADD (R66). -/
def execFadd (rm : Rm) (d : LaneDst) (a : LaneSrc) (x : Xl) (b : LaneSrc) (s : State) : Out :=
  laneCompute s (LaneDst.regs d) (read2 a b) .f32 d a x fun s k v => fin32 rm (faddEx rm (rd32 v) (rd32 (s.laneSrc k .f32 b)))

/-- FSUB (R66). -/
def execFsub (rm : Rm) (d : LaneDst) (a : LaneSrc) (x : Xl) (b : LaneSrc) (s : State) : Out :=
  laneCompute s (LaneDst.regs d) (read2 a b) .f32 d a x fun s k v => fin32 rm (faddEx rm (rd32 v) (FVal.neg (rd32 (s.laneSrc k .f32 b))))

/-- FMUL (R66). -/
def execFmul (rm : Rm) (d : LaneDst) (a : LaneSrc) (x : Xl) (b : LaneSrc) (s : State) : Out :=
  laneCompute s (LaneDst.regs d) (read2 a b) .f32 d a x fun s k v => fin32 rm (fmulEx (rd32 v) (rd32 (s.laneSrc k .f32 b)))

/-- FFMA (R66, R67). -/
def execFfma (rm : Rm) (d : LaneDst) (a : LaneSrc) (x : Xl) (b c : LaneSrc) (s : State) : Out :=
  laneCompute s (LaneDst.regs d) (read3 a b c) .f32 d a x fun s k v =>
    fin32 rm (ffmaEx rm (rd32 v) (rd32 (s.laneSrc k .f32 b)) (rd32 (s.laneSrc k .f32 c)))

/-- FMIN (R68). -/
def execFmin (d : LaneDst) (a b : LaneSrc) (s : State) : Out :=
  laneCompute s (LaneDst.regs d) (read2 a b) .f32 d a .none fun s k v => (BitVec.ofNat 32 (fp32.fmin v.toNat (s.laneSrc k .f32 b).toNat), 0)

/-- FMAX (R68). -/
def execFmax (d : LaneDst) (a b : LaneSrc) (s : State) : Out :=
  laneCompute s (LaneDst.regs d) (read2 a b) .f32 d a .none fun s k v => (BitVec.ofNat 32 (fp32.fmax v.toNat (s.laneSrc k .f32 b).toNat), 0)

/-- FABS (R68): bit 31 cleared, any pattern taken as bits. -/
def execFabs (d : LaneDst) (a : LaneSrc) (s : State) : Out :=
  laneCompute s (LaneDst.regs d) (LaneSrc.regs a) .f32 d a .none fun _ _ v => (v &&& 0x7FFFFFFF, 0)

/-- FNEG (R68): bit 31 inverted. -/
def execFneg (d : LaneDst) (a : LaneSrc) (s : State) : Out :=
  laneCompute s (LaneDst.regs d) (LaneSrc.regs a) .f32 d a .none fun _ _ v => (v ^^^ 0x80000000, 0)

/-- FCMP (R69). -/
def execFcmp (cc : FCond) (d : LaneDst) (a : LaneSrc) (x : Xl) (b : LaneSrc) (s : State) : Out :=
  laneCompute s (LaneDst.regs d) (read2 a b) .f32 d a x fun s k v =>
    let r := fcmpVal cc (rd32 v) (rd32 (s.laneSrc k .f32 b))
    (boolWord r.1, r.2)

/-- FCLASS (R70). -/
def execFclass (d : LaneDst) (a : LaneSrc) (s : State) : Out :=
  laneCompute s (LaneDst.regs d) (LaneSrc.regs a) .f32 d a .none fun _ _ v => (fclassVal v, 0)

/-- A float instruction of one source (R66, R67, R71). -/
def floatUnary (f : FVal → FRes) (d : LaneDst) (a : LaneSrc) (x : Xl) (s : State) : Out :=
  laneCompute s (LaneDst.regs d) (LaneSrc.regs a) .f32 d a x fun _ _ v => f (rd32 v)

/-- FRCP (R67). -/
def execFrcp (rm : Rm) (d : LaneDst) (a : LaneSrc) (x : Xl) (s : State) : Out := floatUnary (frcpVal rm) d a x s

/-- FRSQ (R67). -/
def execFrsq (rm : Rm) (d : LaneDst) (a : LaneSrc) (x : Xl) (s : State) : Out := floatUnary (frsqVal rm) d a x s

/-- FSQRT (R67). -/
def execFsqrt (rm : Rm) (d : LaneDst) (a : LaneSrc) (x : Xl) (s : State) : Out := floatUnary (fsqrtVal rm) d a x s

/-- FTRN (R71). -/
def execFtrn (fn : TrnFn) (rm : Rm) (d : LaneDst) (a : LaneSrc) (x : Xl) (s : State) : Out := floatUnary (ftrnVal fn rm) d a x s

/-- A packed operation on element i of A and B (R72). -/
def packed2 (fmt : PFmt) (f : Nat → Nat → Nat × Word) (d : LaneDst) (a : LaneSrc) (x : Xl) (b : LaneSrc) (s : State) : Out :=
  laneCompute s (LaneDst.regs d) (read2 a b) (.packed fmt) d a x fun s k v =>
    let w := s.laneSrc k (.packed fmt) b
    perHalf fun i => f (half v i) (half w i)

/-- PADD (R72). -/
def execPadd (fmt : PFmt) (rm : Rm) (d : LaneDst) (a : LaneSrc) (x : Xl) (b : LaneSrc) (s : State) : Out :=
  packed2 fmt (fun p q => (pfmt fmt).finish rm (faddEx rm ((pfmt fmt).read p) ((pfmt fmt).read q))) d a x b s

/-- PMUL (R72). -/
def execPmul (fmt : PFmt) (rm : Rm) (d : LaneDst) (a : LaneSrc) (x : Xl) (b : LaneSrc) (s : State) : Out :=
  packed2 fmt (fun p q => (pfmt fmt).finish rm (fmulEx ((pfmt fmt).read p) ((pfmt fmt).read q))) d a x b s

/-- PFMA (R72). -/
def execPfma (fmt : PFmt) (rm : Rm) (d : LaneDst) (a : LaneSrc) (x : Xl) (b c : LaneSrc) (s : State) : Out :=
  laneCompute s (LaneDst.regs d) (read3 a b c) (.packed fmt) d a x fun s k v =>
    let w := s.laneSrc k (.packed fmt) b
    let u := s.laneSrc k (.packed fmt) c
    let rd := (pfmt fmt).read
    perHalf fun i => (pfmt fmt).finish rm (ffmaEx rm (rd (half v i)) (rd (half w i)) (rd (half u i)))

/-- PMIN (R72). -/
def execPmin (fmt : PFmt) (d : LaneDst) (a : LaneSrc) (x : Xl) (b : LaneSrc) (s : State) : Out :=
  packed2 fmt (fun p q => ((pfmt fmt).fmin p q, 0)) d a x b s

/-- PMAX (R72). -/
def execPmax (fmt : PFmt) (d : LaneDst) (a : LaneSrc) (x : Xl) (b : LaneSrc) (s : State) : Out :=
  packed2 fmt (fun p q => ((pfmt fmt).fmax p q, 0)) d a x b s

/-- PDOT (R73): A and B packed, C one FP32 value. -/
def execPdot (fmt : PFmt) (rm : Rm) (d : LaneDst) (a : LaneSrc) (x : Xl) (b c : LaneSrc) (s : State) : Out :=
  laneCompute s (LaneDst.regs d) (read3 a b c) (.packed fmt) d a x fun s k v =>
    let w := s.laneSrc k (.packed fmt) b
    let rd := (pfmt fmt).read
    fin32 rm (fdotEx rm (rd (half v 0)) (rd (half w 0)) (rd (half v 1)) (rd (half w 1)) (rd32 (s.laneSrc k .f32 c)))

/-- CVT (R74). -/
def execCvt (dt st : NumType) (rm : Rm) (d : LaneDst) (a : LaneSrc) (x : Xl) (s : State) : Out :=
  laneCompute s (LaneDst.regs d) (LaneSrc.regs a) (.cvt st) d a x fun _ _ v => NumType.deliver dt rm (NumType.read st v)

/-- FRND (R75). -/
def execFrnd (rm : Rm) (d : LaneDst) (a : LaneSrc) (x : Xl) (s : State) : Out :=
  laneCompute s (LaneDst.regs d) (LaneSrc.regs a) .f32 d a x fun _ _ v => (frndVal rm v, 0)

/-- The lane registers that B of a pack form names. -/
def Pcvt2Form.regs : Pcvt2Form → List Nat
  | .pack _ _ b => LaneSrc.regs b
  | .unpack .. => []

/-- PCVT2 (R76). -/
def execPcvt2 (f : Pcvt2Form) (d : LaneDst) (a : LaneSrc) (x : Xl) (s : State) : Out :=
  match f with
  | .pack fmt rm b =>
    laneCompute s (LaneDst.regs d) (read2 a b) .f32 d a x fun s k v =>
      let w := s.laneSrc k .f32 b
      perHalf fun i => (pfmt fmt).deliver rm (rd32 (if i == 0 then v else w))
  | .unpack fmt hi =>
    laneCompute s (LaneDst.regs d) (LaneSrc.regs a) (.packed fmt) d a x fun _ _ v => fp32.deliverW .nearest ((pfmt fmt).read (half v (boolNat hi)))

/-- An element of PCVT4 read as its type (R77). -/
def T8.read (t : T8) (e : Nat) : FVal :=
  match t with
  | .e4m3 => fe4m3.read e
  | .e5m2 => fe5m2.read e
  | .s8 => ofIntVal (sextNat 8 e)

/-- An element of PCVT4 delivered in its type, as a byte (R45, R77). -/
def T8.deliver (t : T8) (rm : Rm) (v : FVal) : FRes :=
  match t with
  | .e4m3 => fe4m3.deliverW rm v
  | .e5m2 => fe5m2.deliverW rm v
  | .s8 => NumType.deliver .s8 rm v

/-- Results of n bits each packed from the low end, with the OR of their conditions (R36, R44). -/
def packElems (n : Nat) (rs : List FRes) : FRes :=
  rs.foldr (fun r acc => (BitVec.ofNat 32 (r.1.toNat % 2 ^ n + acc.1.toNat * 2 ^ n), r.2 ||| acc.2)) (0, 0)

/-- PCVT4 (R77): the scale is C[7:0]. A constant there, and one in A of the unpack form, has the float reading of a packed or rounding
operation (R29): its FP32 bits, since these sources have no 16-bit format (DEDUCED, log 87). -/
def execPcvt4 (f : Pcvt4Form) (d : LaneDst) (a : LaneSrc) (x : Xl) (c : LaneSrc) (s : State) : Out :=
  match f with
  | .pack t fmt rm b =>
    laneCompute s (LaneDst.regs d) (read3 a b c) (.packed fmt) d a x fun s k v =>
      let w := s.laneSrc k (.packed fmt) b
      let sc := (s.laneSrc k .f32 c).toNat % 256
      packElems 8 ([half v 0, half v 1, half w 0, half w 1].map fun e => T8.deliver t rm (((pfmt fmt).read e).overScale sc))
  | .unpack t fmt hi rm =>
    laneCompute s (LaneDst.regs d) (read2 a c) .f32 d a x fun s k v =>
      let sc := (s.laneSrc k .f32 c).toNat % 256
      perHalf fun j =>
        let e := 2 * boolNat hi + j
        (pfmt fmt).deliver rm ((T8.read t (bits v.toNat (8 * e + 7) (8 * e))).underScale sc)

/-- PCVT8 (R78): the pack form reads the run vN to vN+3. Constants in C, and in A of the unpack form, are read as PCVT4 reads them (DEDUCED,
log 87). -/
def execPcvt8 (f : Pcvt8Form) (d : LaneDst) (c : LaneSrc) (s : State) : Out :=
  match f with
  | .pack fmt rm n =>
    laneFrame s (LaneDst.regs d) (runFrom 4 [n.val] ++ LaneSrc.regs c) fun k t =>
      let sc := (s.laneSrc k .f32 c).toNat % 256
      let es := (t.run n.val 4).flatMap fun w => [half w 0, half w 1]
      .ok (s.deliver k d (packElems 4 (es.map fun e => fe2m1.deliverW rm (((pfmt fmt).read e).overScale sc))))
  | .unpack fmt q rm a x =>
    laneCompute s (LaneDst.regs d) (read2 a c) .f32 d a x fun s k v =>
      let sc := (s.laneSrc k .f32 c).toNat % 256
      perHalf fun j =>
        let e := 2 * q.val + j
        (pfmt fmt).deliver rm ((fe2m1.read (bits v.toNat (4 * e + 3) (4 * e))).underScale sc)

/-- MOV (R79). -/
def execMov (d : LaneDst) (a : LaneSrc) (x : Xl) (s : State) : Out :=
  laneCompute s (LaneDst.regs d) (LaneSrc.regs a) .int d a x fun _ _ v => (v, 0)

/-- MOVI (R80). -/
def execMovi (d : LaneDst) (imm : Word) (s : State) : Out :=
  laneFrame s (LaneDst.regs d) [] fun k _ => .ok (s.deliver k d (imm, 0))

/-- SEL (R81). -/
def execSel (d : LaneDst) (a : LaneSrc) (x : Xl) (b c : LaneSrc) (s : State) : Out :=
  laneCompute s (LaneDst.regs d) (read3 a b c) .int d a x fun s k v =>
    (if s.laneSrc k .int c != 0 then v else s.laneSrc k .int b, 0)

/-- RDSP (R82). -/
def execRdsp (d : LaneDst) (i : Fin 19) (s : State) : Out :=
  laneFrame s (LaneDst.regs d) [] fun k t =>
    let r := s.rdspVal k i.val t
    .ok (s.setThread k (r.2.setD d r.1))

/-- RDSP.clr (R82): FSTAT is returned and cleared as one action. -/
def execRdspClr (d : LaneDst) (s : State) : Out :=
  laneFrame s (LaneDst.regs d) [] fun k t => .ok (s.setThread k ({ t with fstat := 0 }.setD d t.fstat))

/-- The operator of XRED and XSCN on integers and minima (R106). -/
def xopInt (op : XOp) (a b : Word) : Word :=
  match op with
  | .add => a + b
  | .smin => minS a b
  | .smax => maxS a b
  | .umin => minU a b
  | .umax => maxU a b
  | .and => a &&& b
  | .or => a ||| b
  | .xor => a ^^^ b
  | .fmin => BitVec.ofNat 32 (fp32.fmin a.toNat b.toNat)
  | .fmax => BitVec.ofNat 32 (fp32.fmax a.toNat b.toNat)
  | .fadd => a

/-- The identity of an operator, for an empty exclusive scan (R106). -/
def xopIdentity (op : XOp) : Word :=
  match op with
  | .add | .or | .xor | .umax => 0
  | .smin => 0x7FFFFFFF
  | .smax | .fadd => 0x80000000
  | .umin | .and => 0xFFFFFFFF
  | .fmin => 0x7F800000
  | .fmax => 0xFF800000

/-- The exact sum of FP32 operands rounded once (R106): infinities of both signs give a NaN with NV, also beside a NaN operand, which alone
gives one without; an exact zero is -0 only where every operand is -0, or toward minus infinity. -/
def fsumVal (rm : Rm) (vs : List FVal) : FRes :=
  if vs.any (·.isInf true) && vs.any (·.isInf false) then (nan32, fNV)
  else if vs.any FVal.isNan then (nan32, 0)
  else if vs.any (·.isInf true) then fin32 rm (.inf true, 0)
  else if vs.any (·.isInf false) then fin32 rm (.inf false, 0)
  else
    let q := vs.foldl (fun q v => min q v.expo) 0
    let x := vs.foldl (fun x v => x + v.scaled q) (0 : Int)
    if x == 0 then
      let neg := if vs.all (·.sign) then true else if vs.any (·.sign) then rm == .down else false
      fin32 rm (.fin neg 0 0, 0)
    else fin32 rm (.fin (decide (x < 0)) x.natAbs q, 0)

/-- An operator over a list of operands in lane order, the identity for none (R106). For one operand fmin and fmax make a NaN the
canonical NaN. -/
def xopFold (op : XOp) (rm : Rm) (vs : List Word) : FRes :=
  match op, vs with
  | _, [] => (xopIdentity op, 0)
  | .fadd, vs => fsumVal rm (vs.map rd32)
  | .fmin, v :: vs => (vs.foldl (xopInt .fmin) (if fp32.isNan v.toNat then nan32 else v), 0)
  | .fmax, v :: vs => (vs.foldl (xopInt .fmax) (if fp32.isNan v.toNat then nan32 else v), 0)
  | op, v :: vs => (vs.foldl (xopInt op) v, 0)

/-- The reading of XRED's and XSCN's A: float for the float operators (R29). -/
def xopReading : XOp → Reading
  | .fadd | .fmin | .fmax => .f32
  | _ => .int

/-- XSHF (R105): the lane named by each thread's own B. -/
def execXshf (d : LaneDst) (a b : LaneSrc) (s : State) : Out :=
  bandLaneFrame s (LaneDst.regs d) (read2 a b) fun s ks =>
    .ok (s.deliverAll d (ks.map fun k =>
      let j := (s.laneSrc k .int b).toNat
      let o := threadOf (bandOfThread k) j
      (k, s.laneSrc (if j ≤ 31 && ks.contains o then o else k) .int a, 0)))

/-- XBAL (R105). -/
def execXbal (d : LaneDst) (a : LaneSrc) (s : State) : Out :=
  bandLaneFrame s (LaneDst.regs d) (LaneSrc.regs a) fun s ks =>
    let m := ks.foldl (fun m k => m + if s.laneSrc k .int a != 0 then 2 ^ laneOfThread k else 0) 0
    .ok (s.deliverAll d (ks.map fun k => (k, BitVec.ofNat 32 m, 0)))

/-- XRED (R105, R106). -/
def execXred (op : XOp) (rm : Rm) (d : LaneDst) (a : LaneSrc) (s : State) : Out :=
  bandLaneFrame s (LaneDst.regs d) (LaneSrc.regs a) fun s ks =>
    let r := xopFold op rm (ks.map fun k => s.laneSrc k (xopReading op) a)
    .ok (s.deliverAll d (ks.map fun k => (k, r)))

/-- XSCN (R105, R106). -/
def execXscn (op : XOp) (rm : Rm) (exc : Bool) (d : LaneDst) (a : LaneSrc) (s : State) : Out :=
  bandLaneFrame s (LaneDst.regs d) (LaneSrc.regs a) fun s ks =>
    .ok (s.deliverAll d (ks.map fun k =>
      let js := ks.filter fun j => laneOfThread j < laneOfThread k || (!exc && j == k)
      (k, xopFold op rm (js.map fun j => s.laneSrc j (xopReading op) a))))

end Sys2Proof.Machine
end

