-- ==== Sys2Proof/Machine/LaneHasp.lean ====
section
/-! DEFINITION. The lane hasp instructions (R99-R104). -/

namespace Sys2Proof.Machine

/-- Does the block of a thread hold hasp n (R99)? A free band holds none. -/
def State.holdsHasp (s : State) (k n : Nat) : Bool := ((s.blockOf k).bind s.block?).any fun b => b.holds n

/-- A hasp's ring as its base gives it: the number of stages (R100, R102, R142). -/
def Hasp.stages (h : Hasp) : Option Nat := if h.valid && h.ring && h.rbase then some (h.rstg + 1) else none

/-- The stage and phase of a sequence number on a ring based at hasp n; nothing where n is no base (R100, R102). -/
def State.seqPlace (s : State) (c n : Nat) (q : Nat) : Option (Nat × Nat) :=
  (s.hasp (haspKey c n)).stages.map fun k => (n + q % k, q / k % 2 ^ 16)

/-- The phase a thread's band still joins at on a hasp, if its join is pending (R128). -/
def State.pendingJoin (s : State) (k n : Nat) : Option Nat :=
  (s.band? (bandOfThread k)).bind fun b => (b.joins.find? (·.1 == n)).map (·.2)

/-- One arrival of a thread on a hasp of its block (R100, R128, R137): D receives the phase. -/
def State.arriveAt (s : State) (k n named : Nat) (d : LaneDst) : Res :=
  let c := coreOfThread k
  let hk := haspKey c n
  let h := s.hasp hk
  let give (p : Nat) (s : State) : State := s.modThread k fun t => t.setD d (BitVec.ofNat 32 p)
  match s.pendingJoin k n with
  | some p => .ok (give p (s.setHasp hk { h with heldArr := h.heldArr ++ [⟨some k, false⟩] }))
  | none =>
    if h.expArr < h.arrived + 1 then .trap s (cHasp named)
    else .ok ((give h.phase.toNat (s.setHasp hk { h with arrived := h.arrived + 1, arr := h.arr ++ [k] })).tryComplete c n)

/-- HARR (R100): a release, so it holds at its instruction until the thread's earlier accesses are performed. DEDUCED, log 10. -/
def execHarr (seq : Option LaneSrc) (d : LaneDst) (h : Fin 32) (s : State) : Out :=
  laneFrame s (LaneDst.regs d) ((seq.map LaneSrc.regs).getD []) fun k t =>
    let n := h.val
    if !s.holdsHasp k n || !(s.hasp (haspKey (coreOfThread k) n)).valid then .trap s (cHasp n)
    else if !s.allPerformed k t.uid then .stay s
    else
      match seq with
      | none => s.arriveAt k n n d
      | some b =>
        match s.seqPlace (coreOfThread k) n (s.laneSrc k .int b).toNat with
        | none => .trap s (cHasp n)
        | some (m, p) =>
          if (s.hasp (haspKey (coreOfThread k) m)).phase.toNat != p then .trap s (cHasp n) else s.arriveAt k m n d

/-- A thread waits on phase p of hasp m (R101, R102): it goes on at once where the phase has completed. In a stopping band it stops;
a recall takes it at once (R170). -/
def State.waitOn (s : State) (k m p : Nat) (d : LaneDst) : Res :=
  let h := s.hasp (haspKey (coreOfThread k) m)
  if phaseDone h.phase p then .ok ((s.modThread k fun t => t.setD d (h.doneStatus p)).dropRoc (coreOfThread k))
  else if s.stops k then .stay (s.endThread k)
  else .stay ((s.modThread k fun t => { t with status := .hwait m p d (s.pcAfter k) }).takeBlocked k)

/-- HWAIT (R102). -/
def execHwait (d : LaneDst) (h : Fin 32) (b : LaneSrc) (s : State) : Out :=
  laneFrame s (LaneDst.regs d) (LaneSrc.regs b) fun k _ =>
    if !s.holdsHasp k h.val || !(s.hasp (haspKey (coreOfThread k) h.val)).valid then .trap s (cHasp h.val)
    else s.waitOn k h.val ((s.laneSrc k .int b).toNat % 2 ^ 16) d

/-- HWAITS (R102). -/
def execHwaits (d : LaneDst) (h : Fin 32) (b : LaneSrc) (s : State) : Out :=
  laneFrame s (LaneDst.regs d) (LaneSrc.regs b) fun k _ =>
    if !s.holdsHasp k h.val then .trap s (cHasp h.val)
    else
      match s.seqPlace (coreOfThread k) h.val (s.laneSrc k .int b).toNat with
      | none => .trap s (cHasp h.val)
      | some (m, p) => s.waitOn k m p d

/-- The status HTEST writes (R101, R103). -/
def Hasp.testStatus (h : Hasp) (p : Nat) : Word :=
  if !h.valid then haspStatus false true false h.phase
  else if phaseDone h.phase p then h.doneStatus p
  else haspStatus false false false h.phase

/-- HTEST (R103): a status with DONE is an acquire. -/
def execHtest (d : LaneDst) (h : Fin 32) (b : LaneSrc) (s : State) : Out :=
  laneFrame s (LaneDst.regs d) (LaneSrc.regs b) fun k _ =>
    let x := s.hasp (haspKey (coreOfThread k) h.val)
    let p := (s.laneSrc k .int b).toNat % 2 ^ 16
    if !s.holdsHasp k h.val then .trap s (cHasp h.val)
    else
      let s1 := s.modThread k fun t => t.setD d (x.testStatus p)
      .ok (if x.valid && phaseDone x.phase p then s1.dropRoc (coreOfThread k) else s1)

/-- The line number of a location (R104): of this package, or of another. DEDUCED, log 62. -/
def Loc.lineNo (l : Loc) : Nat :=
  match l with
  | .remote p va _ => remoteLine p va
  | .bell pa => devHome pa / 64
  | l => (l.home.getD 0) / 64

/-- HMON (R104): D receives 0 when the watch is armed, 1 when the core's 64 are in use. A hasp that is not held comes before a check of the
address that fails (DESIGN CHOICE, log 103: R236 does not place it), and a slice that belongs to another partition traps with DETAIL 3
(R84; DESIGN CHOICE, log 101). -/
def execHmon (d : LaneDst) (h : Fin 32) (a : LaneSrc) (ofs : BitVec 22) (s : State) : Out :=
  laneFrame s (LaneDst.regs d) (LaneSrc.regs a) fun k _ =>
    let c := coreOfThread k
    if !s.holdsHasp k h.val then .trap s (cHasp h.val)
    else
      s.laneAccess k (s.laneAddr k a ofs) 1 1 0 .read false fun s _ acc =>
        let give (w : Word) (s : State) : State := s.modThread k fun t => t.setD d w
        if s.refusedAt c (s.partOf k) acc.loc then .trap s (cAccess 3)
        else if Config.watchesPerCore ≤ (mkeys s.watches fun _ w => w.core == c).length then .ok (give 1 s)
        else
          let (id, s) := s.fresh
          let hk := haspKey c h.val
          let x := s.hasp hk
          .ok (give 0 ({ s with watches := mput s.watches id ⟨c, acc.loc.lineNo, hk, s.partOf k, s.instOf k, false⟩ }.setHasp hk
            { x with moncnt := x.moncnt + 1 }))

end Sys2Proof.Machine
end

