-- ==== Sys2Proof/Machine/Dispatch.lean ====
section
/-! DEFINITION. The dispatch of `exec`: one arm for each constructor of `Instr`, in the order of spec/opcode_table.json. -/

namespace Sys2Proof.Machine

def exec (i : Instr) (s : State) : Host.Outcome State Fault Refusal :=
  match i with
  | .iadd d a b => Sys2Proof.Machine.execIadd d a b s
  | .isub d a b => Sys2Proof.Machine.execIsub d a b s
  | .imul d a b => Sys2Proof.Machine.execImul d a b s
  | .imulh d a b => Sys2Proof.Machine.execImulh d a b s
  | .imulhu d a b => Sys2Proof.Machine.execImulhu d a b s
  | .imad sat d a x b c => Sys2Proof.Machine.execImad sat d a x b c s
  | .imin d a b => Sys2Proof.Machine.execImin d a b s
  | .imax d a b => Sys2Proof.Machine.execImax d a b s
  | .iminu d a b => Sys2Proof.Machine.execIminu d a b s
  | .imaxu d a b => Sys2Proof.Machine.execImaxu d a b s
  | .and d a b => Sys2Proof.Machine.execAnd d a b s
  | .or d a b => Sys2Proof.Machine.execOr d a b s
  | .xor d a b => Sys2Proof.Machine.execXor d a b s
  | .andn d a b => Sys2Proof.Machine.execAndn d a b s
  | .shl d a b => Sys2Proof.Machine.execShl d a b s
  | .shr d a b => Sys2Proof.Machine.execShr d a b s
  | .sar d a b => Sys2Proof.Machine.execSar d a b s
  | .popc d a => Sys2Proof.Machine.execPopc d a s
  | .clz d a => Sys2Proof.Machine.execClz d a s
  | .bfe sgn d a x b => Sys2Proof.Machine.execBfe sgn d a x b s
  | .bfi d a x b c => Sys2Proof.Machine.execBfi d a x b c s
  | .icmp cc u d a x b => Sys2Proof.Machine.execIcmp cc u d a x b s
  | .fadd rm d a x b => Sys2Proof.Machine.execFadd rm d a x b s
  | .fsub rm d a x b => Sys2Proof.Machine.execFsub rm d a x b s
  | .fmul rm d a x b => Sys2Proof.Machine.execFmul rm d a x b s
  | .ffma rm d a x b c => Sys2Proof.Machine.execFfma rm d a x b c s
  | .fmin d a b => Sys2Proof.Machine.execFmin d a b s
  | .fmax d a b => Sys2Proof.Machine.execFmax d a b s
  | .fabs d a => Sys2Proof.Machine.execFabs d a s
  | .fneg d a => Sys2Proof.Machine.execFneg d a s
  | .fcmp cc d a x b => Sys2Proof.Machine.execFcmp cc d a x b s
  | .fclass d a => Sys2Proof.Machine.execFclass d a s
  | .frcp rm d a x => Sys2Proof.Machine.execFrcp rm d a x s
  | .frsq rm d a x => Sys2Proof.Machine.execFrsq rm d a x s
  | .fsqrt rm d a x => Sys2Proof.Machine.execFsqrt rm d a x s
  | .ftrn fn rm d a x => Sys2Proof.Machine.execFtrn fn rm d a x s
  | .padd fmt rm d a x b => Sys2Proof.Machine.execPadd fmt rm d a x b s
  | .pmul fmt rm d a x b => Sys2Proof.Machine.execPmul fmt rm d a x b s
  | .pfma fmt rm d a x b c => Sys2Proof.Machine.execPfma fmt rm d a x b c s
  | .pmin fmt d a x b => Sys2Proof.Machine.execPmin fmt d a x b s
  | .pmax fmt d a x b => Sys2Proof.Machine.execPmax fmt d a x b s
  | .pdot fmt rm d a x b c => Sys2Proof.Machine.execPdot fmt rm d a x b c s
  | .cvt dt st rm d a x => Sys2Proof.Machine.execCvt dt st rm d a x s
  | .frnd rm d a x => Sys2Proof.Machine.execFrnd rm d a x s
  | .pcvt2 f d a x => Sys2Proof.Machine.execPcvt2 f d a x s
  | .pcvt4 f d a x c => Sys2Proof.Machine.execPcvt4 f d a x c s
  | .pcvt8 f d c => Sys2Proof.Machine.execPcvt8 f d c s
  | .mov d a x => Sys2Proof.Machine.execMov d a x s
  | .movi d imm => Sys2Proof.Machine.execMovi d imm s
  | .sel d a x b c => Sys2Proof.Machine.execSel d a x b c s
  | .rdsp d n => Sys2Proof.Machine.execRdsp d n s
  | .rdspClr d => Sys2Proof.Machine.execRdspClr d s
  | .xshf d a b => Sys2Proof.Machine.execXshf d a b s
  | .xbal d a => Sys2Proof.Machine.execXbal d a s
  | .xred op rm d a => Sys2Proof.Machine.execXred op rm d a s
  | .xscn op rm exc d a => Sys2Proof.Machine.execXscn op rm exc d a s
  | .ld sz ord ab d a ofs => Sys2Proof.Machine.execLd sz ord ab d a ofs s
  | .ldro sz ab d a ofs => Sys2Proof.Machine.execLdro sz ab d a ofs s
  | .st g sz ord ab a ofs b => Sys2Proof.Machine.execSt g sz ord ab a ofs b s
  | .atom op w ord ab d a ofs b => Sys2Proof.Machine.execAtom op w ord ab d a ofs b s
  | .atomcas w ord ab d a ofs b => Sys2Proof.Machine.execAtomcas w ord ab d a ofs b s
  | .red op w ord ab a ofs b => Sys2Proof.Machine.execRed op w ord ab a ofs b s
  | .cpa ab d a ofs b => Sys2Proof.Machine.execCpa ab d a ofs b s
  | .fence kind scope ab d => Sys2Proof.Machine.execFence kind scope ab d s
  | .grd ab d a ofs => Sys2Proof.Machine.execGrd ab d a ofs s
  | .gconf g ab d a ofs => Sys2Proof.Machine.execGconf g ab d a ofs s
  | .harr seq d h => Sys2Proof.Machine.execHarr seq d h s
  | .hwait d h b => Sys2Proof.Machine.execHwait d h b s
  | .hwaits d h b => Sys2Proof.Machine.execHwaits d h b s
  | .htest d h b => Sys2Proof.Machine.execHtest d h b s
  | .hmon d h a ofs => Sys2Proof.Machine.execHmon d h a ofs s
  | .bra imm => Sys2Proof.Machine.execBra imm s
  | .brz a imm => Sys2Proof.Machine.execBrz a imm s
  | .brnz a imm => Sys2Proof.Machine.execBrnz a imm s
  | .jmpi a => Sys2Proof.Machine.execJmpi a s
  | .call imm => Sys2Proof.Machine.execCall imm s
  | .calli a => Sys2Proof.Machine.execCalli a s
  | .ret => Sys2Proof.Machine.execRet s
  | .exit => Sys2Proof.Machine.execExit s
  | .nop => Sys2Proof.Machine.execNop s
  | .brk => Sys2Proof.Machine.execBrk s
  | .trap n => Sys2Proof.Machine.execTrap n s
  | .cont ab d n => Sys2Proof.Machine.execCont ab d n s
  | .enq ab d a b => Sys2Proof.Machine.execEnq ab d a b s
  | .sadd d a b => Sys2Proof.Machine.execSadd d a b s
  | .ssub d a b => Sys2Proof.Machine.execSsub d a b s
  | .smul d a b => Sys2Proof.Machine.execSmul d a b s
  | .smin d a b => Sys2Proof.Machine.execSmin d a b s
  | .smax d a b => Sys2Proof.Machine.execSmax d a b s
  | .sand d a b => Sys2Proof.Machine.execSand d a b s
  | .sor d a b => Sys2Proof.Machine.execSor d a b s
  | .sxor d a b => Sys2Proof.Machine.execSxor d a b s
  | .sshl d a b => Sys2Proof.Machine.execSshl d a b s
  | .sshr d a b => Sys2Proof.Machine.execSshr d a b s
  | .ssar d a b => Sys2Proof.Machine.execSsar d a b s
  | .scmp cc u d a b => Sys2Proof.Machine.execScmp cc u d a b s
  | .ssel d a b c => Sys2Proof.Machine.execSsel d a b c s
  | .smov d a => Sys2Proof.Machine.execSmov d a s
  | .smovi d imm => Sys2Proof.Machine.execSmovi d imm s
  | .spopc d a => Sys2Proof.Machine.execSpopc d a s
  | .sbra imm => Sys2Proof.Machine.execSbra imm s
  | .sbrz a imm => Sys2Proof.Machine.execSbrz a imm s
  | .sbrnz a imm => Sys2Proof.Machine.execSbrnz a imm s
  | .sloop d imm => Sys2Proof.Machine.execSloop d imm s
  | .sdone => Sys2Proof.Machine.execSdone s
  | .grow d h a => Sys2Proof.Machine.execGrow d h a s
  | .shrink a => Sys2Proof.Machine.execShrink a s
  | .attach d a b => Sys2Proof.Machine.execAttach d a b s
  | .detach d => Sys2Proof.Machine.execDetach d s
  | .fork seq d imm => Sys2Proof.Machine.execFork seq d imm s
  | .srd seq d n => Sys2Proof.Machine.execSrd seq d n s
  | .swr seq n a => Sys2Proof.Machine.execSwr seq n a s
  | .hinit h a => Sys2Proof.Machine.execHinit h a s
  | .hsrc h k a b => Sys2Proof.Machine.execHsrc h k a b s
  | .hsrcClr h k => Sys2Proof.Machine.execHsrcClr h k s
  | .hexp h k a b => Sys2Proof.Machine.execHexp h k a b s
  | .hring h a b => Sys2Proof.Machine.execHring h a b s
  | .hinv h => Sys2Proof.Machine.execHinv h s
  | .sharr h => Sys2Proof.Machine.execSharr h s
  | .shwait h a => Sys2Proof.Machine.execShwait h a s
  | .mxld fmt p ab a ofs d b => Sys2Proof.Machine.execMxld fmt p ab a ofs d b s
  | .mxsw p => Sys2Proof.Machine.execMxsw p s
  | .mxscW p t a => Sys2Proof.Machine.execMxscW p t a s
  | .mxscA a ofs => Sys2Proof.Machine.execMxscA a ofs s
  | .mxscANone => Sys2Proof.Machine.execMxscANone s
  | .mxmm fmt u ab a ofs d b => Sys2Proof.Machine.execMxmm fmt u ab a ofs d b s
  | .accz d b => Sys2Proof.Machine.execAccz d b s
  | .accld bf16 acq ab a ofs d b => Sys2Proof.Machine.execAccld bf16 acq ab a ofs d b s
  | .accmv bf16 rel ab a ofs d b => Sys2Proof.Machine.execAccmv bf16 rel ab a ofs d b s
  | .accmvAdd rel ab a ofs d b => Sys2Proof.Machine.execAccmvAdd rel ab a ofs d b s
  | .cpt cnt ab d a ofs b => Sys2Proof.Machine.execCpt cnt ab d a ofs b s
  | .cpg cnt ab d a ofs b => Sys2Proof.Machine.execCpg cnt ab d a ofs b s
  | .cps cnt ab d a ofs b => Sys2Proof.Machine.execCps cnt ab d a ofs b s
  | .cpz cnt ab d a ofs => Sys2Proof.Machine.execCpz cnt ab d a ofs s
  | .surr d imm a => Sys2Proof.Machine.execSurr d imm a s
  | .yieldDone => Sys2Proof.Machine.execYieldDone s
  | .yieldSumm => Sys2Proof.Machine.execYieldSumm s
  | .yieldRefuse => Sys2Proof.Machine.execYieldRefuse s
  | .rclq d => Sys2Proof.Machine.execRclq d s
  | .tretRedo => Sys2Proof.Machine.execTretRedo s
  | .tretSkip => Sys2Proof.Machine.execTretSkip s
  | .snop => Sys2Proof.Machine.execSnop s
  | .sbrk => Sys2Proof.Machine.execSbrk s
  | .cli d imm => Sys2Proof.Machine.execCli d imm s
  | .cliU d imm => Sys2Proof.Machine.execCliU d imm s
  | .cliHi d imm => Sys2Proof.Machine.execCliHi d imm s
  | .cadd d a y => Sys2Proof.Machine.execCadd d a y s
  | .csub d a y => Sys2Proof.Machine.execCsub d a y s
  | .cand d a y => Sys2Proof.Machine.execCand d a y s
  | .cor d a y => Sys2Proof.Machine.execCor d a y s
  | .cshl d a y => Sys2Proof.Machine.execCshl d a y s
  | .cshr d a y => Sys2Proof.Machine.execCshr d a y s
  | .cld ord d a x => Sys2Proof.Machine.execCld ord d a x s
  | .cst ord a x b => Sys2Proof.Machine.execCst ord a x b s
  | .cbr cc a b imm => Sys2Proof.Machine.execCbr cc a b imm s
  | .cjmp imm => Sys2Proof.Machine.execCjmp imm s
  | .ccall imm => Sys2Proof.Machine.execCcall imm s
  | .cret => Sys2Proof.Machine.execCret s
  | .cloop d imm => Sys2Proof.Machine.execCloop d imm s
  | .launch d a b => Sys2Proof.Machine.execLaunch d a b s
  | .graph d a handle flags idx => Sys2Proof.Machine.execGraph d a handle flags idx s
  | .cwaitNode d a => Sys2Proof.Machine.execCwaitNode d a s
  | .cwaitInst d a => Sys2Proof.Machine.execCwaitInst d a s
  | .cwaitMem d a b => Sys2Proof.Machine.execCwaitMem d a b s
  | .cwaitTime d b => Sys2Proof.Machine.execCwaitTime d b s
  | .cwaitConditionMet stream => Sys2Proof.Machine.execCwaitConditionMet stream s
  | .amend wide g d a b => Sys2Proof.Machine.execAmend wide g d a b s
  | .signal vec rse a imm => Sys2Proof.Machine.execSignal vec rse a imm s
  | .cfence => Sys2Proof.Machine.execCfence s
  | .ctime d => Sys2Proof.Machine.execCtime d s
  | .chalt => Sys2Proof.Machine.execChalt s
  | .clauseStart => Sys2Proof.Machine.execClauseStart s
  | .loadComplete op => Sys2Proof.Machine.execLoadComplete op s
  | .loadRefusedOrLost op lost => Sys2Proof.Machine.execLoadRefusedOrLost op lost s
  | .storeComplete op fate => Sys2Proof.Machine.execStoreComplete op fate s
  | .atomicComplete op => Sys2Proof.Machine.execAtomicComplete op s
  | .cpaComplete op fate => Sys2Proof.Machine.execCpaComplete op fate s
  | .fenceComplete op => Sys2Proof.Machine.execFenceComplete op s
  | .gconfComplete op => Sys2Proof.Machine.execGconfComplete op s
  | .contComplete op => Sys2Proof.Machine.execContComplete op s
  | .enqComplete op => Sys2Proof.Machine.execEnqComplete op s
  | .resumeRetry lp1 rec => Sys2Proof.Machine.execResumeRetry lp1 rec s
  | .resumeFail lp1 rec => Sys2Proof.Machine.execResumeFail lp1 rec s
  | .copyBytesLanded cmd units fate => Sys2Proof.Machine.execCopyBytesLanded cmd units fate s
  | .monitorFire watch lost => Sys2Proof.Machine.execMonitorFire watch lost s
  | .growGrant core => Sys2Proof.Machine.execGrowGrant core s
  | .engineCommandComplete cmd ended => Sys2Proof.Machine.execEngineCommandComplete cmd ended s
  | .blockStart core => Sys2Proof.Machine.execBlockStart core s
  | .blockEnd block => Sys2Proof.Machine.execBlockEnd block s
  | .instanceComplete inst => Sys2Proof.Machine.execInstanceComplete inst s
  | .gatheringWindowExpiry key => Sys2Proof.Machine.execGatheringWindowExpiry key s
  | .recordBandStart inst => Sys2Proof.Machine.execRecordBandStart inst s
  | .gclrStart lp1 w3 => Sys2Proof.Machine.execGclrStart lp1 w3 s
  | .gclrDone lp1 => Sys2Proof.Machine.execGclrDone lp1 s
  | .queueEnable lp1 q => Sys2Proof.Machine.execQueueEnable lp1 q s
  | .queueDisable lp1 q => Sys2Proof.Machine.execQueueDisable lp1 q s
  | .queueRestart lp1 q => Sys2Proof.Machine.execQueueRestart lp1 q s
  | .tailWrite lp1 q t => Sys2Proof.Machine.execTailWrite lp1 q t s
  | .queueSwapReadback lp1 q => Sys2Proof.Machine.execQueueSwapReadback lp1 q s
  | .launchWord lp1 w => Sys2Proof.Machine.execLaunchWord lp1 w s
  | .launchFrame f => Sys2Proof.Machine.execLaunchFrame f s
  | .register lp1 bytes w => Sys2Proof.Machine.execRegister lp1 bytes w s
  | .registrationResult lp1 place => Sys2Proof.Machine.execRegistrationResult lp1 place s
  | .unregister lp1 bytes w => Sys2Proof.Machine.execUnregister lp1 bytes w s
  | .tlbInvalidate lp1 w3 => Sys2Proof.Machine.execTlbInvalidate lp1 w3 s
  | .tlbInvalidateDone lp1 => Sys2Proof.Machine.execTlbInvalidateDone lp1 s
  | .bar4Read win ofs n => Sys2Proof.Machine.execBar4Read win ofs n s
  | .bar4Write win ofs data => Sys2Proof.Machine.execBar4Write win ofs data s
  | .registerWrite r n w => Sys2Proof.Machine.execRegisterWrite r n w s
  | .bindRecordWrite slot words => Sys2Proof.Machine.execBindRecordWrite slot words s
  | .unbind slot => Sys2Proof.Machine.execUnbind slot s
  | .sliceEnd core => Sys2Proof.Machine.execSliceEnd core s
  | .starvationBind lp1 isGraph handle => Sys2Proof.Machine.execStarvationBind lp1 isGraph handle s
  | .recallCommand core tag => Sys2Proof.Machine.execRecallCommand core tag s
  | .routineBoundExpiry core => Sys2Proof.Machine.execRoutineBoundExpiry core s
  | .finishBoundExpiry core => Sys2Proof.Machine.execFinishBoundExpiry core s
  | .frameGrant lp1 frame => Sys2Proof.Machine.execFrameGrant lp1 frame s
  | .frameScrub line => Sys2Proof.Machine.execFrameScrub line s
  | .patrolScrub line found => Sys2Proof.Machine.execPatrolScrub line found s
  | .tuiturRead m => Sys2Proof.Machine.execTuiturRead m s
  | .tuiturWrite m => Sys2Proof.Machine.execTuiturWrite m s
  | .tuiturAtomic m => Sys2Proof.Machine.execTuiturAtomic m s
  | .tuiturResponse m => Sys2Proof.Machine.execTuiturResponse m s
  | .tuiturGradedWrite m => Sys2Proof.Machine.execTuiturGradedWrite m s
  | .tuiturRefire m => Sys2Proof.Machine.execTuiturRefire m s
  | .tuiturAck m => Sys2Proof.Machine.execTuiturAck m s
  | .tuiturCancelToken m => Sys2Proof.Machine.execTuiturCancelToken m s
  | .tuiturCopyData m => Sys2Proof.Machine.execTuiturCopyData m s
  | .linkDead link => Sys2Proof.Machine.execLinkDead link s
  | .linkRejoin link => Sys2Proof.Machine.execLinkRejoin link s
  | .roceDoorbell qp pi => Sys2Proof.Machine.execRoceDoorbell qp pi s
  | .rdmaCompletion qp data ok => Sys2Proof.Machine.execRdmaCompletion qp data ok s
  | .rdmaWrite p => Sys2Proof.Machine.execRdmaWrite p s
  | .rdmaWriteWithImmediate p => Sys2Proof.Machine.execRdmaWriteWithImmediate p s
  | .rdmaRead p => Sys2Proof.Machine.execRdmaRead p s
  | .standbyTakeover => Sys2Proof.Machine.execStandbyTakeover s
  | .liveUpdate image readable => Sys2Proof.Machine.execLiveUpdate image readable s
  | .updateTakeover => Sys2Proof.Machine.execUpdateTakeover s
  | .reset => Sys2Proof.Machine.execReset s
  | .recoveryAppend => Sys2Proof.Machine.execRecoveryAppend s
  | .recoveryCommitA => Sys2Proof.Machine.execRecoveryCommitA s
  | .recoveryCommitB => Sys2Proof.Machine.execRecoveryCommitB s
  | .recoveryReset => Sys2Proof.Machine.execRecoveryReset s
  | .throttle core => Sys2Proof.Machine.execThrottle core s
  | .thermalShutdown core => Sys2Proof.Machine.execThermalShutdown core s
  | .debugHalt core tgt => Sys2Proof.Machine.execDebugHalt core tgt s
  | .debugResume core tgt => Sys2Proof.Machine.execDebugResume core tgt s
  | .debugStep core tgt => Sys2Proof.Machine.execDebugStep core tgt s
  | .debugReadRegister core tgt => Sys2Proof.Machine.execDebugReadRegister core tgt s
  | .debugWriteRegister core tgt => Sys2Proof.Machine.execDebugWriteRegister core tgt s
  | .debugHaltAll core part => Sys2Proof.Machine.execDebugHaltAll core part s
  | .debugResumeAll core part => Sys2Proof.Machine.execDebugResumeAll core part s
  | .debugRightGrant part => Sys2Proof.Machine.execDebugRightGrant part s
  | .debugRightRevoke part => Sys2Proof.Machine.execDebugRightRevoke part s
  | .stallSample core => Sys2Proof.Machine.execStallSample core s
  | .skewMeasure entry ofs unc => Sys2Proof.Machine.execSkewMeasure entry ofs unc s
  | .grdComplete op => Sys2Proof.Machine.execGrdComplete op s
  | .layoutRecordRead op => Sys2Proof.Machine.execLayoutRecordRead op s
  | .throttleEnd core => Sys2Proof.Machine.execThrottleEnd core s
  | .inServiceSelfTestFailure die pair => Sys2Proof.Machine.execInServiceSelfTestFailure die pair s
  | .spdmRequest => Sys2Proof.Machine.execSpdmRequest s
  | .debugHitRead core => Sys2Proof.Machine.execDebugHitRead core s

end Sys2Proof.Machine
end

