-- ==== Sys2Proof/Machine/Issue.lean ====
section
/-! DEFINITION. Fetching and issuing: the picker's groups (R197), a thread's next instruction (R19, R33, R35), a strand's (R118), a stream's
next command (R266, R278); and an instruction placed where the next step fetches. -/

namespace Sys2Proof.Machine

/-! ### The picker -/

/-- Is a thread ready to issue the instruction at which it stands (R195)? -/
def State.canIssue (s : State) (k : Nat) (t : Thread) : Bool := t.status == .ready && slotOf t.pc != 0 && s.free k t

/-- The ready threads of a core with an instruction to issue (R195). -/
def State.readyThreads (s : State) (c : Nat) : List (Nat × Thread) := s.threads.filter fun x => coreOfThread x.1 == c && s.canIssue x.1 x.2

/-- The order of the picker: ready time, then slot (R197). -/
def pickBefore (a b : Nat × Thread) : Bool := a.2.readyAt < b.2.readyAt || (a.2.readyAt == b.2.readyAt && a.1 < b.1)

/-- The first in the picker's order. -/
def pickFirst : List (Nat × Thread) → Option (Nat × Thread)
  | [] => none
  | x :: xs =>
    match pickFirst xs with
    | some y => some (if pickBefore y x then y else x)
    | none => some x

/-- May x issue beside the lead: the same PC in one context, one partition's address space and code (R197)? -/
def State.besides (s : State) (lead x : Nat × Thread) : Bool :=
  let g (k : Nat) := ((s.band? (bandOfThread k)).map fun b => (b.slot, b.part, ((s.inst? b.inst).map (·.graph)).getD 0)).getD (0, 0, 0)
  x.2.pc == lead.2.pc && g x.1 == g lead.1

/-- R197: the issue group of a core, in the order of lane homes: for each lane home the first of the threads that may issue beside the
lead, the least of all. DEDUCED, log 48. -/
def State.issueGroup (s : State) (c : Nat) : List Nat :=
  let r := s.readyThreads c
  match pickFirst r with
  | none => []
  | some lead =>
    let r := r.filter (s.besides lead)
    (List.range 32).filterMap fun l => (pickFirst (r.filter fun x => laneOfThread x.1 == l)).map (·.1)

/-! ### Threads -/

/-- The words at a pc of a run's code: an instruction and, where it has one, its second word (R13, R21). -/
def State.wordsAt (s : State) (inst : Nat) (pc : Addr) : List Word := [s.codeAt inst pc, s.codeAt inst (pc + 4)]

/-- Is a word that no instruction is still a rendezvous point: a uniform word, a cross-lane opcode, or a cross-lane modifier (R34, R35,
R60, R105)? A word whose XL is nonzero traps once, at the rendezvous, and threads outside P pass it (DESIGN CHOICE, log 92: the manual
does not say whether such a word is a band operation). -/
def isMeetingWord (w w2 : Nat) : Bool :=
  let op := bits w 30 24
  bitAt w 31 || (0x54 ≤ op && op ≤ 0x57) ||
    (([0x05, 0x13, 0x14, 0x15, 0x20, 0x21, 0x22, 0x23, 0x28, 0x2A, 0x2B, 0x2C, 0x2D].contains op || (0x40 ≤ op && op ≤ 0x4A) ||
      op == 0x50 || op == 0x52) && bits w2 30 28 != 0)

/-- A word that encodes no instruction (R33): an illegal-instruction trap, at the rendezvous where the word is one (R35). -/
def State.badWord (s : State) (k : Nat) (ws : List Word) : State :=
  if isMeetingWord ((ws.map (·.toNat)).getD 0 0) ((ws.map (·.toNat)).getD 1 0) then rendezvous s k fun s _ => .trap s cIllegal
  else s.laneTrap k cIllegal

/-- The instruction at which a thread stands, executed (R19, R33). -/
def runAt (s : State) (k : Nat) (t : Thread) : Out :=
  let ws := s.wordsAt (s.instOf k) t.pc
  match decode ws with
  | .ok (i, _) => exec i { s with cur := .thread k }
  | .error _ => .next (s.badWord k ws)

/-- Note that a thread of the issue group issues now, where it stands and with which flags nonzero (R378). -/
def State.noteIssue (s : State) (k : Nat) (t : Thread) : State :=
  s.modCore (coreOfThread k) fun x => { x with issuedAs := (k, t.pc, t.flagNz) :: x.issuedAs }

/-- A thread of an issue group issues: a breakpoint halts it (R371); a thread that is no longer ready does nothing. An issue of the chosen
band counts for its routine (R171). -/
def issueThread (s : State) (k : Nat) : Out :=
  match s.thread? k with
  | none => .next s
  | some t =>
    if !s.canIssue k t then .next s
    else if s.breakThread k t then .next (if s.stops k then s.endThread k else s.haltThread k)
    else runAt ((s.noteIssue k t).countIssue k) k t

/-- A turn of a thread outside the picker: its clause's start, the retry of an instruction that holds it, its band's complete rendezvous
(R9, R117, R145, R195). In a stopping band a held thread goes on to its next clause boundary (R250). A thread that a write of s31 has
taken out of P while it stood at a rendezvous passes it at its next turn (DESIGN CHOICE, log 93: R113 does not say when it goes on). -/
def threadTurn (s : State) (k : Nat) : Out :=
  match s.thread? k with
  | none => .next s
  | some t =>
    if slotOf t.pc == 0 && (t.status == .ready || t.status == .header) then exec .clauseStart { s with cur := .thread k }
    else if !s.free k t then .next s
    else
      match t.status with
      | .held => runAt s k t
      | .arrived => if (t.trapMode || s.inPm k) && s.meeting k == .waiting then .next s else runAt s k t
      | _ => .next s

/-! ### Strands and streams -/

/-- A turn of a strand (R17, R118, R371, R372). -/
def strandTurn (s : State) (q : Nat) : Out :=
  if !s.strandFree q then .next s
  else
    let x := s.strand q
    if x.haltReq then .next (s.haltStrand q)
    else if slotOf x.pc == 0 then exec .clauseStart { s with cur := .strand q }
    else if s.breakStrand q then .next (s.haltStrand q)
    else
      match decode (s.wordsAt (s.strandInst q) x.pc) with
      | .ok (i, _) => exec i { s with cur := .strand q }
      | .error _ => .next (s.strandTrap q cIllegal)

/-- A turn of a stream: its next command (R266, R268, R269, R278). A queue waits for the second word of a command; a program that runs
past its last word faults. -/
def streamTurn (s : State) (i : StreamId) : Out :=
  if !s.streamRuns i then .next s
  else
    match decodeCmd (s.streamWords i) with
    | .ok (c, _) => exec c { s with cur := .stream i }
    | .error .missingWord =>
      match i with
      | .queue .. => .next s
      | .prog _ => .next (s.streamFault i 5)
    | .error _ => .next (s.streamFault i 5)

/-- A core's picker forms its issue group, at most one in a clk (R197), which a stall sample of the clk sees (R378). -/
def State.pick (s : State) (c : Nat) : State :=
  if (s.core c).grpAt == s.clk + 1 then s
  else
    let g := s.issueGroup c
    { s.modCore c fun x => { x with grpAt := s.clk + 1, issuedAs := [] } with issue := g }

/-- Whose turn it is, and what they do. An event has no agent. -/
def agentTurn (s : State) : Actor → Out
  | .core c => .next (s.pick c)
  | .thread k => threadTurn s k
  | .strand q => strandTurn s q
  | .stream i => streamTurn s i
  | .outside i => exec i { s with cur := .nobody }
  | .arrive a => .next (s.reached a)

/-- After a thermal shutdown nothing acts until the package is reset (R368); while the recovery window is open only it answers (R362). -/
def actorTurn (s : State) (a : Actor) : Out :=
  if (s.thermal && a != .outside .reset) || (s.recovery.active && !a.whileRecovering) then .next s else agentTurn s a

/-- What a turn leaves undone is done in its clk: threads of stopping bands that are parked, blocked or halted stop (R250), launch frames
whose RoCE writes are performed are processed (R285), and blocks that may end do (R203). -/
def endingBlocks : Out → Out
  | .next s => .next s.stopIdle.framesDue.endBlocks
  | o => o

/-! ### Placing an instruction to be fetched -/

/-- The header of a clause with one instruction of one or two words, flag 0 as SETA and flag 1 as SETB (R14). -/
def oneClause (two : Bool) : Word := if two then 0x00001000 + 0x40 + 8 else 0x00001000 + 4

/-- A graph whose code is the start of one clause. -/
def Graph.bare : Graph where
  lp1 := 0
  handle := 0
  part := 0
  kernels := []
  nodes := []
  succ := []
  codeVa := 0
  area := 0
  ncode := 3
  nprog := 0
  win := 0
  pool := 0
  egrs := 0
  enqq := []
  nsbase := 0
  imageVa := 0

/-- A run of graph 0 with no node, whose code is given. -/
def Inst.ofCode (code : List Word) : Inst where
  lp1 := 0
  graph := 0
  part := 0
  handle := 0
  ap := 0
  amdep := 0
  notify := false
  nodes := []
  pc := 0
  stack := []
  strm := Stream.zero
  progEnd := true
  cancelled := false
  ended := false
  task := 0
  code := code
  prog := []

/-- A device instruction at slot 1 of a clause at which thread 0 of core 0, a free band of one thread, stands in the issue group. -/
def State.withDevice (s : State) (ws : List Word) : State :=
  let w := ws.headD 0
  { s with
    graphs := mput s.graphs 0 Graph.bare
    insts := mput s.insts 0 (Inst.ofCode (oneClause (twoWord w.toNat) :: ws))
    bands := mput s.bands 0 (Band.start [] 1 160 0 0 0 0 0 0 0)
    threads := mput s.threads 0 (Thread.start 0 4 s.clk)
    issue := [0] }

/-- A command at the head of queue 0, running and bound, whose stream has the next turn. -/
def State.withCommand (s : State) (ws : List Word) : State :=
  let q := s.queue 0
  { (s.setQueue 0 { q with state := 1, strm := { q.strm with wait := none }, words := ws.map fun w => ⟨w, .sram⟩ }).setBind 0
      { Bind.zero with valid := true } with
    issue := []
    pause := false
    thermal := false
    script := ⟨0, .stream (.queue 0 0)⟩ :: s.script }

end Sys2Proof.Machine
end

