-- ==== Sys2Proof/Machine/Step.lean ====
section
/-! DEFINITION. The step: the rest of an issue group first, then the next turn of the schedule (log 3). -/

namespace Sys2Proof.Machine

/-- One step: the next thread of the issue group issues; with none, the next turn of the schedule is taken after the clks that pass
before it; with no turn left, a clk passes. What follows in that clk follows (R203, R250, R285). -/
def step (s : State) : Host.Outcome State Fault Refusal :=
  match s.issue, s.script with
  | k :: rest, _ => endingBlocks (issueThread { s with issue := rest } k)
  | [], t :: rest => endingBlocks (actorTurn ({ s with script := rest }.passTime t.elapsed) t.actor)
  | [], [] => endingBlocks (.next (s.passTime 1))

/-- The state with an instruction stored where step fetches its next one: a device word in a clause at which a thread of the issue group
stands, a command at the head of a running queue. DEDUCED, log 43. -/
def State.withFetchWord (s : State) (nbits w : Nat) : State :=
  if isCommandWord nbits w then s.withCommand (tableWords w) else s.withDevice (tableWords w)

end Sys2Proof.Machine
end

