-- ==== Sys2Proof/Safety.lean ====
section
/-! DEFINITION. What counts as a safe run, in the terms claims use: a run none of whose steps is a fault or a refusal. -/

namespace Sys2Proof

/-- A step goes on: it answers a next state. -/
def goesOn (s : Machine.State) : Prop := ∃ t, Machine.step s = .next t

/-- Every one of the first n steps from a state goes on. -/
def safeFor : Nat → Machine.State → Prop
  | 0, _ => True
  | n + 1, s => ∃ t, Machine.step s = .next t ∧ safeFor n t

end Sys2Proof
end

