-- ==== Sys2Proof/Certificates/Slice0/Obligations.lean ====
section
/-! DEFINITION. The statements for the provers: what the rules of the manual say that instructions, events and the machine do. -/

/-! ### The agents of instructions -/

namespace Sys2Proof.Says

/-- The lane instructions: words with bit 31 clear (R22, R34). -/
def isLane : Instr → Bool
    | .iadd .. | .isub .. | .imul .. | .imulh .. | .imulhu .. | .imad .. | .imin .. | .imax .. | .iminu .. | .imaxu .. | .and ..
    | .or .. | .xor .. | .andn .. | .shl .. | .shr .. | .sar .. | .popc .. | .clz .. | .bfe .. | .bfi .. | .icmp .. | .fadd ..
    | .fsub .. | .fmul .. | .ffma .. | .fmin .. | .fmax .. | .fabs .. | .fneg .. | .fcmp .. | .fclass .. | .frcp .. | .frsq ..
    | .fsqrt .. | .ftrn .. | .padd .. | .pmul .. | .pfma .. | .pmin .. | .pmax .. | .pdot .. | .cvt .. | .frnd .. | .pcvt2 ..
    | .pcvt4 .. | .pcvt8 .. | .mov .. | .movi .. | .sel .. | .rdsp .. | .rdspClr .. | .xshf .. | .xbal .. | .xred .. | .xscn ..
    | .ld .. | .ldro .. | .st .. | .atom .. | .atomcas .. | .red .. | .cpa .. | .fence .. | .grd .. | .gconf .. | .harr .. | .hwait ..
    | .hwaits .. | .htest .. | .hmon .. | .bra .. | .brz .. | .brnz .. | .jmpi .. | .call .. | .calli .. | .ret .. | .exit ..
    | .nop .. | .brk .. | .trap .. | .cont .. | .enq .. => true
    | _ => false

/-- The uniform instructions: words with bit 31 set (R22, R34). -/
def isUniform : Instr → Bool
    | .sadd .. | .ssub .. | .smul .. | .smin .. | .smax .. | .sand .. | .sor .. | .sxor .. | .sshl .. | .sshr .. | .ssar .. | .scmp ..
    | .ssel .. | .smov .. | .smovi .. | .spopc .. | .sbra .. | .sbrz .. | .sbrnz .. | .sloop .. | .sdone .. | .grow .. | .shrink ..
    | .attach .. | .detach .. | .fork .. | .srd .. | .swr .. | .hinit .. | .hsrc .. | .hsrcClr .. | .hexp .. | .hring .. | .hinv ..
    | .sharr .. | .shwait .. | .mxld .. | .mxsw .. | .mxscW .. | .mxscA .. | .mxscANone .. | .mxmm .. | .accz .. | .accld ..
    | .accmv .. | .accmvAdd .. | .cpt .. | .cpg .. | .cps .. | .cpz .. | .surr .. | .yieldDone .. | .yieldSumm .. | .yieldRefuse ..
    | .rclq .. | .tretRedo .. | .tretSkip .. | .snop .. | .sbrk .. => true
    | _ => false

/-- The commands of a stream (R268). -/
def isCommand : Instr → Bool
    | .cli .. | .cliU .. | .cliHi .. | .cadd .. | .csub .. | .cand .. | .cor .. | .cshl .. | .cshr .. | .cld .. | .cst .. | .cbr ..
    | .cjmp .. | .ccall .. | .cret .. | .cloop .. | .launch .. | .graph .. | .cwaitNode .. | .cwaitInst .. | .cwaitMem ..
    | .cwaitTime .. | .amend .. | .signal .. | .cfence .. | .ctime .. | .chalt .. => true
    | _ => false

/-- The one-word device instruction of opcode op must have B = 0: with another B its word is illegal. -/
def RejectsB (op : Nat) : Prop :=
  ∀ (w : Word) ws, w.toNat / 2 ^ 24 = op → w.toNat % 2 ^ 8 ≠ 0 → (decode (w :: ws)).isOk = false

/-- The two-word device instruction of opcode op must have C = 0 in its second word: with another C its words are illegal. -/
def RejectsC (op : Nat) : Prop :=
  ∀ (w w2 : Word) ws, w.toNat / 2 ^ 24 = op → w2.toNat / 2 ^ 15 % 2 ^ 8 ≠ 0 → (decode (w :: w2 :: ws)).isOk = false

end Sys2Proof.Says

/-! ### Rounding, in real numbers (R37, R41, R42, R45, R46) -/

namespace Sys2Proof.Says

open Sys2Proof.Machine

/-- The real number a finite value stands for. -/
noncomputable def real : FVal → ℝ
  | .fin s m e => (if s then -1 else 1) * (m : ℝ) * (2 : ℝ) ^ e
  | _ => 0

/-- The magnitudes a format has: at most mb + 1 significant bits, and, where `low`, no bit below its smallest quantum (R37). -/
def OnGrid (F : FFmt) (low : Bool) (y : ℝ) : Prop :=
  ∃ (n : Nat) (q : ℤ), n < 2 ^ (F.mb + 1) ∧ (low = true → F.qmin ≤ q) ∧ y = (n : ℝ) * (2 : ℝ) ^ q

/-- Those whose last significant bit is 0. -/
def EvenOnGrid (F : FFmt) (low : Bool) (y : ℝ) : Prop :=
  ∃ (n : Nat) (q : ℤ), n < 2 ^ (F.mb + 1) ∧ (low = true → F.qmin ≤ q) ∧ (2 ^ F.mb ≤ n ∨ (low = true ∧ q = F.qmin)) ∧ n % 2 = 0 ∧
    y = (n : ℝ) * (2 : ℝ) ^ q

/-- y is the magnitude x of sign s rounded to one of G under RM: the nearest, of two that are equally near the even one; the nearest toward
zero; or the nearest on the side of minus or of plus infinity (R23). -/
def RoundsTo (G E : ℝ → Prop) (rm : Rm) (s : Bool) (x y : ℝ) : Prop :=
  let down : Prop := y ≤ x ∧ ∀ z, G z → z ≤ x → z ≤ y
  let up : Prop := x ≤ y ∧ ∀ z, G z → x ≤ z → y ≤ z
  G y ∧ match rm with
    | .nearest => (∀ z, G z → |x - y| ≤ |x - z|) ∧ ((∃ z, G z ∧ z ≠ y ∧ |x - z| = |x - y|) → E y)
    | .zero => down
    | .down => if s then up else down
    | .up => if s then down else up

/-- The pattern of an infinity, and of a zero, of sign s. -/
def infOf (F : FFmt) (s : Bool) : Nat := (2 ^ F.eb - 1) * 2 ^ F.mb + if s then 2 ^ (F.eb + F.mb) else 0
def zeroOf (F : FFmt) (s : Bool) : Nat := if s then 2 ^ (F.eb + F.mb) else 0

/-- The pattern w has F's width, sign s and the finite magnitude y. -/
def HasMag (F : FFmt) (s : Bool) (w : Nat) (y : ℝ) : Prop :=
  w < 2 ^ (F.eb + F.mb + 1) ∧ ∃ m e, F.read w = .fin s m e ∧ real (.fin false m e) = y

/-- r is the magnitude x of sign s rounded once into F under RM, with its conditions (R41, R42, R45): y is x rounded to a magnitude of F, u with
an unbounded exponent range. Where u is beyond the largest finite magnitude the result is R45's for a finite overflow, with OF, NX and, in a
format without infinities, SAT; otherwise it is y, with NX where y is not x, and UF where besides u is below the smallest normal. -/
def RoundsOnce (F : FFmt) (rm : Rm) (s : Bool) (x : ℝ) (r : Nat × Word) : Prop :=
  ∃ y u top, RoundsTo (OnGrid F true) (EvenOnGrid F true) rm s x y ∧ RoundsTo (OnGrid F false) (EvenOnGrid F false) rm s x u ∧
    HasMag F false F.maxFin top ∧
    (top < u →
      (F.kind ≠ .ieee → HasMag F s r.1 top ∧ r.2 = 0x34) ∧
      (F.kind = .ieee → r.2 = 0x14 ∧
        if rm = .nearest ∨ (rm = .down ∧ s = true) ∨ (rm = .up ∧ s = false) then r.1 = infOf F s else HasMag F s r.1 top)) ∧
    (u ≤ top → HasMag F s r.1 y ∧
      r.2 = (if y = x then 0 else 0x10) ||| if y ≠ x ∧ u < (2 : ℝ) ^ (1 - (F.bias : ℤ)) then 0x8 else 0)

open Classical in
/-- r is the exact finite value x delivered in F; an exact zero has the sign z. -/
def Delivers (F : FFmt) (rm : Rm) (z : Bool) (x : ℝ) (r : Nat × Word) : Prop :=
  RoundsOnce F rm (if x = 0 then z else decide (x < 0)) |x| r

/-- r is the canonical NaN of F, with NV or with no condition (R43). -/
def isInvalid (F : FFmt) (r : Nat × Word) : Prop := r = (F.nan, 1)
def isNaN (F : FFmt) (r : Nat × Word) : Prop := r = (F.nan, 0)

def Infinite (a : FVal) : Prop := ∃ s, a = .inf s

/-- The sum of terms, exact and rounded once: infinities of both signs are invalid; otherwise a NaN gives a NaN, an infinity itself; an exact zero
of finite terms has the sign that all of them share, else - only toward minus infinity (R43, R67, IEEE 754). -/
def SumIs (F : FFmt) (rm : Rm) (ts : List FVal) (r : Nat × Word) : Prop :=
  let clash := FVal.inf true ∈ ts ∧ FVal.inf false ∈ ts
  (clash → isInvalid F r) ∧ (¬ clash → FVal.nan ∈ ts → isNaN F r) ∧
  (∀ s, ¬ clash → FVal.nan ∉ ts → FVal.inf s ∈ ts → r = (infOf F s, 0)) ∧
  (FVal.nan ∉ ts → (∀ s, FVal.inf s ∉ ts) →
    Delivers F rm (ts.all FVal.sign || (ts.any FVal.sign && rm == .down)) (ts.map real).sum r)

/-- The exact product as a term: x is its value where it is finite. -/
def Product (a b p : FVal) : Prop :=
  let s := a.sign ^^ b.sign
  ((a = .nan ∨ b = .nan) → p = .nan) ∧ (a ≠ .nan → b ≠ .nan → (Infinite a ∨ Infinite b) → p = .inf s) ∧
    (a ≠ .nan → b ≠ .nan → ¬ Infinite a → ¬ Infinite b → ∃ m e, p = .fin s m e ∧ real p = real a * real b)

/-- 0 times an infinity (R43). -/
def ZeroTimesInf (a b : FVal) : Prop := (a.isZero = true ∧ Infinite b) ∨ (Infinite a ∧ b.isZero = true)

/-- The sum of products and a last term, exact and rounded once; 0 times an infinity is invalid, also beside a NaN (R67, R73). -/
def DotIs (F : FFmt) (rm : Rm) (ps : List (FVal × FVal)) (c : List FVal) (r : Nat × Word) : Prop :=
  ((∃ p ∈ ps, ZeroTimesInf p.1 p.2) → isInvalid F r) ∧
  ((∀ p ∈ ps, ¬ ZeroTimesInf p.1 p.2) → ∃ ts, List.Forall₂ (fun p t => Product p.1 p.2 t) ps ts ∧ SumIs F rm (ts ++ c) r)

/-- A value converted into a float format (R45): the rows of a NaN and an infinity, and the one rounding of a finite value. -/
def ConvertsF (F : FFmt) (rm : Rm) (v : FVal) (r : Nat × Word) : Prop :=
  match v with
  | .nan => r = if F.kind = .e2m1 then (0, 1) else (F.nan, 0)
  | .inf s => if F.kind = .ieee then r = (infOf F s, 0) else ∃ top, HasMag F false F.maxFin top ∧ HasMag F s r.1 top ∧ r.2 = 0x20
  | .fin s _ _ => Delivers F rm s (real v) r

/-- The magnitude x of sign s rounded to an integer. -/
def RoundsInt (rm : Rm) (s : Bool) (x : ℝ) (n : Nat) : Prop :=
  RoundsTo (fun y => ∃ n : Nat, y = n) (fun y => ∃ n : Nat, y = n ∧ n % 2 = 0) rm s x n

open Classical in
/-- A value converted into an integer of limits lo and hi (R45): a NaN gives 0 with NV; what lies beyond a limit once rounded gives the limit with NV
and SAT, never NX; otherwise NX tells a dropped fraction. -/
def ConvertsI (lo hi : Int) (rm : Rm) (v : FVal) (r : FRes) : Prop :=
  match v with
  | .nan => r = (0, 1)
  | .inf s => r = (BitVec.ofInt 32 (if s then lo else hi), 0x21)
  | .fin s _ _ => ∃ n, RoundsInt rm s |real v| n ∧
      let x : Int := if s then -(n : Int) else n
      (x < lo → r = (BitVec.ofInt 32 lo, 0x21)) ∧ (hi < x → r = (BitVec.ofInt 32 hi, 0x21)) ∧
        (lo ≤ x → x ≤ hi → r = (BitVec.ofInt 32 x, if (x : ℝ) = real v then 0 else 0x10))

/-- A value converted into E8M0 (R46): its magnitude rounded to a power of two, of two equally near the larger, whose significand is even. -/
def ConvertsE8m0 (rm : Rm) (v : FVal) (r : FRes) : Prop :=
  (((∀ s m e, v ≠ .fin s m e) ∨ v.sign = true ∨ v.isZero = true) → r = (0xFF, 1)) ∧
  (∀ m e, v = .fin false m e → m ≠ 0 → ∃ k : ℤ,
    RoundsTo (fun y => ∃ k : ℤ, y = (2 : ℝ) ^ k) (fun y => real v < y) rm false (real v) ((2 : ℝ) ^ k) ∧
    (k < -127 → r = (0, 0x20)) ∧ (127 < k → r = (0xFE, 0x20)) ∧ (-127 ≤ k → k ≤ 127 → r = (BitVec.ofInt 32 (k + 127), 0)))

/-- A value converted into a type of CVT (R45, R46, R74). -/
def Converts (t : NumType) (rm : Rm) (v : FVal) (r : FRes) : Prop :=
  match t with
  | .f32 => ConvertsF fp32 rm v (r.1.toNat, r.2)
  | .f16 => ConvertsF fp16 rm v (r.1.toNat, r.2)
  | .bf16 => ConvertsF bf16 rm v (r.1.toNat, r.2)
  | .e4m3 => ConvertsF fe4m3 rm v (r.1.toNat, r.2)
  | .e5m2 => ConvertsF fe5m2 rm v (r.1.toNat, r.2)
  | .e2m1 => ConvertsF fe2m1 rm v (r.1.toNat, r.2)
  | .e8m0 => ConvertsE8m0 rm v r
  | .s8 => ConvertsI (-2 ^ 7) (2 ^ 7 - 1) rm v r
  | .s16 => ConvertsI (-2 ^ 15) (2 ^ 15 - 1) rm v r
  | .s32 => ConvertsI (-2 ^ 31) (2 ^ 31 - 1) rm v r
  | .u8 => ConvertsI 0 (2 ^ 8 - 1) rm v r
  | .u16 => ConvertsI 0 (2 ^ 16 - 1) rm v r
  | .u32 => ConvertsI 0 (2 ^ 32 - 1) rm v r

/-- u is v times 2^k, or a NaN where the scale X that gives k is 0xFF (R77). -/
def Scaled (x : Nat) (k : ℤ) (v u : FVal) : Prop :=
  if x = 255 then u = .nan
  else match v with
    | .fin s _ _ => ∃ m e, u = .fin s m e ∧ real u = real v * (2 : ℝ) ^ k
    | w => u = w

/-- The value of a pattern of a float format with this NaN test and this infinity test (R37). -/
def PatternValue (F : FFmt) (w : Nat) : Prop :=
  let e := w / 2 ^ F.mb % 2 ^ F.eb
  let m := w % 2 ^ F.mb
  let s := decide (2 ^ (F.eb + F.mb) ≤ w)
  let nan := (F.kind = .ieee ∧ e = 2 ^ F.eb - 1 ∧ m ≠ 0) ∨ (F.kind = .e4m3 ∧ e = 15 ∧ m = 7)
  let inf := F.kind = .ieee ∧ e = 2 ^ F.eb - 1 ∧ m = 0
  (nan → F.read w = .nan) ∧ (inf → F.read w = .inf s) ∧
    (¬ nan → ¬ inf → ∃ n g, F.read w = .fin s n g ∧ real (.fin false n g) =
      if e = 0 then (2 : ℝ) ^ (1 - (F.bias : ℤ)) * ((m : ℝ) / 2 ^ F.mb) else (2 : ℝ) ^ ((e : ℤ) - F.bias) * (1 + (m : ℝ) / 2 ^ F.mb))

/-- The sign and magnitude order of the patterns of n bits, -0 below +0 (R68). -/
def Below (n v w : Nat) : Prop :=
  let mag (x : Nat) : Int := (x % 2 ^ (n - 1) : Nat)
  let neg (x : Nat) : Prop := 2 ^ (n - 1) ≤ x
  (neg v ∧ neg w ∧ mag w ≤ mag v) ∨ (neg v ∧ ¬ neg w) ∨ (¬ neg v ∧ ¬ neg w ∧ mag v ≤ mag w)

/-- The smaller, or the larger, of two patterns of F, a NaN passed over (R68). -/
def LesserIs (F : FFmt) (least : Bool) (v w r : Nat) : Prop :=
  let nan (x : Nat) : Prop := F.read x = .nan
  (nan v → nan w → r = F.nan) ∧ (nan v → ¬ nan w → r = w) ∧ (¬ nan v → nan w → r = v) ∧
    (¬ nan v → ¬ nan w → (r = v ∨ r = w) ∧
      if least then Below (F.eb + F.mb + 1) r v ∧ Below (F.eb + F.mb + 1) r w
      else Below (F.eb + F.mb + 1) v r ∧ Below (F.eb + F.mb + 1) w r)

/-- What an operator of XRED and XSCN makes of its operands (R106): the integer ones are sums, extremes and logic over all; fadd is the exact sum rounded
once; fmin and fmax give the least or greatest operand that is no NaN, and the canonical NaN where each is one; of no operand each gives its identity. -/
def FoldIs (op : XOp) (rm : Rm) (vs : List Word) (r : FRes) : Prop :=
  let extreme (empty : Word) (least : Bool) : Prop :=
    let nan (w : Word) : Prop := fp32.read w.toNat = .nan
    r.2 = 0 ∧ (vs = [] → r.1 = empty) ∧ (vs ≠ [] → (∀ w ∈ vs, nan w) → r.1 = 0x7FC00000) ∧
      ((∃ w ∈ vs, ¬ nan w) → r.1 ∈ vs ∧ ¬ nan r.1 ∧ ∀ w ∈ vs, ¬ nan w →
        if least then Below 32 r.1.toNat w.toNat else Below 32 w.toNat r.1.toNat)
  match op with
  | .add => r = (BitVec.ofNat 32 (vs.map BitVec.toNat).sum, 0)
  | .smin => r = (vs.foldl (fun p q => if p.toInt ≤ q.toInt then p else q) 0x7FFFFFFF, 0)
  | .smax => r = (vs.foldl (fun p q => if p.toInt ≤ q.toInt then q else p) 0x80000000, 0)
  | .umin => r = (vs.foldl (fun p q => if p.toNat ≤ q.toNat then p else q) 0xFFFFFFFF, 0)
  | .umax => r = (vs.foldl (fun p q => if p.toNat ≤ q.toNat then q else p) 0, 0)
  | .and => r = (vs.foldl (· &&& ·) 0xFFFFFFFF, 0)
  | .or => r = (vs.foldl (· ||| ·) 0, 0)
  | .xor => r = (vs.foldl (· ^^^ ·) 0, 0)
  | .fadd => if vs = [] then r = (0x80000000, 0) else SumIs fp32 rm (vs.map rd32) (r.1.toNat, r.2)
  | .fmin => extreme 0x7F800000 true
  | .fmax => extreme 0xFF800000 false

end Sys2Proof.Says

/-! ### Vocabulary -/

namespace Sys2Proof.Says

open Sys2Proof.Machine

/-- Thread k, resident as t, is the one that executes, every lane register named lies below its band's budget (R27), and none of them has an error
that no code corrects (R363). -/
def Lane (s : State) (k : Nat) (t : Thread) (named : List Nat) : Prop :=
  s.cur = .thread k ∧ s.thread? k = some t ∧ (∀ n ∈ named, n < s.budgetOf k) ∧ t.anyBad named = false

/-- Thread k, resident as t, is the one that executes. -/
def Runs (s : State) (k : Nat) (t : Thread) : Prop := s.cur = .thread k ∧ s.thread? k = some t

/-- Nothing changed but the thread table, in it only thread k, and, where k was asked to halt, its core's debug block: memory, bands,
hasps, strands, engines and every other register are as before. -/
def OnlyThread (s u : State) (k : Nat) (t : Thread) : Prop :=
  u = { s with threads := u.threads, cores := u.cores } ∧ (∀ j, j ≠ k → u.thread? j = s.thread? j) ∧
    (t.haltReq = false → u.cores = s.cores) ∧ ∀ a, u.byte a = s.byte a

/-- Thread k now stands after its instruction, ready, with its result r in d and r's conditions in FSTAT; no other register of it
changed, and nothing outside it (R44, R56, R57). -/
def Delivered (s u : State) (k : Nat) (t : Thread) (d : LaneDst) (r : FRes) : Prop :=
  OnlyThread s u k t ∧
    ∃ t', u.thread? k = some t' ∧ (∀ n, d = .v n → t'.getV n.val = r.1) ∧ (∀ n, d ≠ .v n → t'.getV n.val = t.getV n.val) ∧
      t'.fstat = t.fstat ||| (r.2 &&& 0x3F) ∧ t'.pc = s.pcAfter k ∧ t'.status = .ready ∧ t'.f = t.f ∧ t'.rs = t.rs ∧
      t'.trapstat = t.trapstat ∧ t'.trapMode = t.trapMode ∧ t'.clkh = t.clkh

/-- The threads ks meet at the rendezvous that thread k completes, and the scalar pipe takes it: k alone in trap mode, else the threads of P once
all stand at it (R113-R117). -/
def MeetsAs (s : State) (k : Nat) (t : Thread) (ks : List Nat) : Prop :=
  if t.trapMode then ks = [k]
  else s.inPm k = true ∧ (s.arrive k).meeting k = .complete ks ∧ (s.arrive k).pipeFree k = true

/-- None of the threads ks reads a lane register with an error that no code corrects (R363). -/
def Sound (s : State) (ks named : List Nat) : Prop := ∀ j ∈ ks, ∀ t, s.thread? j = some t → t.anyBad named = false

/-- The state in which the operation of a rendezvous reads: the last thread has arrived. -/
def met (s : State) (k : Nat) (t : Thread) : State := if t.trapMode then s else s.arrive k

/-- What a band operation leaves: each thread of ks gets its result in d, the scalar pipe has executed, and all go on (R60, R105, R117). -/
def bandResult (ks : List Nat) (k : Nat) (alone : Bool) (d : LaneDst) (f : Nat → FRes) (m : State) : State :=
  ks.foldl (fun s j => s.advance j) ((ks.foldl (fun u j => u.deliver j d (f j)) m).piped k alone false)

/-- i computes f in each thread that executes it, from the value of its source A; with a cross-lane modifier it runs at the rendezvous,
where every A is read before any destination is written, and a thread outside P passes (R25, R56, R57, R60). -/
def Computes (i : Instr) (named : List Nat) (rd : Reading) (d : LaneDst) (a : LaneSrc) (x : Xl) (f : State → Nat → Word → FRes) : Prop :=
  ∀ s k t, Lane s k t named →
    (x = .none → ∃ u, exec i s = .next u ∧ Delivered s u k t d (f s k (s.laneSrc k rd a))) ∧
    (x ≠ .none →
      (t.trapMode = false → s.inPm k = false → exec i s = .next (s.advance k)) ∧
      ∀ ks, MeetsAs s k t ks → Sound s ks named →
        exec i s = .next (bandResult ks k t.trapMode d (fun j => f (met s k t) j ((met s k t).laneSrc (xlThread ks x j) rd a)) (met s k t)))

/-- The same for an instruction whose result `is` describes. -/
def ComputesSo (i : Instr) (named : List Nat) (rd : Reading) (d : LaneDst) (a : LaneSrc) (x : Xl)
    (is : State → Nat → Word → FRes → Prop) : Prop :=
  ∃ f, Computes i named rd d a x f ∧ ∀ s k v, is s k v (f s k v)

/-- i computes f in the thread that executes it and has no cross-lane form. -/
def ComputesAlone (i : Instr) (named : List Nat) (rd : Reading) (d : LaneDst) (a : LaneSrc) (f : State → Nat → Word → FRes) : Prop :=
  ∀ s k t, Lane s k t named → ∃ u, exec i s = .next u ∧ Delivered s u k t d (f s k (s.laneSrc k rd a))

end Sys2Proof.Says

open Sys2Proof Sys2Proof.Machine Sys2Proof.Says

/-! ### Lane compute (04) -/

/-- R62, first half: the one-word arithmetic members, with their frame (R56). R62, second half: the logic members, the shifts
and the counts. The result of a shift or a count is given bit by bit or as a number. -/
def Obligations.IntegerResults : Prop :=
  (∀ (d : LaneDst) (a b : LaneSrc),
    let ns := LaneDst.regs d ++ LaneSrc.regs a ++ LaneSrc.regs b
    let two (i : Instr) (f : Word → Word → Word) : Prop :=
      ComputesAlone i ns .int d a fun s k v => (f v (s.laneSrc k .int b), 0)
    two (.iadd d a b) (fun v w => BitVec.ofNat 32 (v.toNat + w.toNat)) ∧
    two (.isub d a b) (fun v w => BitVec.ofInt 32 (v.toNat - w.toNat)) ∧
    two (.imul d a b) (fun v w => BitVec.ofNat 32 (v.toNat * w.toNat)) ∧
    two (.imulh d a b) (fun v w => BitVec.ofInt 32 (v.toInt * w.toInt / 2 ^ 32)) ∧
    two (.imulhu d a b) (fun v w => BitVec.ofNat 32 (v.toNat * w.toNat / 2 ^ 32)) ∧
    two (.imin d a b) (fun v w => if v.toInt ≤ w.toInt then v else w) ∧
    two (.imax d a b) (fun v w => if v.toInt ≤ w.toInt then w else v) ∧
    two (.iminu d a b) (fun v w => if v.toNat ≤ w.toNat then v else w) ∧
    two (.imaxu d a b) (fun v w => if v.toNat ≤ w.toNat then w else v)) ∧
  (RejectsB 0x11 ∧ RejectsB 0x12 ∧ ∀ (d : LaneDst) (a b : LaneSrc),
    let ns := LaneDst.regs d ++ LaneSrc.regs a ++ LaneSrc.regs b
    let two (i : Instr) (f : Word → Word → Word) : Prop :=
      ComputesAlone i ns .int d a fun s k v => (f v (s.laneSrc k .int b), 0)
    let one (i : Instr) (f : Word → Word) : Prop :=
      ComputesAlone i (LaneDst.regs d ++ LaneSrc.regs a) .int d a fun _ _ v => (f v, 0)
    two (.and d a b) (fun v w => v &&& w) ∧
    two (.or d a b) (fun v w => v ||| w) ∧
    two (.xor d a b) (fun v w => v ^^^ w) ∧
    two (.andn d a b) (fun v w => v &&& ~~~w) ∧
    two (.shl d a b) (fun v w => BitVec.ofNat 32 (v.toNat * 2 ^ w.toNat)) ∧
    two (.shr d a b) (fun v w => BitVec.ofNat 32 (v.toNat / 2 ^ w.toNat)) ∧
    two (.sar d a b) (fun v w => BitVec.ofInt 32 (v.toInt / 2 ^ w.toNat)) ∧
    one (.popc d a) (fun v => BitVec.ofNat 32 ((List.range 32).filter fun i => v.getLsbD i).length) ∧
    one (.clz d a) (fun v => BitVec.ofNat 32 (if v = 0 then 32 else 31 - v.toNat.log2)))

/-- R63, R64, R65: IMAD, the bit fields and ICMP, with every cross-lane modifier. -/
def Obligations.MultiplyAddFieldCompareResults : Prop :=
  RejectsC 0x13 ∧ RejectsC 0x15 ∧ ∀ (d : LaneDst) (a b c : LaneSrc) (x : Xl),
    let ns := LaneDst.regs d ++ LaneSrc.regs a ++ LaneSrc.regs b
    let clamped (lo hi t : Int) : FRes := (BitVec.ofInt 32 (max lo (min hi t)), if t < lo ∨ hi < t then 0x20 else 0)
    Computes (.imad .wrap d a x b c) (ns ++ LaneSrc.regs c) .int d a x
      (fun s k v => (BitVec.ofNat 32 (v.toNat * (s.laneSrc k .int b).toNat + (s.laneSrc k .int c).toNat), 0)) ∧
    Computes (.imad .signed d a x b c) (ns ++ LaneSrc.regs c) .int d a x
      (fun s k v => clamped (-2 ^ 31) (2 ^ 31 - 1) (v.toInt * (s.laneSrc k .int b).toInt + (s.laneSrc k .int c).toInt)) ∧
    Computes (.imad .unsigned d a x b c) (ns ++ LaneSrc.regs c) .int d a x
      (fun s k v => clamped 0 (2 ^ 32 - 1) (v.toNat * (s.laneSrc k .int b).toNat + (s.laneSrc k .int c).toNat)) ∧
    (∀ sgn, Computes (.bfe sgn d a x b) ns .int d a x fun s k v =>
      let o := (s.laneSrc k .int b).toNat % 256
      let w := min ((s.laneSrc k .int b).toNat / 256 % 256) 32
      let f := (if sgn then v.toInt else v.toNat) / 2 ^ o % 2 ^ w
      (if w = 0 then 0 else if sgn ∧ 2 ^ (w - 1) ≤ f then BitVec.ofInt 32 (f - 2 ^ w) else BitVec.ofInt 32 f, 0)) ∧
    Computes (.bfi d a x b c) (ns ++ LaneSrc.regs c) .int d a x (fun s k v =>
      let o := (s.laneSrc k .int c).toNat % 256
      let w := min ((s.laneSrc k .int c).toNat / 256 % 256) 32
      let m := BitVec.ofNat 32 ((2 ^ w - 1) * 2 ^ o)
      ((v &&& ~~~m) ||| (BitVec.ofNat 32 ((s.laneSrc k .int b).toNat * 2 ^ o) &&& m), 0)) ∧
    ∀ cc u, Computes (.icmp cc u d a x b) ns .int d a x fun s k v =>
      let p : Int := if u then v.toNat else v.toInt
      let q : Int := if u then (s.laneSrc k .int b).toNat else (s.laneSrc k .int b).toInt
      let holds : Bool := match cc with
        | .eq => decide (p = q)
        | .ne => decide (p ≠ q)
        | .lt => decide (p < q)
        | .le => decide (p ≤ q)
        | .gt => decide (q < p)
        | .ge => decide (q ≤ p)
      (if holds then 1 else 0, 0)

/-- R68, R69, R70 on the patterns themselves. The order of two patterns that are no NaN is that of their sign and magnitude; FMIN and
FMAX put -0 below +0, FCMP finds them equal. -/
def Obligations.FloatOrderSignClassResults : Prop :=
  let mag (w : Word) : Nat := w.toNat % 2 ^ 31
  let neg (w : Word) : Bool := decide (2 ^ 31 ≤ w.toNat)
  let nan (w : Word) : Bool := decide (0x7F800000 < mag w)
  let rank (w : Word) : Int := if neg w then -(mag w : Int) else mag w
  let below (v w : Word) : Prop := rank v < rank w ∨ (rank v = rank w ∧ (neg v ∨ ¬ neg w))
  RejectsB 0x26 ∧ RejectsB 0x27 ∧ RejectsB 0x29 ∧ RejectsC 0x28 ∧ ∀ (d : LaneDst) (a b : LaneSrc) (x : Xl),
    let na := LaneDst.regs d ++ LaneSrc.regs a
    let nb := na ++ LaneSrc.regs b
    let B (s : State) (k : Nat) : Word := s.laneSrc k .f32 b
    (∃ f : Word → Word → Word, ComputesAlone (.fmin d a b) nb .f32 d a (fun s k v => (f v (B s k), 0)) ∧
      ∀ v w, (nan v → nan w → f v w = 0x7FC00000) ∧ (nan v → ¬ nan w → f v w = w) ∧ (¬ nan v → nan w → f v w = v) ∧
        (¬ nan v → ¬ nan w → (below v w → f v w = v) ∧ (¬ below v w → f v w = w))) ∧
    (∃ f : Word → Word → Word, ComputesAlone (.fmax d a b) nb .f32 d a (fun s k v => (f v (B s k), 0)) ∧
      ∀ v w, (nan v → nan w → f v w = 0x7FC00000) ∧ (nan v → ¬ nan w → f v w = w) ∧ (¬ nan v → nan w → f v w = v) ∧
        (¬ nan v → ¬ nan w → (below v w → f v w = w) ∧ (¬ below v w → f v w = v))) ∧
    ComputesAlone (.fabs d a) na .f32 d a (fun _ _ v => (BitVec.ofNat 32 (mag v), 0)) ∧
    ComputesAlone (.fneg d a) na .f32 d a (fun _ _ v => (v + 0x80000000, 0)) ∧
    (∀ cc, Computes (.fcmp cc d a x b) nb .f32 d a x fun s k v =>
      let w := B s k
      let un := nan v || nan w
      match cc with
      | .eq => (if !un && rank v = rank w then 1 else 0, 0)
      | .ne => (if !un && rank v = rank w then 0 else 1, 0)
      | .lt => (if !un && rank v < rank w then 1 else 0, if un then 1 else 0)
      | .le => (if !un && rank v ≤ rank w then 1 else 0, if un then 1 else 0)
      | .gt => (if !un && rank w < rank v then 1 else 0, if un then 1 else 0)
      | .ge => (if !un && rank w ≤ rank v then 1 else 0, if un then 1 else 0)
      | .un => (if un then 1 else 0, 0)
      | .ord => (if un then 0 else 1, 0)) ∧
    ComputesAlone (.fclass d a) na .f32 d a (fun _ _ v =>
      (if nan v then 0x100
       else if mag v = 0x7F800000 then (if neg v then 0x1 else 0x80)
       else if 0x00800000 ≤ mag v then (if neg v then 0x2 else 0x40)
       else if mag v = 0 then (if neg v then 0x8 else 0x10)
       else if neg v then 0x4 else 0x20, 0))

/-- R37, R41 to R43, R45, R66, R67, R75: the values of float patterns; the float members, whose exact result is rounded once
under RM into FP32; and FRND. FTRN delivers `ftrnVal`; what that is, the statement of FTRN says. R72, R73: the packed members;
each half is computed and rounded on its own and FSTAT takes the conditions of both. That PDOT's 0 times an infinity is invalid also beside a
NaN, and the sign of its sum that is exactly zero, are the model's choice (log 12). -/
def Obligations.FloatAndPackedResults : Prop :=
  ((∀ F ∈ [fp32, fp16, bf16, fe5m2, fe4m3, fe2m1], ∀ w, w < 2 ^ (F.eb + F.mb + 1) → PatternValue F w) ∧
  ∀ (d : LaneDst) (a b c : LaneSrc) (x : Xl) (rm : Rm),
    let na := LaneDst.regs d ++ LaneSrc.regs a
    let nb := na ++ LaneSrc.regs b
    let B (s : State) (k : Nat) : FVal := rd32 (s.laneSrc k .f32 b)
    let C (s : State) (k : Nat) : FVal := rd32 (s.laneSrc k .f32 c)
    let pat (r : FRes) : Nat × Word := (r.1.toNat, r.2)
    let one (i : Instr) (is : FVal → FRes → Prop) : Prop := ComputesSo i na .f32 d a x fun _ _ v r => is (rd32 v) r
    ComputesSo (.fadd rm d a x b) nb .f32 d a x (fun s k v r => SumIs fp32 rm [rd32 v, B s k] (pat r)) ∧
    ComputesSo (.fsub rm d a x b) nb .f32 d a x (fun s k v r => SumIs fp32 rm [rd32 v, FVal.neg (B s k)] (pat r)) ∧
    ComputesSo (.fmul rm d a x b) nb .f32 d a x (fun s k v r => DotIs fp32 rm [(rd32 v, B s k)] [] (pat r)) ∧
    ComputesSo (.ffma rm d a x b c) (nb ++ LaneSrc.regs c) .f32 d a x
      (fun s k v r => DotIs fp32 rm [(rd32 v, B s k)] [C s k] (pat r)) ∧
    one (.frcp rm d a x) (fun v r => match v with
      | .nan => isNaN fp32 (pat r)
      | .inf s => pat r = (zeroOf fp32 s, 0)
      | .fin s 0 _ => pat r = (infOf fp32 s, 2)
      | .fin _ (_ + 1) _ => Delivers fp32 rm false (1 / real v) (pat r)) ∧
    one (.frsq rm d a x) (fun v r => match v with
      | .nan => isNaN fp32 (pat r)
      | .inf false => pat r = (0, 0)
      | .fin s 0 _ => pat r = (infOf fp32 s, 2)
      | .fin false (_ + 1) _ => Delivers fp32 rm false (1 / Real.sqrt (real v)) (pat r)
      | _ => isInvalid fp32 (pat r)) ∧
    one (.fsqrt rm d a x) (fun v r => match v with
      | .nan => isNaN fp32 (pat r)
      | .inf false => pat r = (infOf fp32 false, 0)
      | .fin s 0 _ => pat r = (zeroOf fp32 s, 0)
      | .fin false (_ + 1) _ => Delivers fp32 rm false (Real.sqrt (real v)) (pat r)
      | _ => isInvalid fp32 (pat r)) ∧
    (∀ fn, Computes (.ftrn fn rm d a x) na .f32 d a x fun _ _ v => ftrnVal fn rm (rd32 v)) ∧
    ComputesSo (.frnd rm d a x) na .f32 d a x (fun _ _ w r => match rd32 w with
      | .nan => isNaN fp32 (pat r)
      | .inf _ => r = (w, 0)
      | .fin s m e => r.2 = 0 ∧ ∃ n, RoundsInt rm s (real (.fin false m e)) n ∧ HasMag fp32 s r.1.toNat n)) ∧
  (∀ (fmt : PFmt) (rm : Rm) (d : LaneDst) (a b c : LaneSrc) (x : Xl),
    let nb := LaneDst.regs d ++ LaneSrc.regs a ++ LaneSrc.regs b
    let F := pfmt fmt
    let el (w : Word) (i : Nat) : Nat := w.toNat / 2 ^ (16 * i) % 2 ^ 16
    let val (w : Word) (i : Nat) : FVal := F.read (el w i)
    let both (r : FRes) (is : Nat → Nat × Word → Prop) : Prop :=
      ∃ lo hi : Nat × Word, is 0 lo ∧ is 1 hi ∧ r = (BitVec.ofNat 32 (lo.1 + hi.1 * 2 ^ 16), lo.2 ||| hi.2)
    let B (s : State) (k : Nat) : Word := s.laneSrc k (.packed fmt) b
    let C (s : State) (k : Nat) : Word := s.laneSrc k (.packed fmt) c
    ComputesSo (.padd fmt rm d a x b) nb (.packed fmt) d a x (fun s k v r => both r fun i => SumIs F rm [val v i, val (B s k) i]) ∧
    ComputesSo (.pmul fmt rm d a x b) nb (.packed fmt) d a x (fun s k v r => both r fun i => DotIs F rm [(val v i, val (B s k) i)] []) ∧
    ComputesSo (.pfma fmt rm d a x b c) (nb ++ LaneSrc.regs c) (.packed fmt) d a x
      (fun s k v r => both r fun i => DotIs F rm [(val v i, val (B s k) i)] [val (C s k) i]) ∧
    ComputesSo (.pmin fmt d a x b) nb (.packed fmt) d a x
      (fun s k v r => both r fun i q => LesserIs F true (el v i) (el (B s k) i) q.1 ∧ q.2 = 0) ∧
    ComputesSo (.pmax fmt d a x b) nb (.packed fmt) d a x
      (fun s k v r => both r fun i q => LesserIs F false (el v i) (el (B s k) i) q.1 ∧ q.2 = 0) ∧
    ComputesSo (.pdot fmt rm d a x b c) (nb ++ LaneSrc.regs c) (.packed fmt) d a x (fun s k v r =>
      DotIs fp32 rm [(val v 0, val (B s k) 0), (val v 1, val (B s k) 1)] [rd32 (s.laneSrc k .f32 c)] (r.1.toNat, r.2)))

/-- R71: FTRN on its special operands and wherever its function has an exact FP32 result there; and, of a finite operand, the one correct rounding of the exact
value, unless that value lies within one part in 2^100 of a point at which a rounding turns (the model computes each function to that precision). -/
def Obligations.FunctionResults : Prop :=
  ∀ (d : LaneDst) (a : LaneSrc) (x : Xl) (rm : Rm) (fn : TrnFn),
    let pat (r : FRes) : Nat × Word := (r.1.toNat, r.2)
    ComputesSo (.ftrn fn rm d a x) (LaneDst.regs d ++ LaneSrc.regs a) .f32 d a x fun _ _ w r =>
      let v := rd32 w
      let y : ℝ := match fn with
        | .exp2 => (2 : ℝ) ^ real v
        | .log2 => Real.logb 2 (real v)
        | .sinpi => Real.sin (Real.pi * real v)
        | .cospi => Real.cos (Real.pi * real v)
      let whole : Prop := ∃ n : ℤ, real v = n
      (v = .nan → isNaN fp32 (pat r)) ∧
      (∀ s, v = .inf s → pat r = match fn with
        | .exp2 => if s then (0, 0) else (infOf fp32 false, 0)
        | .log2 => if s then (fp32.nan, 1) else (infOf fp32 false, 0)
        | _ => (fp32.nan, 1)) ∧
      ∀ s m e, v = .fin s m e →
        (fn = .log2 → m = 0 → pat r = (infOf fp32 true, 2)) ∧
        (fn = .log2 → m ≠ 0 → s = true → isInvalid fp32 (pat r)) ∧
        (fn = .sinpi → whole → pat r = (zeroOf fp32 s, 0)) ∧
        (fn = .cospi → (∃ n : ℤ, real v = n + 1 / 2) → pat r = (0, 0)) ∧
        ((fn = .log2 → m ≠ 0 ∧ s = false) →
          ((∃ (n : ℤ) (q : ℤ), (n.natAbs < 2 ^ 24 ∧ y = n * (2 : ℝ) ^ q)) → Delivers fp32 rm (fn == .sinpi && s) y (pat r)) ∧
          ((∀ (n q : ℤ), n.natAbs < 2 ^ 25 → (2 : ℝ) ^ (-100 : ℤ) * |y| < |y - n * (2 : ℝ) ^ q|) →
            Delivers fp32 rm false y (pat r)))

/-- R45, R46, R74, R76, R77, R78: CVT and the packs and unpacks. Each rounds once into its target, with R45's and R46's rows for what does not fit; a pack
divides by 2^(X - 127) first, an unpack multiplies, and a scale X of 0xFF makes every element a NaN. (That a constant as the scale, or as A of an
unpack, is read as its FP32 bits is the model's reading, log 87.) -/
def Obligations.ConversionResults : Prop :=
  ∀ (d : LaneDst) (a b c : LaneSrc) (x : Xl) (rm : Rm) (fmt : PFmt),
    let na := LaneDst.regs d ++ LaneSrc.regs a
    let F := pfmt fmt
    let el (w : Word) (i : Nat) : Nat := w.toNat / 2 ^ (16 * i) % 2 ^ 16
    let part (n : Nat) (w : Word) (i : Nat) : Nat := w.toNat / 2 ^ (n * i) % 2 ^ n
    let both (r : FRes) (is : Nat → Nat × Word → Prop) : Prop :=
      ∃ lo hi : Nat × Word, is 0 lo ∧ is 1 hi ∧ r = (BitVec.ofNat 32 (lo.1 + hi.1 * 2 ^ 16), lo.2 ||| hi.2)
    let type (t8 : T8) : NumType := match t8 with
      | .e4m3 => .e4m3
      | .e5m2 => .e5m2
      | .s8 => .s8
    let sc (s : State) (k : Nat) : Nat := (s.laneSrc k .f32 c).toNat % 256
    let shrunk (t : NumType) (s : State) (k : Nat) (v : FVal) (e : FRes) : Prop :=
      ∃ u, Scaled (sc s k) (127 - (sc s k : ℤ)) v u ∧ Converts t rm u e
    let grown (s : State) (k : Nat) (v : FVal) (e : Nat × Word) : Prop :=
      ∃ u, Scaled (sc s k) ((sc s k : ℤ) - 127) v u ∧ ConvertsF F rm u e
    (∀ w, NumType.read .f32 w = fp32.read w.toNat ∧ NumType.read .f16 w = fp16.read (w.toNat % 2 ^ 16) ∧
      NumType.read .bf16 w = Sys2Proof.Machine.bf16.read (w.toNat % 2 ^ 16) ∧ NumType.read .e4m3 w = fe4m3.read (w.toNat % 2 ^ 8) ∧
      NumType.read .e5m2 w = fe5m2.read (w.toNat % 2 ^ 8) ∧ NumType.read .e2m1 w = fe2m1.read (w.toNat % 2 ^ 4) ∧
      (w.toNat % 2 ^ 8 = 255 → NumType.read .e8m0 w = .nan) ∧
      (w.toNat % 2 ^ 8 ≠ 255 → real (NumType.read .e8m0 w) = (2 : ℝ) ^ ((w.toNat % 2 ^ 8 : ℤ) - 127)) ∧
      real (NumType.read .s8 w) = ((w.setWidth 8).toInt : ℝ) ∧ real (NumType.read .s16 w) = ((w.setWidth 16).toInt : ℝ) ∧
      real (NumType.read .s32 w) = (w.toInt : ℝ) ∧ real (NumType.read .u8 w) = ((w.toNat % 2 ^ 8 : Nat) : ℝ) ∧
      real (NumType.read .u16 w) = ((w.toNat % 2 ^ 16 : Nat) : ℝ) ∧ real (NumType.read .u32 w) = (w.toNat : ℝ)) ∧
    (∀ dt st, ComputesSo (.cvt dt st rm d a x) na (.cvt st) d a x fun _ _ v r => Converts dt rm (NumType.read st v) r) ∧
    ComputesSo (.pcvt2 (.pack fmt rm b) d a x) (na ++ LaneSrc.regs b) .f32 d a x
      (fun s k v r => both r fun i => ConvertsF F rm (if i = 0 then rd32 v else rd32 (s.laneSrc k .f32 b))) ∧
    (∀ hi, ComputesSo (.pcvt2 (.unpack fmt hi) d a x) na (.packed fmt) d a x fun _ _ v r =>
      ConvertsF fp32 .nearest (F.read (el v (if hi then 1 else 0))) (r.1.toNat, r.2) ∧ r.2 = 0) ∧
    (∀ t8, ComputesSo (.pcvt4 (.pack t8 fmt rm b) d a x c) (na ++ LaneSrc.regs b ++ LaneSrc.regs c) (.packed fmt) d a x fun s k v r =>
      let w := s.laneSrc k (.packed fmt) b
      ∃ e0 e1 e2 e3, shrunk (type t8) s k (F.read (el v 0)) e0 ∧ shrunk (type t8) s k (F.read (el v 1)) e1 ∧
        shrunk (type t8) s k (F.read (el w 0)) e2 ∧ shrunk (type t8) s k (F.read (el w 1)) e3 ∧
        r = (BitVec.ofNat 32 (part 8 e0.1 0 + part 8 e1.1 0 * 2 ^ 8 + part 8 e2.1 0 * 2 ^ 16 + part 8 e3.1 0 * 2 ^ 24),
          e0.2 ||| (e1.2 ||| (e2.2 ||| e3.2)))) ∧
    (∀ t8 hi, ComputesSo (.pcvt4 (.unpack t8 fmt hi rm) d a x c) (na ++ LaneSrc.regs c) .f32 d a x fun s k v r =>
      both r fun j => grown s k (NumType.read (type t8) (BitVec.ofNat 32 (part 8 v (j + if hi then 2 else 0))))) ∧
    (∀ n : Fin 157, ∀ s k t, Lane s k t (LaneDst.regs d ++ [n.val, n.val + 1, n.val + 2, n.val + 3] ++ LaneSrc.regs c) →
      ∃ u r, exec (.pcvt8 (.pack fmt rm n) d c) s = .next u ∧ Delivered s u k t d r ∧ ∃ e : Nat → FRes,
        (∀ i, i < 8 → shrunk .e2m1 s k (F.read (el (t.getV (n.val + i / 2)) (i % 2))) (e i)) ∧
        (∀ i, i < 8 → part 4 r.1 i = (e i).1.toNat) ∧ r.2 = (List.range 8).foldr (fun i fl => (e i).2 ||| fl) 0) ∧
    ∀ q : Fin 4, ComputesSo (.pcvt8 (.unpack fmt q rm a x) d c) (na ++ LaneSrc.regs c) .f32 d a x fun s k v r =>
      both r fun j => grown s k (fe2m1.read (part 4 v (2 * q.val + j)))

/-- R79 to R82: MOV, MOVI, SEL and RDSP. RDSP.clr returns FSTAT and clears it as one action; reading SP.CLK latches the clock's
high half, which SP.CLKH returns. R30, R194: what the special registers of a band read, in a block and in none. R105, R106: the cross-lane operations. Each runs once, when the threads ks of P have met at
it; every source is read before any destination is written. `FoldIs` says what each operator makes of its operands, and of none. -/
def Obligations.MoveSelectCrossLaneResults : Prop :=
  (∀ (d : LaneDst) (a b c : LaneSrc) (x : Xl) (imm : Word),
    let na := LaneDst.regs d ++ LaneSrc.regs a
    Computes (.mov d a x) na .int d a x (fun _ _ v => (v, 0)) ∧
    ComputesAlone (.movi d imm) (LaneDst.regs d) .int d a (fun _ _ _ => (imm, 0)) ∧
    Computes (.sel d a x b c) (na ++ LaneSrc.regs b ++ LaneSrc.regs c) .int d a x
      (fun s k v => (if s.laneSrc k .int c = 0 then s.laneSrc k .int b else v, 0)) ∧
    (∀ s k t, Lane s k t (LaneDst.regs d) →
      let read (i : Fin 19) (w : Word) : Prop := ∃ u, exec (.rdsp d i) s = .next u ∧ Delivered s u k t d (w, 0)
      read 0 (s.spValue (.band (bandOfThread k)) 2 * 32 + BitVec.ofNat 32 (laneOfThread k)) ∧
      read 1 (BitVec.ofNat 32 (laneOfThread k)) ∧ read 13 t.clkh ∧ read 16 t.fstat ∧ read 17 t.trapstat ∧
      (∀ i : Fin 19, i.val ∉ [0, 1, 12, 13, 16, 17] → read i (s.spValue (.band (bandOfThread k)) i.val)) ∧
      (∃ u, exec (.rdsp d 12) s = .next u ∧ ∃ t', u.thread? k = some t' ∧ (∀ n, d = .v n → t'.getV n.val = BitVec.ofNat 32 s.clk) ∧
        t'.clkh = BitVec.ofNat 32 (s.clk / 2 ^ 32) ∧ t'.pc = s.pcAfter k) ∧
      ∃ u, exec (.rdspClr d) s = .next u ∧ OnlyThread s u k t ∧ ∃ t', u.thread? k = some t' ∧ t'.fstat = 0 ∧
        (∀ n, d = .v n → t'.getV n.val = t.fstat) ∧ (∀ n, d ≠ .v n → t'.getV n.val = t.getV n.val) ∧ t'.pc = s.pcAfter k)) ∧
  (∀ (s : State) (b : Nat) (x : Band), s.band? b = some x →
    let sp (i : Nat) : Word := s.spValue (.band b) i
    let n (m : Nat) : Word := BitVec.ofNat 32 m
    sp 5 = n x.nblk ∧ sp 6 = n x.role ∧ sp 7 = n (coreOfBand b % 96) ∧ sp 8 = n (coreOfBand b / 96) ∧ sp 9 = n s.pkg.toNat ∧
    sp 10 = n x.node ∧ sp 11 = n x.inst ∧ sp 15 = n (gradeCode (s.taint x.task)) ∧ sp 18 = n x.budget ∧
    (∀ k y, x.block = some k → s.block? k = some y → sp 2 = n x.pos ∧ sp 4 = n y.blockId ∧ sp 14 = y.spRecall ∧
      sp 3 = n (mkeys s.bands fun _ z => z.block == some k).length) ∧
    (x.block = none → sp 2 = 0 ∧ sp 3 = 1 ∧ sp 4 = 0xFFFFFFFF ∧ sp 14 = 0)) ∧
  (∀ (d : LaneDst) (a b : LaneSrc) (op : XOp) (rm : Rm) (exc : Bool) s k t,
    let na := LaneDst.regs d ++ LaneSrc.regs a
    let m := met s k t
    let all (i : Instr) (named : List Nat) (is : List Nat → Nat → FRes → Prop) : Prop := Lane s k t named →
      (t.trapMode = false → s.inPm k = false → exec i s = .next (s.advance k)) ∧
      ∀ ks, MeetsAs s k t ks → Sound s ks named → ∃ f, exec i s = .next (bandResult ks k t.trapMode d f m) ∧ ∀ j ∈ ks, is ks j (f j)
    let A (j : Nat) : Word := m.laneSrc j (match op with
      | .fadd => .f32
      | .fmin => .f32
      | .fmax => .f32
      | _ => .int) a
    all (.xshf d a b) (na ++ LaneSrc.regs b) (fun ks j r =>
      let l := (m.laneSrc j .int b).toNat
      let o := threadOf (bandOfThread j) l
      r = (m.laneSrc (if l < 32 ∧ o ∈ ks then o else j) .int a, 0)) ∧
    all (.xbal d a) na (fun ks _ r =>
      r = (BitVec.ofNat 32 (ks.map fun j => if m.laneSrc j .int a ≠ 0 then 2 ^ laneOfThread j else 0).sum, 0)) ∧
    all (.xred op rm d a) na (fun ks _ r => FoldIs op rm (ks.map A) r) ∧
    all (.xscn op rm exc d a) na (fun ks j r =>
      FoldIs op rm ((ks.filter fun l => decide (laneOfThread l < laneOfThread j) || (!exc && l == j)).map A) r))

/-! ### Lane memory (05) -/

namespace Sys2Proof.Says

open Sys2Proof.Machine

/-- The n bytes at the 32-bit address `addr` of thread k pass every check of R83, R84, R236 and R363 for this use: aligned, formed through the
windows to va, placed at acc with the state s1 after the translation, of a kind of memory the instruction may reach, a doorbell only by an
8-byte store at its own address, and on no bad line where they are read, nor on one whose metadata is bad. -/
def Reaches (s : State) (k addr n align kind : Nat) (use : Use) (host : Bool) (s1 : State) (va : Nat) (acc : Acc) : Prop :=
  addr % align = 0 ∧ s.bandVa (bandOfThread k) addr = .ok va ∧
    s.place (s.bandSpace (bandOfThread k)) (coreOfThread k) va use host = (.ok acc, s1) ∧ bellUse acc n kind use = true ∧
    ((use == .read || kind == 2 || acc.graded) = true → s1.accBad acc n = false) ∧ s1.accDead acc n = false

/-- The thread holds at its instruction, which is issued again (R92). -/
def holding (s : State) (k : Nat) : State :=
  s.modThread k fun t => if t.status == .ready && !t.halted && slotOf t.pc != 0 then { t with status := .held } else t

/-- What a lane memory instruction does once its operation is posted: the requests that may go out go out, and the thread goes on. -/
def posted (s : State) (k : Nat) : State := s.sendReady.advance k

end Sys2Proof.Says

/-- R83: the window, the slice space of the issuer's own package, and the addresses that trap. -/
def Obligations.AddressWindows : Prop :=
  ∀ (pkg : Byte) (w28 w29 w30 : Word) (t : Nat), t < 2 ^ 32 →
    let ofs := t % 2 ^ 30
    let h := (if t / 2 ^ 30 = 0 then w28 else if t / 2 ^ 30 = 1 then w29 else w30).toNat
    let va := h * 2 ^ 30 + ofs
    (t / 2 ^ 30 = 3 → t / 2 ^ 21 % 2 ^ 7 < 96 → formVa pkg.toNat w28 w29 w30 t = .ok (0x00FF000000000000 + pkg.toNat * 2 ^ 30 + ofs)) ∧
    (t / 2 ^ 30 = 3 → 96 ≤ t / 2 ^ 21 % 2 ^ 7 → formVa pkg.toNat w28 w29 w30 t = .error 1) ∧
    (t / 2 ^ 30 < 3 → 2 ^ 26 ≤ h → formVa pkg.toNat w28 w29 w30 t = .error 0) ∧
    (t / 2 ^ 30 < 3 → h < 2 ^ 26 → va / 2 ^ 48 = 0xFF → va / 2 ^ 38 % 2 ^ 10 ≠ 0 → formVa pkg.toNat w28 w29 w30 t = .error 0) ∧
    (t / 2 ^ 30 < 3 → h < 2 ^ 26 → (va / 2 ^ 48 ≠ 0xFF ∨ va / 2 ^ 38 % 2 ^ 10 = 0) → formVa pkg.toNat w28 w29 w30 t = .ok va)

/-- R90, R92: a store to a page that is not graded is posted; one to a graded page of this package, once it may be performed, is
checked by the tumbler with its data and the grade it requests, FINAL for a plain one; the thread goes on when that check lets
it, and holds where the write must wait. R92, R294: what the tumbler's check of a graded write does to a line of this package,
below a run's depth limit and with room in the write log: the grade and depth it leaves, the data it writes, and the finality
fault, which changes nothing. R299, R308: an amendment re-fires the line's other readers, writes the data and raises the depth; a depth fault cancels
the run and ends the thread. That the flag of a store is down while it is held for the tumbler, and up once its request has left for another
package, is the model's choice (logs 88 and 37). -/
def Obligations.StoresPostOrAreChecked : Prop :=
  (∀ g sz ord ab (a : LaneSrc) ofs (b : LaneSrc) s k t s1 va acc,
    Lane s k t (LaneSrc.regs a ++ runFrom sz.regs (LaneSrc.regs b)) →
    Reaches s k (s.laneAddr k a ofs) (szBytes sz) (szBytes sz) 1 .write true s1 va acc →
    let s2 := s1.countOnce k t acc 0 1
    let req : Grade := if g = .none then .final else g
    let data := s.storeData k sz b
    let o := { s2.blankOp k t .st with
      va := va, acc := acc, n := szBytes sz, data := data, ord := ord, words := [BitVec.ofNat 32 (gradeCode req)] }
    (acc.graded = false → exec (.st g sz ord ab a ofs b) s = .next ((s2.issueOp k t ab o).advance k)) ∧
    -- a graded page of another package: the request leaves as a release, and the thread holds for the answer (log 37)
    (acc.graded = true → acc.loc.home = none → s2.awaited k t = none →
      exec (.st g sz ord ab a ofs b) s = .next (holding (s2.issueOp k t ab { o with ord := Ord16.withRel ord }).sendReady k)) ∧
    ∀ h out s3, acc.graded = true → acc.loc.home = some h →
      s2.mayPerform s2.nextId { o with ord := s2.gradedOrd h data ord } = true →
      s2.gradedWrite h data req (some (s2.taskOf k)) (s2.depthLimit (s2.instOf k)) = (out, s3) →
      (out ∈ [.wrote, .amended, .confirmed, .same] →
        exec (.st g sz ord ab a ofs b) s = .next ((s3.sampleHeld o).settle.advance k)) ∧
      (out ∈ [.waitLog, .waitAck] → exec (.st g sz ord ab a ofs b) s = .next (holding s3 k)) ∧
      (out = .lost → exec (.st g sz ord ab a ofs b) s = .next (((s3.modThread k fun t => t.noteFail .lost).sampleHeld o).advance k)) ∧
      (out = .depth → exec (.st g sz ord ab a ofs b) s = .next (holding
        ((s3.cancelInst (s3.instOf k) 1 (((s3.band? (bandOfThread k)).map (·.node)).getD 0) (((s3.band? (bandOfThread k)).map (·.role)).getD 0)
          0 0 0).endThread k) k)) ∧
      (out = .final → exec (.st g sz ord ab a ofs b) s = .next (s3.laneTrap k ⟨6, 0, 0⟩))) ∧
  -- an amendment of line l: every other reader is re-fired, then the data is written, at the new grade and one depth more
  (∀ (s : State) (l a : Nat) (data : List Byte) (g : Grade) (task : Nat),
    let ks := if (s.line l).ovf then mkeys s.tasks fun _ t => t.reads.contains l else (s.line l).users
    let v := (((ks.filter fun k => k != task).foldl State.refire s)).writeHome a data
    let u := s.amendLine l a data g (some task) none
    u.mem = v.mem ∧ (u.line l).depth = (v.line l).depth + 1 ∧ (u.line l).grade = g ∧
      (g ≠ .final → (u.line l).writer = some task ∧ (u.line l).users = (v.line l).users ∧
        ∀ t, v.task? task = some t → ∃ t', u.task? task = some t' ∧ l ∈ t'.writes) ∧
      (g = .final → (u.line l).writer = none ∧ (u.line l).users = [] ∧ (u.line l).cons = false)) ∧
  (∀ (s : State) (a : Nat) (data : List Byte) (req : Grade) (task limit : Nat),
    Rising s.lines →
    let m := s.line (a / 64)
    let g := gradeMin req (s.taint task)
    let differs := s.bytes a data.length ≠ data
    let room := g = .final ∨ s.logRoom (some task) (a / 64) = true
    let check := s.gradedWrite a data req (some task) limit
    (m.grade = .none → room → ∃ u, check = (.wrote, u) ∧ u.mem = (s.writeHome a data).mem ∧ (u.line (a / 64)).grade = g) ∧
    (m.grade = .final → check = (.final, s)) ∧
    (m.grade ∈ [.guess, .prov] → differs → limit ≤ m.depth → check = (.depth, s)) ∧
    (m.grade ∈ [.guess, .prov] → differs → m.depth < limit → room → s.amendOf (a / 64) (some task) none = none →
      m.others none = [] → check = (.amended, s.amendLine (a / 64) a data g (some task) none)) ∧
    (m.grade ∈ [.guess, .prov] → ¬ differs → gradeCode m.grade < gradeCode g →
      ∃ u, check = (.confirmed, u) ∧ u.mem = s.mem ∧ (u.line (a / 64)).grade = g) ∧
    (m.grade ∈ [.guess, .prov] → ¬ differs → gradeCode g ≤ gradeCode m.grade → check = (.same, s)))

/-- R85, R88, R89: a load that reaches its bytes posts a read of them, in issue order, and the thread goes on; LDRO is a relaxed
LD in slice space. R93: an atomic or RED on a page that is not graded is posted to the port that serves it, with its operand
taken at issue. On a graded page of this package an ATOM, ATOMCAS or RED is, once it may be performed, no lower lane home of its issue group is
held at the same address (R94), and its read is logged, a graded read and a graded write at FINAL of what it changes; one that changes nothing
writes nothing. -/
def Obligations.LoadsAndAtomicsPostAndGoOn : Prop :=
  (∀ sz ord ab (d : LaneDst) (a : LaneSrc) ofs s k t s1 va acc,
    Lane s k t (runFrom sz.regs (LaneDst.regs d) ++ LaneSrc.regs a) →
    Reaches s k (s.laneAddr k a ofs) (szBytes sz) (szBytes sz) 0 .read true s1 va acc →
    let s2 := s1.countOnce k t acc 1 0
    exec (.ld sz ord ab d a ofs) s = .next (posted (s2.issueOp k t ab
      { s2.blankOp k t (.ld sz) with d := d, va := va, acc := acc, n := szBytes sz, ord := ord }) k) ∧
    exec (.ldro sz ab d a ofs) s = .next (posted (s2.issueOp k t ab
      { s2.blankOp k t (if isSlice va then .ld sz else .ldro sz) with d := d, va := va, acc := acc, n := szBytes sz }) k)) ∧
  (∀ op w ord ab (d : LaneDst) (a : LaneSrc) ofs (b : LaneSrc) s k t s1 va acc,
    -- fadd reads its operand as FP32, the others as the data of memory (R29, R93)
    let m := if w then 2 else 1
    let n := if w then 8 else 4
    Reaches s k (s.laneAddr k a ofs) n n 2 .write false s1 va acc →
    let s2 := s1.countOnce k t acc 1 1
    let data := leBytes n (s.laneSrc64 k w b)
    let operand := if op = .fadd then leBytes n (s.laneSrc k .f32 b).toNat else data
    (Lane s k t (runFrom m (LaneDst.regs d) ++ LaneSrc.regs a ++ runFrom m (LaneSrc.regs b)) → acc.graded = false →
      exec (.atom op w ord ab d a ofs b) s = .next (posted (s2.issueOp k t ab
        { s.blankOp k t (.atom op w) with d := d, n := n, data := operand, ord := ord, va := va, acc := acc }) k) ∧
      exec (.atomcas w ord ab d a ofs b) s = .next (posted (s2.issueOp k t ab
        { s.blankOp k t (.cas w) with
          d := d, n := n, data := data, cmp := leBytes n (s.casCompare k w d), ord := ord, va := va, acc := acc }) k)) ∧
    (Lane s k t (LaneSrc.regs a ++ runFrom m (LaneSrc.regs b)) → acc.graded = false →
      exec (.red op w ord ab a ofs b) s = .next (posted (s2.issueOp k t ab
        { s.blankOp k t (.red op w) with n := n, data := operand, ord := ord, va := va, acc := acc }) k)) ∧
    let graded (i : Instr) (kind : OpKind) (d' : LaneDst) (bs cmp : List Byte) (new : Nat → Option Nat) : Prop := ∀ h s3, acc.graded = true →
      acc.loc.home = some h →
      let o := { s.blankOp k t kind with d := d', n := n, data := bs, cmp := cmp, ord := ord, va := va, acc := acc }
      let now (u : State) : Option (List Byte) := (new (leNat (u.bytes h n))).map (leBytes n)
      s2.mayPerform s2.nextId { o with ord := s2.gradedOrd h ((now s2).getD (s2.bytes h n)) ord } = true → s2.lowerHeld k t acc.loc = false →
      s2.logRead o.task (h / 64) = some s3 →
      (now s3 = none ∨ now s3 = some (s3.bytes h n) → exec i s = .next ((s3.atomReturn k o (s3.bytes h n)).settle.advance k)) ∧
      ∀ x out s4, now s3 = some x → x ≠ s3.bytes h n →
        s3.gradedWrite h x .final (some (s3.taskOf k)) (s3.depthLimit (s3.instOf k)) = (out, s4) →
        (out ∈ [.wrote, .amended, .confirmed, .same] → exec i s = .next ((s4.atomReturn k o (s3.bytes h n)).settle.advance k)) ∧
        (out = .final → exec i s = .next (s4.laneTrap k ⟨6, 0, 0⟩))
    (Lane s k t (runFrom m (LaneDst.regs d) ++ LaneSrc.regs a ++ runFrom m (LaneSrc.regs b)) →
      graded (.atom op w ord ab d a ofs b) (.atom op w) d operand [] (fun old => some (atomNew op w old (leNat operand))) ∧
      graded (.atomcas w ord ab d a ofs b) (.cas w) d data (leBytes n (s.casCompare k w d))
        (fun old => if old = leNat (leBytes n (s.casCompare k w d)) then some (leNat data) else none)) ∧
    (Lane s k t (LaneSrc.regs a ++ runFrom m (LaneSrc.regs b)) →
      graded (.red op w ord ab a ofs b) (.red op w) .discard operand [] (fun old => some (atomNew op w old (leNat operand)))))

/-- R84, R236, R246: where an access fails a check the thread takes the trap, or parks, at the instruction, and posts nothing: the same
for every instruction that names memory at [A + OFS]; CPA's source once its destination has passed its checks (log 104), HMON's address on a
hasp that is held (log 103). Size, alignment, KIND and whether host memory may be reached are the instruction's own. KIND 0 for GRD and GCONF is
the model's reading (log 65), and so is that host memory, where the instruction may not reach it, fails before translation's other outcomes
(log 64). -/
def Obligations.FailedAccessTrapsOrParks : Prop :=
  ∀ (i : Instr) (named : List Nat) (a : LaneSrc) (ofs : BitVec 22) (n al kind : Nat) (use : Use) (host : Bool) (pre : State → Nat → Prop),
    (((∃ sz ord ab d, i = .ld sz ord ab d a ofs ∧ named = runFrom sz.regs (LaneDst.regs d) ++ LaneSrc.regs a ∧
        n = szBytes sz ∧ kind = 0 ∧ use = .read ∧ host = true) ∨
      (∃ sz ab d, i = .ldro sz ab d a ofs ∧ named = runFrom sz.regs (LaneDst.regs d) ++ LaneSrc.regs a ∧
        n = szBytes sz ∧ kind = 0 ∧ use = .read ∧ host = true) ∨
      (∃ g sz ord ab b, i = .st g sz ord ab a ofs b ∧ named = LaneSrc.regs a ++ runFrom sz.regs (LaneSrc.regs b) ∧
        n = szBytes sz ∧ kind = 1 ∧ use = .write ∧ host = true) ∨
      (∃ op w ord ab d b, i = .atom op w ord ab d a ofs b ∧ n = atomBytes w ∧ kind = 2 ∧ use = .write ∧ host = false ∧
        named = runFrom (atomRun w) (LaneDst.regs d) ++ LaneSrc.regs a ++ runFrom (atomRun w) (LaneSrc.regs b)) ∨
      (∃ w ord ab d b, i = .atomcas w ord ab d a ofs b ∧ n = atomBytes w ∧ kind = 2 ∧ use = .write ∧ host = false ∧
        named = runFrom (atomRun w) (LaneDst.regs d) ++ LaneSrc.regs a ++ runFrom (atomRun w) (LaneSrc.regs b)) ∨
      (∃ op w ord ab b, i = .red op w ord ab a ofs b ∧ n = atomBytes w ∧ kind = 2 ∧ use = .write ∧ host = false ∧
        named = LaneSrc.regs a ++ runFrom (atomRun w) (LaneSrc.regs b)) ∨
      (∃ ab d, i = .grd ab d a ofs ∧ named = LaneDst.regs d ++ LaneSrc.regs a ∧ n = 1 ∧ kind = 0 ∧ use = .read ∧ host = false) ∨
      (∃ g ab d, i = .gconf g ab d a ofs ∧ named = LaneDst.regs d ++ LaneSrc.regs a ∧ n = 1 ∧ kind = 0 ∧ use = .read ∧
        host = false)) ∧ al = n ∧ pre = fun _ _ => True) ∨
    (∃ d h, i = .hmon d h a ofs ∧ named = LaneDst.regs d ++ LaneSrc.regs a ∧ n = 1 ∧ al = 1 ∧ kind = 0 ∧ use = .read ∧ host = false ∧
      pre = fun s k => s.holdsHasp k h.val = true) ∨
    (∃ ab dn b, i = .cpa ab dn a ofs b ∧ named = dn.val :: LaneSrc.regs a ++ LaneSrc.regs b ∧ n ≠ 0 ∧ al = 32 ∧ kind = 3 ∧ use = .read ∧
      host = false ∧ pre = fun s k => n = min (s.laneSrc k .int b).toNat 32 ∧ ∃ t dva dst, s.thread? k = some t ∧
        (t.getV dn.val).toNat % 32 = 0 ∧ s.bandVa (bandOfThread k) (t.getV dn.val).toNat = .ok dva ∧ isSlice dva = true ∧
        s.sliceAcc (s.bandSpace (bandOfThread k)) (coreOfThread k) dva = .ok dst) →
    ∀ s k t, Lane s k t named → pre s k →
      let addr := s.laneAddr k a ofs
      let sp := s.bandSpace (bandOfThread k)
      (addr % al ≠ 0 → exec i s = .next (s.laneTrap k ⟨4, 0, 0⟩)) ∧
      (∀ e, addr % al = 0 → s.bandVa (bandOfThread k) addr = .error e → exec i s = .next (s.laneTrap k ⟨5, e, 0⟩)) ∧
      ∀ va, addr % al = 0 → s.bandVa (bandOfThread k) addr = .ok va →
        (∀ r s1, s.place sp (coreOfThread k) va use host = (.park r, s1) → exec i s = .next (s1.parkThread k va kind r)) ∧
        (∀ e s1, s.place sp (coreOfThread k) va use host = (.bad e, s1) → exec i s = .next (s1.laneTrap k ⟨5, e, 0⟩)) ∧
        (∀ acc s1, s.place sp (coreOfThread k) va use host = (.ok acc, s1) →
          (bellUse acc n kind use = false → exec i s = .next (s1.laneTrap k ⟨5, 6, 0⟩)) ∧
          (bellUse acc n kind use = true → use = .read ∨ kind = 2 → s1.accBad acc n = true → exec i s = .next (s1.laneTrap k ⟨5, 12, 0⟩))) ∧
        -- where the instruction may not reach host memory, that check comes before translation's own outcomes (log 64)
        ∀ e l, host = false → 2 ≤ bits e 53 52 → s.judgeLeaf sp va e l use false = .bad 4

/-! ### Completions -/

namespace Sys2Proof.Says

open Sys2Proof.Machine

/-- Operation id is outstanding as o, and may be performed now (R87, R94, R95, R222). -/
def Due (s : State) (id : Nat) (o : Op) : Prop := mget s.ops id = some o ∧ s.mayPerform id o = true

end Sys2Proof.Says

/-- R88, R89, R237: a load's data returns to its registers, the thread's own items of the egress hold buffer laid over what LD read; LDRO takes
what the read-only path gave; an acquire drops the core's read-only cache; and a load or value-returning atomic refused or lost is reported
at the thread's next clause boundary.
An operation that was issued is performed and delivered together, in one later step: the model's choice (log 6), and so is that GRD and GCONF
may be refused or lost (log 101). R86: the words that a load's bytes give its registers. -/
def Obligations.LoadsComplete : Prop :=
  (∀ (sz : Sz) (bs : List Byte), bs.length = szBytes sz →
    (sz ∈ [.u8, .u16] → loadWords sz bs = [BitVec.ofNat 32 (leNat bs)]) ∧
    (sz = .s8 → loadWords sz bs = [(BitVec.ofNat 8 (leNat bs)).signExtend 32]) ∧
    (sz = .s16 → loadWords sz bs = [(BitVec.ofNat 16 (leNat bs)).signExtend 32]) ∧
    (sz ∈ [.u32, .b64, .b128] → (loadWords sz bs).length = szBytes sz / 4 ∧
      ∀ i, i < szBytes sz / 4 → (loadWords sz bs)[i]? = some (BitVec.ofNat 32 (leNat ((bs.drop (4 * i)).take 4))))) ∧
  ∀ s id o, Due s id o →
    (∀ sz bs s1 s2 ro, o.kind = (if ro then .ldro sz else .ld sz) → s.opRefused o = false → s.accBad o.acc o.n = false →
      s.loadValue id o ro = some (bs, s1) → s1.opLogRead o = some s2 →
      let x := if ro then (bs, s2) else s2.opBytes o bs
      let s3 := x.2.opDeliver o fun t => t.setRunD o.d (loadWords sz x.1)
      let s4 := if Ord16.isAcq o.ord then s3.dropRoc o.core else s3
      exec (.loadComplete id) s = .next ((s4.opSample o).opDone id o) ∧
        (∀ h, ro = false → o.acc.loc.home = some h → bs = s.bytes h o.n ∧ s1 = s) ∧
        ((∀ y ∈ o.laid ++ s2.itemsOf o.uid, y.touches o.uid o.acc.loc o.n = false) → s2.opBytes o bs = (bs.take o.n, s2))) ∧
    ∀ lost, ((∃ sz, o.kind = .ld sz ∨ o.kind = .ldro sz) ∨ (∃ op w, o.kind = .atom op w) ∨ (∃ w, o.kind = .cas w) ∨ o.kind = .grd ∨
        ∃ g, o.kind = .gconf g) →
      o.heldThere = false → (if lost then s.mayLose o = true else s.refusalDue o = true) →
      let s1 := s.opDeliver o fun t => { t with deferred := t.deferred ++ [⟨(o.flag.map (·.val)).getD 0, if lost then 9 else 8⟩] }
      exec (.loadRefusedOrLost id lost) s = .next ((if lost then s1 else s1.opSample o).opDone id o)

/-- R90, R91, R93: a store is performed at its port, or enters the egress hold buffer where its task is below FINAL and its
destination off-chip; a refused or lost one counts in NFAIL; an atomic is one indivisible read and write that delivers the old
value, or, on a line that an error has struck since the issue, fails (R363). R93: the operators, on values of n = 32 or 64 bits. R216, R356, R357: a
store performed at its port is a write of memory, a message to its package, or a doorbell's new producer index.
Performing and delivering in one step is the model's choice (log 6). -/
def Obligations.StoresAndAtomicsComplete : Prop :=
  (∀ s id o, Due s id o → o.void = false → o.heldThere = false → o.egress = false → o.core ≠ feCore →
    (o.kind = .st → s.fateOk o .performed = true → s.heldBack o = false →
      exec (.storeComplete id .performed) s = .next (((s.performStore o.acc o.data o.part o.ord).opSample o).opDone id o)) ∧
    (o.kind = .st → s.fateOk o .performed = true → s.heldBack o = true → s.holdRoom o.inst (dieOfCore o.core) o.data.length = true →
      exec (.storeComplete id .performed) s = .next ((s.holdItem o.task (.store o.thread o.uid o.acc o.data o.va o.part []
        { seq := id, ord := o.ord, smp := o.tag })).opDone id o)) ∧
    (∀ op w, o.kind = .red op w → o.done = false → s.opRefused o = false → s.accBad o.acc o.n = false → o.sent = false → s.heldBack o = true →
      s.holdRoom o.inst (dieOfCore o.core) o.data.length = true →
      exec (.atomicComplete id) s = .next ((s.holdItem o.task (.red o.thread o.uid o.acc op w o.data o.va o.part []
        { seq := id, ord := o.ord, smp := o.tag })).opDone id o)) ∧
    (o.kind.atomic = true → o.done = false → s.opRefused o = false → s.accBad o.acc o.n = true →
      exec (.atomicComplete id) s = .next
        (((s.opDeliver o fun t => if o.kind.isRed then t.noteFail .refused
          else { t with deferred := t.deferred ++ [⟨(o.flag.map (·.val)).getD 0, 12⟩] }).opSample o).opDone id o)) ∧
    (∀ fate, fate ≠ .performed → o.kind = .st ∨ (∃ op w, o.kind = .red op w) → s.fateOk o fate = true →
      let s1 := s.opDeliver o fun t => t.noteFail fate
      exec (.storeComplete id fate) s = .next ((if fate = .lost then s1 else s1.opSample o).opDone id o)) ∧
    ∀ h, o.kind.atomic = true → o.done = false → s.opRefused o = false → s.accBad o.acc o.n = false →
      (o.kind.isRed && !o.sent && s.heldBack o) = false →
      o.acc.loc.home = some h →
      let old := s.bytes h o.n
      let s1 := match o.kind.newValue (leNat old) (leNat o.data) (leNat o.cmp) with
        | some m => s.writeHome h (leBytes o.n m)
        | none => s
      exec (.atomicComplete id) s = .next (((s1.atomDeliver o old).opSample o).opDone id o)) ∧
  (∀ (s : State) (a : Acc) (data : List Byte) (part : Nat) (ord : Ord16),
    let u := s.performStore a data part ord
    (∀ h, a.loc.home = some h → u = s.writeHome h data) ∧
    (∀ pk va g, a.loc = .remote pk va g →
      let m : Msg := { s.blankMsg with addr := BitVec.ofNat 56 va, part := Fin.ofNat 64 part, n := data.length, data := data, ord := ord }
      u = { s with sent := s.sent ++ [⟨2, pk, m, flitOf m 2 pk⟩] }) ∧
    ∀ pa, a.loc = .bell pa → u = s.roceDoorbell ((pa - Config.doorbellBase) / 65536) (leNat data)) ∧
  (∀ (w : Bool) (m b : Nat),
    let n := if w then 64 else 32
    m < 2 ^ n → b < 2 ^ n →
    let sg (x : Nat) : Int := if x < 2 ^ (n - 1) then x else x - 2 ^ n
    atomNew .add w m b = (m + b) % 2 ^ n ∧
    atomNew .smin w m b = (if sg m ≤ sg b then m else b) ∧ atomNew .smax w m b = (if sg m ≤ sg b then b else m) ∧
    atomNew .umin w m b = min m b ∧ atomNew .umax w m b = max m b ∧ atomNew .and w m b = m &&& b ∧ atomNew .or w m b = m ||| b ∧
    atomNew .xor w m b = m ^^^ b ∧ atomNew .exch w m b = b ∧
    (∀ c, OpKind.newValue (.cas w) m b c = if m = c then some b else none) ∧
    ∀ op, OpKind.newValue (.atom op w) m b 0 = some (atomNew op w m b) ∧ OpKind.newValue (.red op w) m b 0 = some (atomNew op w m b))

/-- R95 to R98: CPA's 32 bytes land, FENCE's word is taken and its counters cleared, GRD's and GCONF's statuses are delivered.
R97, R98: the status words of GRD and GCONF for a line of this package. R84: of a slice whose port refuses them neither completes (log 101).
Performing and delivering in one step is the model's choice (log 6), and so is that a held RED counts for HELD (log 85). -/
def Obligations.CopyFenceGradeComplete : Prop :=
  (∀ s id o, Due s id o →
    (∀ n dst dva bs s1, o.kind = .cpa n dst dva → ((n != 0 && s.refusalDue o) || s.refusedAt o.core o.part dst.loc) = false →
      (n != 0 && s.accBad o.acc n) = false → s.cpaSource o n = some bs → s.opLogRead o = some s1 →
      exec (.cpaComplete id .performed) s = .next (((s1.performStore dst
        ((List.range 32).map fun i => if i < n then bs.getD i 0 else 0) o.part).opSample o).opDone id o)) ∧
    (∀ k, o.kind = .fence k →
      let held := if s.holdsStore o.uid then 4 else 0
      let s1 := s.opDeliver o fun t => { t.setD o.d (BitVec.ofNat 32 (t.nfail * 256 + held + (if t.refused then 2 else 0) +
        if t.deadlink then 1 else 0)) with nfail := 0, refused := false, deadlink := false }
      exec (.fenceComplete id) s = .next ((if k = .rel then s1 else s1.dropRoc o.core).opDone id o)) ∧
    (∀ w, o.kind = .grd → s.grdWord o = some w →
      exec (.grdComplete id) s = .next ((s.opDeliver o fun t => t.setD o.d (BitVec.ofNat 32 w)).opDone id o)) ∧
    ∀ g st s1, o.kind = .gconf g → s.gconfAct o g = some (st, s1) →
      exec (.gconfComplete id) s = .next ((s1.opDeliver o fun t => t.setD o.d (BitVec.ofNat 32 st)).opDone id o)) ∧
  (∀ (s : State) (o : Op) (g : Grade), s.opRefused o = true → s.grdWord o = none ∧ s.gconfAct o g = none) ∧
  (∀ (s : State) (o : Op) (l : Nat) (g : Grade), s.opRefused o = false → (o.acc.graded = false → s.grdWord o = some 0x80 ∧ s.gconfAct o g = some (3, s)) ∧
    (o.acc.graded = true → o.acc.loc.home.map (· / 64) = some l →
      s.grdWord o = some ((if (s.line l).ovf then 64 else 0) + (if (s.line l).cons then 32 else 0) + (s.line l).depth * 4 +
        gradeCode (s.line l).grade) ∧
      ((s.line l).grade = .none → ∃ u, s.gconfAct o g = some (2, u) ∧ u = s) ∧
      ((s.line l).grade ≠ .none → gradeCode (gradeMin g (s.taint o.task)) ≤ gradeCode (s.line l).grade →
        s.gconfAct o g = some (1, s)) ∧
      ((s.line l).grade ≠ .none → gradeCode (s.line l).grade < gradeCode (gradeMin g (s.taint o.task)) →
        ∃ u, s.gconfAct o g = some (0, u) ∧ u.mem = s.mem)))

/-! ### Lane hasps and control (05) -/

/-- R101: a phase p has completed when ((PHASE - p - 1) mod 2^16) < 2^15, else it is pending; the status word; and HWAIT, HWAITS and HTEST
judge by it and write that word to D: at once where the phase has completed, HTEST on any hasp the block holds, and a wait that was
blocked once its phase has completed. -/
def Obligations.PhaseJudgementAndStatusWord : Prop :=
  (∀ (h : Hasp) (p : Nat), p < 2 ^ 16 →
    (phaseDone h.phase p = true ↔ ((h.phase.toNat : Int) - p - 1) % 2 ^ 16 < 2 ^ 15) ∧
    let bit (w : Word) (i : Nat) : Prop := w.getLsbD i = true
    ∀ w, (w = h.doneStatus p ∨ w = h.testStatus p) → w.toNat % 2 ^ 16 = h.phase.toNat ∧ w.toNat / 2 ^ 16 % 2 ^ 13 = 0 ∧
      (w = h.doneStatus p → (bit w 31 ↔ p ∈ h.spur) ∧ ¬ bit w 30 ∧ bit w 29) ∧
      (w = h.testStatus p → (bit w 30 ↔ h.valid = false) ∧ (bit w 29 ↔ h.valid = true ∧ phaseDone h.phase p = true) ∧
        (bit w 31 ↔ h.valid = true ∧ phaseDone h.phase p = true ∧ p ∈ h.spur))) ∧
  (∀ (h : Fin 32) (d : LaneDst) (b : LaneSrc) s k t, Lane s k t (LaneDst.regs d ++ LaneSrc.regs b) → s.holdsHasp k h.val = true →
    let H (n : Nat) : Hasp := s.hasp (haspKey (coreOfThread k) n)
    let p := (s.laneSrc k .int b).toNat % 2 ^ 16
    let gives (i : Instr) (w : Word) : Prop := ∃ u, exec i s = .next u ∧ ∃ t', u.thread? k = some t' ∧ t'.pc = s.pcAfter k ∧
      t'.status = .ready ∧ ∀ m, d = .v m → t'.getV m.val = w
    let waits (i : Instr) (n p : Nat) : Prop := ∃ u, exec i s = .next u ∧
      (u.thread? k).map (·.status) = some (.hwait n p d (s.pcAfter k))
    gives (.htest d h b) ((H h.val).testStatus p) ∧
    ((H h.val).valid = true → phaseDone (H h.val).phase p = true → gives (.hwait d h b) ((H h.val).doneStatus p)) ∧
    ((H h.val).valid = true → phaseDone (H h.val).phase p = false → s.stops k = false → s.routineEntry k t = none →
      waits (.hwait d h b) h.val p) ∧
    ∀ m q, s.seqPlace (coreOfThread k) h.val (s.laneSrc k .int b).toNat = some (m, q) →
      (phaseDone (H m).phase q = true → gives (.hwaits d h b) ((H m).doneStatus q)) ∧
      (phaseDone (H m).phase q = false → s.stops k = false → s.routineEntry k t = none → waits (.hwaits d h b) m q)) ∧
  ∀ (s : State) (c n : Nat), Rising s.threads →
    ∀ k t p d nxt, s.thread? k = some t → coreOfThread k = c → t.status = .hwait n p d nxt →
      let h := s.hasp (haspKey c n)
      (phaseDone h.phase p = true → ∃ t', (s.wakeDone c n).thread? k = some t' ∧ t'.pc = nxt ∧ t'.status = .ready ∧
        ∀ m, d = .v m → t'.getV m.val = h.doneStatus p) ∧
      (phaseDone h.phase p = false → (s.wakeDone c n).thread? k = some t)

/-- R100, R102, R103, R104: the hasp instructions on a hasp that the thread's block holds. HARR counts the arrival and returns the phase;
HWAIT and HWAITS return at once from a completed phase, as an acquire, and block on a pending one, unless a recall takes the thread to its
surrender routine; an arrival on a hasp that the band still joins is held; HTEST judges once; HMON arms a watch
while the core has one free, and traps on a slice that belongs to another partition (log 101). A sequence form names a stage of the ring and its phase.
That no try_complete follows a held arrival is the model's reading (log 81), and so is that a releasing arrival waits for the accesses of its
own thread (log 11) and for what the egress hold buffer has released, not for what it holds (log 114). -/
def Obligations.HaspInstructionResults : Prop :=
  ∀ (h : Fin 32) (d : LaneDst) (b : LaneSrc) s k t,
    let c := coreOfThread k
    let H (n : Nat) : Hasp := s.hasp (haspKey c n)
    let give (w : Word) (u : State) : State := u.modThread k fun t => t.setD d w
    let arrived (m : Nat) : State :=
      ((give (BitVec.ofNat 32 (H m).phase.toNat) (s.setHasp (haspKey c m)
        { H m with arrived := (H m).arrived + 1, arr := (H m).arr ++ [k] })).tryComplete c m).advance k
    let canArrive (m : Nat) : Prop := s.pendingJoin k m = none ∧ (H m).arrived + 1 ≤ (H m).expArr
    s.holdsHasp k h.val = true →
    (Lane s k t (LaneDst.regs d) → (H h.val).valid = true → s.allPerformed k t.uid = true → canArrive h.val →
      exec (.harr none d h) s = .next (arrived h.val)) ∧
    (∀ p, Lane s k t (LaneDst.regs d) → (H h.val).valid = true → s.allPerformed k t.uid = true → s.pendingJoin k h.val = some p →
      exec (.harr none d h) s = .next ((give (BitVec.ofNat 32 p) (s.setHasp (haspKey c h.val)
        { H h.val with heldArr := (H h.val).heldArr ++ [⟨some k, false⟩] })).advance k)) ∧
    (∀ m p, Lane s k t (LaneDst.regs d ++ LaneSrc.regs b) → (H h.val).valid = true → s.allPerformed k t.uid = true →
      s.seqPlace c h.val (s.laneSrc k .int b).toNat = some (m, p) → (H m).phase.toNat = p → canArrive m →
      exec (.harr (some b) d h) s = .next (arrived m)) ∧
    (Lane s k t (LaneDst.regs d ++ LaneSrc.regs b) → (H h.val).valid = true →
      let p := (s.laneSrc k .int b).toNat % 2 ^ 16
      (phaseDone (H h.val).phase p = true → exec (.hwait d h b) s = .next (((give ((H h.val).doneStatus p) s).dropRoc c).advance k) ∧
        exec (.htest d h b) s = .next (((give ((H h.val).doneStatus p) s).dropRoc c).advance k)) ∧
      (phaseDone (H h.val).phase p = false →
        exec (.htest d h b) s = .next ((give (BitVec.ofNat 32 (H h.val).phase.toNat) s).advance k)) ∧
      (phaseDone (H h.val).phase p = false → s.stops k = false → s.routineEntry k t = none → ∃ u, exec (.hwait d h b) s = .next u ∧
        u = { s with threads := u.threads } ∧ (u.thread? k).map (·.status) = some (.hwait h.val p d (s.pcAfter k)))) ∧
    (Lane s k t (LaneDst.regs d ++ LaneSrc.regs b) → (H h.val).valid = false →
      exec (.htest d h b) s = .next ((give (BitVec.ofNat 32 (2 ^ 30 + (H h.val).phase.toNat)) s).advance k)) ∧
    (∀ m p, Lane s k t (LaneDst.regs d ++ LaneSrc.regs b) → s.seqPlace c h.val (s.laneSrc k .int b).toNat = some (m, p) →
      (phaseDone (H m).phase p = true → exec (.hwaits d h b) s = .next (((give ((H m).doneStatus p) s).dropRoc c).advance k)) ∧
      (phaseDone (H m).phase p = false → s.stops k = false → s.routineEntry k t = none → ∃ u, exec (.hwaits d h b) s = .next u ∧
        u = { s with threads := u.threads } ∧ (u.thread? k).map (·.status) = some (.hwait m p d (s.pcAfter k)))) ∧
    ∀ ofs s1 va acc, Lane s k t (LaneDst.regs d ++ LaneSrc.regs b) → Reaches s k (s.laneAddr k b ofs) 1 1 0 .read false s1 va acc →
      let used := (mkeys s1.watches fun _ w => w.core == c).length
      let refused := s1.refusedAt c (s1.partOf k) acc.loc
      (refused = true → exec (.hmon d h b ofs) s = .next (s1.laneTrap k ⟨5, 3, 0⟩)) ∧
      (refused = false → 64 ≤ used → exec (.hmon d h b ofs) s = .next ((give 1 s1).advance k)) ∧
      (refused = false → used < 64 → exec (.hmon d h b ofs) s = .next ((give 0 ({ s1 with
        nextId := s1.nextId + 1
        watches := mput s1.watches s1.nextId ⟨c, acc.loc.lineNo, haspKey c h.val, s1.partOf k, s1.instOf k, false⟩ }.setHasp
          (haspKey c h.val) { s1.hasp (haspKey c h.val) with moncnt := (s1.hasp (haspKey c h.val)).moncnt + 1 })).advance k))

/-- R99, R100, R102: hasp misuse. A hasp the block does not hold, an invalid one, an arrival past EXPECT_ARR, a sequence form on no ring base or
for a phase that is not current: the trap names the hasp, and nothing is counted.
That DETAIL of a sequence form names the hasp that the form names is the model's reading (log 10); that HMON's hasp is judged before its address is
the model's choice (log 103). -/
def Obligations.HaspMisuseTraps : Prop :=
  ∀ (h : Fin 32) (d : LaneDst) (b : LaneSrc) (seq : Option LaneSrc) s k t,
    let c := coreOfThread k
    let H (n : Nat) : Hasp := s.hasp (haspKey c n)
    let misuse : Out := .next (s.laneTrap k ⟨7, h.val, 0⟩)
    Lane s k t (LaneDst.regs d ++ LaneSrc.regs b ++ (seq.map LaneSrc.regs).getD []) →
    (s.holdsHasp k h.val = false → exec (.harr seq d h) s = misuse ∧ exec (.hwait d h b) s = misuse ∧
      exec (.hwaits d h b) s = misuse ∧ exec (.htest d h b) s = misuse ∧ ∀ ofs, exec (.hmon d h b ofs) s = misuse) ∧
    (s.holdsHasp k h.val = true → (H h.val).valid = false → exec (.harr seq d h) s = misuse ∧ exec (.hwait d h b) s = misuse ∧
      exec (.hwaits d h b) s = misuse) ∧
    (s.holdsHasp k h.val = true → (H h.val).valid = true → s.allPerformed k t.uid = true → s.pendingJoin k h.val = none →
      (H h.val).expArr < (H h.val).arrived + 1 → exec (.harr none d h) s = misuse) ∧
    (s.holdsHasp k h.val = true → (H h.val).valid = true → (H h.val).rbase = false → s.allPerformed k t.uid = true →
      exec (.harr (some b) d h) s = misuse ∧ exec (.hwaits d h b) s = misuse) ∧
    ∀ m p, s.holdsHasp k h.val = true → (H h.val).valid = true → s.allPerformed k t.uid = true →
      s.seqPlace c h.val (s.laneSrc k .int b).toNat = some (m, p) → (H m).phase.toNat ≠ p → exec (.harr (some b) d h) s = misuse

/-- R107, R16: branches and jumps. The target of a branch is the clause plus 32 * IMM; a branch not taken goes to the next
clause; a jump goes to the code base plus A, and traps where A is no multiple of 32. Nothing but the pc, the state of readiness
and a halt changes. R108: the return stack. A call pushes the next clause and transfers; with eight entries held and room in the
local area they are spilled as one chunk first; a return pops, from the latest chunk spilled where the stack is empty, and traps
with DETAIL 1 where there is none.
A spill beyond the area, or where there is none, traps with DETAIL 10.
The place of a spilled chunk in the local area is the model's choice (log 22), and so is that a spill is performed at once, off the chip too
(log 86). -/
def Obligations.ControlTransferResults : Prop :=
  (∀ (a : LaneSrc) (imm : Word) s k t,
    let goes (i : Instr) (pc : Addr) : Prop := ∃ u, exec i s = .next u ∧ OnlyThread s u k t ∧
      ∃ t', u.thread? k = some t' ∧ t'.pc = pc ∧ t'.status = .ready ∧ t'.v = t.v ∧ t'.f = t.f ∧ t'.rs = t.rs ∧ t'.fstat = t.fstat ∧
        t'.trapstat = t.trapstat ∧ t'.trapMode = t.trapMode
    let clause := t.pc.toNat / 32 * 32
    let target := BitVec.ofInt 56 (clause + 32 * imm.toInt)
    let next := BitVec.ofNat 56 (clause + 32)
    let A := s.laneSrc k .int a
    (Lane s k t [] → goes (.bra imm) target ∧ goes .nop (s.pcAfter k)) ∧
    (Lane s k t (LaneSrc.regs a) →
      goes (.brz a imm) (if A = 0 then target else next) ∧ goes (.brnz a imm) (if A = 0 then next else target) ∧
      (A.toNat % 32 = 0 → goes (.jmpi a) (s.bandBase (bandOfThread k) + BitVec.ofNat 56 A.toNat)) ∧
      (A.toNat % 32 ≠ 0 → exec (.jmpi a) s = .next (s.laneTrap k ⟨4, 0, 0⟩)))) ∧
  (∀ (a : LaneSrc) (imm : Word) s k t,
    let A := s.laneSrc k .int a
    let push (u : State) : State := u.modThread k fun t => { t with rs := nextClause t.pc :: t.rs }
    (Lane s k t [] → t.rs.length < 8 → exec (.call imm) s = .next ((push s).goTo k (clauseTarget t.pc imm))) ∧
    (Lane s k t (LaneSrc.regs a) → t.rs.length < 8 → A.toNat % 32 = 0 →
      exec (.calli a) s = .next ((push s).goTo k (s.bandBase (bandOfThread k) + BitVec.ofNat 56 A.toNat))) ∧
    (∀ (i : Instr) (pc : Addr) base n s1 acc, (i = .call imm ∧ Lane s k t [] ∧ pc = clauseTarget t.pc imm) ∨
        (i = .calli a ∧ Lane s k t (LaneSrc.regs a) ∧ A.toNat % 32 = 0 ∧ pc = s.bandBase (bandOfThread k) + BitVec.ofNat 56 A.toNat) →
      8 ≤ t.rs.length → s.localArea k = some (base, n) → t.spilled < n →
      s.place (s.bandSpace (bandOfThread k)) (coreOfThread k) (base + 64 * t.spilled) .write false = (.ok acc, s1) →
      bellUse acc 64 7 .write = true → s1.accDead acc 64 = false → acc.graded = false →
      let s2 := s1.countOnce k t acc 0 1
      exec i s = .next ((push ((s2.performStore acc (chunkBytes t.rs) (s2.partOf k)).modThread k fun u =>
        { u with rs := [], spilled := u.spilled + 1 })).goTo k pc)) ∧
    (8 ≤ t.rs.length → (s.localArea k = none ∨ ∃ base n, s.localArea k = some (base, n) ∧ n ≤ t.spilled) →
      (Lane s k t [] → exec (.call imm) s = .next (s.laneTrap k ⟨5, 10, 0⟩)) ∧
      (Lane s k t (LaneSrc.regs a) → A.toNat % 32 = 0 → exec (.calli a) s = .next (s.laneTrap k ⟨5, 10, 0⟩))) ∧
    (Lane s k t (LaneSrc.regs a) → A.toNat % 32 ≠ 0 → exec (.calli a) s = .next (s.laneTrap k ⟨4, 0, 0⟩)) ∧
    (∀ pc rest, Lane s k t [] → t.rs = pc :: rest →
      exec .ret s = .next ((s.modThread k fun t => { t with rs := rest }).goTo k pc)) ∧
    (∀ base n s1 acc h pc rest, Lane s k t [] → t.rs = [] → t.spilled ≠ 0 → s.localArea k = some (base, n) →
      s.place (s.bandSpace (bandOfThread k)) (coreOfThread k) (base + 64 * (t.spilled - 1)) .read false = (.ok acc, s1) →
      bellUse acc 64 7 .read = true → s1.accBad acc 64 = false → s1.accDead acc 64 = false → acc.graded = false → acc.loc.home = some h →
      let s2 := s1.countOnce k t acc 1 0
      chunkEntries (s2.bytes h 64) = pc :: rest →
      exec .ret s = .next (((s2.modThread k fun t => { t with spilled := t.spilled - 1 }).modThread k fun t => { t with rs := rest }).goTo k pc)) ∧
    (Lane s k t [] → t.rs = [] → t.spilled = 0 → exec .ret s = .next (s.laneTrap k ⟨1, 1, 0⟩)))

/-- R109, R110: EXIT ends the thread, BRK and TRAP trap with their causes at the instruction; with the debug right held BRK
halts instead, and goes on where it is what halted the thread (log 23). R109: what EXIT does to its own thread and band: the
slot is freed at once where its flags are zero, and the band's frame with its last slot, else it is occupied until they are; the PM bit is
cleared. -/
def Obligations.ExitBreakTrap : Prop :=
  (∀ (n : Byte) s k t, Lane s k t [] →
    (∃ u, exec .exit s = .next u ∧ u.bands = (s.endThread k).settle.bands ∧ u.mem = (s.endThread k).settle.mem ∧
      u.tasks = (s.endThread k).settle.tasks) ∧
    ((s.part (s.partOf k)).right = false → exec .brk s = .next (s.laneTrap k ⟨9, 0, 0⟩)) ∧
    ((s.part (s.partOf k)).right = true → t.brkSkip = false → ∃ u t', exec .brk s = .next u ∧ u.thread? k = some t' ∧ t'.halted = true ∧
      t'.pc = t.pc) ∧
    ((s.part (s.partOf k)).right = true → t.brkSkip = true → exec .brk s = .next (s.goTo k (nextClause t.pc))) ∧
    exec (.trap n) s = .next (s.laneTrap k ⟨8, 0, n.toNat⟩)) ∧
  (∀ (s : State) (k : Nat) (t : Thread), s.thread? k = some t → t.status ≠ .exited → t.counted = false → Rising s.threads →
    (t.quiet = true → (s.endThread k).thread? k = none ∧ (Rising s.bands → ∀ b, s.band? (bandOfThread k) = some b →
      ((∃ j, j ≠ k ∧ bandOfThread j = bandOfThread k ∧ (s.thread? j).isSome = true) → (s.endThread k).band? (bandOfThread k) = some { b with
        s := b.s.set 31 (b.s[31] &&& ~~~ (1#32 <<< laneOfThread k)) }) ∧
      ((∀ j, j ≠ k → bandOfThread j = bandOfThread k → s.thread? j = none) → (s.endThread k).band? (bandOfThread k) = none))) ∧
    (t.quiet = false → (s.endThread k).thread? k = some { t with
      status := .exited, parked := none, halted := false, haltReq := false, stepping := false, trapMode := false,
      heldBy := if t.heldBy = some k then none else t.heldBy } ∧
      ∀ b, s.band? (bandOfThread k) = some b → (s.endThread k).band? (bandOfThread k) = some { b with
        s := b.s.set 31 (b.s[31] &&& ~~~ (1#32 <<< laneOfThread k)) }))

/-- R95 to R98: CPA, FENCE, GRD and GCONF post their operations and the thread goes on. R111, R112: CONT takes its record from
vN to vN+15 at issue, ENQ its two words from B; both are posted with their destination. -/
def Obligations.CopyFenceGradeContEnqPost : Prop :=
  (∀ ab (d : LaneDst) (dn : Fin 160) (a : LaneSrc) ofs (b : LaneSrc) kind scope g s k t,
    (Lane s k t (LaneDst.regs d) →
      exec (.fence kind scope ab d) s = .next ((s.issueOp k t ab { s.blankOp k t (.fence kind) with d := d }).advance k)) ∧
    (∀ s1 va acc, Lane s k t (LaneDst.regs d ++ LaneSrc.regs a) → Reaches s k (s.laneAddr k a ofs) 1 1 0 .read false s1 va acc →
      exec (.grd ab d a ofs) s = .next (posted (s1.issueOp k t ab
        { s1.blankOp k t .grd with d := d, va := va, acc := acc, n := 1 }) k) ∧
      exec (.gconf g ab d a ofs) s = .next (posted (s1.issueOp k t ab
        { s1.blankOp k t (.gconf g) with d := d, va := va, acc := acc, n := 1 }) k)) ∧
    ∀ dva dst, Lane s k t (dn.val :: LaneSrc.regs a ++ LaneSrc.regs b) → (t.getV dn.val).toNat % 32 = 0 →
      s.bandVa (bandOfThread k) (t.getV dn.val).toNat = .ok dva → isSlice dva = true →
      s.sliceAcc (s.bandSpace (bandOfThread k)) (coreOfThread k) dva = .ok dst →
      let n := min (s.laneSrc k .int b).toNat 32
      (∀ va, n = 0 → s.laneAddr k a ofs % 32 = 0 → s.bandVa (bandOfThread k) (s.laneAddr k a ofs) = .ok va →
        exec (.cpa ab dn a ofs b) s = .next ((s.issueOp k t ab
          { s.blankOp k t (.cpa 0 dst dva) with va := va, n := 0, acc := dst }).advance k)) ∧
      ∀ s1 va acc, n ≠ 0 → Reaches s k (s.laneAddr k a ofs) n 32 3 .read false s1 va acc →
        let s2 := s1.countOnce k t acc 1 0
        exec (.cpa ab dn a ofs b) s = .next (posted (s2.issueOp k t ab
          { s.blankOp k t (.cpa n dst dva) with va := va, n := n, acc := acc }) k)) ∧
  (∀ ab (d : LaneDst) (a : LaneSrc) (n : Fin 145) (m : Fin 159) s k t,
    let b := s.band? (bandOfThread k)
    (Lane s k t (LaneDst.regs d ++ runFrom 16 [n.val]) →
      exec (.cont ab d n) s = .next ((s.issueOp k t ab { s.blankOp k t .cont with
        d := d, words := (List.range 16).map fun i => t.getV (n.val + i), va := (b.map (·.role)).getD 0,
        n := (b.map (·.node)).getD 0 }).advance k)) ∧
    (Lane s k t (LaneDst.regs d ++ LaneSrc.regs a ++ [m.val, m.val + 1]) →
      exec (.enq ab d a m) s = .next ((s.issueOp k t ab { s.blankOp k t .enq with
        d := d, words := [t.getV m.val, t.getV (m.val + 1)], va := (s.laneSrc k .int a).toNat }).advance k)))

/-- R111, R112, R289: their completions: the record's or entry's status reaches D, with its effect on the pool or the queue.
That a bad record, one with reserved bits or with an ENTRY outside the code, has status 2 also while a re-fire is pending is the model's reading (log 67).
Performing and delivering in one step is the model's choice (log 6). -/
def Obligations.ContAndEnqComplete : Prop :=
  ∀ s id o, Due s id o →
    (o.kind = .cont → s.pause = false → ∀ st u, s.contAct o = (st, u) →
      let v := (u.opDeliver o fun t => t.setD o.d (BitVec.ofNat 32 st)).opDone id o
      exec (.contComplete id) s = .next (match v.blockOf o.thread with
        | some n => (v.endSummary n).settle
        | none => v)) ∧
    (o.kind = .cont → ((o.words.headD 0).toNat / 2 % 2 ^ 4 ≠ 0 ∨
      s.inCode o.inst (s.codeBase o.inst o.n o.va + BitVec.ofNat 56 (32 * ((o.words.headD 0).toNat / 32))) = false) → s.contAct o = (2, s)) ∧
    (o.kind = .cont → (o.words.headD 0).toNat / 2 % 2 ^ 4 = 0 → s.cancelled o.inst = false →
      ((s.task? o.task).any (·.refire.isSome)) = false →
      s.inCode o.inst (s.codeBase o.inst o.n o.va + BitVec.ofNat 56 (32 * ((o.words.headD 0).toNat / 32))) = true →
      (s.poolRoom o.inst = none → s.contAct o = (1, s)) ∧
      ∀ sp, s.poolRoom o.inst = some sp → s.contAct o = (0, s.acceptRec ⟨o.inst, o.n, o.va, (o.words.headD 0).toNat / 32⟩
        ⟨o.words, o.task, s.taint o.task, sp, o.va⟩)) ∧
    (o.kind = .enq → s.pause = false →
      let lp1 := (s.part o.part).parent
      let q := s.queue (1024 * lp1 + o.va)
      let done (st : Nat) (u : State) : Out := .next ((u.opDeliver o fun t => t.setD o.d (BitVec.ofNat 32 st)).opDone id o)
      (1024 ≤ o.va ∨ q.splog2 = 0 ∨ q.state = 0 → exec (.enqComplete id) s = done 3 s) ∧
      (o.va < 1024 → q.splog2 ≠ 0 → q.state ≠ 0 → 4 * q.words.length < 2 ^ q.qlog2 →
        exec (.enqComplete id) s = done 0 (s.appendWords (1024 * lp1 + o.va) o.words)) ∧
      (o.va < 1024 → q.splog2 ≠ 0 → q.state ≠ 0 → 2 ^ q.qlog2 ≤ 4 * q.words.length →
        (q.words.filter (·.place.spilled)).length < 2 * 2 ^ q.splog2 →
        exec (.enqComplete id) s = done 1 (s.spillEntry (1024 * lp1 + o.va) o.words)) ∧
      (o.va < 1024 → q.splog2 ≠ 0 → q.state ≠ 0 → 2 ^ q.qlog2 ≤ 4 * q.words.length →
        2 * 2 ^ q.splog2 ≤ (q.words.filter (·.place.spilled)).length → exec (.enqComplete id) s = done 2 s))

/-! ### Uniform instructions (06) -/

namespace Sys2Proof.Says

open Sys2Proof.Machine

/-- i is a uniform instruction that, executed in state m by party p, of a band whose threads ks have met at it or of a strand, does r where
`means m p ks r`: once for the band, when its rendezvous is complete and the scalar pipe takes it, a thread outside P passing (R113-R118); at
once in a strand. -/
def UniformDoes (i : Instr) (means : State → Party → List Nat → Res → Prop) : Prop :=
  (∀ s k t, Runs s k t → t.trapMode = false → s.inPm k = false → exec i s = .next (s.advance k)) ∧
  (∀ s k t ks r, Runs s k t → MeetsAs s k t ks → means (met s k t) (.band (bandOfThread k)) ks r →
    exec i s = .next (State.bandFinish ks (r.piped k t.trapMode))) ∧
  ∀ s q r, s.cur = .strand q → means s (.strand q) [] r → exec i s = .next (State.strandFinish q r)

/-- The same for an instruction that only a band may execute: a strand traps (R114, R179). -/
def BandDoes (i : Instr) (means : State → Nat → List Nat → Res → Prop) : Prop :=
  UniformDoes i fun s p ks r =>
    match p with
    | .band b => means s b ks r
    | .strand _ => r = .trap s ⟨1, 0, 0⟩

/-- The same for an instruction that only a strand may execute. -/
def StrandDoes (i : Instr) (means : State → Nat → Res → Prop) : Prop :=
  UniformDoes i fun s p _ r =>
    match p with
    | .band _ => r = .trap s ⟨1, 0, 0⟩
    | .strand q => means s q r

end Sys2Proof.Says

/-- R113, R115, R117: the rendezvous of every uniform instruction. A thread of P arrives and waits until every other of P stands at the point, and
then until the scalar pipe takes the band: while a turn of this clk's group is still to come, while the pipe has executed in this clk, and while a
band whose rendezvous was complete before, or in the same clk at a lower position, stands before it; threads that stand at different points make an illegal-instruction trap with DETAIL 2 for the band. -/
def Obligations.RendezvousWaitsAndMismatches : Prop :=
  ∀ (i : Instr) s k t, isUniform i = true → Runs s k t → t.trapMode = false → s.inPm k = true →
    ((s.arrive k).meeting k = .waiting → exec i s = .next (s.arrive k)) ∧
    (∀ ks, (s.arrive k).meeting k = .mismatch ks → exec i s = .next ((s.arrive k).bandTrap ks ⟨1, 2, 0⟩ 2)) ∧
    (∀ ks, (s.arrive k).meeting k = .complete ks → (s.arrive k).pipeFree k = false → exec i s = .next (s.arrive k)) ∧
    let c := coreOfThread k
    let m := s.arrive k
    ∀ first rest, (m.pipeOrder c).filter (fun b => !(m.core c).tried.contains b) = first :: rest →
      (m.pipeFree k = true ↔
        (∀ j ∈ s.issue, coreOfThread j ≠ c) ∧ (s.core c).pipeAt ≠ s.clk + 1 ∧ first = bandOfThread k)

/-- R119, R120: the uniform scalar instructions. Sources are read in order and the destination written, in the band's or
strand's file. R30: the special registers as sources, and what they read in a strand; a read of SP.CLK latches SP.CLKH. A strand's SP.BUDGET,
which the manual does not give, is a free value (log 4). R121, R122: uniform control. SLOOP writes D - 1 and transfers where that is not 0; SDONE ends a strand, and traps
in a band. -/
def Obligations.UniformScalarAndControlResults : Prop :=
  (∀ (d : UniDst) (a b c : UniSrc) (imm : Word),
    let two (i : Instr) (f : Word → Word → Word) : Prop := UniformDoes i fun s p _ r =>
      r = .ok (((s.uniSrc p false a).2.uniSrc p false b).2.setUni p d (f (s.uniSrc p false a).1 ((s.uniSrc p false a).2.uniSrc p false b).1))
    let one (i : Instr) (f : Word → Word) : Prop := UniformDoes i fun s p _ r =>
      r = .ok ((s.uniSrc p false a).2.setUni p d (f (s.uniSrc p false a).1))
    two (.sadd d a b) (fun x y => x + y) ∧ two (.ssub d a b) (fun x y => x - y) ∧ two (.smul d a b) (fun x y => x * y) ∧
    two (.smin d a b) (fun x y => if x.toInt ≤ y.toInt then x else y) ∧
    two (.smax d a b) (fun x y => if x.toInt ≤ y.toInt then y else x) ∧
    two (.sand d a b) (fun x y => x &&& y) ∧ two (.sor d a b) (fun x y => x ||| y) ∧ two (.sxor d a b) (fun x y => x ^^^ y) ∧
    two (.sshl d a b) (fun x y => BitVec.ofNat 32 (x.toNat * 2 ^ y.toNat)) ∧
    two (.sshr d a b) (fun x y => BitVec.ofNat 32 (x.toNat / 2 ^ y.toNat)) ∧
    two (.ssar d a b) (fun x y => BitVec.ofInt 32 (x.toInt / 2 ^ y.toNat)) ∧
    (∀ cc u, two (.scmp cc u d a b) fun x y => if icmpVal cc u x y then 1 else 0) ∧
    (UniformDoes (.ssel d a b c) fun s p _ r =>
      let x := s.uniSrc p false a
      let y := x.2.uniSrc p false b
      let z := y.2.uniSrc p false c
      r = .ok (z.2.setUni p d (if z.1 = 0 then y.1 else x.1))) ∧
    one (.smov d a) (fun x => x) ∧ (UniformDoes (.smovi d imm) fun s p _ r => r = .ok (s.setUni p d imm)) ∧
    one (.spopc d a) (fun x => BitVec.ofNat 32 ((List.range 32).filter fun i => x.getLsbD i).length)) ∧
  (∀ (s : State) (p : Party) (f : Bool) (i : Fin 32),
    let hi := BitVec.ofNat 32 (s.clk / 2 ^ 32)
    (i.val ≠ 12 → i.val ≠ 13 → (i.val = 18 → ∃ b, p = .band b) → s.uniSrc p f (.sp i) = (s.spValue p i.val, s)) ∧
    (i.val = 12 → (s.uniSrc p f (.sp i)).1 = BitVec.ofNat 32 s.clk ∧
      (∀ q, p = .strand q → (s.uniSrc p f (.sp i)).2 = s.setStrand q { s.strand q with clkh := hi }) ∧
      ∀ b, p = .band b → (s.uniSrc p f (.sp i)).2 = s.modBand b fun x => { x with clkh := hi }) ∧
    (i.val = 13 → (∀ q, p = .strand q → s.uniSrc p f (.sp i) = ((s.strand q).clkh, s)) ∧
      ∀ b x, p = .band b → s.band? b = some x → s.uniSrc p f (.sp i) = (x.clkh, s)) ∧
    ∀ q y, p = .strand q → s.block? (s.strand q).block = some y →
      let sp (j : Nat) : Word := s.spValue p j
      let n (m : Nat) : Word := BitVec.ofNat 32 m
      sp 2 = (s.strand q).band ∧ sp 3 = (s.strand q).nband ∧ sp 4 = n y.blockId ∧ sp 6 = n (s.strandRole q) ∧ sp 7 = n (q / 2 % 96) ∧
        sp 8 = n (q / 2 / 96) ∧ sp 9 = n s.pkg.toNat ∧ sp 10 = n y.node ∧ sp 11 = n y.inst ∧ sp 14 = y.spRecall ∧
        sp 15 = n (gradeCode (s.taint y.task)) ∧ ∀ st, s.nodeSt y.inst y.node = some st → sp 5 = n st.grid) ∧
  (∀ (a : UniSrc) (imm : Word) (d : Fin 31),
    let goesTo (s : State) (p : Party) (ks : List Nat) (taken : Bool) (u : State) : Res :=
      .goto u (if taken then clauseOf (s.partyPc p ks) + imm.signExtend 56 * 32 else clauseOf (s.partyPc p ks) + 32)
    (UniformDoes (.sbra imm) fun s p ks r => r = goesTo s p ks true s) ∧
    (UniformDoes (.sbrz a imm) fun s p ks r =>
      r = goesTo (s.uniSrc p false a).2 p ks ((s.uniSrc p false a).1 == 0) (s.uniSrc p false a).2) ∧
    (UniformDoes (.sbrnz a imm) fun s p ks r =>
      r = goesTo (s.uniSrc p false a).2 p ks ((s.uniSrc p false a).1 != 0) (s.uniSrc p false a).2) ∧
    (UniformDoes (.sloop d imm) fun s p ks r =>
      let dr : Fin 32 := ⟨d.val, by omega⟩
      let x := (s.uniSrc p false (.s dr)).1
      r = goesTo (s.setUni p (.s dr) (x - 1)) p ks (x - 1 != 0) (s.setUni p (.s dr) (x - 1))) ∧
    StrandDoes .sdone fun s q r =>
      r = .stay (((s.setStrand q { s.strand q with status := .finishing, stepping := false }).stepDone (q / 2) (s.strand q).stepping).reapStrand q))

/-- R28, R118, R26: a uniform write reaches its register and no other, in the file of the party; a write of PM is masked by the
threads that live. R123 to R125: budgets. GROW posts a request, or arrives at once where the budget is already held, or reports
the one pending; a budget that is no multiple of 8 from 8 to 160 traps, and so does a hasp that the block does not hold, a
membership hasp, an invalid one that the arrival finds, and a band that is in no block: with nothing changed, the state before
the operand is read; SHRINK gives registers back once no write to them is due, also of a thread that has executed EXIT (log 106); a grant raises
the budget, clears the new registers and arrives on the hasp. R196: a write of PM makes the threads ready anew that a surrender routine held
outside P. That a grant on an invalid hasp raises the budget and loses its arrival is the model's reading (log 67), and that an event before its
time changes nothing is its choice (log 7). -/
def Obligations.UniformWritesAndBudgets : Prop :=
  (∀ (s : State) (b : Nat) (x : Band) (n m : Fin 32) (w : Word), s.band? b = some x →
    let u := s.setUni (.band b) (.s n) w
    u = { s with bands := u.bands, threads := u.threads } ∧ (n.val ≠ 31 ∨ s.routineIn b = false → u.threads = s.threads) ∧
    (n.val = 31 → s.routineIn b = true → u.threads = mmap s.threads fun k t =>
      if bandOfThread k = b ∧ (w &&& s.liveMask b).getLsbD (laneOfThread k) = true ∧ x.s[31].getLsbD (laneOfThread k) = false ∧
        t.status = .ready ∧ t.trapMode = false ∧ t.yielded = false then { t with readyAt := s.clk, clauses := 0 } else t) ∧
    (∀ j, j ≠ b → u.band? j = s.band? j) ∧ s.setUni (.band b) .discard w = s ∧
    (n.val ≠ 31 → u.bandS b n.val = w) ∧ (n.val = 31 → u.bandS b 31 = w &&& s.liveMask b) ∧
    (m ≠ n → u.bandS b m.val = s.bandS b m.val) ∧
    ∀ q, Rising s.strands →
      let v := s.setUni (.strand q) (.s n) w
      v = { s with strands := v.strands } ∧ (v.strand q).s[n] = w ∧ (m ≠ n → (v.strand q).s[m] = (s.strand q).s[m]) ∧
        ∀ j, j ≠ q → v.strand j = s.strand j) ∧
  (∀ (d : UniDst) (h : Fin 32) (a : UniSrc),
    (BandDoes (.grow d h a) fun s b _ r =>
      ∃ n s1, s.uniSrc (.band b) false a = (n, s1) ∧
        ((budgetOk n.toNat = false ∧ r = .trap s ⟨1, 0, 0⟩) ∨
          (budgetOk n.toNat = true ∧ s.blockOfParty (.band b) = none ∧ r = .trap s ⟨7, h.val, 0⟩) ∨
          ∃ x blk y, budgetOk n.toNat = true ∧ s1.band? b = some x ∧ s1.blockOfParty (.band b) = some (blk, y) ∧
            let ok := y.holds h.val = true ∧ bitAt y.membs.toNat h.val = false
            let hasp := s1.hasp (haspKey (coreOfBand b) h.val)
            ((¬ ok ∧ r = .trap s ⟨7, h.val, 0⟩) ∨
              (ok ∧ x.grow ≠ none ∧ r = .ok (s1.setUni (.band b) d 2)) ∨
              (ok ∧ x.grow = none ∧ x.budget < n.toNat ∧
                r = .ok (((s1.modBand b fun x => { x with grow := some ⟨n.toNat, h.val⟩ }).modCore (coreOfBand b)
                  fun c => { c with growQ := c.growQ ++ [b] }).setUni (.band b) d 0)) ∨
              (ok ∧ x.grow = none ∧ n.toNat ≤ x.budget ∧ hasp.valid = false ∧ r = .trap s ⟨7, h.val, 0⟩) ∨
              (ok ∧ x.grow = none ∧ n.toNat ≤ x.budget ∧ hasp.valid = true ∧
                r = .ok ((s1.arriveHeld (coreOfBand b) h.val hasp false).setUni (.band b) d 1))))) ∧
    (BandDoes (.shrink a) fun s b _ r =>
      ∃ n s1 x, s.uniSrc (.band b) false a = (n, s1) ∧ s.band? b = some x ∧
        ((budgetOk n.toNat = false ∧ r = .trap s ⟨1, 0, 0⟩) ∨
          (budgetOk n.toNat = true ∧ x.budget ≤ n.toNat ∧ r = .ok s1) ∨
          (budgetOk n.toNat = true ∧ n.toNat < x.budget ∧ s.dueAbove b n.toNat = true ∧ r = .stay s) ∨
          (budgetOk n.toNat = true ∧ n.toNat < x.budget ∧ s.dueAbove b n.toNat = false ∧
            r = .ok (s1.modBand b fun x => { x with budget := n.toNat })))) ∧
    ∀ s core b rest x g, (s.core core).growQ = b :: rest → s.band? b = some x → x.grow = some g →
      (s.freeRegs core < 32 * (g.n - x.budget) → exec (.growGrant core) s = .next s) ∧
      (32 * (g.n - x.budget) ≤ s.freeRegs core →
        let s1 := ((s.modBand b fun x => { x with budget := max x.budget g.n, grow := none }).clearRegs b x.budget g.n).modCore core
          fun c => { c with growQ := rest }
        exec (.growGrant core) s = .next
          (if (s.hasp (haspKey core g.hasp)).valid then s1.arriveHeld core g.hasp (s1.hasp (haspKey core g.hasp)) false else s1)))

/-- R127, R129, R137, R171: ATTACH and DETACH: each status in the order in which it is judged, and the membership changes of
status 0; a counter that would leave its width, and a band that runs its surrender routine, trap from the state before the
operands are read. A block that is stopping counts as no such block (the model's choice, log 90). R132, R133: FORK starts an
idle sequencer of the band's block at the target clause with the band's registers as they stand, s31 zero, from the next clk on; a FORK in a surrender
routine traps, and so does one in a band that is in no block; SRD and SWR reach the strand's file, a write of the strand's own in the same clk
prevailing. What joining a block and leaving one do to EXPECT_ARR, NEXTD and the phase of joining.
The order of ATTACH's statuses is the model's reading (log 16), and so is that FORK copies the registers, SP.BAND and SP.NBAND before D is written
(log 15). -/
def Obligations.AttachDetachForkResults : Prop :=
  (∀ (d : UniDst) (a b : UniSrc),
    (BandDoes (.attach d a b) fun s k _ r =>
      ∃ na s1 nb s2 x, s.uniSrc (.band k) false a = (na, s1) ∧ s1.uniSrc (.band k) false b = (nb, s2) ∧ s2.band? k = some x ∧
        let target := s2.attachTarget k x (na.toNat % 2 ^ 16) nb.toNat
        let m := popcount 32 x.pm.toNat
        let joinOk (n : Nat) : Bool := (s2.hasp (haspKey (coreOfBand k) n)).joinOk m
        ((s2.inRoutine (.band k) = true ∧ r = .trap s ⟨1, 0, 0⟩) ∨
          (s2.inRoutine (.band k) = false ∧ x.block ≠ none ∧ r = .ok (s2.setUni (.band k) d 4)) ∨
          (s2.inRoutine (.band k) = false ∧ x.block = none ∧ target = none ∧ r = .ok (s2.setUni (.band k) d 1)) ∨
          ∃ blk y, s2.inRoutine (.band k) = false ∧ x.block = none ∧ target = some blk ∧ s2.block? blk = some y ∧
            y.core = coreOfBand k ∧ y.node = na.toNat % 2 ^ 16 ∧ y.blockId = nb.toNat ∧ y.inst = x.inst ∧ y.part = x.part ∧
            ((y.maxBands ≤ s2.nband blk ∧ r = .ok (s2.setUni (.band k) d 2)) ∨
              (s2.nband blk < y.maxBands ∧ y.rstate ≠ .held ∧ r = .ok (s2.setUni (.band k) d 3)) ∨
              (s2.nband blk < y.maxBands ∧ y.rstate = .held ∧ (∀ n ∈ y.membNums, joinOk n = true) ∧
                r = .ok ((s2.attachBand k blk x y).setUni (.band k) d 0)) ∨
              (s2.nband blk < y.maxBands ∧ y.rstate = .held ∧ ∃ n, y.membNums.find? (fun n => !joinOk n) = some n ∧
                r = .trap s ⟨7, n, 0⟩)))) ∧
    BandDoes (.detach d) fun s k _ r =>
      (∃ x blk y, s.band? k = some x ∧ s.blockOfParty (.band k) = some (blk, y) ∧
        ((s.inRoutine (.band k) = true ∧ r = .trap s ⟨1, 0, 0⟩) ∨
          (s.inRoutine (.band k) = false ∧ (∀ n ∈ y.membNums, s.leaveOk k x n = true) ∧
            r = .ok ((s.detachBand k x y).setUni (.band k) d 0).settle) ∨
          (s.inRoutine (.band k) = false ∧ ∃ n, y.membNums.find? (fun n => !s.leaveOk k x n) = some n ∧ r = .trap s ⟨7, n, 0⟩))) ∨
      (s.blockOfParty (.band k) = none ∧ r = .ok (s.setUni (.band k) d 1))) ∧
  (∀ (s : State) (b blk : Nat) (x : Band) (y : Block), s.band? b = some x → Rising s.bands → Rising s.hasps →
    let c := coreOfBand b
    let m := popcount 32 x.pm.toNat
    let u := s.attachBand b blk x y
    let H (n : Nat) : Hasp := s.hasp (haspKey c n)
    let begins (n : Nat) : Prop := (H n).expArr = 0 ∧ (H n).arrived = 0
    (∀ n ∈ y.membNums, (begins n → u.hasp (haspKey c n) = { H n with expArr := m }) ∧
      (¬ begins n → u.hasp (haspKey c n) = { H n with nextd := (H n).nextd + m })) ∧
    (∀ j, (∀ n ∈ y.membNums, j ≠ haspKey c n) → u.hasp j = s.hasp j) ∧
    ∃ z, u.band? b = some z ∧ z.block = some blk ∧ z.mb = m ∧ z.task = y.task ∧ z.isRec = false ∧ z.recs = [] ∧ z.s = x.s ∧ z.budget = x.budget ∧
      ∀ n p, (n, p) ∈ z.joins ↔ n ∈ y.membNums ∧ ¬ begins n ∧ p = ((H n).phase + 1).toNat) ∧
  (∀ (s : State) (b n : Nat) (x : Band) (y : Block),
    let c := coreOfBand b
    let h := s.hasp (haspKey c n)
    let k := (h.arr.filter fun j => bandOfThread j == b).length
    ((∃ p, (n, p) ∈ x.joins) → s.leaveHaspBand b x n = (s.setHasp (haspKey c n) { h with
      heldArr := h.heldArr.filter (fun a => a.thread.all fun j => bandOfThread j != b), nextd := h.nextd - x.mb }).tryComplete c n) ∧
    ((∀ p, (n, p) ∉ x.joins) → s.leaveHaspBand b x n = (s.setHasp (haspKey c n) { h with
      expArr := ((h.expArr : Int) - ((x.mb : Int) - k)).toNat, nextd := h.nextd - k
      arr := h.arr.filter (fun j => bandOfThread j != b) }).tryComplete c n) ∧
    let v := y.membNums.foldl (fun s n => s.leaveHaspBand b x n) s
    let u := s.detachBand b x y
    ((v.task? x.task).any (·.refire.isSome) = false → Rising v.tasks → x.task ≠ v.nextId → u.hasps = v.hasps ∧
      (∀ z, v.band? b = some z → u.band? b = some { z with block := none, pos := 0, mb := 0, grow := none, joins := [], task := v.nextId }) ∧
      (∃ t, u.task? v.nextId = some t ∧ t.kind = .detached x.task ∧ t.parents = [x.task] ∧ t.stopped = false) ∧
      ∀ j t, v.thread? j = some t → u.thread? j = some { t with counted := if bandOfThread j = b then false else t.counted }) ∧
    ((v.task? x.task).any (·.refire.isSome) = true → x.task ≠ v.nextId → Rising v.tasks →
      ∃ t, u.task? v.nextId = some t ∧ t.stopped = true ∧ t.mute = true)) ∧
  (∀ (seq : Seq) (d : UniDst) (imm : Word) (n : Fin 32) (a : UniSrc),
    (BandDoes (.fork seq d imm) fun s b ks r =>
      ((s.inRoutine (.band b) = true ∨ s.blockOfParty (.band b) = none) ∧ r = .trap s ⟨1, 0, 0⟩) ∨
      ∃ x blk y, s.band? b = some x ∧ s.blockOfParty (.band b) = some (blk, y) ∧ s.inRoutine (.band b) = false ∧
        let q := seqKey (coreOfBand b) seq
        ((y.hasEngine seq = false ∧ r = .trap s ⟨1, 4, 0⟩) ∨
          (y.hasEngine seq = true ∧ (s.strand q).status ≠ .idle ∧ r = .ok (s.setUni (.band b) d 1)) ∨
          (y.hasEngine seq = true ∧ (s.strand q).status = .idle ∧
            r = .ok ((s.setStrand q { Strand.zero with
              s := x.s.set 31 0, pc := clauseTarget (s.partyPc (.band b) ks) imm, status := .run, block := blk,
              band := s.spValue (.band b) 2, nband := s.spValue (.band b) 3, forker := some b
              forkAt := s.clk + 1 }).setUni (.band b) d 0)))) ∧
    (∀ (s : State) (q : Nat), (s.strand q).forkAt = s.clk + 1 → s.strandFree q = false) ∧
    (UniformDoes (.srd seq d n) fun s p _ r =>
      (ownFile p seq = false ∧ r = .ok (s.setUni p d (s.strand (seqKey p.core seq)).s[n])) ∨
      (ownFile p seq = true ∧ r = .trap s ⟨1, 0, 0⟩)) ∧
    UniformDoes (.swr seq n a) fun s p _ r =>
      let w := (s.uniSrc p false a).1
      let u := (s.uniSrc p false a).2
      let q := seqKey p.core seq
      let own : Prop := (u.strand q).wroteAt = s.clk + 1 ∧ (u.strand q).wrote.getLsbD n.val = true
      (ownFile p seq = false ∧ ¬ own ∧ r = .ok (u.setStrand q ((u.strand q).setS n.val w))) ∨ (ownFile p seq = false ∧ own ∧ r = .ok u) ∨
      (ownFile p seq = true ∧ r = .trap s ⟨1, 0, 0⟩))

/-! ### Hasp setup and completion (06) -/

/-- R138 to R143: the setup instructions on a hasp that the block holds and that is no membership hasp (HSRC and HEXP allow one): the whole
new state of the hasp, and the hasps and operand values that trap as hasp misuse with nothing changed, the state before the operands are read. In a
band and in a strand each of them completes where its operands are in range, with the state that its clause gives. -/
def Obligations.HaspSetupResults : Prop :=
  ∀ (h : Fin 32) (i : Fin 4) (a b : UniSrc),
    let H (s : State) (p : Party) (n : Nat) : Hasp := s.hasp (haspKey p.core n)
    let put (s : State) (p : Party) (n : Nat) (x : Hasp) : State := s.setHasp (haspKey p.core n) x
    let fresh (x : Hasp) (e : Nat) : Hasp := { x with
      valid := true, phase := 0, arrived := 0, expArr := e, nextd := 0, moncnt := 0, ring := false, rbase := false,
      slots := x.slots.map fun y => { y with act := false }, arr := [], heldArr := [], spurNow := false, spur := [] }
    let done (u : State) (p : Party) : Res := .ok (u.tryComplete p.core h.val)
    let misuse (s : State) : Res := .trap s ⟨7, h.val, 0⟩
    (UniformDoes (.hinit h a) fun s p _ r =>
      ∃ w s1, s.uniSrc p false a = (w, s1) ∧
        let ok := s.partyHasp p h.val = (true, false) ∧ w.toNat ≤ 4095
        (¬ ok ∧ r = misuse s) ∨ (ok ∧
          let s2 := s1.invalidateRing p.core h.val
          r = .ok (put s2 p h.val (fresh (H s2 p h.val) w.toNat)))) ∧
    (UniformDoes (.hsrc h i a b) fun s p _ r =>
      ∃ x s1 y s2, s.uniSrc p false a = (x, s1) ∧ s1.uniSrc p false b = (y, s2) ∧
        let ok := (s.partyHasp p h.val).1 = true ∧ (H s p h.val).valid = true ∧ x.toNat / 2 ^ 17 = 0 ∧ x.toNat % 2 ^ 7 < 96 ∧ y.toNat < 2 ^ 24
        (¬ ok ∧ r = misuse s) ∨
          (ok ∧ r = .ok (put s2 p h.val { H s p h.val with slots := (H s p h.val).slots.set i ⟨true, x.toNat, y.toNat, 0⟩ }))) ∧
    (UniformDoes (.hsrcClr h i) fun s p _ r =>
      let ok := (s.partyHasp p h.val).1 = true ∧ (H s p h.val).valid = true
      (¬ ok ∧ r = misuse s) ∨ (ok ∧ r = done (put s p h.val { H s p h.val with
        slots := (H s p h.val).slots.set i { (H s p h.val).slots[i] with act := false } }) p)) ∧
    (UniformDoes (.hexp h i a b) fun s p _ r =>
      ∃ x s1 y s2, s.uniSrc p false a = (x, s1) ∧ s1.uniSrc p false b = (y, s2) ∧
        let o := H s p h.val
        let q := o.slots[i]
        let ok := (s.partyHasp p h.val).1 = true ∧ o.valid = true ∧ (x ≠ 0 → q.act = true) ∧ (y ≠ 0 → (s.partyHasp p h.val).2 = false) ∧
          q.expect + x.toNat < 2 ^ 24 ∧ o.expArr + y.toNat ≤ 4095
        (¬ ok ∧ r = misuse s) ∨ (ok ∧ r = done (put s2 p h.val { o with
          expArr := o.expArr + y.toNat, slots := o.slots.set i { q with expect := q.expect + x.toNat } }) p)) ∧
    (UniformDoes (.hring h a b) fun s p _ r =>
      ∃ x s1 y s2, s.uniSrc p false a = (x, s1) ∧ s1.uniSrc p false b = (y, s2) ∧
        let k := x.toNat
        let stages := (List.range k).map (· + h.val)
        let ok := s.partyHasp p h.val = (true, false) ∧ 1 ≤ k ∧ k ≤ 8 ∧ h.val + k - 1 ≤ 31 ∧ y.toNat ≤ 4095 ∧
          ∀ n ∈ stages, s.partyHasp p n = (true, false)
        (¬ ok ∧ r = misuse s) ∨ (ok ∧ r = .ok (stages.foldl (fun u n => put u p n { fresh (H u p n) y.toNat with
          ring := true, rbase := n == h.val, rstg := k - 1, rhead := h.val })
            (stages.foldl (fun u n => u.invalidateRing p.core n) s2)))) ∧
    (UniformDoes (.hinv h) fun s p _ r =>
      (s.partyHasp p h.val ≠ (true, false) ∧ r = misuse s) ∨
        (s.partyHasp p h.val = (true, false) ∧ r = .ok (s.invalidateRing p.core h.val))) ∧
    -- an invalidation reaches the hasp itself and, of a ring, the hasps that are still stages of it
    ∀ (s : State) (c n m : Nat),
      let x (n : Nat) : Hasp := s.hasp (haspKey c n)
      m ∈ s.ringOf c n ↔
        ((x n).ring = false ∧ m = n) ∨
        ((x n).ring = true ∧ (x n).rhead ≤ m ∧ m ≤ (x n).rhead + (x n).rstg ∧ (m = n ∨ ((x m).ring = true ∧ (x m).rstg = (x n).rstg ∧ (x m).rhead = (x n).rhead)))

/-- R143, R102: an invalidation of a hasp that is no ring stage: VALID and MONCNT are cleared, its watches are disarmed, and
each thread of the core that waits on it goes on with INV = 1 in its destination; every other thread is as before. R136, R102,
R144: when try_complete completes a phase: VALID, ARRIVED = EXPECT_ARR, and LANDED_BYTES = EXPECT_BYTES in each active source;
what one completion leaves: the next phase, counters cleared, NEXTD applied, and the held arrivals admitted in order up to the
new EXPECT_ARR; and that try_complete puts the completed hasp in place, ends the joins of the phase that begins, lets each
thread and strand go on that waits on a completed phase of it, and tries again where an arrival was admitted. -/
def Obligations.PhaseCompletionAndInvalidation : Prop :=
  (∀ (s : State) (c n : Nat), Rising s.hasps → Rising s.threads →
    let h := s.hasp (haspKey c n)
    let u := s.invalidate c n
    u.hasp (haspKey c n) = { h with valid := false, moncnt := 0 } ∧
    u.watches = s.watches.filter (fun w => w.2.hasp != haspKey c n) ∧
    (∀ k t p d nxt, s.thread? k = some t → coreOfThread k = c → t.status = .hwait n p d nxt → ∃ t', u.thread? k = some t' ∧
      t'.pc = nxt ∧ t'.status = .ready ∧ (∀ m, d = .v m → t'.getV m.val = BitVec.ofNat 32 (2 ^ 30 + h.phase.toNat)) ∧
      ∀ m : Fin 160, d ≠ .v m → t'.getV m.val = t.getV m.val) ∧
    ∀ k t, s.thread? k = some t → (coreOfThread k ≠ c ∨ ∀ p d nxt, t.status ≠ .hwait n p d nxt) → u.thread? k = some t) ∧
  (∀ (h : Hasp),
    (h.ready = true ↔ h.valid = true ∧ h.arrived = h.expArr ∧ ∀ i : Fin 4, h.slots[i].act = true → h.slots[i].landed = h.slots[i].expect) ∧
    let x := h.complete
    let e : Int := h.expArr + h.nextd
    x.phase.toNat = (h.phase.toNat + 1) % 2 ^ 16 ∧ x.valid = h.valid ∧ x.ring = h.ring ∧ x.rbase = h.rbase ∧ x.rstg = h.rstg ∧
    x.rhead = h.rhead ∧ x.memb = h.memb ∧ x.moncnt = h.moncnt ∧ (0 ≤ e → (x.expArr : Int) = e) ∧ x.nextd = 0 ∧
    (∀ i : Fin 4, x.slots[i] = { h.slots[i] with landed := 0, expect := 0 }) ∧
    (0 ≤ e → (x.arrived : Int) = min (h.heldArr.length : Int) e) ∧ h.heldArr.take x.arrived ++ x.heldArr = h.heldArr ∧
    (∀ p, p ≠ h.phase.toNat → (p ∈ x.spur ↔ p ∈ h.spur)) ∧ (h.phase.toNat ∈ x.spur ↔ h.spurNow = true) ∧
    (∀ (s : State) (c n : Nat), s.hasp (haspKey c n) = h → h.ready = false → s.tryComplete c n = s) ∧
    (∀ (s : State) (c n : Nat), Rising s.hasps → s.hasp (haspKey c n) = h → h.ready = true →
      let u := (((s.setHasp (haspKey c n) h.complete).endJoins c n).wakeDone c n).wakeStrands c n
      s.tryComplete c n = if 0 < h.complete.arrived then u.tryComplete c n else u) ∧
    (∀ (s : State) (c n : Nat) (b : Nat) (y : Band), s.band? b = some y → coreOfBand b = c →
      (s.endJoins c n).band? b = some { y with joins := y.joins.filter fun j => !(j.1 == n && j.2 == (s.hasp (haspKey c n)).phase.toNat) }) ∧
    (∀ (s : State) (c n : Nat), Rising s.threads → s.hasp (haspKey c n) = h →
      let u := s.wakeDone c n
      (∀ k t p d nxt, s.thread? k = some t → coreOfThread k = c → t.status = .hwait n p d nxt → phaseDone h.phase p = true →
        ∃ t', u.thread? k = some t' ∧ t'.pc = nxt ∧ t'.status = .ready ∧ (∀ m, d = .v m → t'.getV m.val = h.doneStatus p) ∧
          ∀ m : Fin 160, d ≠ .v m → t'.getV m.val = t.getV m.val) ∧
      ∀ k t, s.thread? k = some t →
        (coreOfThread k ≠ c ∨ ∀ p d nxt, t.status = .hwait n p d nxt → phaseDone h.phase p = false) → u.thread? k = some t) ∧
    (∀ (p : Nat), (h.doneStatus p).toNat = (if p % 2 ^ 16 ∈ h.spur then 2 ^ 31 else 0) + 2 ^ 29 + h.phase.toNat) ∧
    ∀ (s : State) (c n q p : Nat) (nxt : Addr), Rising s.strands → s.hasp (haspKey c n) = h → q / 2 = c → (s.strand q).status = .wait n p nxt →
      (s.wakeStrands c n).strand q =
        if phaseDone h.phase p then { s.strand q with status := .run, pc := nxt } else s.strand q)

/-- R137, R104: an arrival that may not be refused is counted where ARRIVED + 1 stays within EXPECT_ARR and is held otherwise; a
fired watch is disarmed and makes one, of a loss where it was lost; a watch of a line of this package that nothing has written
cannot fire. Of a line of another package the event itself reports the write (the model's choice, log 62). R144, R12, R179:
SHARR counts one arrival once no command of the strand is left, SHWAIT goes on past a completed phase and blocks on a pending
one; an invalid hasp or one not held traps, and so does a band.
That a watch on a line of another package fires at the event that reports its write is the model's choice (log 62), and so is that a fire on an invalid
hasp is counted or held as on a valid one (log 105); that no try_complete follows a held arrival is its reading (log 81). -/
def Obligations.MonitorFiresAndStrandArrivals : Prop :=
  (∀ (s : State) (n : Nat) (lost : Bool) (w : Watch), mget s.watches n = some w →
    let h := s.hasp w.hasp
    let c := w.hasp / 32
    let i := w.hasp % 32
    let less : Hasp := { h with moncnt := h.moncnt - 1 }
    let u : State := { s with watches := mdel s.watches n }
    (lost = false → w.written = false → w.line < 2 ^ 52 → exec (.monitorFire n lost) s = .next s) ∧
    (lost = true ∨ w.written = true ∨ 2 ^ 52 ≤ w.line →
      (h.arrived < h.expArr → exec (.monitorFire n lost) s = .next
        ((u.setHasp (haspKey c i) { less with arrived := h.arrived + 1, spurNow := h.spurNow || lost }).tryComplete c i).settle) ∧
      (h.expArr ≤ h.arrived → exec (.monitorFire n lost) s = .next
        (u.setHasp (haspKey c i) { less with heldArr := h.heldArr ++ [⟨none, lost⟩] }).settle))) ∧
  (∀ (h : Fin 32) (a : UniSrc),
    let H (s : State) (q : Nat) : Hasp := s.hasp (haspKey (Party.strand q).core h.val)
    let good (s : State) (q : Nat) : Prop := (s.partyHasp (.strand q) h.val).1 = true ∧ (H s q).valid = true
    let misuse (s : State) : Res := .trap s ⟨7, h.val, 0⟩
    (StrandDoes (.sharr h) fun s q r =>
      (¬ good s q ∧ r = misuse s) ∨ (good s q ∧ s.strandCmds q ≠ [] ∧ r = .stay s) ∨
      (good s q ∧ s.strandCmds q = [] ∧ (H s q).expArr < (H s q).arrived + 1 ∧ r = misuse s) ∨
      (good s q ∧ s.strandCmds q = [] ∧ (H s q).arrived + 1 ≤ (H s q).expArr ∧
        r = .ok ((s.setHasp (haspKey (Party.strand q).core h.val) { H s q with arrived := (H s q).arrived + 1 }).tryComplete
          (Party.strand q).core h.val))) ∧
    StrandDoes (.shwait h a) fun s q r =>
      ∃ w s1, s.uniSrc (.strand q) false a = (w, s1) ∧
        let p := w.toNat % 2 ^ 16
        (¬ good s q ∧ r = misuse s) ∨ (good s q ∧ phaseDone (H s q).phase p = true ∧ r = .ok (s1.dropRoc (Party.strand q).core)) ∨
        (good s q ∧ phaseDone (H s q).phase p = false ∧
          let x := s1.strand q
          r = .stay (s1.setStrand q { x with
            status := .wait h.val p ((s.headerAt (s.strandInst q) x.pc).after x.pc), haltReq := x.haltReq || x.stepping })))

/-! ### Engines (07) -/

namespace Sys2Proof.Says

open Sys2Proof.Machine

/-- i is an engine instruction for engine q: a party of no block traps with `free` (R194), a block without the engine with DETAIL 4 (R201); a
full engine holds the issuer at its slot, and so does one that has taken a band's command in this clk, where the issuer is a strand (R145);
otherwise it does r where `means` says so. Where it traps, its state is the one before its operands are read. -/
def EngineDoes (i : Instr) (q : Seq) (free : Cause) (means : State → Party → List Nat → Nat → Block → Res → Prop) : Prop :=
  UniformDoes i fun s p ks r =>
    (s.blockOfParty p = none ∧ r = .trap s free) ∨
    ∃ n b, s.blockOfParty p = some (n, b) ∧
      ((b.hasEngine q = false ∧ r = .trap s ⟨1, 4, 0⟩) ∨
        (b.hasEngine q = true ∧ (engineCap q ≤ s.engineLoad p.core q ∨ s.bandTook p q = true) ∧ r = .stay s) ∨
        (b.hasEngine q = true ∧ s.engineLoad p.core q < engineCap q ∧ s.bandTook p q = false ∧ ∃ r0, means s p ks n b r0 ∧ r = r0.taken p q))

/-- An address operand: A + OFS, read in s, is a multiple of `align` and forms an address, of which `go` is said; otherwise the trap for it (R149),
from the state s0. -/
def AtAddr (s0 s : State) (p : Party) (w : Word) (ofs : BitVec 22) (align : Nat) (r : Res) (go : Nat → Prop) : Prop :=
  let t := (BitVec.ofInt 32 (w.toNat + ofs.toInt)).toNat
  (t % align ≠ 0 ∧ r = .trap s0 ⟨4, 0, 0⟩) ∨ (∃ e, t % align = 0 ∧ s.partyVa p t = .error e ∧ r = .trap s0 ⟨5, e, 0⟩) ∨
    ∃ va, t % align = 0 ∧ s.partyVa p t = .ok va ∧ go va

/-- A range of n bytes passes the checks of acceptance, or the trap for it (R149), from the state s0. -/
def InRange (s0 s : State) (p : Party) (va n : Nat) (own : Bool) (r : Res) (go : Prop) : Prop :=
  (∃ e, s.rangeBad p va n own = some e ∧ r = .trap s0 ⟨5, e, 0⟩) ∨ (s.rangeBad p va n own = none ∧ go)

/-- A command's read of bytes answers: the state in which it goes on is t, and the bytes, by place, m. -/
def Fetches (s : State) (id : Nat) (c : Cmd) (need : List (Nat × Nat)) (t : State) (m : Table Byte) : Prop :=
  ∀ go, s.cmdFetch id c need go = go t m

/-- What a copy instruction comes to once its layout record `ws` has been read (R149, R165, R166): the traps, from the state s0, and the command. -/
def CopyAccepted (s0 : State) (p : Party) (ks : List Nat) (n : Nat) (kind : CopyKind) (cnt : Option (Fin 32)) (ab : Sys2Proof.Ab) (d : UniSrc)
    (b : Fin 32) (ws hi : List Word) (r : Res) : Prop :=
  let x := lrecOf ws
  let illegal := (kind ≠ .cpz ∧ 31 < b.val + x.ndim - 1) ∨ (kind = .cpg ∧ x.ndim < 2)
  (illegal ∧ r = .trap s0 ⟨1, 0, 0⟩) ∨
  (¬ illegal ∧ ∃ dw s, (hi.foldl (fun u h => u.setClkh p h) s0).uniSrc p false d = (dw, s) ∧
    AtAddr s0 s p dw 0 16 r fun dst =>
      (isSlice dst = false ∧ r = .trap s0 ⟨5, 13, 0⟩) ∨
      (isSlice dst = true ∧ InRange s0 s p dst (x.rows * x.pitch) false r (
        let coords := if kind = .cpz then [] else (List.range x.ndim).map fun k => ((s.partyS p (Fin.ofNat 32 (b.val + k))).toInt)
        let ok (ix : Nat) : Prop := r = .ok (s.acceptCmd p ks n (some ab) (.copy kind ws dst coords ix (cnt.map (·.val))) x.acq x.rel)
        (∃ e, s.tensorBad p kind x coords = some e ∧ r = .trap s0 ⟨5, e, 0⟩) ∨
        (s.tensorBad p kind x coords = none ∧ kind ≠ .cpg ∧ ok 0) ∨
        (s.tensorBad p kind x coords = none ∧ kind = .cpg ∧
          AtAddr s0 s p (s.partyS p (b + 1)) 0 4 r fun ix => InRange s0 s p ix (4 * x.ext 1) true r (ok ix)))))

end Sys2Proof.Says

/-- R153, R155, R156: MXLD, MXSW and MXSC at acceptance. R157, R158, R161: MXMM and the accumulator commands at acceptance: MXMM
latches the active plane, its scales and min(V, U) rows. R145, R146, R149: what acceptance does: one command, the next in issue
order, with its operands latched; the flag named by AB rises in each thread of P; nothing else changes. An engine that takes a
band's command takes no strand's in the same clk.
That MXSW and MXSC act at acceptance is the model's reading (log 9), and so is that MXLD's format is judged, and the scales are reset, at acceptance
(log 24); that a copy whose layout record is being read takes a place of its engine is its choice (log 107). -/
def Obligations.MatrixCommandAcceptance : Prop :=
  (∀ (fmt : MFmt) (pl : Fin 2) (t : Fin 8) (ab : Sys2Proof.Ab) (a d b : UniSrc) (ofs : BitVec 22),
    (EngineDoes (.mxld fmt pl ab a ofs d b) .mx ⟨1, 0, 0⟩ fun s p ks n _ r =>
      ∃ w s1 b0 s2 nb s3, s.uniSrc p false a = (w, s1) ∧ s1.uniSrc p false d = (b0, s2) ∧ s2.uniSrc p false b = (nb, s3) ∧
        let arr := s3.arrays n p.core
        let record := match fmt with
          | .mxfp4 => 17
          | .s8 => 32
          | .e4m3 => 32
          | .bf16 => 64
        (((7 < b0.toNat ∨ 8 < b0.toNat + nb.toNat) ∧ r = .trap s ⟨1, 0, 0⟩) ∨
          (b0.toNat ≤ 7 ∧ b0.toNat + nb.toNat ≤ 8 ∧
            AtAddr s s3 p w ofs 64 r fun va => InRange s s3 p va (nb.toNat * (256 * arr.length * record)) false r (
              let s4 := if s3.planeFmt p.core pl = fmt then s3
                else arr.foldl (fun u c => u.modEngine c fun e => { e with sw := e.sw.filter fun x => x.1 / 4 != pl.val }) s3
              r = .ok (s4.acceptCmd p ks n (some ab) (.mxld fmt pl va b0.toNat nb.toNat) false false))))) ∧
    (EngineDoes (.mxsw pl) .mx ⟨1, 0, 0⟩ fun s p _ n _ r =>
      r = .ok ((s.arrays n p.core).foldl (fun u c => u.modEngine c fun e => { e with active := pl }) s)) ∧
    (EngineDoes (.mxscW pl t a) .mx ⟨1, 0, 0⟩ fun s p _ n _ r =>
      ∃ w s1, s.uniSrc p true a = (w, s1) ∧
        (((s1.arrays n p.core)[t.val / 4]? = none ∧ r = .trap s ⟨1, 0, 0⟩) ∨
          ∃ c, (s1.arrays n p.core)[t.val / 4]? = some c ∧
            r = .ok (s1.modEngine c fun e => { e with sw := sput 0x3F800000 e.sw (4 * pl.val + t.val % 4) w }))) ∧
    (EngineDoes (.mxscA a ofs) .mx ⟨1, 0, 0⟩ fun s p _ _ _ r =>
      ∃ w s1, s.uniSrc p false a = (w, s1) ∧ AtAddr s s1 p w ofs 8 r fun va => InRange s s1 p va 8 true r
        (r = .ok (s1.modEngine p.core fun e => { e with asc := some (va % 2 ^ 21) }))) ∧
    EngineDoes .mxscANone .mx ⟨1, 0, 0⟩ fun s p _ _ _ r => r = .ok (s.modEngine p.core fun e => { e with asc := none })) ∧
  (∀ (fmt : MFmt) (u : Fin 128) (half : Bool) (o : Option Scope) (ab : Sys2Proof.Ab) (a d b : UniSrc) (ofs : BitVec 22),
    (EngineDoes (.mxmm fmt u ab a ofs d b) .mx ⟨1, 0, 0⟩ fun s p ks n _ r =>
      ∃ w s1 row0 s2 v s3, s.uniSrc p false a = (w, s1) ∧ s1.uniSrc p false d = (row0, s2) ∧ s2.uniSrc p false b = (v, s3) ∧
        let rows := u.val + 1
        let e := s3.engine p.core
        let pitch := match fmt with
          | .mxfp4 => 144
          | .s8 => 256
          | .e4m3 => 256
          | .bf16 => 512
        ((256 < row0.toNat + rows ∧ r = .trap s ⟨1, 0, 0⟩) ∨
          (row0.toNat + rows ≤ 256 ∧ AtAddr s s3 p w ofs 64 r fun va => InRange s s3 p va (rows * pitch) true r (
            (fmt = .e4m3 ∧ (∃ x, e.asc = some x ∧ 2 ^ 21 < x + 8 * rows) ∧ r = .trap s ⟨5, 2, 0⟩) ∨
            (¬ (fmt = .e4m3 ∧ ∃ x, e.asc = some x ∧ 2 ^ 21 < x + 8 * rows) ∧
              r = .ok (s3.acceptCmd p ks n (some ab) (.mxmm fmt rows (min v.toNat rows) row0.toNat (va % 2 ^ 21) e.active
                (s3.latchScales (s3.arrays n p.core) e.active) e.asc) false false)))))) ∧
    (EngineDoes (.accz d b) .mx ⟨1, 0, 0⟩ fun s p ks n _ r =>
      ∃ row0 s1 v s2, s.uniSrc p false d = (row0, s1) ∧ s1.uniSrc p false b = (v, s2) ∧
        ((256 < row0.toNat + v.toNat ∧ r = .trap s ⟨1, 0, 0⟩) ∨
          (row0.toNat + v.toNat ≤ 256 ∧ r = .ok (s2.acceptCmd p ks n none (.accz row0.toNat v.toNat) false false)))) ∧
    let moves (i : Instr) (bytes : Nat) (kind : Nat → Nat → Nat → CmdKind) (acq rel : Bool) : Prop :=
      EngineDoes i .mx ⟨1, 0, 0⟩ fun s p ks n _ r =>
        ∃ w s1 row0 s2 v s3, s.uniSrc p false a = (w, s1) ∧ s1.uniSrc p false d = (row0, s2) ∧ s2.uniSrc p false b = (v, s3) ∧
          ((256 < row0.toNat + v.toNat ∧ r = .trap s ⟨1, 0, 0⟩) ∨
            (row0.toNat + v.toNat ≤ 256 ∧ AtAddr s s3 p w ofs 64 r fun va =>
              InRange s s3 p va (v.toNat * bytes * 256 * (s3.arrays n p.core).length) false r
                (r = .ok (s3.acceptCmd p ks n (some ab) (kind va row0.toNat v.toNat) acq rel))))
    moves (.accld half o ab a ofs d b) (if half then 2 else 4) (.accld half) o.isSome false ∧
    moves (.accmv half o ab a ofs d b) (if half then 2 else 4) (.accmv (if half then .bf else .st)) false o.isSome ∧
    moves (.accmvAdd o ab a ofs d b) 4 (.accmv .add) false o.isSome) ∧
  ((∀ (s : State) (p : Party) (ks : List Nat) (n : Nat) (ab : Option Sys2Proof.Ab) (kind : CmdKind) (acq rel : Bool), Rising s.cmds →
    let u := s.acceptCmd p ks n ab kind acq rel
    u = { s with threads := u.threads, cmds := u.cmds, nextId := s.nextId + 1 } ∧ (∀ j, j ≠ s.nextId → mget u.cmds j = mget s.cmds j) ∧
    (∃ c, mget u.cmds s.nextId = some c ∧ c.core = p.core ∧ c.block = n ∧ c.kind = kind ∧ c.acq = acq ∧ c.rel = rel ∧
      c.pc = s.partyPc p ks ∧ c.marks = [] ∧ c.got = [] ∧ c.latched = [] ∧ c.counted = [] ∧ c.failed = false ∧ c.parked = none ∧
      c.replay = false ∧ c.since = s.clk ∧ (c.members.map (·.1) = ks.filter fun k => (s.thread? k).isSome) ∧
      ∀ k f, (∃ uid, (k, uid, f) ∈ c.flags) ↔ k ∈ ks ∧ ∃ t sel, s.thread? k = some t ∧ ab = some sel ∧ s.flagOf k t sel = some f) ∧
    (∀ j, j ∉ ks → u.thread? j = s.thread? j) ∧ (ab = none → u.threads = s.threads) ∧ (ks = [] → u.threads = s.threads)) ∧
  ∀ (s : State) (b x : Nat) (q : Seq), Rising s.cores →
    let u := s.noteTaken (.band b) q
    (u = { s with cores := u.cores }) ∧ (Party.core (.strand x) = Party.core (.band b) → u.bandTook (.strand x) q = true) ∧
      s.noteTaken (.strand x) q = s ∧ s.bandTook (.band b) q = false ∧
      ∀ v : State, (v.bandTook (.strand x) .mx = true ↔ (v.core (Party.strand x).core).mxAt = v.clk + 1) ∧
        (v.bandTook (.strand x) .cp = true ↔ (v.core (Party.strand x).core).cpAt = v.clk + 1))

/-- R51, R52, R53, R158: one promotion. The exact sum of the 32 products, as an exact value of the two block exponents, is rounded once to FP32 and
added to the accumulator element; an FP8 operand multiplies by the scales; a non-finite mark or a NaN scale gives NaN. -/
def Obligations.BlockPromotion : Prop :=
  ∀ (acc sa sw : Word) (x y : ABlock) (fp8 : Bool),
    let sgn (z : Bool × Nat) : Int := if z.1 then -(z.2 : Int) else z.2
    let total : Int := ((x.mags.zip y.mags).map fun z => sgn z.1 * sgn z.2).sum
    let v := rne32 (.fin (decide (total < 0)) total.natAbs (x.exp + y.exp))
    let bad := x.nf = true ∨ y.nf = true ∨ (rd32 sa).isNan = true ∨ (rd32 sw).isNan = true
    (bad → promote acc x y sa sw fp8 = addRne acc 0x7FC00000) ∧
    (¬ bad → promote acc x y sa sw false = addRne acc v ∧ promote acc x y sa sw true = addRne acc (mulRne v (mulRne sa sw))) ∧
    ∀ (bs : List Byte) (w sx : Nat),
      (alignBlock .s8 w bs sx).mags.map sgn = (List.range 32).map (fun j => ((bs.getD j 0).toInt)) ∧ (alignBlock .s8 w bs sx).exp = 0 ∧
        (alignBlock .s8 w bs sx).nf = false ∧ (sx = 255 → (alignBlock .mxfp4 w bs sx).nf = true)

/-- R49, R146, R147, R148, R158, R161, R163: ENGINE_COMMAND_COMPLETE: a command that must wait changes nothing. A matrix command that may run has what is
left of its effect and leaves the engine, or, where the event names a part of it, has that part and stays: ACCZ zeroes elements, ACCLD writes
what it read into elements, ACCMV writes elements to memory, or adds whole rows there; MXLD, which first gives its plane the new format, and MXMM
read bytes of their sources, and load the plane and add their rows at the end. A copy leaves once every byte has landed.
That a command has its whole effect at its completion is the model's choice (log 9); that a release waits for what the egress hold buffer has
released, not for what it holds, is its reading (log 114). R148: what a release waits for. -/
def Obligations.EngineCommandsComplete : Prop :=
  (∀ (s : State) (id : Nat) (c : Cmd), s.relLeft id c = true ↔
    (∃ i ∈ c.relAfter, ∃ o, mget s.ops i = some o ∧ o.done = false) ∨
    ∃ m ∈ c.members, (∃ j t, (j, t) ∈ s.tasks ∧ ∃ x ∈ t.leaving, x.from m.2 = true ∧ x.tag.seq < id) ∨
      ∃ j o, (j, o) ∈ s.ops ∧ o.egress = true ∧ o.uid = m.2 ∧ o.seq < id ∧ o.done = false) ∧
  (∀ (s : State) (id : Nat) (c : Cmd) (part : Option (Nat × Nat)), mget s.cmds id = some c →
    let runs := s.cmdRuns id c = true ∧ (part = none → c.rel = true → s.relLeft id c = false)
    let arr := s.arrays c.block c.core
    let cols := 256 * arr.length
    let s1 := if c.acq then s.dropRoc c.core else s
    let run (f : Fate) : Out := exec (.engineCommandComplete id (part, f)) s
    let fin (u : State) : Out := .next ((if part.isNone then u.dropCmd id c else u).settle.pumpSaves)
    -- the units lo to lo + n - 1 of `total` that the event names: all of them where it names none
    let units (total : Nat) : List Nat := match part with
      | none => c.rest 0 total
      | some (lo, n) => c.rest lo (min n (total - lo))
    (∀ f, ¬ runs → run f = .next s.pumpSaves) ∧
    (runs →
      (∀ row0 n, c.kind = .accz row0 n → run .performed =
        fin ((s1.setAccElems arr row0 ((units (n * cols)).map fun e => (e, 0))).gotUnits id (units (n * cols)))) ∧
      (∀ fmt u v row0 ofs p sw asc, c.kind = .mxmm fmt u v row0 ofs p sw asc →
        let total := mxmmBytes fmt v asc
        let at_ (j : Nat) : Nat := c.core * 2097152 + mxmmAt fmt v ofs asc j
        let need := (units total).filter fun j => (mget c.latched j).isNone
        let m := need.foldl (fun m j => mput m j (s1.byte (at_ j))) c.latched
        ((∃ j ∈ need, s1.homeBad (at_ j) = true) → run .performed = .next (s1.stopCmd id c ⟨5, 12, 0⟩).pumpSaves) ∧
        ((∀ j ∈ need, s1.homeBad (at_ j) = false) →
          (part ≠ none → run .performed = fin (s1.latch id m)) ∧
          (part = none → run .performed =
            fin ((s1.runMxmm arr fmt v row0 p sw asc ((List.range total).map (sget 0 m))).logParity c.core arr p v)))) ∧
      (∀ fmt p va b0 nb t m, c.kind = .mxld fmt p va b0 nb →
        let size := nb * imageBytes fmt cols
        let lo := (unitsOf part size).1
        let s2 := s1.reformat arr p fmt
        Fetches s2 id c ((List.range (unitsOf part size).2).map fun i => (lo + i, va + lo + i)) t m →
          (part ≠ none → run .performed = fin (t.latch id m)) ∧
          (part = none → run .performed = fin (t.runMxld arr fmt p b0 nb ((List.range size).map (sget 0 m))))) ∧
      (∀ h va row0 n t m, c.kind = .accld h va row0 n →
        let w := if h then 2 else 4
        let js := units (n * cols)
        Fetches s1 id c (js.flatMap fun e => (List.range w).map fun i => (w * e + i, va + w * e + i)) t m →
          run .performed = fin ((t.setAccElems arr row0 (js.map fun e =>
            (e, loadElem h ((List.range w).map fun i => sget 0 m (w * e + i))))).gotUnits id js)) ∧
      (∀ form va row0 n f u lost, c.kind = .accmv form va row0 n → form ≠ .add →
        s1.cmdWrite id c (s1.moveOut arr form va row0 (units (n * cols)))
            (fun l => s1.moveOut arr form va row0 (lineElems form va (n * cols) l)) false f (fun u _ _ => u) = .go u lost →
        run f = fin u) ∧
      (∀ va row0 n f u, c.kind = .accmv .add va row0 n →
        let lo := (unitsOf (part.map fun x => (x.1 / cols, x.2 / cols)) n).1
        let k := (unitsOf (part.map fun x => (x.1 / cols, x.2 / cols)) n).2
        s1.addRows id c arr va row0 f ((List.range k).map (lo + ·)) = .done u → run f = fin u) ∧
      ∀ kind ws dst co ix cnt f, c.kind = .copy kind ws dst co ix cnt →
        (part = none → c.gotten = (lrecOf ws).total → run f = fin s) ∧
        (part ≠ none ∨ c.gotten ≠ (lrecOf ws).total → run f = .next s.pumpSaves))) ∧
  -- the new format comes first: every cell and mark of a plane of another format is zero (R49)
  (∀ (e : Engine) (p q : Fin 2) (fmt : MFmt) (b col : Nat), b < 8 → col < 256 → Rising e.cells → Rising e.ew → Rising e.nf →
    let u := e.reformat p fmt
    u.fmt[p] = fmt ∧ (q ≠ p → u.fmt[q] = e.fmt[q] ∧ u.getBlock q b col = e.getBlock q b col) ∧
      u.getBlock p b col = ⟨List.replicate 32 (false, 0), 0, false⟩ ∧ u.acc = e.acc) ∧
  -- elements of a move: where they lie, and what one is
  (∀ (s : State) (arr : List Nat) (row0 e e' : Nat) (w : Word), arr.Nodup → arr ≠ [] → Rising s.engines → (∀ c, Rising (s.engine c).acc) →
    (s.setAccElems arr row0 [(e, w)]).accElem arr row0 e' = if e' = e then w else s.accElem arr row0 e') ∧
  (∀ (x : Nat) (w : Word), x < 2 ^ 32 → loadElem false (leBytes 4 x) = BitVec.ofNat 32 x ∧ moveBytes .st w = leBytes 4 w.toNat ∧
    moveBytes .add w = leBytes 4 w.toNat ∧ moveBytes .bf w = leBytes 2 (Sys2Proof.Machine.bf16.deliver .nearest (rd32 w)).1 ∧
    (x < 2 ^ 16 → loadElem true (leBytes 2 x) =
      if (rd32 (BitVec.ofNat 32 (x * 2 ^ 16))).isNan then 0x7FC00000 else BitVec.ofNat 32 (x * 2 ^ 16)) ∧
    addWords (leBytes 4 x) (leBytes 4 w.toNat) = leBytes 4 (addRne (BitVec.ofNat 32 x) w).toNat) ∧
  -- a part of a write that lies in ungraded memory of this package is written there, or added onto what lies there
  ∀ (s : State) (id : Nat) (c : Cmd) (va h : Nat) (a : Acc) (data : List Byte) (add : Bool) (f : Fate), a.loc.home = some h → a.graded = false →
    s.refusedAt c.core c.part a.loc = false →
    s.cmdPlaced id c va a data add f = .go (s.writeHome h (if add then addWords (s.bytes h data.length) data else data)) false

/-- R149, R164, R166: a copy instruction at its slot asks for its layout record, once, as a load of 64 bytes by its issuer, of
every thread of P, and waits there; an address that cannot be formed or reached traps or parks as a load's does, from the state
before the operand is read. R149, R164, R166: LAYOUT_RECORD_READ: the record has come from memory of this package while its
issuer stands at the instruction; a record whose read failed traps with its DETAIL, an invalid record with DETAIL 3, a valid one
makes the copy command with the record's ACQ and REL, or traps as its operands require. -/
def Obligations.CopyInstructionsAndTheirLayout : Prop :=
  (∀ (cnt : Option (Fin 32)) (ab : Sys2Proof.Ab) (d a : UniSrc) (ofs : BitVec 22) (b : Fin 32),
    let who (p : Party) (ks : List Nat) : Issuer := match p with
      | .band k => .band k (ks.headD 0)
      | .strand q => .strand q
    let uid (s : State) (p : Party) (ks : List Nat) : Nat := match p with
      | .band _ => ((s.thread? (ks.headD 0)).map (·.uid)).getD 0
      | .strand _ => s.nextId
    let members (s : State) (ks : List Nat) : List (Nat × Nat) := ks.filterMap fun k => (s.thread? k).map fun t => (k, t.uid)
    let hi (s : State) : List Word := if a = .sp 12 then [BitVec.ofNat 32 (s.clk / 2 ^ 32)] else []
    let reads (i : Instr) (kind : CopyKind) (b : Fin 32) : Prop :=
      EngineDoes i .cp (match cnt with
        | some h => ⟨7, h.val, 0⟩
        | none => ⟨1, 0, 0⟩) fun s p ks _ blk r =>
        (s.layoutOpen (who p ks) = true ∧ r = .stay s) ∨
        (s.layoutOpen (who p ks) = false ∧ ∃ w s1, s.uniSrc p false a = (w, s1) ∧ AtAddr s s1 p w ofs 64 r fun va =>
          (∃ k s2, s.place (s.partySpace p) p.core va .read false = (.park k, s2) ∧ r = .park s va 0 k) ∨
          (∃ e s2, s.place (s.partySpace p) p.core va .read false = (.bad e, s2) ∧ r = .trap s ⟨5, e, 0⟩) ∨
          ∃ s2 acc, s.place (s.partySpace p) p.core va .read false = (.ok acc, s2) ∧
            ((bellUse acc 64 0 .read = false ∧ r = .trap s ⟨5, 6, 0⟩) ∨
              (bellUse acc 64 0 .read = true ∧ (s2.accBad acc 64 || s2.accDead acc 64) = true ∧ r = .trap s ⟨5, 12, 0⟩) ∨
              (bellUse acc 64 0 .read = true ∧ (s2.accBad acc 64 || s2.accDead acc 64) = false ∧
                let s3 := s2.countAcc (s2.partySpace p) p.core acc 1 0
                r = .stay ({ s3 with
                  nextId := s3.nextId + 1
                  ops := mput s3.ops s3.nextId (State.layoutOp { s3 with nextId := s3.nextId + 1 } (who p ks)
                    (.layout kind cnt ab d b (who p ks)) blk (uid s3 p ks) (s3.partyPc p ks).toNat va acc
                    (members s3 ks) (hi s3)) }.sendReady))))
    reads (.cpt cnt ab d a ofs b) .cpt b ∧ reads (.cpg cnt ab d a ofs b) .cpg b ∧ reads (.cps cnt ab d a ofs b) .cps b ∧
      reads (.cpz cnt ab d a ofs) .cpz 0) ∧
  (∀ (s : State) (op : Nat) (o : Op) kind cnt ab d b (w : Issuer), Due s op o → o.kind = .layout kind cnt ab d b w →
    s.layoutWaits o w = true → s.bandTook w.party .cp = false →
    let ks := match w with
      | .band _ low => s.rendezvousP low
      | .strand _ => []
    let fails (e : Nat) : Prop :=
      exec (.layoutRecordRead op) s = .next (State.layoutFinish w ks (.trap { s with ops := mdel s.ops op } ⟨5, e, 0⟩)).settle
    (s.opRefused o = true → fails 8) ∧ (s.opRefused o = false → s.accBad o.acc 64 = true → fails 12) ∧
    (∀ bs, s.opRefused o = false → s.accBad o.acc 64 = false → o.acc.loc.home = none → o.resp = some (bs, .lost) → fails 9) ∧
    ∀ h s1, s.opRefused o = false → s.accBad o.acc 64 = false → o.acc.loc.home = some h → s.opLogRead o = some s1 →
    let ws := wordsOfBytes (s.bytes h 64)
    let s2 := s1.sampleLayout o w
    let s3 := { s2 with ops := mdel s2.ops op }
    (lrecBad ws = true → exec (.layoutRecordRead op) s = .next (State.layoutFinish w ks (.trap s3 ⟨1, 3, 0⟩)).settle) ∧
    ∀ n blk r, lrecBad ws = false → s3.blockOfParty w.party = some (n, blk) → CopyAccepted s3 w.party ks n kind cnt ab d b ws o.words r →
      exec (.layoutRecordRead op) s = .next (State.layoutFinish w ks (r.taken w.party .cp)).settle)

/-- R166, R167, R168, R148, R217: COPY_BYTES_LANDED: bytes of a copy that may land, in any order and number, do: CPZ writes zeros, CPT and CPG the
tensor's elements with zeros outside it, CPS the box's elements to the tensor; they are counted, and a box of another partition refuses the copy whole.
Bytes that have all landed, or the last of a release that must still wait, change nothing, and neither does a part that splits a word which the copy
writes. R149: a row of a CPG that leaves a slice or reaches host memory stops the copy as its bytes are copied, since its place is known only once its
index is read: the model's reading (log 26). -/
def Obligations.CopyRowsLand : Prop :=
  (∀ (s : State) (id lo n : Nat) (c : Cmd) kind ws dst coords ix cnt, mget s.cmds id = some c → c.kind = .copy kind ws dst coords ix cnt →
    let r := lrecOf ws
    let js := c.rest lo n
    let may := s.cmdRuns id c = true ∧ lo + n ≤ r.total ∧ js ≠ [] ∧ (c.rel = true → c.lastBytes r lo n = true → s.relLeft id c = false)
    let s1 := if c.acq then s.dropRoc c.core else s
    let rows := if kind = .cpg then (List.range r.rows).filter fun i => decide (lo / r.rowBytes ≤ i + 1) && decide (i ≤ (lo + n) / r.rowBytes) else []
    let m := s1.readIndex c r ix rows
    let at? := r.tensorAt coords (copyRow kind r coords m)
    let slot (j : Nat) : Option Nat := some (r.sliceAt j)
    let land (f : Fate) : Out := exec (.copyBytesLanded id (lo, n) f) s
    let hits (at? : Nat → Option Nat) (lo l hi : Nat) : Prop := l = wordLow at? 3 lo ∧ hi = if lo + n < r.total then wordHigh at? 3 (lo + n) else r.total
    (∀ f, ¬ may → land f = .next s.pumpSaves) ∧
    (∀ l f, may → s1.boxLoc c dst = some l → s1.refusedAt c.core c.part l = true →
      land f = .next ((s1.failCmd id .refused).modCmd id fun c => { c with got := [(0, r.total)] }).settle.pumpSaves) ∧
    ∀ box, may → s1.boxLoc c dst = some box → s1.refusedAt c.core c.part box = false →
      let whole := wordWhole (if kind = .cps then at? else slot) r.total lo n = true
      let indexOk := ∀ i ∈ rows, ∀ g, s1.indexHome c ix (4 * (i % r.ext 1)) = some g → s1.homeBad g = false
      (∀ f, ¬ whole → land f = .next s1.pumpSaves) ∧
      (whole → kind = .cpz → ∀ f, land f = .next (s1.landBox id c dst cnt js (js.map fun j => (r.sliceAt j, 0)) f).settle.pumpSaves) ∧
      let bad := s1.gatherBad c r coords (copyRow kind r coords m)
        (rows.filter fun i => decide (lo < (i + 1) * r.rowBytes) && decide (i * r.rowBytes < lo + n))
      (whole → indexOk → kind = .cpg → ∀ e f, bad = some e → land f = .next (s1.stopCmd id c ⟨5, e, 0⟩).pumpSaves) ∧
      (whole → indexOk → kind = .cpt ∨ kind = .cpg → bad = none → ∀ l hi u m', hits at? lo l hi →
        let c' := { c with latched := m }
        Fetches (s1.latch id m) id c' (((List.range (hi - l)).map (l + ·)).filterMap fun j =>
            if (decide (lo ≤ j) && decide (j < lo + n) && c.has j) = true then none else (at? j).map fun a => (j, a)) u m' →
          let v := u.latch id (m'.filter fun x => decide (2 ^ 60 ≤ x.1) || decide (x.1 < lo) || decide (lo + n ≤ x.1))
          ∀ f, land f =
            .next (v.landBox id c' dst cnt js (js.map fun j => (r.sliceAt j, if (at? j).isSome then sget 0 m' j else 0)) f).settle.pumpSaves) ∧
      (whole → kind = .cps → ∀ d o, box = .slice d o → ∀ l hi u lost f, hits slot lo l hi →
        let need := ((List.range (hi - l)).map (l + ·)).filter fun j => !c.has j && (mget c.latched j).isNone
        (∀ j ∈ need, s1.homeBad (d * 2097152 + o + r.sliceAt j) = false) →
        let m' := need.foldl (fun m j => mput m j (s1.byte (d * 2097152 + o + r.sliceAt j))) c.latched
        let val (j : Nat) : Byte := (mget m' j).getD (s1.byte (d * 2097152 + o + r.sliceAt j))
        let count (s : State) (js : List Nat) (lost : Bool) : State := if lost then s else s.countLanded id c cnt c.core js.length
        let skip := js.filter fun j => (at? j).isNone
        let unit (j : Nat) : Option (Nat × Nat × Byte) := (at? j).map fun a => (j, a, val j)
        (count ((s1.latch id m').gotUnits id skip) skip false).cmdWrite id c (js.filterMap unit)
            (fun ln => ((List.range r.total).filter fun j => (at? j).any fun a => a / 64 == ln).filterMap unit) false f count = .go u lost →
          land f = .next u.settle.pumpSaves)) ∧
  -- how bytes land in a box of this package and of another, and what splitting a word means
  (∀ (s : State) (id : Nat) (c : Cmd) (dst : Nat) (cnt : Option Nat) (js : List Nat) (xs : List (Nat × Byte)),
    (∀ d o, s.boxLoc c dst = some (.slice d o) → s.landBox id c dst cnt js xs .performed =
      ((xs.foldl (fun u x => u.writeHome (d * 2097152 + o + x.1) [x.2]) s).gotUnits id js).countLanded id c cnt d js.length) ∧
    ∀ pk va g, s.boxLoc c dst = some (.remote pk va g) →
      s.landBox id c dst cnt js xs .performed = (s.sendBytes c pk va cnt xs).gotUnits id js ∧
      s.landBox id c dst cnt js xs .refused = (s.failCmd id .refused).gotUnits id js ∧
      s.landBox id c dst cnt js xs .lost =
        if (xs.all fun x => s.lostSince c.since pk (va + x.1)) = true then (s.failCmd id .lost).gotUnits id js else s) ∧
  -- a row of a CPG fails where its elements in bounds leave a slice or lie in host memory
  (∀ (s : State) (c : Cmd) (r : LRec) (coords : List Int) (gs : Nat → List (Nat × Int)) (rows : List Nat),
    s.gatherBad c r coords gs rows = none ↔ ∀ i ∈ rows, (r.rowSpan coords (gs i)).1 < (r.rowSpan coords (gs i)).2 →
      s.rangeBadIn (s.blockSpace c.block) c.core (r.tensorVa coords (gs i) (r.rowSpan coords (gs i)).1)
        (((r.rowSpan coords (gs i)).2 - (r.rowSpan coords (gs i)).1) * r.size) false = none) ∧
  ∀ (at? : Nat → Option Nat) (total lo n : Nat),
    let splits (j : Nat) : Prop := j ≠ 0 ∧ ∃ a b, at? (j - 1) = some a ∧ at? j = some b ∧ a / 4 = b / 4
    wordWhole at? total lo n = true ↔ ¬ splits lo ∧ (lo + n = total ∨ ¬ splits (lo + n))

/-- R165: where an element of a box lies: its row and its swizzled offset in the slice, and the address of the tensor element;
the elements of a row that lie in the tensor; and the bytes of a box, row after row. R167, R140: bytes that land on a hasp are
counted in the active slot whose SRC names the issuing core; with no valid hasp or no such slot they are not counted. That of several such slots the
lowest-numbered counts is the model's choice (log 94). -/
def Obligations.BoxElementsAndLandedBytes : Prop :=
  (∀ (r : LRec) (coords : List Int) (gs : List (Nat × Int)) (i0 i1 i2 i3 i4 : Nat),
    i1 < r.ext 1 → i2 < r.ext 2 → i3 < r.ext 3 → i4 < r.ext 4 →
    let row := i1 + r.ext 1 * (i2 + r.ext 2 * (i3 + r.ext 3 * i4))
    let o := row * r.pitch + i0 * r.size
    r.rowIdx row = [i1, i2, i3, i4] ∧ row < r.rows ∧
    (r.swz = 0 → r.sliceOfs row i0 = o) ∧
    (r.swz ≠ 0 →
      let n := 64 * 2 ^ r.swz / 16
      let c := o / 16 % n
      (r.sliceOfs row i0 : Int) = o + 16 * (((c ^^^ (row % n) : Nat) : Int) - c)) ∧
    (r.tensorVa coords gs i0 : Int) =
      (r.base + (coords.getD 0 0 + i0) * 2 ^ r.esz + (gs.map fun g => g.2 * r.stride.getD g.1 0).sum) % 2 ^ 56 ∧
    ((r.rowSpan coords gs).1 ≤ i0 ∧ i0 < (r.rowSpan coords gs).2 ↔
      i0 < r.ext 0 ∧ 0 ≤ coords.getD 0 0 + i0 ∧ coords.getD 0 0 + i0 < (r.bound.getD 0 0 : Nat) ∧
        ∀ g ∈ gs, 0 ≤ g.2 ∧ g.2 < (r.bound.getD g.1 0 : Nat)) ∧
    ∀ (k : Nat) (rows : Nat → List (Nat × Int)), i0 < r.ext 0 → k < r.size →
      let j := row * r.rowBytes + i0 * r.size + k
      j < r.total ∧ r.sliceAt j = r.sliceOfs row i0 + k ∧
        r.tensorAt coords rows j = if (r.rowSpan coords (rows row)).1 ≤ i0 ∧ i0 < (r.rowSpan coords (rows row)).2
          then some (r.tensorVa coords (rows row) i0 + k) else none) ∧
  (∀ (s : State) (hk src n : Nat), Rising s.hasps → n ≠ 0 →
    let h := s.hasp hk
    let here (i : Fin 4) : Prop := h.slots[i].act = true ∧ h.slots[i].src = src
    ((h.valid = false ∨ ∀ i, ¬ here i) → s.landOn hk src n = (none, s)) ∧
    ∀ i, h.valid = true → here i → (∀ j, j < i → ¬ here j) → h.slots[i].landed + n < 2 ^ 24 →
      s.landOn hk src n = (some ⟨hk, i.val, h.phase, n⟩,
        (s.setHasp hk { h with slots := h.slots.set i { h.slots[i] with landed := h.slots[i].landed + n } }).tryComplete (hk / 32) (hk % 32)))

/-! ### Surrender and system instructions (06, 07) -/

/-- R169, R171, R194: SURR in a block of a NEGO core registers the routine and its bound, replacing an earlier one, and gives 0;
elsewhere it gives 1 and registers nothing; in a free band or a routine, or with a bound that is neither 0 nor 64 to 65,535, it
traps. RCLQ reports the recall state, and 0 in a free band (R174). R172, R173, R320: the three YIELDs inside a routine, at the
rendezvous of its band: done goes on and starts the finish bound, with SP.RECALL; summ marks the threads and ends the block once
its CONT statuses are in; refuse answers refused while a refusal is left, and is saved otherwise. Outside a routine each traps. -/
def Obligations.SurrenderAndYieldOutcomes : Prop :=
  (∀ (d : UniDst) (imm : Word) (a : UniSrc),
    (BandDoes (.surr d imm a) fun s b ks r =>
      (s.blockOfParty (.band b) = none ∧ r = .trap s ⟨1, 0, 0⟩) ∨
      ∃ n x w s1, s.blockOfParty (.band b) = some (n, x) ∧ s.uniSrc (.band b) false a = (w, s1) ∧
        let bad := s.inRoutine (.band b) = true ∨ (w.toNat ≠ 0 ∧ (w.toNat < 64 ∨ 65535 < w.toNat))
        ((bad ∧ r = .trap s ⟨1, 0, 0⟩) ∨
          (¬ bad ∧ x.lease = 2 ∧ r = .ok ((s1.modBlock n fun y => { y with
            surr := some ⟨clauseTarget (s.partyPc (.band b) ks) imm, if w = 0 then 2048 else w.toNat⟩ }).setUni (.band b) d 0)) ∨
          (¬ bad ∧ x.lease ≠ 2 ∧ r = .ok (s1.setUni (.band b) d 1)))) ∧
    UniformDoes (.rclq d) fun s p _ r =>
      (s.blockOfParty p = none ∧ r = .ok (s.setUni p d 0)) ∨
      ∃ n x, s.blockOfParty p = some (n, x) ∧
        let bit (b : Bool) : Nat := if b then 1 else 0
        r = .ok (s.setUni p d (BitVec.ofNat 32 (min (s.core x.core).recallQ.length 4 + 8 * bit (x.rstate == .routine) +
          16 * min x.used 7 + 128 * min x.rlim 7 + 1024 * bit (x.lease == 2) + 2048 * bit x.surr.isSome)))) ∧
  (let routine (s : State) (b : Nat) (ks : List Nat) : Prop :=
    s.inRoutine (.band b) = true ∧ ∀ k ∈ ks, ∃ t, s.thread? k = some t ∧ t.resume ≠ none
  -- the scalar pipe executes it, though no thread goes on past it (R117)
  let ran (s u : State) (ks : List Nat) : Res := .stay (u.piped (ks.headD 0) (ks.any fun k => (s.thread? k).any (·.trapMode)) false)
  let out (s : State) (b : Nat) (ks : List Nat) (r : Res) : Prop := ¬ routine s b ks ∧ r = .trap s ⟨1, 0, 0⟩
  -- the routine had reached its bound before this clk: the recall proceeds as for SAVED (R171)
  let spent (s : State) (x : Block) : Prop :=
    (x.surr.map (·.bound)).getD 2048 ≤ (if x.countAt = s.clk + 1 then x.count - 1 else x.count) ∧ x.summ = false
  let late (s : State) (b : Nat) (ks : List Nat) (r : Res) : Prop := routine s b ks ∧ ∃ n x, s.blockOfParty (.band b) = some (n, x) ∧ spent s x ∧
    r = ran s (s.beginSave x.core).settle ks
  (BandDoes .yieldDone fun s b ks r => out s b ks r ∨ late s b ks r ∨
    (routine s b ks ∧ ∃ n x, s.blockOfParty (.band b) = some (n, x) ∧ ¬ spent s x ∧
      r = ran s ((s.leaveRoutine n).modBlock n fun y => { y with
        rstate := .finishing, finStart := s.ns,
        spRecall := BitVec.ofNat 32 (16 * min (s.core x.core).recallQ.length 7 + 2 * min x.used 7 + 1) }) ks)) ∧
  (BandDoes .yieldSumm fun s b ks r => out s b ks r ∨ late s b ks r ∨
    (routine s b ks ∧ ∃ n x, s.blockOfParty (.band b) = some (n, x) ∧ ¬ spent s x ∧
      let s1 := ks.foldl (fun s k => s.modThread k fun t => { t with yielded := true }) s
      r = ran s ((s1.modBlock n fun y => { y with summ := true }).endSummary n).settle ks)) ∧
  BandDoes .yieldRefuse fun s b ks r => out s b ks r ∨ late s b ks r ∨
    (routine s b ks ∧ ∃ n x, s.blockOfParty (.band b) = some (n, x) ∧ ¬ spent s x ∧
      ((x.used < x.rlim ∧
        let s1 := (s.leaveRoutine n).modBlock n fun y => { y with used := y.used + 1, rstate := .held }
        let s2 := match (s1.core x.core).recallTag with
          | some tag => s1.answer tag x.core 1
          | none => s1
        r = ran s ((s2.modCore x.core fun c => { c with recallTag := none }).takeQueued x.core) ks) ∨
      (x.rlim ≤ x.used ∧ r = ran s (s.beginSave x.core) ks))))

/-- R176, R179: TRET by a thread in trap mode ends the mode and continues at redo or skip, with its registers as they are; out
of trap mode it traps, and so it does in a strand. SNOP only goes on (R177). R178, R369: SBRK without the debug right traps with
DETAIL 1 in a band and does nothing in a strand; with it, it halts the threads of P, or the strand, at the instruction; a party
that it halted so goes on past it once resumed. R176: of the threads that the trap held, those of a trap at a rendezvous meet it again under redo and
pass with it under skip; the others stay where they stand. That a party which SBRK halted passes it once, all threads of P together, is the model's
reading (log 23). -/
def Obligations.TrapReturnAndUniformBreak : Prop :=
  ((∀ s k t, Runs s k t → t.trapMode = true → t.haltReq = false → (mkeys s.threads fun _ x => x.heldBy == some k) = [] →
    ∀ skip : Bool, ∃ u t', exec (if skip then .tretSkip else .tretRedo) s = .next u ∧ OnlyThread s u k t ∧ u.thread? k = some t' ∧ t'.trapMode = false ∧
      t'.pc = (if skip then t.trapPt.skip else t.trapPt.redo) ∧ t'.status = .ready ∧ t'.v = t.v ∧ t'.f = t.f ∧ t'.rs = t.rs ∧
      t'.fstat = t.fstat ∧ t'.trapstat = t.trapstat) ∧
  (∀ s k t, Runs s k t → t.trapMode = true → t.haltReq = false → Rising s.threads →
    ∀ skip : Bool, ∃ u t', exec (if skip then .tretSkip else .tretRedo) s = .next u ∧ u.thread? k = some t' ∧ t'.trapMode = false ∧
      t'.pc = (if skip then t.trapPt.skip else t.trapPt.redo) ∧ t'.status = .ready ∧
      ∀ j x, s.thread? j = some x → j ≠ k →
        (x.heldBy ≠ some k → u.thread? j = some x) ∧
        (x.heldBy = some k → (skip = false ∨ t.trapPt.src ≠ 1) → u.thread? j = some { x with heldBy := none }) ∧
        (x.heldBy = some k → skip = true → t.trapPt.src = 1 → ∃ y, u.thread? j = some y ∧ y.heldBy = none ∧ y.pc = t.trapPt.skip ∧
          y.status = .ready ∧ y.v = x.v ∧ y.f = x.f ∧ y.rs = x.rs)) ∧
  (∀ s k t ks, ∀ skip : Bool, Runs s k t → t.trapMode = false → MeetsAs s k t ks → ks ≠ [] → (∀ j ∈ ks, ∃ u, s.thread? j = some u ∧ u.trapMode = false) →
    exec (if skip then .tretSkip else .tretRedo) s = .next (((met s k t).piped k false false).bandTrap ks ⟨1, 0, 0⟩ 1)) ∧
  (∀ s q, ∀ skip : Bool, s.cur = .strand q → exec (if skip then .tretSkip else .tretRedo) s = .next (s.strandTrap q ⟨1, 0, 0⟩)) ∧
  UniformDoes .snop fun s _ _ r => r = .ok s) ∧
  (UniformDoes .sbrk fun s p ks r =>
    match p with
    | .strand q =>
      let right := (s.part (s.partyPart (.strand q))).right
      (right = true ∧ (s.strand q).brkSkip = false ∧
        r = .stay ((s.haltStrand q).setStrand q { (s.haltStrand q).strand q with brkSkip := true })) ∨
      ((right = false ∨ (s.strand q).brkSkip = true) ∧ r = .ok s)
    | .band b =>
      let right := (s.part (s.partyPart (.band b))).right
      (right = false ∧ r = .trap s ⟨9, 1, 0⟩) ∨
        (right = true ∧ (∃ k ∈ ks, ∀ t, s.thread? k = some t → t.brkSkip = false) ∧
          r = .stay (ks.foldl (fun s k => (s.haltThread k).modThread k fun t => { t with brkSkip := true }) s)) ∨
        (right = true ∧ (∀ k ∈ ks, ∃ t, s.thread? k = some t ∧ t.brkSkip = true) ∧ r = .ok s))

/-! ### Commands (14) -/

namespace Sys2Proof.Says

open Sys2Proof.Machine

/-- i is a command of n words: executed by a stream whose context is bound, it does r where `means` says so. -/
def CommandDoes (i : Instr) (n : Nat) (means : State → StreamId → Space → CRes → Prop) : Prop :=
  ∀ s id sp r, s.cur = .stream id → s.streamSpace id = some sp → means s id sp r → exec i s = .next (State.cmdFinish id n r)

/-- The register d of a stream takes the value w and the command completes. -/
def gives (s : State) (id : StreamId) (d : CReg) (w : Nat) : CRes := .ok (s.setC id d (BitVec.ofNat 64 w))

/-- An address of a stream for an access of n bytes that is placed with no fault: the bits that must be 0 are, it is aligned, and its page, its home and
its line take the access; u is the state with the access counted (R268, R271, R376). -/
def StreamAt (s : State) (sp : Space) (reg : DWord) (ofs : Int) (n : Nat) (use : Use) (va : Nat) (a : Acc) (u : State) : Prop :=
  reg.toNat < 2 ^ 56 ∧ (va : Int) = ((reg.toNat : Int) + ofs) % 2 ^ 56 ∧ va % n = 0 ∧
    ∃ s1, s.place sp feCore va use = (.ok a, s1) ∧ bellUse a n 1 use = true ∧ s1.refusedAt feCore sp.part a.loc = false ∧
      ((use = .read ∨ a.graded = true) → s1.accBad a n = false) ∧ s1.accDead a n = false ∧
      u = s1.countAcc sp feCore a (if use = .read then 1 else 0) (if use = .read then 0 else 1)

/-- An address of a stream for which that does not hold: an address fault. -/
def StreamBad (s : State) (sp : Space) (reg : DWord) (ofs : Int) (n : Nat) (use : Use) : Prop := ∀ va a u, ¬ StreamAt s sp reg ofs n use va a u

/-- Eight bytes at address va read by a stream, at its command's issue or again while it waits (R87, R268, R271, R275): from memory of this package,
its own items of the egress hold buffer laid over them; or asked of another package, once, as operation `op`, until that answers. Where `enough` says
so of the state, the place and the word, the command has the word in d; otherwise it waits. -/
def ReadJudged (s : State) (id : StreamId) (sp : Space) (va : Nat) (op : Option Nat) (again : Nat → Option Nat → CWait) (enough : State → Acc → Nat → Prop)
    (d : CReg) (r : CRes) : Prop :=
  (StreamBad s sp (BitVec.ofNat 64 va) 0 8 .read ∧ r = .fault s 7) ∨
  ∃ x a u, StreamAt s sp (BitVec.ofNat 64 va) 0 8 .read x a u ∧
    let sees (u : State) (bs : List Byte) : Prop :=
      let y := u.opBytes (u.opOfStream id sp .fill x a 8 [] []) bs
      (enough y.2 a (leNat y.1) ∧ r = .ok (y.2.setC id d (BitVec.ofNat 64 (leNat y.1)))) ∨
        (¬ enough y.2 a (leNat y.1) ∧ r = .wait y.2 (again x none) d)
    (∃ h, a.loc.home = some h ∧ sees u (u.bytes h 8)) ∨
    (a.loc.home = none ∧
      ((op = none ∧ r = .wait (u.streamOp id sp .fill x a 8 [] []).2 (again x (some (u.streamOp id sp .fill x a 8 [] []).1)) d) ∨
        ∃ n, op = some n ∧
          (((mget u.ops n).bind (·.resp) = none ∧ r = .wait u (again x (some n)) d) ∨
            (∃ bs, (mget u.ops n).bind (·.resp) = some (bs, .performed) ∧ sees { u with ops := mdel u.ops n } bs) ∨
            ∃ bs f, (mget u.ops n).bind (·.resp) = some (bs, f) ∧ f ≠ .performed ∧ r = .fault u 7)))

/-- A program's CLD does not wait: the line that it read is neither GUESS nor PROV (R296). -/
def goesOn (id : StreamId) (s : State) (a : Acc) (_ : Nat) : Prop :=
  ∀ n l, id = .prog n → (a.lines 1).head? = some l → (s.line l).grade ≠ .guess ∧ (s.line l).grade ≠ .prov

/-- A plain store of a stream (R266, R271, R304, R305): off the chip while its program's taint is below FINAL it enters the egress hold buffer, or waits
for room there; to another package it is sent, and its answer waited for (the model's choice, log 50); any other is performed. `done` says what the
command then does. -/
def StoreJudged (u : State) (id : StreamId) (sp : Space) (va : Nat) (a : Acc) (data : List Byte) (cst : Bool) (d : CReg) (done : State → CRes) (r : CRes) :
    Prop :=
  let held := HeldItem.store (2048 * feCore) (u.streamUid id) a data va sp.part [] { seq := u.nextId }
  (∃ k t, a.offChip = true ∧ u.streamTask id = some k ∧ u.holds k = true ∧ u.task? k = some t ∧
    ((u.holdRoom t.inst t.die held.size = true ∧ r = done (u.holdItem k held)) ∨ (u.holdRoom t.inst t.die held.size = false ∧ r = .stay u))) ∨
  ((∀ k, u.streamTask id = some k → (a.offChip && u.holds k) = false) ∧
    (((∃ p v g, a.loc = .remote p v g) ∧
        r = .wait (u.streamOp id sp .st va a data.length data []).2 (.amend (u.streamOp id sp .st va a data.length data []).1 cst) d) ∨
      ((∀ p v g, a.loc ≠ .remote p v g) ∧ r = done (u.performStore a data sp.part))))

/-- A graded write of a stream (R271, R276, R307): on a line of this package the tumbler's outcome, to be judged again where the write must wait; to
another package it is sent, and its answer waited for. `done` says what the command does with an outcome. -/
def GradedJudged (u : State) (id : StreamId) (sp : Space) (va : Nat) (a : Acc) (data : List Byte) (g : Grade) (cst : Bool) (d : CReg)
    (done : State → Nat → CRes) (r : CRes) : Prop :=
  (∃ h w v, a.loc.home = some h ∧ u.gradedWrite h data g (u.streamTask id) (u.streamLimit id) = (w, v) ∧
    ((v.streamOutcome id w = none ∧ r = .stay v) ∨ ∃ n v1, v.streamOutcome id w = some (n, v1) ∧ r = done v1 n)) ∨
  (a.loc.home = none ∧
    let y := u.streamOp id sp .st va a data.length data [BitVec.ofNat 32 (gradeCode g)]
    r = .wait y.2 (.amend y.1 cst) d)

/-- A node waited for (R275): complete 0, faulted or in a cancelled run 1, in a run that has ended 3, none such 2; otherwise the stream waits. -/
def NodeJudged (s : State) (id : StreamId) (n k : Nat) (d : CReg) (r : CRes) : Prop :=
  (((s.inst? n = none ∨ s.nodeSt n k = none) ∧ r = .ok (s.setC id d 2).settle) ∨
    ∃ run st, s.inst? n = some run ∧ s.nodeSt n k = some st ∧
      ((st.complete = true ∧ r = .ok ((s.dependOn id n k).setC id d 0).settle) ∨
        (st.complete = false ∧ (st.faulted = true ∨ run.cancelled = true) ∧ r = .ok (s.setC id d 1).settle) ∨
        (st.complete = false ∧ st.faulted = false ∧ run.cancelled = false ∧ run.ended = true ∧ r = .ok (s.setC id d 3).settle) ∨
        (st.complete = false ∧ st.faulted = false ∧ run.cancelled = false ∧ run.ended = false ∧ r = .wait s (.node n k) d)))

/-- A graph run waited for, until it has ended (R275; what is known of runs that ended is log 53): completed 0, cancelled 1, none such 2. -/
def InstJudged (s : State) (id : StreamId) (n : Nat) (d : CReg) (r : CRes) : Prop :=
  (s.inst? n = none ∧ r = gives s id d 2) ∨
  ∃ x, s.inst? n = some x ∧
    ((x.ended = false ∧ r = .wait s (.inst n) d) ∨ (x.ended = true ∧ x.cancelled = false ∧ r = gives s id d 0) ∨
      (x.ended = true ∧ x.cancelled = true ∧ r = gives s id d 1))

/-- Another package's answer to a write of a stream (R276, R306, R308): the number of its outcome, a depth fault with its effect, or an address fault
where it was refused; to a page that is not graded 6. -/
def AmendJudged (s : State) (id : StreamId) (op : Nat) (cst : Bool) (d : CReg) (r : CRes) : Prop :=
  ((mget s.ops op).bind (·.resp) = none ∧ r = .wait s (.amend op cst) d) ∨
  ∃ o bs f, mget s.ops op = some o ∧ o.resp = some (bs, f) ∧
    let s1 : State := { s with ops := mdel s.ops op }
    let n := if o.acc.graded then (bs.headD 0).toNat else 6
    ((f = .performed ∧
        let s2 := if n = 5 then s1.streamDepth id else s1
        r = .ok (if cst then s2 else s2.setC id d (BitVec.ofNat 64 n)).settle) ∨
      (f = .refused ∧ r = .fault s1 7) ∨
      (f = .lost ∧ r = .ok (if cst then s1.freeNumber.2 else s1.freeNumber.2.setC id d (BitVec.ofNat 64 s1.freeNumber.1))))

/-- The same, with what the change sets off settled. -/
def settled : CRes → CRes
  | .ok s => .ok s.settle
  | r => r

end Sys2Proof.Says

/-- R266, R272, R278: what follows a command of n words: its stream goes past it: a queue's QEXEC counts its bytes and its entries go; a program goes on n words
further, or at the word a transfer names, where one outside the program is a program fault; a wait is kept with its length. -/
def Obligations.CommandsGoPast : Prop :=
  (∀ (s : State) (p : Fin 16) (q : Fin 1024) (n : Nat),
    let k := 1024 * p.val + q.val
    let x := s.queue k
    State.cmdFinish (.queue p q) n (.ok s) = s.setQueue k { x with words := x.words.drop n, qexec := x.qexec + 4 * n }) ∧
  ∀ (s : State) (m n : Nat) (x : Inst), s.inst? m = some x →
    (∃ u, State.cmdFinish (.prog m) n (.ok s) = u ∧ u.inst? m = some { x with pc := x.pc + n }) ∧
    let words := if x.prog = [] then 1 else x.prog.length
    (∀ w : Nat, w < words → ∃ u, State.cmdFinish (.prog m) n (.goto s w) = u ∧ u.inst? m = some { x with pc := w }) ∧
    (∀ w : Int, (w < 0 ∨ words ≤ w) → State.cmdFinish (.prog m) n (.goto s w) = s.cancelInst m 2 0 0 0 x.pc 0) ∧
    (∀ w d, ∃ u, State.cmdFinish (.prog m) n (.wait s w d) = u ∧ u.inst? m = some { x with strm := { x.strm with wait := some (w, d, n) } }) ∧
    ∀ e, State.cmdFinish (.prog m) n (.fault s e) = s.cancelInst m 2 0 0 0 x.pc 0

/-- R272: control transfers of a program: the target is the command's own first word plus IMM; a call pushes the next word and a
ninth faults; a return pops and faults on an empty stack; CLOOP subtracts one and transfers where the result is not 0. In a
queue each halts it with ERR 6. R273, R274: LAUNCH opens the gate of a gated node of a running run and gives 0, 1 for no closed
gate, 2 for no such run, 3 for reserved bits or no such node; GRAPH gives the number of the run it starts, or bit 63 with the
reason. -/
def Obligations.TransferAndLaunchCommands : Prop :=
  (∀ (cc : CCond) (d a b : CReg) (imm : Word),
    let inProgram (i : Instr) (n : Nat) (means : State → Nat → Inst → CRes → Prop) : Prop := CommandDoes i n fun s id _ r =>
      match id with
      | .queue .. => r = .fault s 6
      | .prog m => ∃ x, s.inst? m = some x ∧ means s m x r
    let holds (x : Inst) : Bool :=
      let p := x.strm.c[a]
      let q := x.strm.c[b]
      match cc with
      | .eq => decide (p = q)
      | .ne => decide (p ≠ q)
      | .lt => decide (p.toInt < q.toInt)
      | .ge => decide (q.toInt ≤ p.toInt)
      | .ltu => decide (p.toNat < q.toNat)
      | .geu => decide (q.toNat ≤ p.toNat)
    (inProgram (.cbr cc a b imm) 2 fun s _ x r => r = if holds x then .goto s (x.pc + imm.toInt) else .ok s) ∧
    (inProgram (.cjmp imm) 2 fun s _ x r => r = .goto s (x.pc + imm.toInt)) ∧
    (inProgram (.ccall imm) 2 fun s m x r =>
      (8 ≤ x.stack.length ∧ r = .fault s 5) ∨
      (x.stack.length < 8 ∧ r = .goto (s.modInst m fun x => { x with stack := (x.pc + 2) :: x.stack }) (x.pc + imm.toInt))) ∧
    (inProgram .cret 1 fun s m x r =>
      (x.stack = [] ∧ r = .fault s 5) ∨
      ∃ pc rest, x.stack = pc :: rest ∧ r = .goto (s.modInst m fun x => { x with stack := rest }) (pc : Int)) ∧
    inProgram (.cloop d imm) 2 fun s m x r =>
      let w := x.strm.c[d] - 1
      (w = 0 ∧ r = .ok (s.setC (.prog m) d w)) ∨ (w ≠ 0 ∧ r = .goto (s.setC (.prog m) d w) (x.pc + imm.toInt))) ∧
  (∀ (d a b : CReg) (handle : BitVec 16) (flags idx : Byte),
    (CommandDoes (.launch d a b) 1 fun s id _ r =>
      let x := (s.getC id a).toNat
      let grid := (s.getC id b).toNat
      let n := x / 2 ^ 32
      let k := x % 2 ^ 12
      let reserved := x / 2 ^ 12 % 2 ^ 20 ≠ 0 ∨ (grid ≠ 0 ∧ grid / 2 ^ 24 ≠ 0)
      (reserved ∧ r = settled (gives s id d 3)) ∨
      (¬ reserved ∧ s.runningOf (s.streamLp1 id) n = none ∧ r = settled (gives s id d 2)) ∨
      ∃ run, ¬ reserved ∧ s.runningOf (s.streamLp1 id) n = some run ∧
        ((run.nodes[k]? = none ∧ r = settled (gives s id d 3)) ∨
          ∃ st nd, run.nodes[k]? = some st ∧ s.nodeOf n k = some nd ∧
            (((nd.gated = false ∨ st.gateOpen = true) ∧ r = settled (gives s id d 1)) ∨
              (nd.gated = true ∧ st.gateOpen = false ∧
                r = settled (gives ((s.modNode n k fun st => { st with gateOpen := true, grid := if grid = 0 then st.grid else grid }).decCount n k)
                  id d 0))))) ∧
    CommandDoes (.graph d a handle flags idx) 2 fun s id _ r =>
      let args := ((s.getC id a).toNat + 256 * idx.toNat) % 2 ^ 48 / 2 ^ 8
      let w := handle.toNat * 2 ^ 48 + args * 2 ^ 8 + flags.toNat
      (∃ n s1, s.launch (s.streamLp1 id) w = (.ok n, s1) ∧ r = gives s1 id d n) ∨
      ∃ e s1, s.launch (s.streamLp1 id) w = (.error e, s1) ∧ r = gives s1 id d (2 ^ 63 + e))

/-- R268, R271, R276, R296, R305, R308: CLD, CST and AMEND: the load returns its eight bytes, and a program's waits on a line
that is GUESS or PROV; the store writes, and from a program whose taint is below FINAL and off the chip it is held; AMEND
returns 6 from a page that is not graded and the tumbler's outcome from one that is. An address that cannot be reached is a
fault with ERR 7. R275, R296: the waits return at once where their condition holds and otherwise wait: a node complete 0,
faulted or cancelled 1, no such node or running run 2, a run that ended first 3; a run completed 0, cancelled, once it has
ended, 1, none such 2 (what is known of runs that have ended is the model's choice, log 53); memory at least cB, with the word;
the time at least cB, with the time. A waiting stream is judged again by the same rule, from the address it formed; so are a
program's CLD on a line that is GUESS or PROV, and a write that another package has answered (log 49, log 50).
That CST is performed at once (log 50), which runs CWAIT still knows (log 53), and that CWAIT_CONDITION_MET of a stream that does not wait
leaves the state unchanged (log 7), are the model's choices. -/
def Obligations.MemoryAndWaitCommands : Prop :=
  (∀ (d a b : CReg) (x : BitVec 14) (ord : Fin 3) (wide : Bool) (g : Grade),
    (CommandDoes (.cld ord d a x) 1 fun s id sp r =>
      let reg := (s.getC id a).toNat
      (reg / 2 ^ 56 ≠ 0 ∧ r = .fault s 7) ∨
      (reg / 2 ^ 56 = 0 ∧
        ReadJudged s id sp (((reg : Int) + x.toInt) % 2 ^ 56).toNat none .load (goesOn id) d r)) ∧
    (CommandDoes (.cst ord a x b) 1 fun s id sp r =>
      (StreamBad s sp (s.getC id a) x.toInt 8 .write ∧ r = .fault s 7) ∨
      ∃ va acc u, StreamAt s sp (s.getC id a) x.toInt 8 .write va acc u ∧
        let data := leBytes 8 (u.getC id b).toNat
        ((acc.graded = false ∧ StoreJudged u id sp va acc data true 0 (fun s => .ok s.settle) r) ∨
          (acc.graded = true ∧ GradedJudged u id sp va acc data .final true 0 (fun s _ => .ok s.settle) r))) ∧
    (CommandDoes (.amend wide g d a b) 1 fun s id sp r =>
      (StreamBad s sp (s.getC id a) 0 (if wide then 8 else 4) .write ∧ r = .fault s 7) ∨
      ∃ va acc u, StreamAt s sp (s.getC id a) 0 (if wide then 8 else 4) .write va acc u ∧
        let data := leBytes (if wide then 8 else 4) (u.getC id b).toNat
        ((acc.graded = false ∧ StoreJudged u id sp va acc data false d (fun s => .ok (s.setC id d 6).settle) r) ∨
          (acc.graded = true ∧ GradedJudged u id sp va acc data g false d (fun s n => .ok (s.setC id d (BitVec.ofNat 64 n)).settle) r))) ∧
    ∀ (s : State) (id : StreamId),
      (∀ w n, (w, n) ∈ [(WOut.wrote, 0), (.amended, 1), (.confirmed, 2), (.same, 3), (.final, 4)] → s.streamOutcome id w = some (n, s)) ∧
      s.streamOutcome id .waitLog = none ∧ s.streamOutcome id .waitAck = none ∧
      s.streamOutcome id .depth = some (5, match id with
        | .queue .. => s
        | .prog n => s.cancelInst n 1 0 0 0 0 0)) ∧
  (∀ (d a b : CReg),
    (CommandDoes (.cwaitNode d a) 1 fun s id _ r =>
      let x := (s.getC id a).toNat
      let n := x / 2 ^ 32
      let k := x % 2 ^ 12
      let bad := x / 2 ^ 12 % 2 ^ 20 ≠ 0 ∨ (∀ run, s.inst? n = some run → run.lp1 ≠ s.streamLp1 id ∨ run.ended = true ∨ run.cancelled = true) ∨
        s.nodeSt n k = none
      (bad ∧ r = gives s id d 2) ∨ (¬ bad ∧ NodeJudged s id n k d r)) ∧
    (CommandDoes (.cwaitInst d a) 1 fun s id _ r =>
      let n := (s.getC id a).toNat / 2 ^ 32
      ((∀ x, s.inst? n = some x → x.lp1 ≠ s.streamLp1 id) ∧ r = gives s id d 2) ∨
      ((∃ x, s.inst? n = some x ∧ x.lp1 = s.streamLp1 id) ∧ InstJudged s id n d r)) ∧
    (CommandDoes (.cwaitMem d a b) 1 fun s id sp r =>
      let va := (s.getC id a).toNat
      (va / 2 ^ 56 ≠ 0 ∧ r = .fault s 7) ∨
      (va / 2 ^ 56 = 0 ∧ ReadJudged s id sp va none (fun v => .mem v (s.getC id b).toNat) (fun _ _ w => (s.getC id b).toNat ≤ w) d r)) ∧
    (CommandDoes (.cwaitTime d b) 1 fun s id _ r =>
      let least := (s.getC id b).toNat
      (least ≤ s.ns ∧ r = gives s id d s.ns) ∨ (s.ns < least ∧ r = .wait s (.time least) d)) ∧
    ∀ s id, ((s.strm id).wait = none → exec (.cwaitConditionMet id) s = .next s) ∧
      ∀ w n sp r, (s.strm id).wait = some (w, d, n) → s.streamSpace id = some sp →
        let s1 := s.setStrm id { s.strm id with wait := none }
        (match w with
          | .node m k => NodeJudged s1 id m k d r
          | .inst m => InstJudged s1 id m d r
          | .mem va least op => ReadJudged s1 id sp va op (fun v => .mem v least) (fun _ _ w => least ≤ w) d r
          | .time t => (t ≤ s1.ns ∧ r = gives s1 id d s1.ns) ∨ (s1.ns < t ∧ r = .wait s1 (.time t) d)
          | .load va op => ReadJudged s1 id sp va op .load (goesOn id) d r
          | .amend op cst => AmendJudged s1 id op cst d r) →
        exec (.cwaitConditionMet id) s = .next (State.cmdFinish id n r))

/-- R270: the register commands: CLI in its three forms, and sums, differences, logic and shifts of 64-bit values. R277, R305:
SIGNAL, held while its program's taint is below FINAL, and waiting while the hold buffer has no room; CFENCE; CHALT, which halts
a queue with STATE 3 past itself and ends a program. That CFENCE completes at once is the model's choice (log 50). -/
def Obligations.RegisterSignalHaltCommands : Prop :=
  (∀ (d a : CReg) (y : COp) (imm : Word),
    let Y (s : State) (id : StreamId) : DWord := match y with
      | .c n => s.getC id n
      | .imm x => BitVec.ofInt 64 x.toInt
    let two (i : Instr) (f : Nat → Nat → Nat) : Prop := CommandDoes i 1 fun s id _ r =>
      r = gives s id d (f (s.getC id a).toNat (Y s id).toNat)
    (CommandDoes (.cli d imm) 2 fun s id _ r => r = .ok (s.setC id d (BitVec.ofInt 64 imm.toInt))) ∧
    (CommandDoes (.cliU d imm) 2 fun s id _ r => r = gives s id d imm.toNat) ∧
    (CommandDoes (.cliHi d imm) 2 fun s id _ r => r = gives s id d (imm.toNat * 2 ^ 32 + (s.getC id d).toNat % 2 ^ 32)) ∧
    two (.cadd d a y) (fun p q => p + q) ∧ two (.csub d a y) (fun p q => p + (2 ^ 64 - q)) ∧ two (.cand d a y) (fun p q => p &&& q) ∧
    two (.cor d a y) (fun p q => p ||| q) ∧ two (.cshl d a y) (fun p q => if 64 ≤ q then 0 else p * 2 ^ q) ∧
    two (.cshr d a y) (fun p q => if 64 ≤ q then 0 else p / 2 ^ q) ∧
    CommandDoes (.ctime d) 1 fun s id _ r => r = gives s id d s.ns) ∧
  (∀ (vec : BitVec 11) (rse : Bool) (a : CReg) (imm : Word),
    (CommandDoes (.signal vec rse a imm) 2 fun s id _ r =>
      let x := HeldItem.signal (s.streamLp1 id) imm.toNat (s.getC id a).toNat (if rse then some vec.toNat else none) (s.streamName id).2 (s.streamName id).1 { seq := s.nextId }
      (∃ k t, s.streamTask id = some k ∧ s.holds k = true ∧ s.task? k = some t ∧
        ((s.holdRoom t.inst t.die x.size = true ∧ r = .ok (s.holdItem k x)) ∨ (s.holdRoom t.inst t.die x.size = false ∧ r = .stay s))) ∨
      ((∀ k, s.streamTask id = some k → s.holds k = false) ∧ r = .ok (s.performHeld x))) ∧
    (CommandDoes .cfence 1 fun s _ _ r => r = .ok s) ∧
    CommandDoes .chalt 1 fun s id _ r =>
      match id with
      | .queue p q =>
        let k := 1024 * p.val + q.val
        let x := s.queue k
        r = .stay ((s.setQueue k { x with words := x.words.drop 1, qexec := x.qexec + 4 }).haltQueue k 0 3)
      | .prog n => ∃ x, s.inst? n = some x ∧ r = .stay ((s.modInst n fun x => { x with progEnd := true }).completeTask x.task).settle)

/-! ### Clauses, blocks and runs (09, 14) -/

/-- R9, R13, R15, R18, R19, R21, R237, R363: CLAUSE_START of a thread that stands at a clause, ready or waiting on its header, with nothing that holds it: outside the launch's code it
traps with DETAIL 11, and with its own DETAIL where the fetch fails; a deferred failure traps with DEFER set; a clause that breaks a framing rule traps with cause 2; a header with a flag to wait for, or with a count too high,
holds the thread; an empty clause is passed; any other is entered at slot 1. -/
def Obligations.ClauseStarts : Prop :=
  ∀ s k t, Runs s k t → (t.status = .ready ∨ t.status = .header) → slotOf t.pc = 0 → s.stops k = false → s.free k t = true →
    s.routineEntry k t = none → s.breakThread k t = false →
    let inst := s.instOf k
    let go (u : State) : Out := .next u.settle
    let edge (u : State) (w : Word) : Out := go (u.takeTrap k w ⟨t.pc, nextClause t.pc, 0⟩)
    (∀ d ds, t.deferred = d :: ds → exec .clauseStart s = go ((s.setThread k { t with deferred := ds }).takeTrap k
      (BitVec.ofNat 32 (5 * 2 ^ 27 + 2 ^ 26 + d.detail % 256 * 2 ^ 16 + d.flag % 16 * 2 ^ 4)) ⟨t.pc, t.pc, 0⟩)) ∧
    (t.deferred = [] →
      (s.inCode inst t.pc = false → exec .clauseStart s = edge s (BitVec.ofNat 32 (5 * 2 ^ 27 + 11 * 2 ^ 16))) ∧
      (∀ r u, s.inCode inst t.pc = true → s.translate (s.bandSpace (bandOfThread k)) (coreOfThread k) t.pc.toNat .fetch = (.park r, u) →
        exec .clauseStart s = go (u.parkThread k t.pc.toNat 4 r)) ∧
      (∀ e u, s.inCode inst t.pc = true → s.translate (s.bandSpace (bandOfThread k)) (coreOfThread k) t.pc.toNat .fetch = (.bad e, u) →
        exec .clauseStart s = edge u (BitVec.ofNat 32 (5 * 2 ^ 27 + e % 256 * 2 ^ 16))) ∧
      ∀ a u0, s.inCode inst t.pc = true → s.translate (s.bandSpace (bandOfThread k)) (coreOfThread k) t.pc.toNat .fetch = (.ok a, u0) →
        -- the fetch is a request of KIND 4 (R377)
        let u := u0.sampleNow (coreOfThread k) (slotOfThread k) false (u0.bandSpace (bandOfThread k)).part
          (t.pc - u0.bandBase (bandOfThread k)).toNat t.pc.toNat 4 a.loc
        let h := u.headerAt inst t.pc
        let held := ∃ i : Fin 12, (bitAt h.wait i.val = true ∧ t.f[i] ≠ 0) ∨ ((h.seta = i.val ∨ h.setb = i.val) ∧ 60 < (t.f[i]).toNat)
        (u.accBad a 32 = true → exec .clauseStart s = edge u (BitVec.ofNat 32 (5 * 2 ^ 27 + 12 * 2 ^ 16))) ∧
        (u.accBad a 32 = false → clauseBad (u.clauseWords inst t.pc) = true → exec .clauseStart s = edge u (BitVec.ofNat 32 (2 * 2 ^ 27))) ∧
        (u.accBad a 32 = false → clauseBad (u.clauseWords inst t.pc) = false →
          (held → exec .clauseStart s = go (u.modThread k fun t => { t with status := .header })) ∧
          (¬ held → h.nslot = 0 → exec .clauseStart s = go (u.passTo k (nextClause t.pc))) ∧
          (¬ held → h.nslot ≠ 0 → u.thread? k = some t → ∃ v, exec .clauseStart s = go v ∧ v.thread? k = some { t with
            pc := t.pc + 4, status := .ready, bpSkip := false,
            readyAt := if t.status = .header then u.clk else t.readyAt, clauses := if t.status = .header then 0 else t.clauses })))

/-- R199, R203, R211, R212, R213, R286, R288: BLOCK_START starts the first ready entry that can start on an open core, or restores a saved context first; BLOCK_END of a block with nothing left, every write of its threads performed or held, invalidates its
hasps and completes its task, also while its core is saved, when the save goes on; a run that is done ends and, if it was to, notifies; a partial band is released when its window has run; a released band starts on the lowest core
with room. When a block ends, and that BLOCK_END of one that may not end changes nothing, are the model's reading (log 60); an event whose condition does
not hold leaves the state unchanged (log 7). -/
def Obligations.BlockAndRunEvents : Prop :=
  ∀ s c,
    (s.coreOpen c = false → exec (.blockStart c) s = .next s) ∧
    (s.coreOpen c = true → ∀ t, (s.takeSlot c).slotHere c = some t →
      let u := s.takeSlot c
      (∀ x, u.saved.find? (fun x => (u.instsOf t).contains x.inst && u.mayRestore t c x) = some x →
        exec (.blockStart c) s = .next (u.restoreContext t c x)) ∧
      ∀ e l, u.saved.find? (fun x => (u.instsOf t).contains x.inst && u.mayRestore t c x) = none → u.ready.find? (fun e => u.canPlace c e) = some e →
        (∀ d ∈ u.ready.takeWhile (· != e), ∀ k < Config.cores, u.canPlace k d = false) → u.launchOf e = some l →
        exec (.blockStart c) s = .next (u.startBlock c t e l)) ∧
    -- the core's slot is a valid record that binds the core, and the run is one of its graph and partition
    (∀ t e, s.slotHere c = some t → s.canPlace c e = true → (s.bind t).valid = true ∧ bitAt (s.bind t).cores.toNat c = true ∧
      ∃ x ∈ s.insts, x.1 = e.inst ∧ x.2.part = (s.bind t).part ∧ x.2.lp1 = (s.bind t).lp1 ∧ x.2.handle = (s.bind t).handle) ∧
    (∀ n b, s.block? n = some b →
      (s.blockOver n = true ↔ s.bandsOf n = [] ∧ s.strandsOf n = [] ∧ (∀ x ∈ s.cmds, x.2.block ≠ n) ∧
        ∀ x ∈ s.ops, x.2.task = b.task → x.2.kind.stores = true → x.2.done = true ∨ x.2.egress = true ∨
          (x.2.void = true ∧ x.2.sent = false)) ∧
      (s.blockOver n = false → exec (.blockEnd n) s = .next s) ∧
      (s.blockOver n = true → b.faulted = false → b.stopping = false →
          let v := (maskNums b.hasps).foldl (fun s h => s.invalidate b.core h) s
          let w := { v with
            blocks := mdel v.blocks n
            strands := mmap v.strands fun _ x => if x.block == n then { x with block := 0, forker := none } else x }
          let e := (w.completeTask b.task).countEnd b
          ((s.core b.core).saving = true → exec (.blockEnd n) s = .next (e.pumpSave b.core).settle) ∧
          ((s.core b.core).saving = false → b.rstate = .held → exec (.blockEnd n) s = .next e.settle))) ∧
    (∀ n i, s.inst? n = some i →
      (i.ended = true ∨ s.instDone n i = false → exec (.instanceComplete n) s = .next s) ∧
      (i.ended = false → s.instDone n i = true →
        let u := s.modInst n fun i => { i with ended := true }
        exec (.instanceComplete n) s = .next (if i.notify = true ∧ i.cancelled = false
          then u.event i.lp1 ⟨3, 0, i.handle, n, 0, 0, 0, 0, 0⟩ else u))) ∧
    (∀ key b, s.pool.find? (fun x => x.key == key) = some b →
      let win := ((s.graphOf key.inst).map (·.win)).getD Config.defaultWindow
      (s.clk < b.since + win → exec (.gatheringWindowExpiry key) s = .next s) ∧
      (b.since + win ≤ s.clk → exec (.gatheringWindowExpiry key) s = .next (s.releaseBand b))) ∧
    ∀ n r l t b args u, s.nextReleased n = some r → s.launchOf ⟨0, 0, n, r.key.node, none⟩ = some l → c < Config.cores →
      s.canPlaceRecs c r l = true → (∀ d < c, s.canPlaceRecs d r l = false) → s.slotHere c = some t → (s.freeFrames c).head? = some b →
      s.readArgs t ⟨0, 0, n, r.key.node, none⟩ l = some (args, u) →
      exec (.recordBandStart n) s = .next (({ u with released := u.released.erase r }.beginContext c t).placeRecs b t n r.key.node r.key.role l args r.old r.recs)

/-- R219, R282, R284, R285, R359: the launch ports and the registration doorbells. In an update's pause an arriving write is
kept, and behind a host write that waits a launch word and a doorbell wait too. A frame with an illegal field, an unknown source or another
tag is dropped whole and counted, and an accepted one is processed once the RoCE writes of its port have been performed; on a port that is not
enabled none arrives (R361); a doorbell written with fewer than 8 bytes is counted in PORTERR; firmware's result makes the
graph or reports its code, and writes the code and the program into the code area that it names (log 44); UNREGISTER of a graph
with a run that has not ended reports code 9. R284, R286: a launch word: which run it starts and with which registers, with the
code and the program as they stand then, or the reason of its refusal: 1 no such graph, 3 reserved flags, 2 too many runs; a
refused word is reported in an event record of type 6.
That firmware's result names the code area (log 44), which of several reasons is reported (log 51), that a launch word and a doorbell wait behind every
host write that waits (log 97), that a doorbell goes past a pause (log 57) and that a frame waits for operations of its port (log 113), are the model's
choices. -/
def Obligations.LaunchPortsAndWords : Prop :=
  (∀ (s : State) (p : Fin 16) (w : DWord) (n : Nat) (f : Frame) (va : Addr) (area : Nat),
    let portErr : State := s.modLp1 p.val fun b => { b with porterr := min (b.porterr + 1) (2 ^ 32 - 1) }
    let legal : Prop := f.magic = 0x4B46 ∧ f.version = 1 ∧ 1 ≤ f.n.toNat ∧ f.n.toNat ≤ 32 ∧ f.lp1.toNat < 16 ∧ f.zero = 0 ∧
      f.words.length = f.n.toNat ∧ f.src ∈ (s.lp1 f.lp1.toNat).sources ∧ f.tag = (s.lp1 f.lp1.toNat).tag
    let waits (i : Instr) : Prop := exec i s = .next { s with waiting := s.waiting ++ [(none, i)] }
    let kept (i : Instr) : Prop := exec i s = .next { s with input := s.input ++ [i] }
    -- what the RoCE writes received on the frame's port have still to perform, and the words once nothing of it is left
    let before : List Nat := mkeys s.ops fun _ o => o.uid == 2 ^ 66 + f.port.val
    let words (u : State) (f : Frame) : State := f.words.foldl (fun u x => (u.launch f.lp1.toNat x.toNat).2) u
    (s.waiting ≠ [] → waits (.launchWord p w) ∧ waits (.register p n w) ∧ waits (.unregister p n w)) ∧
    (s.linkCounts.2.1 ≤ f.port.val → exec (.launchFrame f) s = .next s) ∧
    (s.pause = true → (s.waiting = [] → kept (.launchWord p w)) ∧ (f.port.val < s.linkCounts.2.1 → kept (.launchFrame f))) ∧
    (s.pause = false →
      (s.waiting = [] → exec (.launchWord p w) s = .next (s.launch p.val w.toNat).2) ∧
      (f.port.val < s.linkCounts.2.1 →
        (legal → before = [] → exec (.launchFrame f) s = .next (words s f)) ∧
        (legal → before ≠ [] → exec (.launchFrame f) s = .next { s with frames := s.frames ++ [(f, before)] }) ∧
        (¬ legal → f.lp1.toNat < 16 → exec (.launchFrame f) s =
          .next (s.modLp1 f.lp1.toNat fun b => { b with framref := min (b.framref + 1) (2 ^ 32 - 1) })))) ∧
    -- a step ends with the frames whose writes have been performed, in their order, but not in a pause
    (s.pause = true ∨ (∀ x ∈ s.frames, ∃ i ∈ x.2, mget s.ops i ≠ none) → s.framesDue = s) ∧
    (∀ ids rest, s.pause = false → s.frames = (f, ids) :: rest → (∀ i ∈ ids, mget s.ops i = none) →
      (∀ x ∈ rest, ∃ i ∈ x.2, mget s.ops i ≠ none) → s.framesDue = words { s with frames := rest } f) ∧
    (s.waiting = [] → n < 8 → exec (.register p n w) s = .next portErr ∧ exec (.unregister p n w) s = .next portErr) ∧
    (s.waiting = [] → 8 ≤ n → exec (.register p n w) s =
      .next { s with regReqs := s.regReqs ++ [⟨p.val, w.toNat / 2 ^ 56 % 2 ^ 6, w.toNat % 2 ^ 56, decide (w.toNat / 2 ^ 62 ≠ 0)⟩] }) ∧
    (∀ g, s.waiting = [] → 8 ≤ n → w.toNat < 65536 → mget s.graphs (graphKey p.val w.toNat) = some g →
      let running := ∃ x ∈ s.insts, x.2.graph = graphKey p.val w.toNat ∧ x.2.ended = false
      (running → exec (.unregister p n w) s = .next (s.event p.val ⟨2, 9, w.toNat, 0, 0, 0, 0, g.imageVa % 2 ^ 32, g.imageVa / 2 ^ 32⟩)) ∧
      (¬ running → exec (.unregister p n w) s = .next { s with graphs := mdel s.graphs (graphKey p.val w.toNat) })) ∧
    ∀ r, s.regReqs.find? (fun r => r.lp1 == p.val) = some r →
      let u := { s with regReqs := s.regReqs.erase r }
      let report (v : State) (code handle : Nat) : State := v.event p.val ⟨2, code, handle, 0, 0, 0, 0, r.va % 2 ^ 32, r.va / 2 ^ 32⟩
      let fits := area % 32 = 0 ∧ area + 2 ^ 25 ≤ Config.deviceBytes
      (¬ fits → exec (.registrationResult p (va, area)) s = .next s) ∧
      (∀ e, fits → u.validate r va area = .error e → exec (.registrationResult p (va, area)) s = .next (report u e 0xFFFF)) ∧
      ∀ g ws, fits → u.validate r va area = .ok (g, ws) →
        let v := u.writeDev area (ws.flatMap fun w => leBytes 4 w.toNat)
        exec (.registrationResult p (va, area)) s = .next (report { v with graphs := mput v.graphs (graphKey p.val g.handle) g } 0 g.handle)) ∧
  (∀ (s : State) (p w : Nat), w < 2 ^ 64 → s.insts.length + 2 ≤ 2 ^ 32 →
    let h := w / 2 ^ 48
    let flags := w % 2 ^ 8
    let ap := w / 2 ^ 8 % 2 ^ 40 * 2 ^ 8
    let runs := (s.insts.filter fun x => x.2.lp1 == p && !x.2.ended).length
    let refused (e : Nat) : Prop := s.launch p w = (.error e, s.event p ⟨6, e, h, 0, 0, 0, 0, w % 2 ^ 32, w / 2 ^ 32⟩)
    (mget s.graphs (graphKey p h) = none → refused 1) ∧
    ∀ g, mget s.graphs (graphKey p h) = some g →
      (flags / 2 ^ 4 ≠ 0 → refused 3) ∧
      (flags / 2 ^ 4 = 0 → (s.lp1 p).maxInst ≤ runs → refused 2) ∧
      (flags / 2 ^ 4 = 0 → runs < (s.lp1 p).maxInst → ∃ n u i, s.launch p w = (.ok n, u) ∧ u.inst? n = some i ∧ n ≠ 0 ∧
        (∀ x ∈ s.insts, x.2.ended = false → x.1 ≠ n) ∧ i.graph = graphKey g.lp1 g.handle ∧ i.ap = ap ∧ i.amdep = flags % 8 ∧
        (i.notify = true ↔ flags / 8 % 2 = 1) ∧ i.pc = 0 ∧ i.ended = false ∧ i.cancelled = false ∧
        i.code = s.devWords g.area g.ncode ∧ i.prog = s.devWords (g.area + 4 * g.ncode) g.nprog ∧ i.strm.wait = none ∧
        i.strm.c[(1 : Fin 16)] = BitVec.ofNat 64 ap ∧ i.strm.c[(2 : Fin 16)] = BitVec.ofNat 64 (n * 2 ^ 32) ∧
        i.strm.c[(3 : Fin 16)] = BitVec.ofNat 64 flags ∧ u.mem = s.mem))

/-- R263, R265, R266, R267: the queue's registers and its tail port: enabling checks the descriptor, disabling discards, RESTART runs a halted queue; a tail is refused with PORTERR, ERR 1, 3 or 2, is kept pending
while the queue is unbound, and is snapshotted otherwise; evicted entries come back. That a tail waits behind every host write that waits is the
model's choice (log 97). -/
def Obligations.QueueEvents : Prop :=
  ∀ (s : State) (p : Fin 16) (n : Fin 1024) (tail : DWord),
    let k := 1024 * p.val + n.val
    let q := s.queue k
    let t := tail.toNat
    let legal := 12 ≤ q.qlog2 ∧ q.qlog2 ≤ 24 ∧ q.qbase.toNat % 2 ^ q.qlog2 = 0 ∧
      (q.splog2 = 0 ∨ (3 ≤ q.splog2 ∧ q.splog2 ≤ 16 ∧ q.spbase.toNat % 2 ^ (q.splog2 + 3) = 0))
    (q.enable = true → exec (.queueEnable p n) s = .next s) ∧
    (q.enable = false → legal → exec (.queueEnable p n) s = .next (s.setQueue k { q with
      enable := true, state := 1, qhead := 0, qexec := 0, pend := none, words := [], strm := Stream.zero, spills := 0 })) ∧
    (q.enable = false → ¬ legal → exec (.queueEnable p n) s = .next ((s.setQueue k { q with enable := true }).haltQueue k 8 2)) ∧
    exec (.queueDisable p n) s = .next (s.setQueue k { q with
      enable := false, state := 0, pend := none, words := [], strm := { q.strm with wait := none } }) ∧
    (q.state = 2 ∨ q.state = 3 → exec (.queueRestart p n) s = .next (s.setQueue k { q with state := 1 })) ∧
    (q.state ≠ 2 → q.state ≠ 3 → exec (.queueRestart p n) s = .next s) ∧
    (let v := State.makeRoom s.queues.length 2 s
     let x := v.readback k 2 (v.queue k).words
     exec (.queueSwapReadback p n) s = .next (x.2.setQueue k { x.2.queue k with words := x.1 })) ∧
    (s.waiting ≠ [] → exec (.tailWrite p n tail) s = .next { s with waiting := s.waiting ++ [(none, .tailWrite p n tail)] }) ∧
    (s.waiting = [] → s.pause = true → exec (.tailWrite p n tail) s = .next { s with input := s.input ++ [.tailWrite p n tail] }) ∧
    (s.waiting = [] → s.pause = false →
      (q.state ≠ 1 → exec (.tailWrite p n tail) s = .next (s.portError p.val)) ∧
      (q.state = 1 → t % 8 ≠ 0 → exec (.tailWrite p n tail) s = .next (s.haltQueue k 1 2)) ∧
      (q.state = 1 → t % 8 = 0 → t < q.qhead → exec (.tailWrite p n tail) s = .next (s.haltQueue k 3 2)) ∧
      (q.state = 1 → t % 8 = 0 → q.qhead + 2 ^ q.qlog2 < t → exec (.tailWrite p n tail) s = .next (s.haltQueue k 2 2)) ∧
      (q.state = 1 → t % 8 = 0 → q.qhead ≤ t → t ≤ q.qhead + 2 ^ q.qlog2 →
        (s.findBind false p.val n.val = none → exec (.tailWrite p n tail) s = .next (s.setQueue k { q with pend := some t })) ∧
        ∀ b, s.findBind false p.val n.val = some b →
          (s.ringBytes (s.spaceOf b (s.bind b).part) q q.qhead (t - q.qhead) = none → exec (.tailWrite p n tail) s = .next (s.haltQueue k 4 2)) ∧
          ∀ bs u, s.ringBytes (s.spaceOf b (s.bind b).part) q q.qhead (t - q.qhead) = some (bs, u) →
            let v := u.appendWords k (wordsOfBytes bs)
            exec (.tailWrite p n tail) s = .next (v.setQueue k { v.queue k with qhead := t, pend := none })))

/-- R219, R293, R245, R353, R354, R351, R352, R330, R365, R367: clears of grades, TLB invalidations, the host's windows,
register writes, frame grants and scrubbing. What a link brings behind a host write that waits for acknowledges waits behind it;
what names no link waits behind every one (the model's choice, log 97). A function that is not enabled on the link answers a
read with Unsupported Request and discards a write (of an access that no row shapes so, the model's choice: log 96); which sizes of access a
register takes is the model's reading (log 35). R351, R352, R264, R328, R355, R357, R359, R361 to R363, R370: what reaches
the package without a row of its own. A register read answers the words at its offset, of any port 0, and Unsupported Request
where the function is not there on the link; an error that no code corrects marks the storage that it strikes and is logged (log
74); a message of no type, and a RoCE request outside the subset, are dropped and counted or answered with a NAK; firmware's
settings are made where they keep the nesting (log 45), its queue class table and the size of PF0's own window where they are legal. Patrol scrub
reads the slices, the 384 GB of device memory and accumulator memory (R365).
How many errors are repeated ones, and that a row is a line, are the model's choices (log 74). -/
def Obligations.PageWindowAndFrameEvents : Prop :=
  (∀ (s : State) (p : Fin 16) (w3 : Word),
    let b := s.lp1 p.val
    let go := bitAt w3.toNat 31 = true
    let part := w3.toNat % 2 ^ 6
    let free := s.waiting = []
    (¬ free → exec (.gclrStart p w3) s = .next { s with waiting := s.waiting ++ [(none, .gclrStart p w3)] } ∧
      exec (.tlbInvalidate p w3) s = .next { s with waiting := s.waiting ++ [(none, .tlbInvalidate p w3)] }) ∧
    (free → b.gcGo = true → go → exec (.gclrStart p w3) s = .next s) ∧
    (free → ¬ go → exec (.gclrStart p w3) s = .next (s.modLp1 p.val fun b => { b with gcPart := part })) ∧
    (free → b.gcGo = false → go →
      let u := s.modLp1 p.val fun b => { b with gcPart := part }
      (∀ e, u.clearCheck p.val = .error e → exec (.gclrStart p w3) s = .next (u.modLp1 p.val fun b => { b with gcStat := e })) ∧
      ∀ fs, u.clearCheck p.val = .ok fs →
        exec (.gclrStart p w3) s = .next (u.modLp1 p.val fun b => { b with gcGo := true, gcStat := 1, gcFrames := fs })) ∧
    (b.gcGo = false → exec (.gclrDone p) s = .next s) ∧
    (b.gcGo = true →
      let cleared : State := { s with
        lines := s.lines.filterMap fun x => if inFrames b.gcFrames x.1 = false then some x
          else if x.2.bad = true then some (x.1, { LineMeta.zero with bad := true }) else none }
      -- every other package of the domain learns of each line that had a grade
      let told := (mkeys s.lines fun l m => inFrames b.gcFrames l && m.grade != .none).foldl (fun u l => u.present.foldl (fun u k =>
        u.send 4 k { u.blankMsg with addr := lineAddr l, grade := .none, mask := 0 }) u) cleared
      exec (.gclrDone p) s = .next (told.setLp1 p.val { b with gcGo := false, gcStat := 0, gcFrames := [] }).settle) ∧
    (let c := { b with invPsz := w3.toNat / 2 ^ 6 % 4, invPart := part }
     (free → b.invGo = true → go → exec (.tlbInvalidate p w3) s = .next s) ∧
     (free → ¬ go → exec (.tlbInvalidate p w3) s = .next (s.setLp1 p.val c)) ∧
     (free → b.invGo = false → go → s.invRefused p.val c = true → exec (.tlbInvalidate p w3) s = .next (s.setLp1 p.val { c with invStat := 2 })) ∧
     (free → b.invGo = false → go → s.invRefused p.val c = false → exec (.tlbInvalidate p w3) s =
       .next (s.setLp1 p.val { c with invGo := true, invStat := 1, invOps := s.opsIn c.invRange, invRun := c.invRange })) ∧
     (s.invRefused p.val c = true ↔ c.invN = 0 ∨ (c.invPsz ≠ 3 ∧ c.invVa.toNat % invBytes c.invPsz ≠ 0) ∨ (s.part part).live = false ∨
       (s.part part).parent ≠ p.val)) ∧
    (let finished := b.invGo = true ∧ s.opsLeft b.invOps = false ∧ s.heldIn b.invRun = false ∧ s.opsIn b.invRun = []
     (¬ finished → exec (.tlbInvalidateDone p) s = .next s) ∧
     (finished → exec (.tlbInvalidateDone p) s =
       .next ((s.dropTlb b.invRun).setLp1 p.val { b with invGo := false, invStat := 0, invOps := [] })) ∧
     ∀ (d : InvRange) (e : TlbEntry), (∃ x ∈ (s.dropTlb d).tlbs, e ∈ x.2) → (∃ x ∈ s.tlbs, e ∈ x.2) ∧
       ¬ (e.part = d.part ∧ (d.psz = 3 ∨ (e.page * 2 ^ pageBits e.level < d.va + d.n * invBytes d.psz ∧ d.va < (e.page + 1) * 2 ^ pageBits e.level)))) ∧
    (∀ (link : Fin 2) (win : Fin 17) (ofs n : Nat) (data : List Byte),
      let there := s.fnOn link win.val = true
      let clear := s.linkWaits (some link) = false
      (s.linkUp link = false → exec (.bar4Read (link, win) ofs n) s = .next s ∧ exec (.bar4Write (link, win) ofs data) s = .next s) ∧
      (s.linkUp link = true → ¬ there → exec (.bar4Read (link, win) ofs n) s = .next { s with reply := s.reply ++ [.unsupported] } ∧
        exec (.bar4Write (link, win) ofs data) s = .next s) ∧
      (s.linkUp link = true → there → ¬ clear →
        exec (.bar4Read (link, win) ofs n) s = .next { s with waiting := s.waiting ++ [(some link, .bar4Read (link, win) ofs n)] } ∧
        exec (.bar4Write (link, win) ofs data) s = .next { s with waiting := s.waiting ++ [(some link, .bar4Write (link, win) ofs data)] }) ∧
      (s.linkUp link = true → there → clear →
        (s.windowVa win.val ofs n = none → exec (.bar4Read (link, win) ofs n) s = .next { s with reply := s.reply ++ [.abort] }) ∧
        (s.windowVa win.val ofs data.length = none → exec (.bar4Write (link, win) ofs data) s = .next (s.windowError win.val)) ∧
        ∀ sp va, (s.windowVa win.val ofs n = some (sp, va) →
            (s.outerRead sp false false va n = none → exec (.bar4Read (link, win) ofs n) s = .next { s with reply := s.reply ++ [.abort] }) ∧
            ∀ bs u, s.outerRead sp false false va n = some (bs, u) →
              exec (.bar4Read (link, win) ofs n) s = .next { u with reply := u.reply ++ [.data bs] }) ∧
          (s.windowVa win.val ofs data.length = some (sp, va) →
            (s.placeHost sp (lineParts va data) [] = none → exec (.bar4Write (link, win) ofs data) s = .next (s.windowError win.val)) ∧
            ∀ xs u, s.placeHost sp (lineParts va data) [] = some (xs, u) →
              (∀ v, u.hostParts sp 0 xs = (none, v) → exec (.bar4Write (link, win) ofs data) s = .next v.settle) ∧
              ∀ k v, u.hostParts sp 0 xs = (some k, v) → exec (.bar4Write (link, win) ofs data) s =
                .next { v with waiting := v.waiting ++ [(some link, .bar4Write (link, win) (ofs + k) (data.drop k))] }))) ∧
    -- the parts of a host write, in order: one that must wait for acknowledges stops there, every other is counted and the next follows
    (∀ (sp : Space) (k : Nat) x rest,
      s.hostParts sp k [] = (none, s) ∧
      (∀ u, s.hostWrite sp.part x = (.waitAck, u) → s.hostParts sp k (x :: rest) = (some k, u)) ∧
      ∀ w u, s.hostWrite sp.part x = (w, u) → w ≠ .waitAck →
        s.hostParts sp k (x :: rest) = (u.countAcc sp feCore x.1 0 1).hostParts sp (k + x.2.2.length) rest) ∧
    (∀ (link : Fin 2) (ofs n : Nat) (w : BitVec 128),
      let clear := s.linkUp link = true ∧ s.linkWaits (some link) = false
      let there := s.fnOn link p.val = true
      (s.linkUp link = true → ¬ there → exec (.registerWrite (link, .block p ofs) n w) s = .next s ∧
        exec (.registerWrite (link, .port p ofs) n w) s = .next s) ∧
      (clear → s.recovery.active = true → n = 4 → exec (.registerWrite (link, .pf0 ofs) n w) s = .next (s.recoveryWrite ofs (w.setWidth 32))) ∧
      (clear → s.recovery.active = false →
        (there → n = 4 → 16 ≤ ofs → exec (.registerWrite (link, .block p ofs) n w) s = .next (s.blockWrite p.val ofs (w.setWidth 32))) ∧
        (there → ofs = 0 → exec (.registerWrite (link, .block p ofs) n w) s = .next (s.registerBell p.val n (w.toNat % 2 ^ 64))) ∧
        (there → ofs = 8 → exec (.registerWrite (link, .block p ofs) n w) s = .next (s.unregisterBell p.val n (w.toNat % 2 ^ 64))) ∧
        (there → s.pause = false → n = 8 → ofs = 0 →
          exec (.registerWrite (link, .port p ofs) n w) s = .next (s.launch p.val (w.toNat % 2 ^ 64)).2) ∧
        (there → s.pause = false → n = 16 → ofs = 16 → exec (.registerWrite (link, .port p ofs) n w) s = .next (s.resume p.val (resumeOf w))) ∧
        (there → s.pause = false → n = 8 → ofs = 16 → exec (.registerWrite (link, .port p ofs) n w) s = .next (s.portError p.val)) ∧
        (there → s.pause = false → n = 4 → ofs = 0 ∨ ofs = 16 ∨ (0x10000 ≤ ofs ∧ ofs < 0x12000) →
          exec (.registerWrite (link, .port p ofs) n w) s = .next (s.portError p.val)) ∧
        (n = 4 → ofs < 0x1000000 → exec (.registerWrite (link, .pf0 ofs) n w) s = .next (s.globalWrite ofs (w.setWidth 32))))) ∧
    ∀ (frame line : Nat) (found : ScrubFind),
      let unfit (l : Nat) : Prop := 2 ≤ s.unfitRows.count l
      let ofFrame (l : Nat) : Prop := ∃ i, i < 1024 ∧ l = (2 ^ 44 + 65536 * frame) / 64 + i
      -- the frames of 384 GB of device memory (R1)
      let exists_ := 65536 * (frame + 1) ≤ Config.deviceBytes
      let mine := mget s.granted frame = some (p.val + 1)
      let acc : Prop := 2 ^ 60 ≤ line ∧ line < 2 ^ 60 + 4096 * Config.cores
      let seen : Prop := 64 * line < 2097152 * Config.cores ∨ (2 ^ 44 ≤ 64 * line ∧ 64 * line < 2 ^ 44 + Config.deviceBytes) ∨ acc
      (¬ exists_ ∨ mine ∨ (∃ l, ofFrame l ∧ unfit l) → exec (.frameGrant p frame) s = .next s) ∧
      (exists_ → ¬ mine → (∀ l, ofFrame l → ¬ unfit l) → ∃ u, exec (.frameGrant p frame) s = .next u ∧ mget u.granted frame = some (p.val + 1) ∧
        (∀ l, l ∈ u.pendZero ↔ l ∈ s.pendZero ∨ ofFrame l) ∧ u.mem = s.mem) ∧
      exec (.frameScrub line) s = .next (s.settleLine line) ∧
      (line ∈ s.pendZero ∨ ¬ seen ∨ found = .clean → exec (.patrolScrub line found) s = .next s) ∧
      (line ∉ s.pendZero → seen → found = .uncorrectable →
        (line < 2 ^ 60 → ∃ u, exec (.patrolScrub line found) s = .next u ∧ (u.line line).bad = true) ∧
        -- an accumulator line: its 16 elements read as NaN
        ∀ c i, c < Config.cores → line = 2 ^ 60 + 4096 * c + i → i < 4096 → ∃ u, exec (.patrolScrub line found) s = .next u ∧
          ∀ j, j < 16 → sget 0 (u.engine c).acc (16 * i + j) = 0x7FC00000) ∧
      (line ∉ s.pendZero → seen → found = .corrected → ∃ u, exec (.patrolScrub line found) s = .next u ∧ u.lines = s.lines ∧
        (2 ^ 38 ≤ line ∧ line < 2 ^ 39 → u.unfitRows = line :: s.unfitRows ∧
          (line ∈ s.unfitRows → line ∈ u.flash.repair) ∧ (line ∉ s.unfitRows → u.flash = s.flash)) ∧
        (line < 2 ^ 38 ∨ 2 ^ 39 ≤ line → u.unfitRows = s.unfitRows ∧ u.flash = s.flash))) ∧
  (∀ (s : State) (link : Fin 2) (r : RegAddr) (n : Nat),
    let rec_ := s.recovery.active
    let pf0 := ∃ o, r = .pf0 o
    let read := s.reached (.read link r n)
    let data (u : State) (f : Nat → Nat) (o : Nat) : State := { u with
      reply := u.reply ++ [.data ((List.range n).map fun i => BitVec.ofNat 8 (f ((o + i) / 4 * 4) / 2 ^ (8 * ((o + i) % 4))))] }
    (s.linkUp link = true ↔ link.val < s.linkCounts.2.2 ∧ (rec_ = true → link = 0)) ∧
    (∀ p : Fin 16, s.fnOn link p.val = true ↔ (s.lp1 p.val).links.testBit link.val = true) ∧
    (s.linkUp link = false → read = s) ∧
    (s.linkUp link = true → (rec_ = true ∧ ¬ pf0) ∨ s.regOn link r = false → read = { s with reply := s.reply ++ [.unsupported] }) ∧
    (s.linkUp link = true → s.regOn link r = true →
      (∀ p o, rec_ = false → r = .block p o → read = data s (s.blockWord p.val) o) ∧
      (∀ p o, rec_ = false → r = .port p o ∨ r = .pf0Port p o → read = data s (fun _ => 0) 0) ∧
      (∀ o, rec_ = false → r = .pf0 o → read = data (s.clearHits o n) s.globalWord o) ∧
      ∀ o, rec_ = true → r = .pf0 o →
        read = { s with reply := s.reply ++ [.data ((List.range n).map fun i => s.recoveryByte (o + i))] }) ∧
    (∀ k t m, s.thread? k = some t → m < 160 → (s.reached (.upset (.register k m))).thread? k = some { t with bad := m :: t.bad }) ∧
    (∀ c e, let u := s.rasEntry 1 (dieOfCore c) (c % 96) 8 e 1
      s.reached (.upset (.acc c e)) = u.setEngine c { u.engine c with acc := mput (u.engine c).acc e nan32 }) ∧
    (∀ k t, s.thread? k = some t →
      (∀ struct_ up, (struct_ = 5 ∧ up = .flag k) ∨ (struct_ = 6 ∧ up = .stack k) →
        let u := s.rasEntry 1 (dieOfCore (coreOfThread k)) (coreOfThread k % 96) struct_ k 1
        s.reached (.upset up) = ((u.setThread k { t with trapstat := BitVec.ofNat 32 (5 * 2 ^ 27 + 12 * 2 ^ 16) }).unhandled k
          (BitVec.ofNat 32 (5 * 2 ^ 27 + 12 * 2 ^ 16)) t.pc).settle)) ∧
    s.reached .unsupported = { s with reply := s.reply ++ [.unsupported] } ∧
    (∀ t : Byte, s.reached (.stray t) = if 1 ≤ t.toNat ∧ t.toNat ≤ 9 then s else { s with drops := s.drops + 1 }) ∧
    (∀ port : Fin 6, s.linkCounts.2.1 ≤ port.val → ∀ b, s.reached (.roceOther port b) = s) ∧
    (∀ port : Fin 6, port.val < s.linkCounts.2.1 → s.reached (.roceOther port true) = { s with reply := s.reply ++ [.nak] } ∧
      s.reached (.roceOther port false) = { s with portDrops := mput s.portDrops port.val (sget 0 s.portDrops port.val + 1) }) ∧
    s.reached .complexFails = { s with fw := { s.fw with alive := false } } ∧
    (∀ bs, s.reached (.commitTable bs) = if s.fw.alive = true then { s with fw := { s.fw with table := bs } } else s) ∧
    (∀ (p : Fin 64) (d : Part), d.live = true →
      let b := (s.lp1 d.parent).bounds
      let fits := d.parent < 16 ∧ (d.cset &&& ~~~b.cset) = 0 ∧ d.hbmw ≤ b.hbmw ∧ d.wmax ≤ b.wmax ∧ d.cls &&& b.cls = d.cls ∧ d.lse &&& b.lse = d.lse ∧
        (d.wlt = true → b.wlt = true) ∧ s.children d.parent p.val < 16 ∧ s.hasDead d.cset = false ∧ 1 ≤ d.hbmw ∧ d.hbmw < 256 ∧ 1 ≤ d.wmax ∧ d.wmax < 256
      (¬ fits → s.reached (.descriptor p d) = s) ∧
      (fits → ∃ x, s.reached (.descriptor p d) = s.setPart p.val x ∧
        x = { d with right := x.right, cmdAt := x.cmdAt, revoking := x.revoking, samp := x.samp } ∧ x.right = (s.part p.val).right ∧
        x.samp.base = d.samp.base ∧ x.samp.slog2 = d.samp.slog2 ∧ x.samp.stail = (s.part p.val).samp.stail)) ∧
    ∀ m (q : Qp),
      let ok := m < 4096 ∧ q.sq + 32 * 2 ^ q.sqLog ≤ Config.deviceBytes ∧ q.cq + 32 * 2 ^ q.cqLog ≤ Config.deviceBytes ∧ q.lp1 < 16 ∧ (s.part q.part).live = true ∧ (s.part q.part).parent = q.lp1
      (¬ ok → s.reached (.queuePair m q) = s) ∧
      (ok → s.reached (.queuePair m q) = { s with qps := mput s.qps m { q with pi := 0, ci := 0, cpi := 0, work := [] } }) ∧
      (∀ cls : Fin 3, (m < 16384 → s.reached (.queueClass m cls) = s.setQueue m { s.queue m with cls := cls.val }) ∧
        (16384 ≤ m → s.reached (.queueClass m cls) = s)) ∧
      (30 ≤ m ∧ m ≤ 39 → s.reached (.ownWindow m) =
        { s with pf0b4 := (BitVec.ofNat 64 (s.pf0b4.1.toNat / 2 ^ m * 2 ^ m), s.pf0b4.2.1, m) }) ∧
      (m < 30 ∨ 39 < m → s.reached (.ownWindow m) = s) ∧
      (m < 200 → s.reached (.wear m) = { s with worn := m :: s.worn.filter (· != m) }) ∧
      (200 ≤ m → s.reached (.wear m) = s))

/-! ### Parking, slots and recalls (11, 16) -/

/-- R246, R249, R196: a resume record is dropped with an error record where a reserved field, its ACT or its partition is wrong; with ACT 0 every parked thread, strand and command whose address lies in its page goes on at its
instruction, with ACT 1 it takes the unrecoverable-access trap with DETAIL 7; either way its ready time is its fault time. Behind a host write that waits (log 97), and in a pause, the record waits too. A row whose ACT is the
other's leaves the state unchanged (log 7). -/
def Obligations.ResumeRecords : Prop :=
  ∀ (s : State) (p : Fin 16) (r : ResumeRec),
    let ok : Prop := r.res0 = 0 ∧ r.res1 = 0 ∧ r.res2 = 0 ∧ r.res3 = 0 ∧ r.act.val ≤ 1 ∧ (s.part r.part.val).live = true ∧
      (s.part r.part.val).parent = p.val
    let kept (i : Instr) : Prop :=
      (s.waiting ≠ [] → exec i s = .next { s with waiting := s.waiting ++ [(none, i)] }) ∧
      (s.waiting = [] → s.pause = true → exec i s = .next { s with input := s.input ++ [i] })
    let free : Prop := s.waiting = [] ∧ s.pause = false
    let dropped : Out := .next (s.event p.val ⟨7, 0, 0, 0, 0, 0, (resumeWords r).1, (resumeWords r).2.1, (resumeWords r).2.2⟩)
    (r.act ≠ 1 → kept (.resumeRetry p r)) ∧ (r.act ≠ 0 → kept (.resumeFail p r)) ∧
    (r.act = 1 → exec (.resumeRetry p r) s = .next s) ∧ (r.act = 0 → exec (.resumeFail p r) s = .next s) ∧
    (free → ¬ ok → r.act ≠ 0 → exec (.resumeFail p r) s = dropped) ∧
    (free → ¬ ok → r.act ≠ 1 → exec (.resumeRetry p r) s = dropped) ∧
    (free → ok → r.act = 0 →
      let u := (s.matchedThreads r).foldl State.unparkThread s
      let v := (s.matchedStrands r).foldl (fun s q => s.setStrand q { s.strand q with parked := none }) u
      exec (.resumeRetry p r) s = .next ((s.matchedCmds r).foldl (fun s id => s.modCmd id fun c => { c with parked := none }) v)) ∧
    (free → ok → r.act = 1 →
      let u := (s.matchedThreads r).foldl State.failThread s
      let v := (s.matchedStrands r).foldl State.failStrand u
      exec (.resumeFail p r) s = .next (((s.matchedCmds r).foldl State.failStalled v).settle.pumpSaves)) ∧
    (∀ k t q, s.thread? k = some t → t.parked = some q →
      let back : Thread := { t with
        parked := none, readyAt := q.time, clauses := 0, status := if t.status = .arrived then .arrived else .ready }
      (s.routineEntry k back = none → t.haltReq = false → s.unparkThread k = s.setThread k back) ∧
      ∀ pc, s.routineEntry k back = some pc → s.unparkThread k = (s.setThread k back).enterRoutine k pc) ∧
    ∀ k t q, s.thread? k = some t → t.parked = some q →
      let u := s.modThread k fun t => { t with parked := none, readyAt := q.time, clauses := 0 }
      (t.status = .arrived → s.failThread k = u.bandTrap (u.rendezvousP k) ⟨5, 7, 0⟩ 1) ∧
      (t.status ≠ .arrived → slotOf t.pc = 0 → s.failThread k = u.takeTrap k (BitVec.ofNat 32 (5 * 2 ^ 27 + 7 * 2 ^ 16)) ⟨t.pc, nextClause t.pc, 0⟩) ∧
      (t.status ≠ .arrived → slotOf t.pc ≠ 0 → s.failThread k = u.laneTrap k ⟨5, 7, 0⟩)

/-- R314 to R320, R171: bind records, slices, the starvation bound, recalls and the bounds of a routine and of its finish.
The partition whose template a bind record follows (log 33), the tag of a recall that hardware makes (log 75) and that a record of bad length or with
reserved bits is refused (log 45) are the model's choices. -/
def Obligations.SlotAndRecallEvents : Prop :=
  ∀ (s : State) (slot : Fin 128) (words : List Word) (c tag : Nat),
    let old := s.bind slot.val
    let x := bindOfWords words
    let refused : State := s.setBind slot.val { old with refused := true }
    (old.valid = true →
      (x.2.1 = true → exec (.bindRecordWrite slot words) s = .next refused) ∧
      (x.2.1 = false → exec (.bindRecordWrite slot words) s = .next (s.unbind slot.val).settle) ∧
      exec (.unbind slot) s = .next (s.unbind slot.val).settle) ∧
    (old.valid = false →
      exec (.unbind slot) s = .next s ∧
      (x.2.2 = false ∨ (x.2.1 = true ∧ s.bindOk x.1 = false) → exec (.bindRecordWrite slot words) s = .next refused) ∧
      (x.2.2 = true → x.2.1 = true → s.bindOk x.1 = true → exec (.bindRecordWrite slot words) s = .next (s.bound slot.val x.1 false).settle) ∧
      (x.2.2 = true → x.2.1 = false → exec (.bindRecordWrite slot words) s =
        .next (s.setBind slot.val { x.1 with boundAt := old.boundAt, hwmade := old.hwmade }))) ∧
    -- a record that becomes valid: cores that run nothing take it; of one that hardware makes firmware is told (R318)
    (∀ t b hw,
      let u := s.setBind t { b with valid := true, boundAt := s.ns, refused := false, hwmade := hw }
      let v := (if hw = true then { u with fw := { u.fw with irqs := u.fw.irqs + 1 } } else u).offerSlot t
      s.bound t b hw = if b.isGraph = true then v else v.takePending (queueKey b.lp1 b.handle) t) ∧
    ((s.core c).running = none → exec (.sliceEnd c) s = .next s) ∧
    (∀ t, (s.core c).running = some t →
      let spent := s.gained c t = true ∨ (s.core c).sliceAt + s.slice t ≤ s.clk
      let stays := s.coreOpen c = false ∨ s.fixedCore c = true ∨ s.surrendering c = true ∨ ¬ spent
      (stays → exec (.sliceEnd c) s = .next s) ∧
      (¬ stays → s.nextSlot c = none → exec (.sliceEnd c) s = .next (s.modCore c fun x => { x with sliceAt := s.clk })) ∧
      ∀ u, ¬ stays → s.nextSlot c = some u →
        (s.holdsWork c = false → exec (.sliceEnd c) s = .next (s.startSlot c u)) ∧
        let nego := s.gained c t = true ∧ ∃ b ∈ s.blocks, b.2.core = c ∧ b.2.lease = 2
        (s.holdsWork c = true → nego → exec (.sliceEnd c) s = .next (s.recallCore c (hwTag u)).settle) ∧
        (s.holdsWork c = true → ¬ nego → exec (.sliceEnd c) s = .next (s.beginSave c).settle)) ∧
    (∀ (p : Fin 16) (g : Bool) (h : Nat),
      let n := s.noteHunger
      (mget n.starve (starveKey g p.val h) = none → exec (.starvationBind p g h) s = .next n) ∧
      ∀ t0, mget n.starve (starveKey g p.val h) = some t0 →
        (n.clk < t0 + 3750000 → exec (.starvationBind p g h) s = .next n) ∧
        (t0 + 3750000 ≤ n.clk →
          let v := if (n.bind n.slotToTake).valid = true then n.unbind n.slotToTake else n
          exec (.starvationBind p g h) s = .next (v.bound n.slotToTake
            { (v.part (v.templatePart g p.val h)).template with isGraph := g, handle := h, cls := 0 } true).settle)) ∧
    -- the slot that is taken is the lowest free one; with none, no slot is of lower priority, and of those of its class none is bound for less time
    (let x := s.slotToTake
     x < 128 ∧ ((∃ i < 128, (s.bind i).valid = false) → (s.bind x).valid = false ∧ ∀ i < x, (s.bind i).valid = true) ∧
       ((∀ i < 128, (s.bind i).valid = true) → ∀ i < 128,
         (s.bind i).cls ≤ (s.bind x).cls ∧ ((s.bind i).cls = (s.bind x).cls → (s.bind x).boundAt ≤ (s.bind i).boundAt))) ∧
    (s.coreHeld c = true → exec (.recallCommand c tag) s = .next (s.startRecall c tag).settle) ∧
    (s.coreHeld c = false → (s.core c).recallQ.length < Config.recallQueue →
      exec (.recallCommand c tag) s = .next (s.modCore c fun x => { x with recallQ := x.recallQ ++ [tag] }).settle) ∧
    (s.coreHeld c = false → Config.recallQueue ≤ (s.core c).recallQ.length →
      exec (.recallCommand c tag) s = .next { s with reply := s.reply ++ [Reply.recalled tag c 2] }.settle) ∧
    (∀ b, s.blockIn c .routine = some b →
      (b.bound ≤ b.count → b.summ = false → exec (.routineBoundExpiry c) s = .next (s.beginSave c).settle) ∧
      (b.count < b.bound ∨ b.summ = true → exec (.routineBoundExpiry c) s = .next s)) ∧
    ∀ b, s.blockIn c .finishing = some b →
      let us := if (s.bind b.slot).finb = 0 then 100 else (s.bind b.slot).finb
      (b.finStart + us * 1000 ≤ s.ns → exec (.finishBoundExpiry c) s = .next (s.beginSave c).settle) ∧
      (s.ns < b.finStart + us * 1000 → exec (.finishBoundExpiry c) s = .next s)

/-! ### The package's surroundings (20) -/

/-- R306, R307, R309, R357, R358: the messages of the fabric at their home: reads, masked writes, atomics, graded writes,
responses, re-fires and their acknowledgements, cancel tokens and copied rows; and links that die and rejoin. A graded write that waits for
acknowledges is kept and given again when they have come (R307). A line with an
error that no code corrects is refused (log 70); what the messages hold and how grades are made known is the model's choice (log
19, log 20). R355, R356: the RoCE engine: a doorbell sends the requests up to its index; a completion writes READ data to LVA
and an entry; an incoming write or read through a remote key is performed, or answered with a NAK where the key, the queue pair
or a page forbids it.
The messages' encodings and the bytes of a completion entry are the model's choices (log 19, log 20, log 30, log 32, log 34), as are the plane of a
response (log 100), that a write to another package is an operation until it is performed (log 113), and that an event whose condition does not hold
leaves the state unchanged (log 7). -/
def Obligations.FabricAndRdmaEvents : Prop :=
  (∀ (s : State) (m : Msg) (link : Fin 18),
    let l := remoteLine m.spkg.toNat m.addr.toNat
    -- the home of an address (R1, R84, R357)
    (let va := m.addr.toNat
     let c := 96 * (va / 2 ^ 28 % 4) + va / 2 ^ 21 % 128
     (isSlice va = false → s.msgHome m = if va % 2 ^ 44 < Config.deviceBytes then some (2 ^ 44 + va % 2 ^ 44) else none) ∧
     (isSlice va = true → s.msgHome m =
       if va / 2 ^ 21 % 128 < 96 ∧ (s.core c).lastPart = some m.part.val then some (c * 2097152 + va % 2 ^ 21) else none)) ∧
    (s.msgHome m = none → exec (.tuiturRead m) s = .next (s.respond m [] .none .refused) ∧ exec (.tuiturWrite m) s = .next s ∧
      exec (.tuiturAtomic m) s = .next (s.respond m [] .none .refused).settle ∧
      exec (.tuiturGradedWrite m) s = .next (s.respond m [] .none .refused).settle ∧ exec (.tuiturCopyData m) s = .next s) ∧
    (∀ h, s.msgHome m = some h →
      let x := s.line (h / 64)
      let bad := s.farBad h m.n = true
      let read := s.logFar (h / 64) (farOf m)
      let old := s.bytes h m.n
      -- the old value returns of an atomic of one element, not of an engine's add of more
      let one := if m.n ≤ 8 then old else []
      -- what the tumbler does with a graded write of another package, and what returns
      let tumbled (i : Instr) (s0 : State) (data back : List Byte) : Prop :=
        ∀ w u, s0.gradedWrite h data m.grade none m.amdep (some (farOf m)) (some i) = (w, u) →
          (w ∈ [WOut.wrote, .amended, .confirmed, .same, .final, .depth] →
            exec i s = .next (u.respond m (BitVec.ofNat 8 w.code :: back) (u.line (h / 64)).grade .performed).settle) ∧
          (w = .lost → exec i s = .next (u.respond m [] (u.line (h / 64)).grade .lost).settle) ∧
          (w = .waitLog ∨ w = .waitAck → exec i s = .next u.settle)
      (m.n = 0 → exec (.tuiturRead m) s = .next (s.respond m [BitVec.ofNat 8 x.byte] x.grade .performed)) ∧
      (m.n ≠ 0 → bad → exec (.tuiturRead m) s = .next (s.respond m [] .none .refused)) ∧
      (m.n ≠ 0 → ¬ bad → exec (.tuiturRead m) s = .next (read.respond m old x.grade .performed)) ∧
      (x.dead = true → exec (.tuiturWrite m) s = .next s) ∧
      (x.dead = false → exec (.tuiturWrite m) s = .next (((List.range m.data.length).zip m.data).foldl (fun u x =>
        if m.mask.getLsbD x.1 then u.writeHome (h + x.1) [x.2] else u) s).settle) ∧
      (bad → exec (.tuiturAtomic m) s = .next (s.respond m [] .none .refused).settle) ∧
      (¬ bad → m.grade = .none →
        (∀ new, Msg.atomNew m old = some new → exec (.tuiturAtomic m) s = .next ((s.writeHome h new).respond m old .none .performed).settle) ∧
        (Msg.atomNew m old = none → exec (.tuiturAtomic m) s = .next (s.respond m old .none .performed).settle)) ∧
      (¬ bad → m.grade ≠ .none →
        (Msg.atomNew m old = none ∨ Msg.atomNew m old = some old →
          exec (.tuiturAtomic m) s = .next (read.respond m (3 :: one) x.grade .performed).settle) ∧
        ∀ new, Msg.atomNew m old = some new → new ≠ old → tumbled (.tuiturAtomic m) read new one) ∧
      (m.n ≠ 0 → bad → exec (.tuiturGradedWrite m) s = .next (s.respond m [] .none .refused).settle) ∧
      (m.n ≠ 0 → ¬ bad → tumbled (.tuiturGradedWrite m) s (mergeMask m.mask old m.data) []) ∧
      -- a lift confirms only what its own task wrote last (R303); a confirmation of GCONF answers its status (R98)
      (m.n = 0 → m.mask = 0 → exec (.tuiturGradedWrite m) s =
        .next (if x.far = some (farOf m) ∧ x.grade ≠ .final then s.putLine (h / 64) { x with grade := .final } else s).settle) ∧
      (m.n = 0 → m.mask ≠ 0 → exec (.tuiturGradedWrite m) s =
        let y := s.confirmLine (h / 64) m.grade .final
        .next (y.2.respond m [BitVec.ofNat 8 y.1] (y.2.line (h / 64)).grade .performed).settle) ∧
      (isSlice m.addr.toNat = false → exec (.tuiturCopyData m) s = .next s) ∧
      (isSlice m.addr.toNat = true →
        let w := s.writeMasked h m.mask m.data
        (m.node = 0 → exec (.tuiturCopyData m) s = .next w.settle) ∧
        (m.node ≠ 0 → exec (.tuiturCopyData m) s = .next (w.landOn (haspKey (h / 2097152) (m.node - 1))
          (m.spkg.toNat * 512 + dieOfCore m.core * 128 + m.core % 96) ((List.range m.data.length).filter fun i => m.mask.getLsbD i).length).2.settle))) ∧
    (∀ id o, m.mask ≠ 0 → s.ops.find? (fun x => x.2.answeredBy x.1 m) = some (id, o) →
      let v := if m.fate = .performed then s.learn o m else s
      exec (.tuiturResponse m) s = .next { v with ops := mmod v.ops id fun o => { o with resp := some (m.data, m.fate) } }.settle ∧
      BitVec.ofNat 16 id = m.tag ∧ o.sent = true ∧ o.resp = none ∧ o.acc.loc.pkg? = some m.spkg.toNat) ∧
    -- or an operation of a saved context, whose graded write enters its task's write log all the same (R297, R323)
    (m.mask ≠ 0 → s.ops.find? (fun x => x.2.answeredBy x.1 m) = none →
      let waits (x : Saved) : List (Nat × Op) := x.ops.filter fun y => y.2.answeredBy y.1 m && (y.2.kind.atomic || y.2.heldThere)
      let v := if m.fate = .performed then (s.saved.flatMap waits).foldl (fun u y => u.learn y.2 m) s else s
      exec (.tuiturResponse m) s = .next { v with saved := v.saved.map (Saved.answer · m) }.settle) ∧
    (m.mask = 0 → ((s.line l).grade ≠ .none → exec (.tuiturResponse m) s = .next (s.learnGrade l m.grade).settle) ∧
      ((s.line l).grade = .none → exec (.tuiturResponse m) s = .next s)) ∧
    (let u := (s.farTasks m).foldl State.refire s
     exec (.tuiturRefire m) s = .next (u.send 7 m.spkg.toNat { u.blankMsg with
       tag := m.tag, addr := m.addr, ginst := m.ginst, node := m.node, block := m.block }).settle) ∧
    (∀ id a, s.amends.find? (fun x => BitVec.ofNat 16 x.1 == m.tag) = some (id, a) →
      let given (again : Option Instr) (u : State) : Out := .next { u with
        waiting := [], script := (again.toList ++ u.waiting.map fun x => x.2).map (fun i => ⟨0, .outside i⟩) ++ u.script }
      let va := (lineAddr a.line).toNat
      -- the plane of the re-fire or of its acknowledge has died
      let dies := (s.lostAt a.since m.spkg.toNat va = true ∨ s.lostSince a.since s.pkg.toNat va = true) ∧ ∃ r ∈ a.acks, r.1 = m.spkg.toNat
      (m.fate = .lost → dies → exec (.tuiturAck m) s = given a.again { s with amends := mput s.amends id { a with failed := true } }) ∧
      (m.fate = .lost → ¬ dies → exec (.tuiturAck m) s = .next s) ∧
      (m.fate ≠ .lost →
        let x := s.line a.line
        let u := s.setLine a.line { x with remote := x.remote.filter (· != farOf m) }
        let acks := a.acks.filter (· != farOf m)
        (acks = [] → a.failed = false → exec (.tuiturAck m) s = given a.again { u with amends := mdel u.amends id }) ∧
        (acks ≠ [] ∨ a.failed = true → exec (.tuiturAck m) s = given none { u with amends := mput u.amends id { a with acks := acks } }))) ∧
    (let his (r : Nat × Nat × Nat) : Bool := r.1 == m.spkg.toNat && r.2.1 == m.ginst
     exec (.tuiturCancelToken m) s = .next { s with
       lines := mmap s.lines fun _ x => { x with remote := x.remote.filter fun r => !his r, far := x.far.filter fun r => !his r }
       amends := s.amends.filter fun a => a.2.far.all fun r => !his r }) ∧
    (s.planes.getLsbD link.val = false → exec (.linkDead link) s = .next s) ∧
    (s.planes.getLsbD link.val = true → ∃ u, exec (.linkDead link) s = .next u ∧
      (∀ i : Fin 18, u.planes.getLsbD i.val = (s.planes.getLsbD i.val && i != link)) ∧ u.deadAt = mput s.deadAt link.val s.clk ∧
      (Rising s.skew → (sget Skew.zero u.skew (10 + link.val)).valid = false) ∧ u.threads = s.threads) ∧
    (let dead := s.planes.getLsbD link.val = false ∧ mget s.deadAt link.val ≠ none ∧ link.val < s.linkCounts.1
     (s.inFlight = true ∨ s.recovery.active = true ∨ ¬ dead → exec (.linkRejoin link) s = .next s) ∧
     (s.inFlight = false → s.recovery.active = false → dead → ∃ u, exec (.linkRejoin link) s = .next u ∧
      u = { s with planes := u.planes, deadAt := mdel s.deadAt link.val } ∧
      ∀ i : Fin 18, u.planes.getLsbD i.val = (s.planes.getLsbD i.val || i == link)))) ∧
  (∀ (s : State) (q : Nat) (pi : DWord) (p : RdmaPkt) (data : List Byte),
    (mget s.qps q = none → exec (.roceDoorbell q pi) s = .next s) ∧
    (∀ x, mget s.qps q = some x →
      exec (.roceDoorbell q pi) s = .next (Nat.repeat (fun s => State.roceRequest s q) (min (pi.toNat - x.ci) (2 ^ x.sqLog))
        { s with qps := mmod s.qps q fun x => { x with pi := pi.toNat } }) ∧
      (x.work = [] → ∀ ok, exec (.rdmaCompletion q data ok) s = .next s) ∧
      -- a READ whose bytes are still on their way to another package has no entry yet
      let waits (u : State) : Prop := ∃ o ∈ u.ops, o.2.uid = 2 ^ 67 + q
      ∀ r rest, x.work = r :: rest →
        let entered (u : State) : Out := .next (u.roceEntry q x).settle
        let later (u : State) : Out := .next { u with qps := mput u.qps q { x with work := { r with wrote := true } :: rest } }.settle
        (waits s → exec (.rdmaCompletion q data false) s = later s) ∧
        (¬ waits s → exec (.rdmaCompletion q data false) s = entered s) ∧
        (¬ waits s → r.wrote = true ∨ r.bad = true ∨ r.op ≠ 2 → ∀ ok, exec (.rdmaCompletion q data ok) s = entered s) ∧
        ∀ u, r.wrote = false → r.bad = false → r.op = 2 → data.length = r.len →
          s.roceWrite (2 ^ 67 + q) (s.templateSpace x.part) r.lva data = some u →
          (waits u → exec (.rdmaCompletion q data true) s = later u) ∧ (¬ waits u → exec (.rdmaCompletion q data true) s = entered u)) ∧
    -- no range in slice space, and no graded page, is written or read
    (∀ sp va, (∀ bs : List Byte, bs ≠ [] → isSlice va = true ∨ (∃ a, (s.translate sp feCore va .write).1 = .ok a ∧ a.graded = true) →
        ∀ uid, s.roceWrite uid sp va bs = none) ∧
      ∀ n, n ≠ 0 → isSlice va = true ∨ (∃ a, (s.translate sp feCore va .read).1 = .ok a ∧ a.graded = true) → s.roceRead sp va n = none) ∧
    let nak : Out := .next { s with reply := s.reply ++ [.nak] }
    -- on a port that is not enabled nothing arrives (R361)
    (s.linkCounts.2.1 ≤ p.port.val → exec (.rdmaWrite p) s = .next s ∧ exec (.rdmaWriteWithImmediate p) s = .next s ∧ exec (.rdmaRead p) s = .next s) ∧
    (p.port.val < s.linkCounts.2.1 → s.keySpace p = none → exec (.rdmaWrite p) s = nak ∧ exec (.rdmaWriteWithImmediate p) s = nak ∧ exec (.rdmaRead p) s = nak) ∧
    ∀ sp, p.port.val < s.linkCounts.2.1 → s.keySpace p = some sp →
      (s.roceRead sp p.va.toNat p.len = none → exec (.rdmaRead p) s = nak) ∧
      (∀ bs u, s.roceRead sp p.va.toNat p.len = some (bs, u) → exec (.rdmaRead p) s = .next { u with reply := u.reply ++ [.data bs] }) ∧
      (p.data.length = p.len →
        (s.roceWrite (2 ^ 66 + p.port.val) sp p.va.toNat p.data = none → exec (.rdmaWrite p) s = nak ∧ exec (.rdmaWriteWithImmediate p) s = nak) ∧
        ∀ u, s.roceWrite (2 ^ 66 + p.port.val) sp p.va.toNat p.data = some u →
          exec (.rdmaWrite p) s = .next { u with reply := u.reply ++ [Reply.data []] }.settle ∧
          ∀ x, mget u.qps p.qpn = some x → exec (.rdmaWriteWithImmediate p) s =
            .next ({ u with reply := u.reply ++ [Reply.data []] }.event x.lp1 ⟨5, 1, 0, 0, 0, 0, p.imm.toNat, p.qpn, 0⟩).settle))

/-- R359 to R362, R366 to R368: firmware: reset, the spare map, recovery, takeovers and updates, throttling, shutdown, self-test and attestation. The layout of an error log, and what ends an
update under way, are the model's choices (log 4, log 72), as is that a pair which fails while its die has a spare left runs on until the next boot
(log 112); an event whose condition does not hold leaves the state unchanged (log 7). A boot takes the pairs that fail their self-test then out.
Signatures, versions and settings of an image are free values (log 5). -/
def Obligations.FirmwareEvents : Prop :=
  ∀ (s : State) (image : List Byte) (c : Nat) (die : Fin 4) (pair : Fin 48),
    let auth (x : List Byte) (least : Nat) : Prop := Config.authentic x = true ∧ least ≤ Config.imageVersion x
    let set := if Config.configAuthentic s.flash.config then Config.configFields s.flash.config
      else (0, 19270, (18, 6, 2), fun _ => List.range 50)
    let least := set.1
    let r := s.recovery
    let flash : Flash := { s.flash with errors := ((s.freeBytes 960).1 :: s.flash.errors).take 4 }
    let failed := (s.badPairs ++ s.worn).eraseDups
    let slot (a : List Byte) : Out :=
      let ms := [Config.digest Config.bootRom, Config.digest a, Config.digest s.flash.config]
      .next (State.mapPairs { State.reset with
        script := s.script, freeCtr := s.freeCtr + 960, pkg := s.pkg, present := s.present, flash := flash, badPairs := failed
        mem := s.mem.filter fun c => decide (2 ^ 45 ≤ c.1)
        minver := least, udpPort := set.2.1, linkCounts := set.2.2.1, planes := BitVec.ofNat 18 (2 ^ set.2.2.1.1 - 1)
        fw := { State.reset.fw with images := State.reset.fw.images.set 0 a, measured := ms, key := Config.attestKey ms } } set.2.2.2)
    (auth s.flash.slotA least → exec .reset s = slot s.flash.slotA) ∧
    (¬ auth s.flash.slotA least → auth s.flash.slotB least → exec .reset s = slot s.flash.slotB) ∧
    (¬ auth s.flash.slotA least → ¬ auth s.flash.slotB least → ∃ u, exec .reset s = .next u ∧ u.recovery.active = true ∧ u.planes = 0 ∧
      u.flash = flash ∧ u.threads = [] ∧ u.badPairs = failed ∧ u.mem = s.mem.filter fun c => decide (2 ^ 45 ≤ c.1)) ∧
    -- the exposed pairs of a die take, in order, the physical pairs that pass their self-test; one that is left without is lost (R366)
    (∀ (order : Nat → List Nat) (bad : List Nat) (d i : Nat), d < 4 → i < 48 →
      (48 * d + i, ((order d).filter fun p => !bad.contains (50 * d + p))[i]?) ∈ exposed order bad) ∧
    (∀ order, s.mapPairs order = (exposed order s.badPairs).foldl (fun u x =>
      match x.2 with
      | none => u.losePair x.1
      | some p => if p = x.1 % 48 then u else { u with spare := mput u.spare x.1 p }) s) ∧
    (r.active = true → r.busy = false → 1 ≤ r.len → r.len ≤ Config.stagingBytes → exec .recoveryAppend s =
      .next { s with recovery := { r with image := r.image ++ (List.range r.len).map fun i => r.staging.getD i 0 } }) ∧
    (r.active = false ∨ r.busy = true → exec .recoveryAppend s = .next s ∧ exec .recoveryCommitA s = .next s ∧ exec .recoveryCommitB s = .next s ∧
      exec .recoveryReset s = .next s) ∧
    (r.active = true → r.busy = false → auth r.image s.minver →
      exec .recoveryCommitA s = .next { s with flash := { s.flash with slotA := r.image }, recovery := { r with image := [] } } ∧
      exec .recoveryCommitB s = .next { s with flash := { s.flash with slotB := r.image }, recovery := { r with image := [] } }) ∧
    (r.active = true → r.busy = false → ¬ auth r.image s.minver → ∃ n < 256,
      let u : State := { s with freeCtr := s.freeCtr + 1, recovery := { r with cause := n, image := [] } }
      exec .recoveryCommitA s = .next u ∧ exec .recoveryCommitB s = .next u) ∧
    (r.active = true → r.busy = false → exec .recoveryReset s = exec .reset s) ∧
    (let handled (u : State) : Out := .next { u with pause := false, input := [], script := u.input.map (fun i => ⟨0, .outside i⟩) ++ u.script }
     (s.fw.heartbeat + 10000000 ≤ s.upNs → exec .standbyTakeover s = handled { s with fw := { s.fw with
       active := 1 - s.fw.active % 2, alive := true, heartbeat := s.upNs, imported := s.fw.table, updating := none, ready := false } }) ∧
     (s.upNs < s.fw.heartbeat + 10000000 → exec .standbyTakeover s = .next s) ∧
     (∀ readable, s.fw.ready = false →
       (auth image s.minver ∧ readable = true → exec (.liveUpdate image readable) s =
         .next { s with fw := { s.fw with updating := some image, ready := true, failed := false, imported := s.fw.table } }) ∧
       (¬ (auth image s.minver ∧ readable = true) → exec (.liveUpdate image readable) s = .next { s with fw := { s.fw with failed := true } })) ∧
     (∀ readable, s.fw.ready = true → exec (.liveUpdate image readable) s = .next s) ∧
     (s.fw.updating = none ∨ s.fw.ready = false → exec .updateTakeover s = .next s) ∧
     ∀ x, s.fw.updating = some x → s.fw.ready = true →
       (s.pause = false → exec .updateTakeover s = .next { s with pause := true }) ∧
       (s.pause = true → ∃ u : Firmware, exec .updateTakeover s = handled { s with fw := u } ∧ u.active = 1 - s.fw.active % 2 ∧ u.alive = true ∧
         u.heartbeat = s.upNs ∧ u.updating = none ∧ u.ready = false ∧ ∀ h : u.active < 2, u.images[u.active] = x)) ∧
    exec (.throttle c) s = .next ((s.modCore c fun x => { x with throttled := true }).rasEntry 4 (dieOfCore c) (c % 96) 0 0 1) ∧
    exec (.throttleEnd c) s = .next (s.modCore c fun x => { x with throttled := false }) ∧
    (let u := s.rasEntry 4 (dieOfCore c) (c % 96) 0 0 1
     exec (.thermalShutdown c) s = .next { u with
       thermal := true, issue := [], threads := [], bands := [], blocks := [], hasps := [], strands := [], engines := [], watches := [], cmds := []
       ops := [], saved := [], ctxs := [], frames := [] }) ∧
    (let p := 50 * die.val + (mget s.spare (48 * die.val + pair.val)).getD pair.val
     let bad := p :: s.badPairs.filter (· != p)
     -- with a spare left the pair runs on until a boot maps it
     ((bad.filter fun p => p / 50 == die.val).length ≤ 2 →
       exec (.inServiceSelfTestFailure die pair) s = .next { s with badPairs := bad }) ∧
     (2 < (bad.filter fun p => p / 50 == die.val).length →
      ∃ u, exec (.inServiceSelfTestFailure die pair) s = .next u ∧ (u.core (96 * die.val + 2 * pair.val)).unavail = true ∧
      (u.core (96 * die.val + 2 * pair.val + 1)).unavail = true ∧
      u.badPairs = bad ∧
      let left (n m : BitVec 384) : Prop := ∀ i < 384, n.getLsbD i =
        (m.getLsbD i && i != 96 * die.val + 2 * pair.val && i != 96 * die.val + 2 * pair.val + 1)
      (∀ t b, mget s.binds t = some b → ∃ b', mget u.binds t = some b' ∧ left b'.cores b.cores) ∧
      ∀ t d, mget s.parts t = some d → ∃ d', mget u.parts t = some d' ∧ left d'.cset d.cset ∧ left d'.template.cores d.template.cores)) ∧
    exec .spdmRequest s = .next { s with reply := s.reply ++
      [.data (Config.certificate ++ Config.spdmSigned s.fw.key s.fw.measured (mkeys s.cores fun _ x => x.unavail))] }

/-! ### Debug, sampling and time (21) -/

/-- R369 to R375: the debug commands: RESULT 3 without the target, 1 without the right; halt, resume and step of a target; reads
and writes of its registers; the commands to a whole partition; grant and revocation, which falls in the next clk where a
command of the partition has been judged in this one (log 61); HIT clears when it is read. R378, R379: a stall sample, one of a
core in a clk, takes the next occupied slot from the one that the core's generator names, and nothing where no thread may be
sampled; a measured skew entry takes its offset and uncertainty, but a dead link's entry.
A sample names a thread's flags that hold its clause, and records a thread that has issued in the clk where it issued. Every die's counter counts the one
time, from an offset of its own in 1/16 ns.
That a debug command completes at once (log 61), the offsets of the dies' counters and that a measurement is exact (log 4, log 73), and that an event
whose condition does not hold leaves the state unchanged (log 7), are the model's choices. -/
def Obligations.DebugAndSampleEvents : Prop :=
  (∀ (s : State) (c : Nat) (tgt : BitVec 12) (part : Fin 64),
    let d := (s.core c).dbg
    let result (u : State) (r : Nat) : State := u.modCore c fun x => { x with dbg := { x.dbg with result := r } }
    let judged (u : State) (p : Nat) : State := u.setPart p { u.part p with cmdAt := s.clk + 1 }
    let all (f : Instr → Prop) : Prop := f (.debugHalt c tgt) ∧ f (.debugResume c tgt) ∧ f (.debugStep c tgt) ∧ f (.debugWriteRegister c tgt)
    d.busy = false →
    (s.target c tgt.toNat = none → all (fun i => exec i s = .next (result s 3)) ∧ exec (.debugReadRegister c tgt) s = .next (result s 3)) ∧
    (∀ g, s.target c tgt.toNat = some g →
      let right := (s.part (s.targetPart g).1).right
      (right = false → all (fun i => exec i s = .next (result s 1)) ∧
        exec (.debugReadRegister c tgt) s = .next (s.modCore c fun x => { x with dbg := { x.dbg with data := 0, result := 1 } })) ∧
      let done (u : State) (r : Nat) : Out := .next (judged (result u r) (s.targetPart g).1)
      (right = true →
        exec (.debugHalt c tgt) s = done (s.askHalt g) 0 ∧
        exec (.debugResume c tgt) s = done (s.unhalt g) (if s.isHalted g then 0 else 2) ∧
        (s.isHalted g = false → exec (.debugStep c tgt) s = done s 2 ∧ exec (.debugReadRegister c tgt) s = done s 2 ∧
          exec (.debugWriteRegister c tgt) s = done s 2) ∧
        (s.isHalted g = true → exec (.debugStep c tgt) s = .next (judged (s.stepTarget c g) (s.targetPart g).1)) ∧
        (∀ k t, g = .thread k → s.thread? k = some t → t.halted = true →
          (∀ w, s.threadReg k t d.space d.index = some w → exec (.debugReadRegister c tgt) s =
            .next (judged (s.modCore c fun x => { x with dbg := { x.dbg with data := w, result := 0 } }) (s.targetPart g).1)) ∧
          (s.threadReg k t d.space d.index = none → exec (.debugReadRegister c tgt) s = done s 4) ∧
          (∀ u, s.setThreadReg k t d.space d.index d.data = some u → exec (.debugWriteRegister c tgt) s =
            done (u.noteEdit c (s.targetPart g).1 (s.targetPart g).2) 0) ∧
          (s.setThreadReg k t d.space d.index d.data = none → exec (.debugWriteRegister c tgt) s = done s 4)))) ∧
    -- a halt, a resume and a step of a thread (R372, R373)
    (∀ k t, s.thread? k = some t →
      let waits := t.parked.isSome = true ∨ t.status = .arrived ∨ t.status = .held ∨ ∃ h r a b, t.status = .hwait h r a b
      (t.halted = true → s.askHalt (.thread k) = s) ∧
      (t.halted = false → waits → s.askHalt (.thread k) = s.setThread k { t with haltReq := true }) ∧
      (t.halted = false → ¬ waits → s.askHalt (.thread k) = s.haltThread k) ∧
      (t.halted = true → s.unhalt (.thread k) = s.setThread k { t with
        haltReq := false, stepping := false, halted := false, bpSkip := true, status := .ready, readyAt := s.clk, clauses := 0 }) ∧
      (t.halted = false → s.unhalt (.thread k) = s.setThread k { t with haltReq := false, stepping := false }) ∧
      s.stepTarget c (.thread k) = (result (s.unhalt (.thread k)) 5).modThread k fun t => { t with haltReq := true, stepping := true }) ∧
    -- the registers (R374)
    (∀ k t w, (∀ n : Fin 160, s.threadReg k t 0 n.val = some t.v[n]) ∧ (∀ n < 32, s.threadReg k t 1 n = some (s.bandS (bandOfThread k) n)) ∧
      (∀ n : Fin 12, s.threadReg k t 2 n.val = some (t.f[n].setWidth 32)) ∧
      (∀ n, s.threadReg k t 3 n = some (t.pc.setWidth 32) ∧ s.threadReg k t 4 n = some ((t.pc >>> 32).setWidth 32) ∧
        s.threadReg k t 5 n = some t.fstat ∧ s.threadReg k t 6 n = some t.trapstat) ∧
      (∀ n, s.setThreadReg k t 0 n w = if n < s.budgetOf k then some (s.setThread k (t.setV n w)) else none) ∧
      (∀ n, s.setThreadReg k t 5 n w = some (s.setThread k { t with fstat := w &&& fstatMask })) ∧
      (∀ n, s.setThreadReg k t 2 n w = none ∧ s.setThreadReg k t 6 n w = none) ∧
      (let pc := BitVec.ofNat 56 (t.pc.toNat / 2 ^ 32 * 2 ^ 32 + w.toNat)
       ∀ n, s.setThreadReg k t 3 n w =
         if s.pcOk (s.instOf k) pc = true then some (s.setThread k { t with pc := pc, status := .ready, brkSkip := false }) else none) ∧
      (let pc := BitVec.ofNat 56 (w.toNat * 2 ^ 32 + t.pc.toNat % 2 ^ 32)
       ∀ n, w.toNat < 2 ^ 24 → s.setThreadReg k t 4 n w =
         if s.pcOk (s.instOf k) pc = true then some (s.setThread k { t with pc := pc, status := .ready, brkSkip := false }) else none) ∧
      ∀ n, 2 ^ 24 ≤ w.toNat → s.setThreadReg k t 4 n w = none) ∧
    ((s.part part.val).right = false → exec (.debugHaltAll c part) s = .next (result s 1) ∧ exec (.debugResumeAll c part) s = .next (result s 1)) ∧
    ((s.part part.val).right = true →
      exec (.debugHaltAll c part) s = .next (judged (result ((s.partTargets c part.val).foldl State.askHalt s) 0) part.val) ∧
      exec (.debugResumeAll c part) s = .next (judged (result ((s.partTargets c part.val).foldl State.unhalt s) 0) part.val)) ∧
    exec (.debugRightGrant part) s = .next (s.setPart part.val { s.part part.val with right := true }) ∧
    ((s.part part.val).right = false → exec (.debugRightRevoke part) s = .next s) ∧
    ((s.part part.val).right = true → (s.part part.val).cmdAt = s.clk + 1 →
      exec (.debugRightRevoke part) s = .next (s.setPart part.val { s.part part.val with revoking := true })) ∧
    ((s.part part.val).right = true → (s.part part.val).cmdAt ≠ s.clk + 1 → ∃ u, exec (.debugRightRevoke part) s = .next u ∧
      u = s.revoke part.val ∧ (Rising s.parts → (u.part part.val).right = false) ∧
      ∀ j x, mget u.cores j = some x → ∀ i : Fin 16, x.dbg.bps[i].part = part.val → x.dbg.bps[i].en = false) ∧
    ∃ u w, exec (.debugHitRead c) s = .next { u with reply := s.reply ++ [.data w] } ∧ u = (s.modCore c fun x => { x with dbg := { x.dbg with hit := false } }) ∧
      w = leBytes 4 ((if d.busy then 2 ^ 31 else 0) + d.result % 8 * 2 ^ 28 + (if d.hit then 2 ^ 27 else 0) + d.hslot % 4096 * 2 ^ 12)) ∧
  (∀ (s : State) (c : Nat) (e : Fin 28) (ofs : Word) (unc : BitVec 15),
    let ks := mkeys s.threads fun k t => coreOfThread k == c && t.status != .exited && s.samplable k
    let sampled := (s.core c).sampAt = s.clk + 1
    (ks = [] ∨ sampled → exec (.stallSample c) s = .next s) ∧
    (ks ≠ [] → ¬ sampled → Rising s.threads → ∃ n k t, n < 2048 ∧ k ∈ ks ∧ s.thread? k = some t ∧
      let slot := 2048 * c + n
      ((∃ j ∈ ks, slot ≤ j) → slot ≤ k ∧ ∀ j ∈ ks, slot ≤ j → k ≤ j) ∧ ((∀ j ∈ ks, j < slot) → ∀ j ∈ ks, k ≤ j) ∧
      exec (.stallSample c) s =
        .next (({ s with freeCtr := s.freeCtr + 1 }.modCore c fun x => { x with sampAt := s.clk + 1 }).stallRecord c k t)) ∧
    -- the dies of the first ten entries, die 4 the I/O die; of two dies an entry holds counter(B) - counter(A) in 1/16 ns
    (List.range 10).map skewPair =
      [some (0, 1), some (0, 2), some (0, 3), some (0, 4), some (1, 2), some (1, 3), some (1, 4), some (2, 3), some (2, 4), some (3, 4)] ∧
    (∀ a b, skewPair e.val = some (a, b) → skewOf e.val ofs + BitVec.ofNat 32 (Config.dieOffset a) = BitVec.ofNat 32 (Config.dieOffset b)) ∧
    (∀ d, s.dieNs d = (s.clk * 32 / 5 + Config.dieOffset d) / 16) ∧
    (10 ≤ e.val → skewOf e.val ofs = ofs) ∧
    -- what a stall sample says of a thread at its clause's header, and of one that has issued in this clk (R378)
    (∀ k t, s.thread? k = some t → t.status = .header →
      let h := s.headerAt (s.instOf k) t.pc
      let waits (i : Fin 12) : Prop := bitAt h.wait i.val = true ∧ t.f[i] ≠ 0
      let full (i : Fin 12) : Prop := (h.seta = i.val ∨ h.setb = i.val) ∧ 60 < (t.f[i]).toNat
      let mem (i : Fin 12) : Prop := ∃ o ∈ s.ops, o.2.thread = k ∧ o.2.uid = t.uid ∧ o.2.flag = some i ∧ o.2.kind.isMemory = true
      (3 ∈ s.stallReasons k t ↔ ∃ i, waits i ∧ mem i) ∧
      (4 ∈ s.stallReasons k t ↔ ∃ i, (full i ∧ ¬ waits i) ∨ (waits i ∧ ¬ mem i)) ∧
      (1 ∈ s.stallReasons k t ↔ t.parked ≠ none) ∧ 2 ∉ s.stallReasons k t ∧ 5 ∉ s.stallReasons k t ∧ 7 ∉ s.stallReasons k t) ∧
    (∀ k t pc nz, (s.core (coreOfThread k)).grpAt = s.clk + 1 → (s.core (coreOfThread k)).issuedAs.find? (fun x => x.1 == k) = some (k, pc, nz) →
      s.stallPlace k t = (pc, nz)) ∧
    (10 ≤ e.val → s.planes.getLsbD (e.val - 10) = false → exec (.skewMeasure e ofs unc) s = .next s) ∧
    (e.val < 10 ∨ s.planes.getLsbD (e.val - 10) = true →
      exec (.skewMeasure e ofs unc) s = .next { s with skew := mput s.skew e.val ⟨skewOf e.val ofs, true, unc.toNat, s.upNs / 1000000⟩ }))

/-! ### The whole machine -/

namespace Sys2Proof.Says

open Sys2Proof.Machine

/-- The lane registers that a lane instruction names, in its fields and runs (R27). -/
def named : Instr → List Nat
  | .iadd d a b | .isub d a b | .imul d a b | .imulh d a b | .imulhu d a b | .imin d a b | .imax d a b | .iminu d a b | .imaxu d a b
  | .and d a b | .or d a b | .xor d a b | .andn d a b | .shl d a b | .shr d a b | .sar d a b | .fmin d a b | .fmax d a b | .xshf d a b
  | .bfe _ d a _ b | .icmp _ _ d a _ b | .fadd _ d a _ b | .fsub _ d a _ b | .fmul _ d a _ b | .fcmp _ d a _ b
  | .padd _ _ d a _ b | .pmul _ _ d a _ b | .pmin _ d a _ b | .pmax _ d a _ b => LaneDst.regs d ++ LaneSrc.regs a ++ LaneSrc.regs b
  | .imad _ d a _ b c | .bfi d a _ b c | .ffma _ d a _ b c | .pfma _ _ d a _ b c | .pdot _ _ d a _ b c | .sel d a _ b c =>
    LaneDst.regs d ++ LaneSrc.regs a ++ LaneSrc.regs b ++ LaneSrc.regs c
  | .popc d a | .clz d a | .fabs d a | .fneg d a | .fclass d a | .frcp _ d a _ | .frsq _ d a _ | .fsqrt _ d a _ | .ftrn _ _ d a _
  | .cvt _ _ _ d a _ | .frnd _ d a _ | .mov d a _ | .xbal d a | .xred _ _ d a | .xscn _ _ _ d a | .grd _ d a _ | .gconf _ _ d a _
  | .hmon d _ a _ => LaneDst.regs d ++ LaneSrc.regs a
  | .pcvt2 (.pack _ _ b) d a _ => LaneDst.regs d ++ LaneSrc.regs a ++ LaneSrc.regs b
  | .pcvt2 (.unpack ..) d a _ => LaneDst.regs d ++ LaneSrc.regs a
  | .pcvt4 (.pack _ _ _ b) d a _ c => LaneDst.regs d ++ LaneSrc.regs a ++ LaneSrc.regs b ++ LaneSrc.regs c
  | .pcvt4 (.unpack ..) d a _ c => LaneDst.regs d ++ LaneSrc.regs a ++ LaneSrc.regs c
  | .pcvt8 (.pack _ _ n) d c => LaneDst.regs d ++ runFrom 4 [n.val] ++ LaneSrc.regs c
  | .pcvt8 (.unpack _ _ _ a _) d c => LaneDst.regs d ++ LaneSrc.regs a ++ LaneSrc.regs c
  | .movi d _ | .rdsp d _ | .rdspClr d | .fence _ _ _ d => LaneDst.regs d
  | .ld sz _ _ d a _ | .ldro sz _ d a _ => runFrom sz.regs (LaneDst.regs d) ++ LaneSrc.regs a
  | .st _ sz _ _ a _ b => LaneSrc.regs a ++ runFrom sz.regs (LaneSrc.regs b)
  | .atom _ w _ _ d a _ b | .atomcas w _ _ d a _ b =>
    runFrom (if w then 2 else 1) (LaneDst.regs d) ++ LaneSrc.regs a ++ runFrom (if w then 2 else 1) (LaneSrc.regs b)
  | .red _ w _ _ a _ b => LaneSrc.regs a ++ runFrom (if w then 2 else 1) (LaneSrc.regs b)
  | .cpa _ d a _ b => d.val :: LaneSrc.regs a ++ LaneSrc.regs b
  | .harr seq d _ => LaneDst.regs d ++ (seq.map LaneSrc.regs).getD []
  | .hwait d _ b | .hwaits d _ b | .htest d _ b => LaneDst.regs d ++ LaneSrc.regs b
  | .brz a _ | .brnz a _ | .jmpi a | .calli a => LaneSrc.regs a
  | .cont _ d n => LaneDst.regs d ++ runFrom 16 [n.val]
  | .enq _ d a b => LaneDst.regs d ++ LaneSrc.regs a ++ [b.val, b.val + 1]
  | _ => []

/-- The lane registers that a lane instruction only writes: they stand first in `named`. -/
def dests : Instr → List Nat
  | .iadd d .. | .isub d .. | .imul d .. | .imulh d .. | .imulhu d .. | .imin d .. | .imax d .. | .iminu d .. | .imaxu d ..
  | .and d .. | .or d .. | .xor d .. | .andn d .. | .shl d .. | .shr d .. | .sar d .. | .fmin d .. | .fmax d .. | .xshf d ..
  | .bfe _ d .. | .icmp _ _ d .. | .fadd _ d .. | .fsub _ d .. | .fmul _ d .. | .fcmp _ d .. | .padd _ _ d .. | .pmul _ _ d ..
  | .pmin _ d .. | .pmax _ d .. | .imad _ d .. | .bfi d .. | .ffma _ d .. | .pfma _ _ d .. | .pdot _ _ d .. | .sel d ..
  | .popc d .. | .clz d .. | .fabs d .. | .fneg d .. | .fclass d .. | .frcp _ d .. | .frsq _ d .. | .fsqrt _ d .. | .ftrn _ _ d ..
  | .cvt _ _ _ d .. | .frnd _ d .. | .mov d .. | .xbal d .. | .xred _ _ d .. | .xscn _ _ _ d .. | .grd _ d .. | .gconf _ _ d ..
  | .hmon d .. | .pcvt2 _ d .. | .pcvt4 _ d .. | .pcvt8 _ d .. | .movi d .. | .rdsp d .. | .rdspClr d | .fence _ _ _ d
  | .harr _ d .. | .hwait d .. | .hwaits d .. | .htest d .. | .cont _ d .. | .enq _ d .. => LaneDst.regs d
  | .ld sz _ _ d .. | .ldro sz _ d .. => runFrom sz.regs (LaneDst.regs d)
  | .atom _ w _ _ d .. => runFrom (if w then 2 else 1) (LaneDst.regs d)
  | _ => []

/-- The lane registers that a lane instruction reads. -/
def reads (i : Instr) : List Nat := (named i).drop (dests i).length

/-- A lane instruction that is a band operation: a cross-lane opcode, or a cross-lane modifier (R25, R35, R60, R105). -/
def meets : Instr → Bool
  | .xshf .. | .xbal .. | .xred .. | .xscn .. => true
  | .imad _ _ _ x _ _ | .bfe _ _ _ x _ | .bfi _ _ x _ _ | .icmp _ _ _ _ x _ | .fadd _ _ _ x _ | .fsub _ _ _ x _ | .fmul _ _ _ x _
  | .ffma _ _ _ x _ _ | .fcmp _ _ _ x _ | .frcp _ _ _ x | .frsq _ _ _ x | .fsqrt _ _ _ x | .ftrn _ _ _ _ x | .padd _ _ _ _ x _
  | .pmul _ _ _ _ x _ | .pfma _ _ _ _ x _ _ | .pmin _ _ _ x _ | .pmax _ _ _ x _ | .pdot _ _ _ _ x _ _ | .cvt _ _ _ _ _ x
  | .frnd _ _ _ x | .pcvt2 _ _ _ x | .pcvt4 _ _ _ x _ | .pcvt8 (.unpack _ _ _ _ x) _ _ | .mov _ _ x | .sel _ _ x _ _ => x != .none
  | _ => false

/-- An event: a step that no word encodes (R22, R268). -/
def isEvent (i : Instr) : Bool := !isLane i && !isUniform i && !isCommand i

end Sys2Proof.Says

/-- R27, R34, R236, R363: a lane instruction that names a register at or beyond the budget, in any field or run, traps with the lowest such number in
DETAIL, and does nothing else; one that reads a register with an error that no code corrects traps with DETAIL 12, a band operation once for the band. A strand that meets a lane instruction traps. That the budget
is checked before the predicate and before the rendezvous is the model's choice (log 91). -/
def Obligations.BudgetAndStrandTraps : Prop :=
  ∀ (i : Instr) s, isLane i = true →
    (∀ q, s.cur = .strand q → exec i s = .next (s.strandTrap q ⟨1, 0, 0⟩)) ∧
    (∀ k t m, Runs s k t → m ∈ named i → s.budgetOf k ≤ m → (∀ n ∈ named i, s.budgetOf k ≤ n → m ≤ n) →
      exec i s = .next (s.trapAt k ⟨3, m, 0⟩ (meets i) 0)) ∧
    ∀ k t, Runs s k t → (∀ n ∈ named i, n < s.budgetOf k) →
      (meets i = false → t.anyBad (reads i) = true → exec i s = .next (s.trapAt k ⟨5, 12, 0⟩ false 0)) ∧
      ∀ ks, meets i = true → MeetsAs s k t ks → (∃ j ∈ ks, ∃ x, (met s k t).thread? j = some x ∧ x.anyBad (reads i) = true) →
        exec i s = .next (State.bandFinish ks ((Res.trap (met s k t) ⟨5, 12, 0⟩).piped k t.trapMode))

/-- Every step runs: nothing is refused. An event always has a next state; an instruction has one whenever an agent of its kind executes it: a resident thread or a strand for a
lane or uniform word, a stream for a command. Without one it stops, and only so (the model's own, log 3). -/
def Obligations.EveryStepAnswers : Prop :=
  ∀ (i : Instr) s,
    (isEvent i = true → i ≠ .clauseStart → ∃ u, exec i s = .next u) ∧
    (isLane i = true ∨ isUniform i = true ∨ i = .clauseStart →
      (∀ k t, Runs s k t → ∃ u, exec i s = .next u) ∧ (∀ q, s.cur = .strand q → ∃ u, exec i s = .next u) ∧
      ((∀ k t, ¬ Runs s k t) → (∀ q, s.cur ≠ .strand q) → exec i s = .fault .noAgent)) ∧
    (isCommand i = true →
      (∀ id, s.cur = .stream id → ∃ u, exec i s = .next u) ∧ ((∀ id, s.cur ≠ .stream id) → exec i s = .fault .noAgent))

/-- R235, R238, R239, R241: taking a trap: SP.TRAPSTAT is written; with a handler and out of trap mode the thread goes on at it in trap mode, with its registers, flags and return stack as they are;
otherwise the trap is unhandled. And the fields of SP.TRAPSTAT. -/
def Obligations.TakingATrap : Prop :=
  (∀ (s : State) k t stat pt, s.thread? k = some t →
    (∀ h, s.handlerPc (bandOfThread k) = some h → t.trapMode = false → t.haltReq = false →
      ∃ t', (s.takeTrap k stat pt).thread? k = some t' ∧ OnlyThread s (s.takeTrap k stat pt) k t ∧ t'.trapstat = stat ∧ t'.trapMode = true ∧
        t'.pc = h ∧ t'.status = .ready ∧ t'.trapPt = pt ∧ t'.v = t.v ∧ t'.f = t.f ∧ t'.fstat = t.fstat ∧ t'.rs = t.rs) ∧
    (s.handlerPc (bandOfThread k) = none ∨ t.trapMode = true →
      s.takeTrap k stat pt = (s.setThread k { t with trapstat := stat }).unhandled k stat t.pc)) ∧
  (∀ (s : State) k t c unif src, s.thread? k = some t →
    s.trapAt k c unif src = s.takeTrap k (trapWord c false unif 0 (slotOf t.pc)) ⟨t.pc, s.pcAfter k, src⟩) ∧
  ∀ (c : Cause) (defer unif : Bool) (flag slot : Nat), c.cause < 32 → c.detail < 256 → c.num < 256 → flag < 16 → slot < 8 →
    let w := (trapWord c defer unif flag slot).toNat
    w / 2 ^ 27 = c.cause ∧ (w / 2 ^ 26 % 2 = 1 ↔ defer = true) ∧ (w / 2 ^ 25 % 2 = 1 ↔ unif = true) ∧ w / 2 ^ 24 % 2 = 0 ∧
      w / 2 ^ 16 % 256 = c.detail ∧ w / 2 ^ 8 % 256 = c.num ∧ w / 2 ^ 4 % 16 = flag ∧ w / 2 ^ 3 % 2 = 0 ∧ w % 8 = slot

/-- R215, R216, R330: a read after a write: a byte just written reads as written, every other byte as before, and a line waiting to be zeroed reads 0 until it is written. -/
def Obligations.MemoryReadsBack : Prop :=
  ∀ (s : State) (h : Nat) (bs : List Byte), Memory.wf s.mem = true →
    let u := s.writeHome h bs
    Memory.wf u.mem = true ∧ (∀ i, i < bs.length → u.byte (h + i) = bs.getD i 0) ∧
    (∀ a, a < h ∨ h + bs.length ≤ a → u.byte a = s.byte a) ∧ (∀ a, a / 64 ∈ s.pendZero → s.byte a = 0) ∧
    u.threads = s.threads ∧ u.bands = s.bands ∧ u.lines = s.lines ∧ ∀ n, (u.bytes h n).length = n

/-- R29: the 64 constants in their integer, float and 64-bit readings, the field values that select them, and which reading a source takes:
the integer one, the float one, CVT's by its source type, a packed one in both halves. -/
def Obligations.ConstantTable : Prop :=
  (∀ i : Fin 16,
    (constInt i.val).toInt = i.val ∧ (constInt (16 + i.val)).toInt = -1 - (i.val : Int) ∧ (constInt (32 + i.val)).toNat = 2 ^ i.val) ∧
  (List.range 16).map (fun i => constInt (48 + i)) =
    [0x80000000, 0x7FFFFFFF, 0x0000FFFF, 0x000000FF, 0x7F800000, 0xFF800000, 0x7FC00000, 0x7F7FFFFF, 0x00800000, 0x00007FFF, 0xFFFF8000,
      0x0000007F, 0xFFFFFF80, 0x55555555, 0x33333333, 0x0F0F0F0F] ∧
  (List.range 16).map constF32 =
    [0, 0x3F800000, 0x40000000, 0x40400000, 0x40800000, 0x40A00000, 0x40C00000, 0x40E00000, 0x41000000, 0x41100000, 0x41200000, 0x41300000,
      0x41400000, 0x41500000, 0x41600000, 0x41700000] ∧
  (∀ i : Fin 15, constF32 (16 + i.val) = constF32 (1 + i.val) + 0x80000000) ∧ constF32 31 = 0xC1800000 ∧
  (∀ i : Fin 16, constF32 (32 + i.val) = BitVec.ofNat 32 ((119 + i.val) * 2 ^ 23)) ∧
  (List.range 16).map (fun i => constF32 (48 + i)) =
    [0x3EAAAAAB, 0x3F2AAAAB, 0x3E4CCCCD, 0x3E2AAAAB, 0x3E124925, 0x3DE38E39, 0x3DCCCCCD, 0x3DAAAAAB, 0x40490FDB, 0x3EA2F983, 0x40C90FDB,
      0x3F317218, 0x3FB8AA3B, 0x3FB504F3, 0x3F3504F3, 0x40549A78] ∧
  (∀ k : Fin 64, k.val < 48 → const64 k.val = (BitVec.ofInt 64 (constInt k.val).toInt).toNat) ∧
  (∀ k : Fin 64, 48 ≤ k.val → const64 k.val = (constInt k.val).toNat) ∧
  (∀ k : Fin 64, dLaneSrc (192 + k.val) = .k k ∧ (dUniSrc (192 + k.val)).toOption = some (.k k)) ∧
  ∀ (s : State) (j : Nat) (p : Party) (k : Fin 64),
    let f : FVal := rd32 (constF32 k.val)
    s.laneSrc j .int (.k k) = constInt k.val ∧ s.laneSrc j .f32 (.k k) = constF32 k.val ∧
    (s.uniSrc p false (.k k)).1 = constInt k.val ∧ (s.uniSrc p true (.k k)).1 = constF32 k.val ∧ s.laneSrc64 j true (.k k) = const64 k.val ∧
    (∀ fmt, let h := ((pfmt fmt).deliver .nearest f).1 % 2 ^ 16
      s.laneSrc j (.packed fmt) (.k k) = BitVec.ofNat 32 (h + h * 2 ^ 16)) ∧
    (∀ st ∈ [NumType.s8, .s16, .s32, .u8, .u16, .u32], s.laneSrc j (.cvt st) (.k k) = constInt k.val) ∧
    s.laneSrc j (.cvt .f32) (.k k) = constF32 k.val ∧
    ∀ st ∈ [NumType.f16, .bf16, .e4m3, .e5m2, .e2m1, .e8m0], s.laneSrc j (.cvt st) (.k k) = (NumType.deliver st .nearest f).1

/-- After reset nothing is resident or bound, no queue is enabled, no partition is live, no debug right is held, every line is at NONE, and memory is in its canonical form, listing
nothing (the values the manual does not give are those of log 1 and log 2). -/
def Obligations.ResetLeaves : Prop :=
  let s := State.reset
  Memory.wf s.mem = true ∧ (∀ a, s.byte a = 0) ∧ (∀ k, s.thread? k = none) ∧ (∀ b, s.band? b = none) ∧ (∀ b, s.block? b = none) ∧
  (∀ h, (s.hasp h).valid = false) ∧ (∀ n, s.inst? n = none) ∧ (∀ k, (s.queue k).state = 0 ∧ (s.queue k).enable = false) ∧
  (∀ i, (s.bind i).valid = false) ∧ (∀ p, (s.part p).live = false ∧ (s.part p).right = false) ∧ (∀ l, (s.line l).grade = .none) ∧
  s.udpPort = 19270 ∧ s.linkCounts = (18, 6, 2) ∧ s.waiting = [] ∧ s.saved = [] ∧ s.tlbs = [] ∧ s.faults = [] ∧ s.recovery.active = false ∧ s.thermal = false ∧ s.pause = false ∧ s.script = [] ∧ s.issue = []

/-- R13, R19, R118, R195, R197, R203, R266, R362, R368, R371, R375: a step runs the decoded instruction. The next thread of the issue group executes the instruction at its pc, once its routine's count has advanced; a
core's turn forms a group, one in a clk; a thread's turn enters its clause, or goes on at the instruction that holds it or at its rendezvous; a strand's turn executes the instruction at its pc, a stream's turn its next command,
and an event's turn the event, after the clks that pass before the turn. A word that is no instruction traps. As a step is done, threads of stopping bands that cannot go on end (R250), launch frames that need wait no longer are processed (R285) and the
blocks that may end do. After a thermal shutdown only a reset acts, while the recovery window
is open only what it answers.
Which agent has the next turn is read from the schedule in State: the model's choice (log 3). -/
def Obligations.StepRunsTheDecodedInstruction : Prop :=
  let ends (o : Out) : Out :=
    match o with
    | .next u => .next u.stopIdle.framesDue.endBlocks
    | o => o
  -- what a stall sample of the clk sees of an issue (R378)
  let noted (u : State) (k : Nat) (t : Thread) : State := u.modCore (coreOfThread k) fun x => { x with issuedAs := (k, t.pc, t.flagNz) :: x.issuedAs }
  let words (u : State) (k : Nat) (t : Thread) : List Word := [u.codeAt (u.instOf k) t.pc, u.codeAt (u.instOf k) (t.pc + 4)]
  (∀ (s : State) k rest t, s.issue = k :: rest → s.thread? k = some t →
    let u := { s with issue := rest }
    (u.canIssue k t = false → step s = ends (.next u)) ∧
    (u.canIssue k t = true → u.breakThread k t = true → step s = ends (.next (if u.stops k = true then u.endThread k else u.haltThread k))) ∧
    (u.canIssue k t = true → u.breakThread k t = false →
      (∀ i ws, decode (words u k t) = .ok (i, ws) → step s = ends (exec i { (noted u k t).countIssue k with cur := .thread k })) ∧
      ∀ e, decode (words u k t) = .error e → step s = ends (.next (((noted u k t).countIssue k).badWord k (words u k t))))) ∧
  (∀ s : State, s.issue = [] → s.script = [] → step s = ends (.next (s.passTime 1))) ∧
  ∀ (s : State) n rest,
    let v := State.passTime { s with script := rest } n
    let runs := v.thermal = false ∧ v.recovery.active = false
    s.issue = [] →
    (∀ a, s.script = ⟨n, a⟩ :: rest →
      (v.thermal = true ∧ a ≠ .outside .reset) ∨ (v.recovery.active = true ∧ a.whileRecovering = false) → step s = ends (.next v)) ∧
    (∀ c, s.script = ⟨n, .core c⟩ :: rest → runs →
      ((v.core c).grpAt = v.clk + 1 → step s = ends (.next v)) ∧
      ((v.core c).grpAt ≠ v.clk + 1 → step s = ends (.next
        { v.modCore c (fun x => { x with grpAt := v.clk + 1, issuedAs := [] }) with issue := v.issueGroup c }))) ∧
    (∀ k t, s.script = ⟨n, .thread k⟩ :: rest → runs → v.thread? k = some t →
      let edge := slotOf t.pc = 0 ∧ (t.status = .ready ∨ t.status = .header)
      let goes := t.status = .held ∨ (t.status = .arrived ∧ ((t.trapMode = false ∧ v.inPm k = false) ∨ v.meeting k ≠ .waiting))
      (edge → step s = ends (exec .clauseStart { v with cur := .thread k })) ∧
      (¬ edge → v.free k t = false ∨ ¬ goes → step s = ends (.next v)) ∧
      ∀ i ws, ¬ edge → v.free k t = true → goes → decode (words v k t) = .ok (i, ws) → step s = ends (exec i { v with cur := .thread k })) ∧
    (∀ q, s.script = ⟨n, .strand q⟩ :: rest → runs →
      let x := v.strand q
      (v.strandFree q = false → step s = ends (.next v)) ∧
      (v.strandFree q = true →
        (x.haltReq = true → step s = ends (.next (v.haltStrand q))) ∧
        (x.haltReq = false → slotOf x.pc = 0 → step s = ends (exec .clauseStart { v with cur := .strand q })) ∧
        (x.haltReq = false → slotOf x.pc ≠ 0 → v.breakStrand q = true → step s = ends (.next (v.haltStrand q))) ∧
        (x.haltReq = false → slotOf x.pc ≠ 0 → v.breakStrand q = false →
          (∀ i ws, decode (v.wordsAt (v.strandInst q) x.pc) = .ok (i, ws) → step s = ends (exec i { v with cur := .strand q })) ∧
          ∀ e, decode (v.wordsAt (v.strandInst q) x.pc) = .error e → step s = ends (.next (v.strandTrap q ⟨1, 0, 0⟩))))) ∧
    (∀ id, s.script = ⟨n, .stream id⟩ :: rest → runs →
      (v.streamRuns id = false → step s = ends (.next v)) ∧
      (∀ i ws, v.streamRuns id = true → decodeCmd (v.streamWords id) = .ok (i, ws) → step s = ends (exec i { v with cur := .stream id })) ∧
      ∀ e, v.streamRuns id = true → decodeCmd (v.streamWords id) = .error e → e ≠ .missingWord → step s = ends (.next (v.streamFault id 5))) ∧
    (∀ i, s.script = ⟨n, .outside i⟩ :: rest → runs ∨ i = .reset ∨ (v.thermal = false ∧ (Actor.outside i).whileRecovering = true) →
      step s = ends (exec i { v with cur := .nobody })) ∧
    ∀ a, s.script = ⟨n, .arrive a⟩ :: rest → runs ∨ (v.thermal = false ∧ (Actor.arrive a).whileRecovering = true) →
      step s = ends (.next (v.reached a))

/-- R22, R23, R24, R26, R29, R268: words decode to the instructions that the manual's own encoding examples give for them. -/
def Obligations.ExampleWordsDecode : Prop :=
  let is (ws : List Word) (i : Instr) : Prop := decode ws = .ok (i, [])
  is [0x53010000] (.rdsp (.v 1) 0) ∧ is [0x0E0201C2] (.shl (.v 2) (.v 1) (.k 2)) ∧ is [0x000302A0] (.iadd (.v 3) (.v 2) (.s 0)) ∧
  is [0x05060102, 0x00018001] (.imad .signed (.v 6) (.v 1) .none (.v 2) (.v 3)) ∧
  is [0x42090102, 0x00018008] (.pfma .bf16 .nearest (.v 9) (.v 1) .none (.v 2) (.v 3)) ∧
  is [0x50020100, 0x41000000] (.mov (.v 2) (.v 1) (.down 2)) ∧ is [0x60060400, 0xC0000000] (.ld .u32 .relaxed .b (.v 6) (.v 4) 0) ∧
  is [0x62020307, 0x49000040] (.st .prov .u32 (.rel .pkg) .a (.v 3) 64 (.v 7)) ∧ is [0x6B0200C0, 0x04000000] (.hwait (.v 2) 1 (.k 0)) ∧
  is [0x7A000007] (.trap 7) ∧ is [0x800301C4] (.sadd (.s 3) (.s 1) (.k 4)) ∧ is [0xA30A0000, 0xFFFFFFFD] (.sloop 10 (-3)) ∧
  is [0xC10408EC, 0x00000001] (.hsrc 4 1 (.s 8) (.k 44)) ∧ is [0xD2C00506, 0xE1C00000] (.mxmm .bf16 7 .b (.s 5) 0 (.k 0) (.s 6)) ∧
  is [0xE0090A00, 0x48000000] (.cpt (some 4) .a (.s 9) (.s 10) 0 0) ∧ is [0xF3000001] .tretSkip ∧
  decodeCmd [0x09082000] = .ok (.cadd 4 2 (.imm 0), []) ∧ decodeCmd [0x50140000, 0x00000051] = .ok (.signal 0 false 5 0x51, [])

/-- R20 to R26, R33, R86, R268: encoding and decoding agree: every well-formed instruction that has words decodes from them, with every operand, whatever words follow; and an event
has none. -/
def Obligations.DecodeInvertsEncode : Prop :=
  ∀ (i : Instr), (encode i = none ↔ isEvent i = true) ∧ ∀ ws rest : List Word, encode i = some ws → i.wf = true →
    (isCommand i = false → decode (ws ++ rest) = .ok (i, rest)) ∧ (isCommand i = true → decodeCmd (ws ++ rest) = .ok (i, rest))

/-- The canonical form of memory (the model's own, log 2) is kept by every step, from every state that has it, so that equal memories are equal data. -/
def Obligations.StepsKeepMemoryCanonical : Prop :=
  ∀ (s t : State), Memory.wf s.mem = true → step s = .next t → Memory.wf t.mem = true
end

