-- ==== Sys2Proof/Laws/Decode.lean ====
section
/-! SUPPORT. The fields of encoded words, the operands' and modifiers' round trips, and how a list of words decodes by its first word's
fields. (A proof about a two-word instruction is shortest over words of which only the fields are known, as the lemmas below give them.) -/

namespace Sys2Proof

/-! ### The fields of words -/

/-- The fields of a device word (R22). -/
theorem devWord_fields {s o d a b : Nat} (hs : s < 2) (ho : o < 128) (hd : d < 256) (ha : a < 256) (hb : b < 256) :
    fSet (devWord s o d a b) = s ∧ fOp (devWord s o d a b) = o ∧ fD (devWord s o d a b) = d ∧ fA (devWord s o d a b) = a ∧
      fB (devWord s o d a b) = b ∧ (BitVec.ofNat 32 (devWord s o d a b)).toNat = devWord s o d a b := by
  simp only [fSet, fOp, fD, fA, fB, bits, devWord, BitVec.toNat_ofNat]
  omega

/-- The fields of a form-S second word (R23). -/
theorem sWord_fields {x c m : Nat} (hx : x < 256) (hc : c < 256) (hm : m < 32768) :
    fAB (sWord x c m) = 0 ∧ fXL (sWord x c m) = x / 32 ∧ fXLN (sWord x c m) = x % 32 ∧ fC (sWord x c m) = c ∧ fModS (sWord x c m) = m ∧
      sWord x c m < 2 ^ 32 := by
  simp only [fAB, fXL, fXLN, fC, fModS, bits, sWord]
  omega

/-- The fields of a form-M second word (R23). -/
theorem mWord_fields {ab m o : Nat} (hx : ab < 2) (hm : m < 512) (ho : o < 4194304) :
    fAB (mWord ab m o) = ab ∧ fModM (mWord ab m o) = m ∧ fOfs (mWord ab m o) = o ∧ mWord ab m o < 2 ^ 32 := by
  simp only [fAB, fModM, fOfs, bits, mWord]
  omega

/-- The fields of a command word (R268). -/
theorem cmdWord_fields {o d a b x : Nat} (ho : o < 64) (hd : d < 16) (ha : a < 16) (hb : b < 16) (hx : x < 16384) :
    cOp (cmdWord o d a b x) = o ∧ cD (cmdWord o d a b x) = d ∧ cA (cmdWord o d a b x) = a ∧ cB (cmdWord o d a b x) = b ∧
      cX (cmdWord o d a b x) = x ∧ (BitVec.ofNat 32 (cmdWord o d a b x)).toNat = cmdWord o d a b x := by
  simp only [cOp, cD, cA, cB, cX, bits, cmdWord, BitVec.toNat_ofNat]
  omega

/-! ### Operands and modifiers -/

@[simp] theorem eLaneSrc_lt (a : LaneSrc) : eLaneSrc a < 256 := by cases a <;> simp only [eLaneSrc] <;> omega
@[simp] theorem eLaneDst_lt (a : LaneDst) : eLaneDst a < 256 := by cases a <;> simp only [eLaneDst] <;> omega
@[simp] theorem eUniSrc_lt (a : UniSrc) : eUniSrc a < 256 := by cases a <;> simp only [eUniSrc] <;> omega
@[simp] theorem eUniDst_lt (a : UniDst) : eUniDst a < 256 := by cases a <;> simp only [eUniDst] <;> omega
@[simp] theorem eXl_lt (a : Xl) : eXl a < 256 := by cases a <;> simp only [eXl] <;> omega
theorem toFin_val {k : Nat} [NeZero k] (n : Fin k) : toFin k n.val = n := by ext; simp [toFin]
@[simp] theorem toFin_add_sub {k : Nat} [NeZero k] (c : Nat) (n : Fin k) : toFin k (c + n.val - c) = n := by rw [Nat.add_sub_cancel_left]; exact toFin_val n
@[simp] theorem dLaneSrc_e (a : LaneSrc) : dLaneSrc (eLaneSrc a) = a := by
  cases a with
  | v n => simp [dLaneSrc, eLaneSrc, toFin_val, n.2]
  | s n =>
    have e : eLaneSrc (.s n) = 160 + n.val := rfl
    have h := n.2
    rw [dLaneSrc, if_neg (by omega), if_pos (by omega), e, toFin_add_sub]
  | k n =>
    have e : eLaneSrc (.k n) = 192 + n.val := rfl
    have h := n.2
    rw [dLaneSrc, if_neg (by omega), if_neg (by omega), e, toFin_add_sub]
@[simp] theorem dLaneDst_e (a : LaneDst) : dLaneDst (eLaneDst a) = .ok a := by
  cases a with
  | v n => simp [dLaneDst, eLaneDst, toFin_val, n.2]
  | discard => rfl
@[simp] theorem dUniDst_e (a : UniDst) : dUniDst (eUniDst a) = .ok a := by
  cases a with
  | s n => simp [dUniDst, eUniDst, toFin_val, n.2]
  | discard => rfl
@[simp] theorem dUniSrc_e {a : UniSrc} (h : a.wf = true) : dUniSrc (eUniSrc a) = .ok a := by
  cases a with
  | s n => simp [dUniSrc, eUniSrc, toFin_val, n.2]
  | sp n =>
    have e : eUniSrc (.sp n) = 32 + n.val := rfl
    have hn := n.2
    rw [dUniSrc, if_neg (by omega), if_pos (by omega), e, toFin_add_sub, if_pos h]
  | k n =>
    have e : eUniSrc (.k n) = 192 + n.val := rfl
    have hn := n.2
    rw [dUniSrc, if_neg (by omega), if_neg (by omega), if_neg (by omega), e, toFin_add_sub]
theorem dXl_e {w2 : Nat} {a : LaneSrc} {x : Xl} (h1 : fXL w2 = eXl x / 32) (h2 : fXLN w2 = eXl x % 32) (h : xlWf a x = true) : dXl w2 a = .ok x := by
  cases x with
  | none => simp [dXl, h1, h2, eXl, h, bind, Except.bind]
  | idx n | xor n | up n | down n =>
    have hn := n.2
    have e1 : fXL w2 = eXl _ / 32 := h1
    simp only [eXl] at h1 h2
    have h2' : fXLN w2 = n.val := by omega
    first
      | (have h1' : fXL w2 = 1 := by omega
         simp [dXl, h1', h2', toFin_val, h, bind, Except.bind])
      | (have h1' : fXL w2 = 2 := by omega
         simp [dXl, h1', h2', toFin_val, h, bind, Except.bind])
      | (have h1' : fXL w2 = 3 := by omega
         simp [dXl, h1', h2', toFin_val, h, bind, Except.bind])
      | (have h1' : fXL w2 = 4 := by omega
         simp [dXl, h1', h2', toFin_val, h, bind, Except.bind])
@[simp] theorem eRm_lt (r : Rm) : eRm r < 4 := by cases r <;> decide
@[simp] theorem dRm_e (r : Rm) : dRm (eRm r) = .ok r := by cases r <;> rfl
@[simp] theorem eICond_lt (r : ICond) : eICond r < 6 := by cases r <;> decide
@[simp] theorem dICond_e (r : ICond) : dICond (eICond r) = .ok r := by cases r <;> rfl
@[simp] theorem eFCond_lt (r : FCond) : eFCond r < 8 := by cases r <;> decide
@[simp] theorem dFCond_e (r : FCond) : dFCond (eFCond r) = .ok r := by cases r <;> rfl
@[simp] theorem eTrn_lt (r : TrnFn) : eTrn r < 4 := by cases r <;> decide
@[simp] theorem dTrn_e (r : TrnFn) : dTrn (eTrn r) = r := by cases r <;> rfl
@[simp] theorem eFmt_lt (r : PFmt) : eFmt r < 2 := by cases r <;> decide
@[simp] theorem dFmt_e (r : PFmt) : dFmt (eFmt r) = r := by cases r <;> rfl
@[simp] theorem eNumType_lt (r : NumType) : eNumType r < 13 := by cases r <;> decide
@[simp] theorem dNumType_e (r : NumType) : dNumType (eNumType r) = .ok r := by cases r <;> rfl
@[simp] theorem eT8_lt (r : T8) : eT8 r < 3 := by cases r <;> decide
@[simp] theorem dT8_e (r : T8) : dT8 (eT8 r) = .ok r := by cases r <;> rfl
@[simp] theorem eXOp_lt (r : XOp) : eXOp r < 11 := by cases r <;> decide
@[simp] theorem dXOp_e (r : XOp) : dXOp (eXOp r) = .ok r := by cases r <;> rfl
@[simp] theorem eSz_lt (r : Sz) : eSz r < 7 := by cases r <;> decide
@[simp] theorem dSz_e (r : Sz) : dSz (eSz r) = .ok r := by cases r <;> rfl
@[simp] theorem eScope_lt (r : Scope) : eScope r < 5 := by cases r <;> decide
@[simp] theorem dScope_e (r : Scope) : dScope (eScope r) = .ok r := by cases r <;> rfl
@[simp] theorem eOrd_lt (r : Ord16) : eOrd r < 16 := by rcases r with _ | s | s | s <;> (try cases s) <;> decide
@[simp] theorem dOrd_e (r : Ord16) : dOrd (eOrd r) = .ok r := by rcases r with _ | s | s | s <;> (try cases s) <;> rfl
@[simp] theorem eAtomOp_lt (r : AtomOp) : eAtomOp r < 10 := by cases r <;> decide
@[simp] theorem dAtomOp_e (r : AtomOp) : dAtomOp (eAtomOp r) = .ok r := by cases r <;> rfl
@[simp] theorem eKind_lt (r : FenceKind) : eKind r < 3 := by cases r <;> decide
@[simp] theorem dKind_e (r : FenceKind) : dKind (eKind r) = .ok r := by cases r <;> rfl
@[simp] theorem eGrade_lt (r : Grade) : eGrade r < 4 := by cases r <;> decide
@[simp] theorem dGrade_e (r : Grade) : dGrade (eGrade r) = r := by cases r <;> rfl
@[simp] theorem eMFmt_lt (r : MFmt) : eMFmt r < 4 := by cases r <;> decide
@[simp] theorem dMFmt_e (r : MFmt) : dMFmt (eMFmt r) = r := by cases r <;> rfl
@[simp] theorem eCCond_lt (r : CCond) : eCCond r < 6 := by cases r <;> decide
@[simp] theorem dCCond_e (r : CCond) : dCCond (eCCond r) = .ok r := by cases r <;> rfl
@[simp] theorem eAb_lt (r : Ab) : eAb r < 2 := by cases r <;> decide
@[simp] theorem eSat_lt (r : Sat) : eSat r < 3 := by cases r <;> decide
@[simp] theorem boolNat_lt (r : Bool) : boolNat r < 2 := by cases r <;> decide
@[simp] theorem eSeq_lt (q : Seq) : eSeq q < 2 := by cases q <;> decide
theorem eSem_lt (n : Nat) (q : Option Scope) (h : n < 4) : eSem n q < 32 := by
  cases q with
  | none => simp [eSem]
  | some s => have := eScope_lt s; simp only [eSem]; omega
theorem eCnt_lt (q : Option (Fin 32)) : eCnt q < 512 := by
  cases q with
  | none => simp [eCnt]
  | some s => have := s.2; simp only [eCnt]; omega
theorem dAb_e {w2 : Nat} {ab : Ab} (h : fAB w2 = eAb ab) : dAb w2 = ab := by cases ab <;> simp [dAb, h, eAb]
@[simp] theorem dCnt_e (c : Option (Fin 32)) : dCnt (eCnt c) = .ok c := by
  cases c with
  | none => rfl
  | some h =>
    have hh := h.2
    have e : eCnt (some h) = 256 + h.val * 8 := rfl
    have a1 : bits (256 + h.val * 8) 2 0 = 0 := by simp only [bits]; omega
    have a2 : bitAt (256 + h.val * 8) 8 = true := by simp only [bitAt, beq_iff_eq]; omega
    have a3 : bits (256 + h.val * 8) 7 3 = h.val := by simp only [bits]; omega
    rw [dCnt.eq_def, e]; simp [a1, a2, a3, zeroMod, toFin_val, bind, Except.bind]
theorem dSem_e {mm n : Nat} {q : Option Scope} (h : mm % 128 = eSem n q) (hn : n = 1 ∨ n = 2) : dSem mm n = .ok q := by
  cases q with
  | none =>
    have a1 : bits mm 6 5 = 0 := by simp only [eSem, bits] at *; omega
    have a2 : bits mm 4 3 = 0 := by simp only [eSem, bits] at *; omega
    have a3 : bits mm 2 0 = 0 := by simp only [eSem, bits] at *; omega
    simp [dSem, a1, a2, a3, zeroMod, bind, Except.bind]
  | some s =>
    have := eScope_lt s
    have a1 : bits mm 6 5 = 0 := by simp only [eSem, bits] at *; omega
    have a2 : bits mm 4 3 = n := by simp only [eSem, bits] at *; omega
    have a3 : bits mm 2 0 = eScope s := by simp only [eSem, bits] at *; omega
    have a4 : n ≠ 0 := by omega
    simp [dSem, a1, a2, a3, a4, zeroMod, bind, Except.bind, Except.map]

/-! ### Decoding by the fields of the first word -/

theorem decode_one {x : Word} {i : Instr} (rest : List Word) (ht : twoWord x.toNat = false) (h : decodeDevice x.toNat 0 = .ok i) :
    decode (x :: rest) = .ok (i, rest) := by
  rw [decode.eq_def]; simp only [ht, h]; rfl
theorem decode_two {x y : Word} {i : Instr} (rest : List Word) (ht : twoWord x.toNat = true) (h : decodeDevice x.toNat y.toNat = .ok i) :
    decode (x :: y :: rest) = .ok (i, rest) := by
  rw [decode.eq_def]; simp only [ht, h]; rfl

/-- A one-word device instruction decodes by the fields of its word. -/
theorem decode_devWord {s o d a b : Nat} {i : Instr} (rest : List Word) (hs : s < 2) (ho : o < 128) (hd : d < 256) (ha : a < 256) (hb : b < 256)
    (ht : ∀ w, fSet w = s → fOp w = o → twoWord w = false)
    (h : ∀ w, fSet w = s → fOp w = o → fD w = d → fA w = a → fB w = b → decodeDevice w 0 = .ok i) :
    decode (BitVec.ofNat 32 (devWord s o d a b) :: rest) = .ok (i, rest) := by
  obtain ⟨h1, h2, h3, h4, h5, e⟩ := devWord_fields hs ho hd ha hb
  refine decode_one rest ?_ ?_ <;> rw [e]
  · exact ht _ h1 h2
  · exact h _ h1 h2 h3 h4 h5

/-- A two-word device instruction decodes by the fields of its first word. -/
theorem decode_devWord_two {s o d a b w2 : Nat} {i : Instr} (rest : List Word) (hs : s < 2) (ho : o < 128) (hd : d < 256) (ha : a < 256)
    (hb : b < 256) (hw : w2 < 2 ^ 32) (ht : ∀ w, fSet w = s → fOp w = o → twoWord w = true)
    (h : ∀ w, fSet w = s → fOp w = o → fD w = d → fA w = a → fB w = b → decodeDevice w w2 = .ok i) :
    decode (BitVec.ofNat 32 (devWord s o d a b) :: BitVec.ofNat 32 w2 :: rest) = .ok (i, rest) := by
  obtain ⟨h1, h2, h3, h4, h5, e⟩ := devWord_fields hs ho hd ha hb
  have e2 : (BitVec.ofNat 32 w2).toNat = w2 := by rw [BitVec.toNat_ofNat]; exact Nat.mod_eq_of_lt hw
  refine decode_two rest ?_ ?_ <;> rw [e]
  · exact ht _ h1 h2
  · rw [e2]; exact h _ h1 h2 h3 h4 h5

theorem decodeCmd_one {x : Word} {i : Instr} (rest : List Word) (ht : twoWordCommand x.toNat = false) (h : decodeCommand x.toNat 0 = .ok i) :
    decodeCmd (x :: rest) = .ok (i, rest) := by
  rw [decodeCmd.eq_def]; simp only [ht, h]; rfl
theorem decodeCmd_two {x y : Word} {i : Instr} (rest : List Word) (ht : twoWordCommand x.toNat = true) (h : decodeCommand x.toNat y.toNat = .ok i) :
    decodeCmd (x :: y :: rest) = .ok (i, rest) := by
  rw [decodeCmd.eq_def]; simp only [ht, h]; rfl

/-- A one-word command decodes by the fields of its word. -/
theorem decodeCmd_cmdWord {o d a b x : Nat} {i : Instr} (rest : List Word) (ho : o < 64) (hd : d < 16) (ha : a < 16) (hb : b < 16)
    (hx : x < 16384) (ht : ∀ w, cOp w = o → twoWordCommand w = false)
    (h : ∀ w, cOp w = o → cD w = d → cA w = a → cB w = b → cX w = x → decodeCommand w 0 = .ok i) :
    decodeCmd (BitVec.ofNat 32 (cmdWord o d a b x) :: rest) = .ok (i, rest) := by
  obtain ⟨h1, h2, h3, h4, h5, e⟩ := cmdWord_fields ho hd ha hb hx
  refine decodeCmd_one rest ?_ ?_ <;> rw [e]
  · exact ht _ h1
  · exact h _ h1 h2 h3 h4 h5

/-- A two-word command decodes by the fields of its first word. -/
theorem decodeCmd_cmdWord_two {o d a b x w2 : Nat} {i : Instr} (rest : List Word) (ho : o < 64) (hd : d < 16) (ha : a < 16) (hb : b < 16)
    (hx : x < 16384) (hw : w2 < 2 ^ 32) (ht : ∀ w, cOp w = o → twoWordCommand w = true)
    (h : ∀ w, cOp w = o → cD w = d → cA w = a → cB w = b → cX w = x → decodeCommand w w2 = .ok i) :
    decodeCmd (BitVec.ofNat 32 (cmdWord o d a b x) :: BitVec.ofNat 32 w2 :: rest) = .ok (i, rest) := by
  obtain ⟨h1, h2, h3, h4, h5, e⟩ := cmdWord_fields ho hd ha hb hx
  have e2 : (BitVec.ofNat 32 w2).toNat = w2 := by rw [BitVec.toNat_ofNat]; exact Nat.mod_eq_of_lt hw
  refine decodeCmd_two rest ?_ ?_ <;> rw [e]
  · exact ht _ h1
  · rw [e2]; exact h _ h1 h2 h3 h4 h5

end Sys2Proof
end

