-- ==== Sys2Proof/Laws/Maps.lean ====
section
/-! SUPPORT. The laws of tables: what is read after a write, and that every operation keeps the keys rising. -/

namespace Sys2Proof.Machine

variable {α : Type}

@[simp] theorem mget_nil (k : Nat) : mget ([] : Table α) k = none := rfl

theorem mget_cons (j : Nat) (a : α) (m : Table α) (k : Nat) :
    mget ((j, a) :: m) k = if j = k then some a else mget m k := rfl

@[simp] theorem mget_mput_same (m : Table α) (k : Nat) (x : α) : mget (mput m k x) k = some x := by
  induction m with
  | nil => simp [mput, mget]
  | cons p m ih =>
    obtain ⟨j, a⟩ := p
    unfold mput
    split
    · simp [mget]
    · split
      · simp [mget]
      · simp [mget, *]

theorem mget_mput_other (m : Table α) {k j : Nat} (x : α) (h : j ≠ k) : mget (mput m k x) j = mget m j := by
  induction m with
  | nil => simp [mput, mget, h.symm]
  | cons p m ih =>
    obtain ⟨i, a⟩ := p
    unfold mput
    split
    · rw [mget_cons, if_neg h.symm]
    · split
      · subst_vars; simp [mget, h.symm]
      · simp [mget, ih]

theorem mget_mdel_other (m : Table α) {k j : Nat} (h : j ≠ k) : mget (mdel m k) j = mget m j := by
  induction m with
  | nil => rfl
  | cons p m ih =>
    obtain ⟨i, a⟩ := p
    unfold mdel
    split
    · subst_vars; simp [mget, h.symm]
    · simp [mget, ih]

theorem mget_mmod_same (m : Table α) (k : Nat) (f : α → α) : mget (mmod m k f) k = (mget m k).map f := by
  unfold mmod
  split <;> simp [*]

theorem mget_mmod_other (m : Table α) {k j : Nat} (f : α → α) (h : j ≠ k) : mget (mmod m k f) j = mget m j := by
  unfold mmod
  split
  · exact mget_mput_other m _ h
  · rfl

/-! ### Rising keys -/

theorem mem_mput {m : Table α} {k : Nat} {x : α} {p : Nat × α} (h : p ∈ mput m k x) : p = (k, x) ∨ p ∈ m := by
  induction m with
  | nil => simpa [mput] using h
  | cons q m ih =>
    obtain ⟨j, a⟩ := q
    unfold mput at h
    split at h
    · simpa using h
    · split at h
      · rcases List.mem_cons.1 h with h | h
        · exact .inl h
        · exact .inr (List.mem_cons_of_mem _ h)
      · rcases List.mem_cons.1 h with h | h
        · exact .inr (h ▸ List.mem_cons_self)
        · exact (ih h).imp id (List.mem_cons_of_mem _)

theorem mem_mdel {m : Table α} {k : Nat} {p : Nat × α} (h : p ∈ mdel m k) : p ∈ m := by
  induction m with
  | nil => exact h
  | cons q m ih =>
    obtain ⟨j, a⟩ := q
    unfold mdel at h
    split at h
    · exact List.mem_cons_of_mem _ h
    · rcases List.mem_cons.1 h with h | h
      · exact h ▸ List.mem_cons_self
      · exact List.mem_cons_of_mem _ (ih h)

theorem rising_mput {m : Table α} (k : Nat) (x : α) (h : Rising m) : Rising (mput m k x) := by
  induction m with
  | nil => simp [mput, Rising]
  | cons q m ih =>
    obtain ⟨j, a⟩ := q
    obtain ⟨h1, h2⟩ := h
    unfold mput
    split
    · refine ⟨fun p hp => ?_, h1, h2⟩
      rcases List.mem_cons.1 hp with hp | hp
      · subst hp; assumption
      · exact Nat.lt_trans ‹_› (h1 p hp)
    · split
      · subst_vars; exact ⟨h1, h2⟩
      · refine ⟨fun p hp => ?_, ih h2⟩
        rcases mem_mput hp with hp | hp
        · subst hp; show j < k; omega
        · exact h1 p hp

theorem rising_mdel {m : Table α} (k : Nat) (h : Rising m) : Rising (mdel m k) := by
  induction m with
  | nil => exact h
  | cons q m ih =>
    obtain ⟨j, a⟩ := q
    unfold mdel
    split
    · exact h.2
    · exact ⟨fun p hp => h.1 p (mem_mdel hp), ih h.2⟩

theorem rising_filter {m : Table α} (p : Nat × α → Bool) (h : Rising m) : Rising (m.filter p) := by
  induction m with
  | nil => exact h
  | cons q m ih =>
    obtain ⟨j, a⟩ := q
    rw [List.filter_cons]
    split
    · exact ⟨fun r hr => h.1 r (List.mem_filter.1 hr).1, ih h.2⟩
    · exact ih h.2

/-! ### Sparse tables -/

theorem mget_none_of_lt {m : Table α} {k : Nat} (h : ∀ p ∈ m, k < p.1) : mget m k = none := by
  induction m with
  | nil => rfl
  | cons q m ih =>
    obtain ⟨j, a⟩ := q
    have hj : k < j := h (j, a) List.mem_cons_self
    rw [mget_cons, if_neg (by omega)]
    exact ih fun p hp => h p (List.mem_cons_of_mem _ hp)

theorem mget_mdel_same {m : Table α} (k : Nat) (h : Rising m) : mget (mdel m k) k = none := by
  induction m with
  | nil => rfl
  | cons q m ih =>
    obtain ⟨j, a⟩ := q
    unfold mdel
    split
    · subst_vars; exact mget_none_of_lt h.1
    · rw [mget_cons, if_neg ‹_›]; exact ih h.2

theorem sget_sput_same [DecidableEq α] {m : Table α} (d : α) (k : Nat) (x : α) (h : Rising m) :
    sget d (sput d m k x) k = x := by
  unfold sget sput
  split
  · simp [mget_mdel_same k h, *]
  · simp

theorem sget_sput_other [DecidableEq α] (m : Table α) (d : α) {k j : Nat} (x : α) (h : j ≠ k) :
    sget d (sput d m k x) j = sget d m j := by
  unfold sget sput
  split
  · rw [mget_mdel_other m h]
  · rw [mget_mput_other m x h]

theorem rising_sput [DecidableEq α] {m : Table α} (d : α) (k : Nat) (x : α) (h : Rising m) : Rising (sput d m k x) := by
  unfold sput
  split
  · exact rising_mdel k h
  · exact rising_mput k x h

end Sys2Proof.Machine
end

