-- ==== Sys2Proof/Laws/State.lean ====
section
/-! SUPPORT. What each update of the state does to each field: the field it writes, and every other as before. -/

namespace Sys2Proof.Machine

variable (s : State)

@[simp] theorem State.setThread_threads (k : Nat) (x : Thread) : (s.setThread k x).threads = mput s.threads k x := rfl
@[simp] theorem State.setThread_cur (k : Nat) (x : Thread) : (s.setThread k x).cur = s.cur := rfl
@[simp] theorem State.setThread_freeCtr (k : Nat) (x : Thread) : (s.setThread k x).freeCtr = s.freeCtr := rfl
@[simp] theorem State.setThread_nextId (k : Nat) (x : Thread) : (s.setThread k x).nextId = s.nextId := rfl
@[simp] theorem State.setThread_clk (k : Nat) (x : Thread) : (s.setThread k x).clk = s.clk := rfl
@[simp] theorem State.setThread_pkg (k : Nat) (x : Thread) : (s.setThread k x).pkg = s.pkg := rfl
@[simp] theorem State.setThread_mem (k : Nat) (x : Thread) : (s.setThread k x).mem = s.mem := rfl
@[simp] theorem State.setThread_bands (k : Nat) (x : Thread) : (s.setThread k x).bands = s.bands := rfl
@[simp] theorem State.setThread_blocks (k : Nat) (x : Thread) : (s.setThread k x).blocks = s.blocks := rfl
@[simp] theorem State.setThread_hasps (k : Nat) (x : Thread) : (s.setThread k x).hasps = s.hasps := rfl
@[simp] theorem State.setThread_cores (k : Nat) (x : Thread) : (s.setThread k x).cores = s.cores := rfl
@[simp] theorem State.setThread_strands (k : Nat) (x : Thread) : (s.setThread k x).strands = s.strands := rfl
@[simp] theorem State.setThread_engines (k : Nat) (x : Thread) : (s.setThread k x).engines = s.engines := rfl
@[simp] theorem State.setThread_watches (k : Nat) (x : Thread) : (s.setThread k x).watches = s.watches := rfl
@[simp] theorem State.setThread_cmds (k : Nat) (x : Thread) : (s.setThread k x).cmds = s.cmds := rfl
@[simp] theorem State.setThread_ops (k : Nat) (x : Thread) : (s.setThread k x).ops = s.ops := rfl
@[simp] theorem State.setThread_granted (k : Nat) (x : Thread) : (s.setThread k x).granted = s.granted := rfl
@[simp] theorem State.setThread_pendZero (k : Nat) (x : Thread) : (s.setThread k x).pendZero = s.pendZero := rfl
@[simp] theorem State.setThread_lines (k : Nat) (x : Thread) : (s.setThread k x).lines = s.lines := rfl
@[simp] theorem State.setThread_tasks (k : Nat) (x : Thread) : (s.setThread k x).tasks = s.tasks := rfl
@[simp] theorem State.setThread_queues (k : Nat) (x : Thread) : (s.setThread k x).queues = s.queues := rfl
@[simp] theorem State.setThread_graphs (k : Nat) (x : Thread) : (s.setThread k x).graphs = s.graphs := rfl
@[simp] theorem State.setThread_insts (k : Nat) (x : Thread) : (s.setThread k x).insts = s.insts := rfl
@[simp] theorem State.setThread_lp1s (k : Nat) (x : Thread) : (s.setThread k x).lp1s = s.lp1s := rfl
@[simp] theorem State.setThread_binds (k : Nat) (x : Thread) : (s.setThread k x).binds = s.binds := rfl
@[simp] theorem State.setThread_parts (k : Nat) (x : Thread) : (s.setThread k x).parts = s.parts := rfl
@[simp] theorem State.setThread_ctxs (k : Nat) (x : Thread) : (s.setThread k x).ctxs = s.ctxs := rfl
@[simp] theorem State.setThread_issue (k : Nat) (x : Thread) : (s.setThread k x).issue = s.issue := rfl
@[simp] theorem State.setThread_script (k : Nat) (x : Thread) : (s.setThread k x).script = s.script := rfl
@[simp] theorem State.setThread_frames (k : Nat) (x : Thread) : (s.setThread k x).frames = s.frames := rfl
@[simp] theorem State.setThread_worn (k : Nat) (x : Thread) : (s.setThread k x).worn = s.worn := rfl

@[simp] theorem State.modThread_threads (k : Nat) (f : Thread → Thread) : (s.modThread k f).threads = mmod s.threads k f := rfl
@[simp] theorem State.modThread_cur (k : Nat) (f : Thread → Thread) : (s.modThread k f).cur = s.cur := rfl
@[simp] theorem State.modThread_freeCtr (k : Nat) (f : Thread → Thread) : (s.modThread k f).freeCtr = s.freeCtr := rfl
@[simp] theorem State.modThread_nextId (k : Nat) (f : Thread → Thread) : (s.modThread k f).nextId = s.nextId := rfl
@[simp] theorem State.modThread_clk (k : Nat) (f : Thread → Thread) : (s.modThread k f).clk = s.clk := rfl
@[simp] theorem State.modThread_pkg (k : Nat) (f : Thread → Thread) : (s.modThread k f).pkg = s.pkg := rfl
@[simp] theorem State.modThread_mem (k : Nat) (f : Thread → Thread) : (s.modThread k f).mem = s.mem := rfl
@[simp] theorem State.modThread_bands (k : Nat) (f : Thread → Thread) : (s.modThread k f).bands = s.bands := rfl
@[simp] theorem State.modThread_blocks (k : Nat) (f : Thread → Thread) : (s.modThread k f).blocks = s.blocks := rfl
@[simp] theorem State.modThread_hasps (k : Nat) (f : Thread → Thread) : (s.modThread k f).hasps = s.hasps := rfl
@[simp] theorem State.modThread_cores (k : Nat) (f : Thread → Thread) : (s.modThread k f).cores = s.cores := rfl
@[simp] theorem State.modThread_strands (k : Nat) (f : Thread → Thread) : (s.modThread k f).strands = s.strands := rfl
@[simp] theorem State.modThread_engines (k : Nat) (f : Thread → Thread) : (s.modThread k f).engines = s.engines := rfl
@[simp] theorem State.modThread_watches (k : Nat) (f : Thread → Thread) : (s.modThread k f).watches = s.watches := rfl
@[simp] theorem State.modThread_cmds (k : Nat) (f : Thread → Thread) : (s.modThread k f).cmds = s.cmds := rfl
@[simp] theorem State.modThread_ops (k : Nat) (f : Thread → Thread) : (s.modThread k f).ops = s.ops := rfl
@[simp] theorem State.modThread_granted (k : Nat) (f : Thread → Thread) : (s.modThread k f).granted = s.granted := rfl
@[simp] theorem State.modThread_pendZero (k : Nat) (f : Thread → Thread) : (s.modThread k f).pendZero = s.pendZero := rfl
@[simp] theorem State.modThread_lines (k : Nat) (f : Thread → Thread) : (s.modThread k f).lines = s.lines := rfl
@[simp] theorem State.modThread_tasks (k : Nat) (f : Thread → Thread) : (s.modThread k f).tasks = s.tasks := rfl
@[simp] theorem State.modThread_queues (k : Nat) (f : Thread → Thread) : (s.modThread k f).queues = s.queues := rfl
@[simp] theorem State.modThread_graphs (k : Nat) (f : Thread → Thread) : (s.modThread k f).graphs = s.graphs := rfl
@[simp] theorem State.modThread_insts (k : Nat) (f : Thread → Thread) : (s.modThread k f).insts = s.insts := rfl
@[simp] theorem State.modThread_lp1s (k : Nat) (f : Thread → Thread) : (s.modThread k f).lp1s = s.lp1s := rfl
@[simp] theorem State.modThread_binds (k : Nat) (f : Thread → Thread) : (s.modThread k f).binds = s.binds := rfl
@[simp] theorem State.modThread_parts (k : Nat) (f : Thread → Thread) : (s.modThread k f).parts = s.parts := rfl
@[simp] theorem State.modThread_ctxs (k : Nat) (f : Thread → Thread) : (s.modThread k f).ctxs = s.ctxs := rfl
@[simp] theorem State.modThread_issue (k : Nat) (f : Thread → Thread) : (s.modThread k f).issue = s.issue := rfl
@[simp] theorem State.modThread_script (k : Nat) (f : Thread → Thread) : (s.modThread k f).script = s.script := rfl
@[simp] theorem State.modThread_frames (k : Nat) (f : Thread → Thread) : (s.modThread k f).frames = s.frames := rfl
@[simp] theorem State.modThread_worn (k : Nat) (f : Thread → Thread) : (s.modThread k f).worn = s.worn := rfl

@[simp] theorem State.setBand_bands (k : Nat) (x : Band) : (s.setBand k x).bands = mput s.bands k x := rfl
@[simp] theorem State.setBand_cur (k : Nat) (x : Band) : (s.setBand k x).cur = s.cur := rfl
@[simp] theorem State.setBand_freeCtr (k : Nat) (x : Band) : (s.setBand k x).freeCtr = s.freeCtr := rfl
@[simp] theorem State.setBand_nextId (k : Nat) (x : Band) : (s.setBand k x).nextId = s.nextId := rfl
@[simp] theorem State.setBand_clk (k : Nat) (x : Band) : (s.setBand k x).clk = s.clk := rfl
@[simp] theorem State.setBand_pkg (k : Nat) (x : Band) : (s.setBand k x).pkg = s.pkg := rfl
@[simp] theorem State.setBand_mem (k : Nat) (x : Band) : (s.setBand k x).mem = s.mem := rfl
@[simp] theorem State.setBand_threads (k : Nat) (x : Band) : (s.setBand k x).threads = s.threads := rfl
@[simp] theorem State.setBand_blocks (k : Nat) (x : Band) : (s.setBand k x).blocks = s.blocks := rfl
@[simp] theorem State.setBand_hasps (k : Nat) (x : Band) : (s.setBand k x).hasps = s.hasps := rfl
@[simp] theorem State.setBand_cores (k : Nat) (x : Band) : (s.setBand k x).cores = s.cores := rfl
@[simp] theorem State.setBand_strands (k : Nat) (x : Band) : (s.setBand k x).strands = s.strands := rfl
@[simp] theorem State.setBand_engines (k : Nat) (x : Band) : (s.setBand k x).engines = s.engines := rfl
@[simp] theorem State.setBand_watches (k : Nat) (x : Band) : (s.setBand k x).watches = s.watches := rfl
@[simp] theorem State.setBand_cmds (k : Nat) (x : Band) : (s.setBand k x).cmds = s.cmds := rfl
@[simp] theorem State.setBand_ops (k : Nat) (x : Band) : (s.setBand k x).ops = s.ops := rfl
@[simp] theorem State.setBand_granted (k : Nat) (x : Band) : (s.setBand k x).granted = s.granted := rfl
@[simp] theorem State.setBand_pendZero (k : Nat) (x : Band) : (s.setBand k x).pendZero = s.pendZero := rfl
@[simp] theorem State.setBand_lines (k : Nat) (x : Band) : (s.setBand k x).lines = s.lines := rfl
@[simp] theorem State.setBand_tasks (k : Nat) (x : Band) : (s.setBand k x).tasks = s.tasks := rfl
@[simp] theorem State.setBand_queues (k : Nat) (x : Band) : (s.setBand k x).queues = s.queues := rfl
@[simp] theorem State.setBand_graphs (k : Nat) (x : Band) : (s.setBand k x).graphs = s.graphs := rfl
@[simp] theorem State.setBand_insts (k : Nat) (x : Band) : (s.setBand k x).insts = s.insts := rfl
@[simp] theorem State.setBand_lp1s (k : Nat) (x : Band) : (s.setBand k x).lp1s = s.lp1s := rfl
@[simp] theorem State.setBand_binds (k : Nat) (x : Band) : (s.setBand k x).binds = s.binds := rfl
@[simp] theorem State.setBand_parts (k : Nat) (x : Band) : (s.setBand k x).parts = s.parts := rfl
@[simp] theorem State.setBand_ctxs (k : Nat) (x : Band) : (s.setBand k x).ctxs = s.ctxs := rfl
@[simp] theorem State.setBand_issue (k : Nat) (x : Band) : (s.setBand k x).issue = s.issue := rfl
@[simp] theorem State.setBand_script (k : Nat) (x : Band) : (s.setBand k x).script = s.script := rfl
@[simp] theorem State.setBand_frames (k : Nat) (x : Band) : (s.setBand k x).frames = s.frames := rfl
@[simp] theorem State.setBand_worn (k : Nat) (x : Band) : (s.setBand k x).worn = s.worn := rfl

@[simp] theorem State.modBand_bands (k : Nat) (f : Band → Band) : (s.modBand k f).bands = mmod s.bands k f := rfl
@[simp] theorem State.modBand_cur (k : Nat) (f : Band → Band) : (s.modBand k f).cur = s.cur := rfl
@[simp] theorem State.modBand_freeCtr (k : Nat) (f : Band → Band) : (s.modBand k f).freeCtr = s.freeCtr := rfl
@[simp] theorem State.modBand_nextId (k : Nat) (f : Band → Band) : (s.modBand k f).nextId = s.nextId := rfl
@[simp] theorem State.modBand_clk (k : Nat) (f : Band → Band) : (s.modBand k f).clk = s.clk := rfl
@[simp] theorem State.modBand_pkg (k : Nat) (f : Band → Band) : (s.modBand k f).pkg = s.pkg := rfl
@[simp] theorem State.modBand_mem (k : Nat) (f : Band → Band) : (s.modBand k f).mem = s.mem := rfl
@[simp] theorem State.modBand_threads (k : Nat) (f : Band → Band) : (s.modBand k f).threads = s.threads := rfl
@[simp] theorem State.modBand_blocks (k : Nat) (f : Band → Band) : (s.modBand k f).blocks = s.blocks := rfl
@[simp] theorem State.modBand_hasps (k : Nat) (f : Band → Band) : (s.modBand k f).hasps = s.hasps := rfl
@[simp] theorem State.modBand_cores (k : Nat) (f : Band → Band) : (s.modBand k f).cores = s.cores := rfl
@[simp] theorem State.modBand_strands (k : Nat) (f : Band → Band) : (s.modBand k f).strands = s.strands := rfl
@[simp] theorem State.modBand_engines (k : Nat) (f : Band → Band) : (s.modBand k f).engines = s.engines := rfl
@[simp] theorem State.modBand_watches (k : Nat) (f : Band → Band) : (s.modBand k f).watches = s.watches := rfl
@[simp] theorem State.modBand_cmds (k : Nat) (f : Band → Band) : (s.modBand k f).cmds = s.cmds := rfl
@[simp] theorem State.modBand_ops (k : Nat) (f : Band → Band) : (s.modBand k f).ops = s.ops := rfl
@[simp] theorem State.modBand_granted (k : Nat) (f : Band → Band) : (s.modBand k f).granted = s.granted := rfl
@[simp] theorem State.modBand_pendZero (k : Nat) (f : Band → Band) : (s.modBand k f).pendZero = s.pendZero := rfl
@[simp] theorem State.modBand_lines (k : Nat) (f : Band → Band) : (s.modBand k f).lines = s.lines := rfl
@[simp] theorem State.modBand_tasks (k : Nat) (f : Band → Band) : (s.modBand k f).tasks = s.tasks := rfl
@[simp] theorem State.modBand_queues (k : Nat) (f : Band → Band) : (s.modBand k f).queues = s.queues := rfl
@[simp] theorem State.modBand_graphs (k : Nat) (f : Band → Band) : (s.modBand k f).graphs = s.graphs := rfl
@[simp] theorem State.modBand_insts (k : Nat) (f : Band → Band) : (s.modBand k f).insts = s.insts := rfl
@[simp] theorem State.modBand_lp1s (k : Nat) (f : Band → Band) : (s.modBand k f).lp1s = s.lp1s := rfl
@[simp] theorem State.modBand_binds (k : Nat) (f : Band → Band) : (s.modBand k f).binds = s.binds := rfl
@[simp] theorem State.modBand_parts (k : Nat) (f : Band → Band) : (s.modBand k f).parts = s.parts := rfl
@[simp] theorem State.modBand_ctxs (k : Nat) (f : Band → Band) : (s.modBand k f).ctxs = s.ctxs := rfl
@[simp] theorem State.modBand_issue (k : Nat) (f : Band → Band) : (s.modBand k f).issue = s.issue := rfl
@[simp] theorem State.modBand_script (k : Nat) (f : Band → Band) : (s.modBand k f).script = s.script := rfl
@[simp] theorem State.modBand_frames (k : Nat) (f : Band → Band) : (s.modBand k f).frames = s.frames := rfl
@[simp] theorem State.modBand_worn (k : Nat) (f : Band → Band) : (s.modBand k f).worn = s.worn := rfl

@[simp] theorem State.modBlock_blocks (k : Nat) (f : Block → Block) : (s.modBlock k f).blocks = mmod s.blocks k f := rfl
@[simp] theorem State.modBlock_cur (k : Nat) (f : Block → Block) : (s.modBlock k f).cur = s.cur := rfl
@[simp] theorem State.modBlock_freeCtr (k : Nat) (f : Block → Block) : (s.modBlock k f).freeCtr = s.freeCtr := rfl
@[simp] theorem State.modBlock_nextId (k : Nat) (f : Block → Block) : (s.modBlock k f).nextId = s.nextId := rfl
@[simp] theorem State.modBlock_clk (k : Nat) (f : Block → Block) : (s.modBlock k f).clk = s.clk := rfl
@[simp] theorem State.modBlock_pkg (k : Nat) (f : Block → Block) : (s.modBlock k f).pkg = s.pkg := rfl
@[simp] theorem State.modBlock_mem (k : Nat) (f : Block → Block) : (s.modBlock k f).mem = s.mem := rfl
@[simp] theorem State.modBlock_threads (k : Nat) (f : Block → Block) : (s.modBlock k f).threads = s.threads := rfl
@[simp] theorem State.modBlock_bands (k : Nat) (f : Block → Block) : (s.modBlock k f).bands = s.bands := rfl
@[simp] theorem State.modBlock_hasps (k : Nat) (f : Block → Block) : (s.modBlock k f).hasps = s.hasps := rfl
@[simp] theorem State.modBlock_cores (k : Nat) (f : Block → Block) : (s.modBlock k f).cores = s.cores := rfl
@[simp] theorem State.modBlock_strands (k : Nat) (f : Block → Block) : (s.modBlock k f).strands = s.strands := rfl
@[simp] theorem State.modBlock_engines (k : Nat) (f : Block → Block) : (s.modBlock k f).engines = s.engines := rfl
@[simp] theorem State.modBlock_watches (k : Nat) (f : Block → Block) : (s.modBlock k f).watches = s.watches := rfl
@[simp] theorem State.modBlock_cmds (k : Nat) (f : Block → Block) : (s.modBlock k f).cmds = s.cmds := rfl
@[simp] theorem State.modBlock_ops (k : Nat) (f : Block → Block) : (s.modBlock k f).ops = s.ops := rfl
@[simp] theorem State.modBlock_granted (k : Nat) (f : Block → Block) : (s.modBlock k f).granted = s.granted := rfl
@[simp] theorem State.modBlock_pendZero (k : Nat) (f : Block → Block) : (s.modBlock k f).pendZero = s.pendZero := rfl
@[simp] theorem State.modBlock_lines (k : Nat) (f : Block → Block) : (s.modBlock k f).lines = s.lines := rfl
@[simp] theorem State.modBlock_tasks (k : Nat) (f : Block → Block) : (s.modBlock k f).tasks = s.tasks := rfl
@[simp] theorem State.modBlock_queues (k : Nat) (f : Block → Block) : (s.modBlock k f).queues = s.queues := rfl
@[simp] theorem State.modBlock_graphs (k : Nat) (f : Block → Block) : (s.modBlock k f).graphs = s.graphs := rfl
@[simp] theorem State.modBlock_insts (k : Nat) (f : Block → Block) : (s.modBlock k f).insts = s.insts := rfl
@[simp] theorem State.modBlock_lp1s (k : Nat) (f : Block → Block) : (s.modBlock k f).lp1s = s.lp1s := rfl
@[simp] theorem State.modBlock_binds (k : Nat) (f : Block → Block) : (s.modBlock k f).binds = s.binds := rfl
@[simp] theorem State.modBlock_parts (k : Nat) (f : Block → Block) : (s.modBlock k f).parts = s.parts := rfl
@[simp] theorem State.modBlock_ctxs (k : Nat) (f : Block → Block) : (s.modBlock k f).ctxs = s.ctxs := rfl
@[simp] theorem State.modBlock_issue (k : Nat) (f : Block → Block) : (s.modBlock k f).issue = s.issue := rfl
@[simp] theorem State.modBlock_script (k : Nat) (f : Block → Block) : (s.modBlock k f).script = s.script := rfl
@[simp] theorem State.modBlock_frames (k : Nat) (f : Block → Block) : (s.modBlock k f).frames = s.frames := rfl
@[simp] theorem State.modBlock_worn (k : Nat) (f : Block → Block) : (s.modBlock k f).worn = s.worn := rfl

@[simp] theorem State.setHasp_hasps (k : Nat) (x : Hasp) : (s.setHasp k x).hasps = sput Hasp.zero s.hasps k x := rfl
@[simp] theorem State.setHasp_cur (k : Nat) (x : Hasp) : (s.setHasp k x).cur = s.cur := rfl
@[simp] theorem State.setHasp_freeCtr (k : Nat) (x : Hasp) : (s.setHasp k x).freeCtr = s.freeCtr := rfl
@[simp] theorem State.setHasp_nextId (k : Nat) (x : Hasp) : (s.setHasp k x).nextId = s.nextId := rfl
@[simp] theorem State.setHasp_clk (k : Nat) (x : Hasp) : (s.setHasp k x).clk = s.clk := rfl
@[simp] theorem State.setHasp_pkg (k : Nat) (x : Hasp) : (s.setHasp k x).pkg = s.pkg := rfl
@[simp] theorem State.setHasp_mem (k : Nat) (x : Hasp) : (s.setHasp k x).mem = s.mem := rfl
@[simp] theorem State.setHasp_threads (k : Nat) (x : Hasp) : (s.setHasp k x).threads = s.threads := rfl
@[simp] theorem State.setHasp_bands (k : Nat) (x : Hasp) : (s.setHasp k x).bands = s.bands := rfl
@[simp] theorem State.setHasp_blocks (k : Nat) (x : Hasp) : (s.setHasp k x).blocks = s.blocks := rfl
@[simp] theorem State.setHasp_cores (k : Nat) (x : Hasp) : (s.setHasp k x).cores = s.cores := rfl
@[simp] theorem State.setHasp_strands (k : Nat) (x : Hasp) : (s.setHasp k x).strands = s.strands := rfl
@[simp] theorem State.setHasp_engines (k : Nat) (x : Hasp) : (s.setHasp k x).engines = s.engines := rfl
@[simp] theorem State.setHasp_watches (k : Nat) (x : Hasp) : (s.setHasp k x).watches = s.watches := rfl
@[simp] theorem State.setHasp_cmds (k : Nat) (x : Hasp) : (s.setHasp k x).cmds = s.cmds := rfl
@[simp] theorem State.setHasp_ops (k : Nat) (x : Hasp) : (s.setHasp k x).ops = s.ops := rfl
@[simp] theorem State.setHasp_granted (k : Nat) (x : Hasp) : (s.setHasp k x).granted = s.granted := rfl
@[simp] theorem State.setHasp_pendZero (k : Nat) (x : Hasp) : (s.setHasp k x).pendZero = s.pendZero := rfl
@[simp] theorem State.setHasp_lines (k : Nat) (x : Hasp) : (s.setHasp k x).lines = s.lines := rfl
@[simp] theorem State.setHasp_tasks (k : Nat) (x : Hasp) : (s.setHasp k x).tasks = s.tasks := rfl
@[simp] theorem State.setHasp_queues (k : Nat) (x : Hasp) : (s.setHasp k x).queues = s.queues := rfl
@[simp] theorem State.setHasp_graphs (k : Nat) (x : Hasp) : (s.setHasp k x).graphs = s.graphs := rfl
@[simp] theorem State.setHasp_insts (k : Nat) (x : Hasp) : (s.setHasp k x).insts = s.insts := rfl
@[simp] theorem State.setHasp_lp1s (k : Nat) (x : Hasp) : (s.setHasp k x).lp1s = s.lp1s := rfl
@[simp] theorem State.setHasp_binds (k : Nat) (x : Hasp) : (s.setHasp k x).binds = s.binds := rfl
@[simp] theorem State.setHasp_parts (k : Nat) (x : Hasp) : (s.setHasp k x).parts = s.parts := rfl
@[simp] theorem State.setHasp_ctxs (k : Nat) (x : Hasp) : (s.setHasp k x).ctxs = s.ctxs := rfl
@[simp] theorem State.setHasp_issue (k : Nat) (x : Hasp) : (s.setHasp k x).issue = s.issue := rfl
@[simp] theorem State.setHasp_script (k : Nat) (x : Hasp) : (s.setHasp k x).script = s.script := rfl
@[simp] theorem State.setHasp_frames (k : Nat) (x : Hasp) : (s.setHasp k x).frames = s.frames := rfl
@[simp] theorem State.setHasp_worn (k : Nat) (x : Hasp) : (s.setHasp k x).worn = s.worn := rfl

@[simp] theorem State.setCore_cores (k : Nat) (x : Core) : (s.setCore k x).cores = sput Core.zero s.cores k x := rfl
@[simp] theorem State.setCore_cur (k : Nat) (x : Core) : (s.setCore k x).cur = s.cur := rfl
@[simp] theorem State.setCore_freeCtr (k : Nat) (x : Core) : (s.setCore k x).freeCtr = s.freeCtr := rfl
@[simp] theorem State.setCore_nextId (k : Nat) (x : Core) : (s.setCore k x).nextId = s.nextId := rfl
@[simp] theorem State.setCore_clk (k : Nat) (x : Core) : (s.setCore k x).clk = s.clk := rfl
@[simp] theorem State.setCore_pkg (k : Nat) (x : Core) : (s.setCore k x).pkg = s.pkg := rfl
@[simp] theorem State.setCore_mem (k : Nat) (x : Core) : (s.setCore k x).mem = s.mem := rfl
@[simp] theorem State.setCore_threads (k : Nat) (x : Core) : (s.setCore k x).threads = s.threads := rfl
@[simp] theorem State.setCore_bands (k : Nat) (x : Core) : (s.setCore k x).bands = s.bands := rfl
@[simp] theorem State.setCore_blocks (k : Nat) (x : Core) : (s.setCore k x).blocks = s.blocks := rfl
@[simp] theorem State.setCore_hasps (k : Nat) (x : Core) : (s.setCore k x).hasps = s.hasps := rfl
@[simp] theorem State.setCore_strands (k : Nat) (x : Core) : (s.setCore k x).strands = s.strands := rfl
@[simp] theorem State.setCore_engines (k : Nat) (x : Core) : (s.setCore k x).engines = s.engines := rfl
@[simp] theorem State.setCore_watches (k : Nat) (x : Core) : (s.setCore k x).watches = s.watches := rfl
@[simp] theorem State.setCore_cmds (k : Nat) (x : Core) : (s.setCore k x).cmds = s.cmds := rfl
@[simp] theorem State.setCore_ops (k : Nat) (x : Core) : (s.setCore k x).ops = s.ops := rfl
@[simp] theorem State.setCore_granted (k : Nat) (x : Core) : (s.setCore k x).granted = s.granted := rfl
@[simp] theorem State.setCore_pendZero (k : Nat) (x : Core) : (s.setCore k x).pendZero = s.pendZero := rfl
@[simp] theorem State.setCore_lines (k : Nat) (x : Core) : (s.setCore k x).lines = s.lines := rfl
@[simp] theorem State.setCore_tasks (k : Nat) (x : Core) : (s.setCore k x).tasks = s.tasks := rfl
@[simp] theorem State.setCore_queues (k : Nat) (x : Core) : (s.setCore k x).queues = s.queues := rfl
@[simp] theorem State.setCore_graphs (k : Nat) (x : Core) : (s.setCore k x).graphs = s.graphs := rfl
@[simp] theorem State.setCore_insts (k : Nat) (x : Core) : (s.setCore k x).insts = s.insts := rfl
@[simp] theorem State.setCore_lp1s (k : Nat) (x : Core) : (s.setCore k x).lp1s = s.lp1s := rfl
@[simp] theorem State.setCore_binds (k : Nat) (x : Core) : (s.setCore k x).binds = s.binds := rfl
@[simp] theorem State.setCore_parts (k : Nat) (x : Core) : (s.setCore k x).parts = s.parts := rfl
@[simp] theorem State.setCore_ctxs (k : Nat) (x : Core) : (s.setCore k x).ctxs = s.ctxs := rfl
@[simp] theorem State.setCore_issue (k : Nat) (x : Core) : (s.setCore k x).issue = s.issue := rfl
@[simp] theorem State.setCore_script (k : Nat) (x : Core) : (s.setCore k x).script = s.script := rfl
@[simp] theorem State.setCore_frames (k : Nat) (x : Core) : (s.setCore k x).frames = s.frames := rfl
@[simp] theorem State.setCore_worn (k : Nat) (x : Core) : (s.setCore k x).worn = s.worn := rfl

@[simp] theorem State.modCore_cores (k : Nat) (f : Core → Core) : (s.modCore k f).cores = sput Core.zero s.cores k (f (s.core k)) := rfl
@[simp] theorem State.modCore_cur (k : Nat) (f : Core → Core) : (s.modCore k f).cur = s.cur := rfl
@[simp] theorem State.modCore_freeCtr (k : Nat) (f : Core → Core) : (s.modCore k f).freeCtr = s.freeCtr := rfl
@[simp] theorem State.modCore_nextId (k : Nat) (f : Core → Core) : (s.modCore k f).nextId = s.nextId := rfl
@[simp] theorem State.modCore_clk (k : Nat) (f : Core → Core) : (s.modCore k f).clk = s.clk := rfl
@[simp] theorem State.modCore_pkg (k : Nat) (f : Core → Core) : (s.modCore k f).pkg = s.pkg := rfl
@[simp] theorem State.modCore_mem (k : Nat) (f : Core → Core) : (s.modCore k f).mem = s.mem := rfl
@[simp] theorem State.modCore_threads (k : Nat) (f : Core → Core) : (s.modCore k f).threads = s.threads := rfl
@[simp] theorem State.modCore_bands (k : Nat) (f : Core → Core) : (s.modCore k f).bands = s.bands := rfl
@[simp] theorem State.modCore_blocks (k : Nat) (f : Core → Core) : (s.modCore k f).blocks = s.blocks := rfl
@[simp] theorem State.modCore_hasps (k : Nat) (f : Core → Core) : (s.modCore k f).hasps = s.hasps := rfl
@[simp] theorem State.modCore_strands (k : Nat) (f : Core → Core) : (s.modCore k f).strands = s.strands := rfl
@[simp] theorem State.modCore_engines (k : Nat) (f : Core → Core) : (s.modCore k f).engines = s.engines := rfl
@[simp] theorem State.modCore_watches (k : Nat) (f : Core → Core) : (s.modCore k f).watches = s.watches := rfl
@[simp] theorem State.modCore_cmds (k : Nat) (f : Core → Core) : (s.modCore k f).cmds = s.cmds := rfl
@[simp] theorem State.modCore_ops (k : Nat) (f : Core → Core) : (s.modCore k f).ops = s.ops := rfl
@[simp] theorem State.modCore_granted (k : Nat) (f : Core → Core) : (s.modCore k f).granted = s.granted := rfl
@[simp] theorem State.modCore_pendZero (k : Nat) (f : Core → Core) : (s.modCore k f).pendZero = s.pendZero := rfl
@[simp] theorem State.modCore_lines (k : Nat) (f : Core → Core) : (s.modCore k f).lines = s.lines := rfl
@[simp] theorem State.modCore_tasks (k : Nat) (f : Core → Core) : (s.modCore k f).tasks = s.tasks := rfl
@[simp] theorem State.modCore_queues (k : Nat) (f : Core → Core) : (s.modCore k f).queues = s.queues := rfl
@[simp] theorem State.modCore_graphs (k : Nat) (f : Core → Core) : (s.modCore k f).graphs = s.graphs := rfl
@[simp] theorem State.modCore_insts (k : Nat) (f : Core → Core) : (s.modCore k f).insts = s.insts := rfl
@[simp] theorem State.modCore_lp1s (k : Nat) (f : Core → Core) : (s.modCore k f).lp1s = s.lp1s := rfl
@[simp] theorem State.modCore_binds (k : Nat) (f : Core → Core) : (s.modCore k f).binds = s.binds := rfl
@[simp] theorem State.modCore_parts (k : Nat) (f : Core → Core) : (s.modCore k f).parts = s.parts := rfl
@[simp] theorem State.modCore_ctxs (k : Nat) (f : Core → Core) : (s.modCore k f).ctxs = s.ctxs := rfl
@[simp] theorem State.modCore_issue (k : Nat) (f : Core → Core) : (s.modCore k f).issue = s.issue := rfl
@[simp] theorem State.modCore_script (k : Nat) (f : Core → Core) : (s.modCore k f).script = s.script := rfl
@[simp] theorem State.modCore_frames (k : Nat) (f : Core → Core) : (s.modCore k f).frames = s.frames := rfl
@[simp] theorem State.modCore_worn (k : Nat) (f : Core → Core) : (s.modCore k f).worn = s.worn := rfl

@[simp] theorem State.setStrand_strands (k : Nat) (x : Strand) : (s.setStrand k x).strands = sput Strand.zero s.strands k x := rfl
@[simp] theorem State.setStrand_cur (k : Nat) (x : Strand) : (s.setStrand k x).cur = s.cur := rfl
@[simp] theorem State.setStrand_freeCtr (k : Nat) (x : Strand) : (s.setStrand k x).freeCtr = s.freeCtr := rfl
@[simp] theorem State.setStrand_nextId (k : Nat) (x : Strand) : (s.setStrand k x).nextId = s.nextId := rfl
@[simp] theorem State.setStrand_clk (k : Nat) (x : Strand) : (s.setStrand k x).clk = s.clk := rfl
@[simp] theorem State.setStrand_pkg (k : Nat) (x : Strand) : (s.setStrand k x).pkg = s.pkg := rfl
@[simp] theorem State.setStrand_mem (k : Nat) (x : Strand) : (s.setStrand k x).mem = s.mem := rfl
@[simp] theorem State.setStrand_threads (k : Nat) (x : Strand) : (s.setStrand k x).threads = s.threads := rfl
@[simp] theorem State.setStrand_bands (k : Nat) (x : Strand) : (s.setStrand k x).bands = s.bands := rfl
@[simp] theorem State.setStrand_blocks (k : Nat) (x : Strand) : (s.setStrand k x).blocks = s.blocks := rfl
@[simp] theorem State.setStrand_hasps (k : Nat) (x : Strand) : (s.setStrand k x).hasps = s.hasps := rfl
@[simp] theorem State.setStrand_cores (k : Nat) (x : Strand) : (s.setStrand k x).cores = s.cores := rfl
@[simp] theorem State.setStrand_engines (k : Nat) (x : Strand) : (s.setStrand k x).engines = s.engines := rfl
@[simp] theorem State.setStrand_watches (k : Nat) (x : Strand) : (s.setStrand k x).watches = s.watches := rfl
@[simp] theorem State.setStrand_cmds (k : Nat) (x : Strand) : (s.setStrand k x).cmds = s.cmds := rfl
@[simp] theorem State.setStrand_ops (k : Nat) (x : Strand) : (s.setStrand k x).ops = s.ops := rfl
@[simp] theorem State.setStrand_granted (k : Nat) (x : Strand) : (s.setStrand k x).granted = s.granted := rfl
@[simp] theorem State.setStrand_pendZero (k : Nat) (x : Strand) : (s.setStrand k x).pendZero = s.pendZero := rfl
@[simp] theorem State.setStrand_lines (k : Nat) (x : Strand) : (s.setStrand k x).lines = s.lines := rfl
@[simp] theorem State.setStrand_tasks (k : Nat) (x : Strand) : (s.setStrand k x).tasks = s.tasks := rfl
@[simp] theorem State.setStrand_queues (k : Nat) (x : Strand) : (s.setStrand k x).queues = s.queues := rfl
@[simp] theorem State.setStrand_graphs (k : Nat) (x : Strand) : (s.setStrand k x).graphs = s.graphs := rfl
@[simp] theorem State.setStrand_insts (k : Nat) (x : Strand) : (s.setStrand k x).insts = s.insts := rfl
@[simp] theorem State.setStrand_lp1s (k : Nat) (x : Strand) : (s.setStrand k x).lp1s = s.lp1s := rfl
@[simp] theorem State.setStrand_binds (k : Nat) (x : Strand) : (s.setStrand k x).binds = s.binds := rfl
@[simp] theorem State.setStrand_parts (k : Nat) (x : Strand) : (s.setStrand k x).parts = s.parts := rfl
@[simp] theorem State.setStrand_ctxs (k : Nat) (x : Strand) : (s.setStrand k x).ctxs = s.ctxs := rfl
@[simp] theorem State.setStrand_issue (k : Nat) (x : Strand) : (s.setStrand k x).issue = s.issue := rfl
@[simp] theorem State.setStrand_script (k : Nat) (x : Strand) : (s.setStrand k x).script = s.script := rfl
@[simp] theorem State.setStrand_frames (k : Nat) (x : Strand) : (s.setStrand k x).frames = s.frames := rfl
@[simp] theorem State.setStrand_worn (k : Nat) (x : Strand) : (s.setStrand k x).worn = s.worn := rfl

@[simp] theorem State.setEngine_engines (k : Nat) (x : Engine) : (s.setEngine k x).engines = sput Engine.zero s.engines k x := rfl
@[simp] theorem State.setEngine_cur (k : Nat) (x : Engine) : (s.setEngine k x).cur = s.cur := rfl
@[simp] theorem State.setEngine_freeCtr (k : Nat) (x : Engine) : (s.setEngine k x).freeCtr = s.freeCtr := rfl
@[simp] theorem State.setEngine_nextId (k : Nat) (x : Engine) : (s.setEngine k x).nextId = s.nextId := rfl
@[simp] theorem State.setEngine_clk (k : Nat) (x : Engine) : (s.setEngine k x).clk = s.clk := rfl
@[simp] theorem State.setEngine_pkg (k : Nat) (x : Engine) : (s.setEngine k x).pkg = s.pkg := rfl
@[simp] theorem State.setEngine_mem (k : Nat) (x : Engine) : (s.setEngine k x).mem = s.mem := rfl
@[simp] theorem State.setEngine_threads (k : Nat) (x : Engine) : (s.setEngine k x).threads = s.threads := rfl
@[simp] theorem State.setEngine_bands (k : Nat) (x : Engine) : (s.setEngine k x).bands = s.bands := rfl
@[simp] theorem State.setEngine_blocks (k : Nat) (x : Engine) : (s.setEngine k x).blocks = s.blocks := rfl
@[simp] theorem State.setEngine_hasps (k : Nat) (x : Engine) : (s.setEngine k x).hasps = s.hasps := rfl
@[simp] theorem State.setEngine_cores (k : Nat) (x : Engine) : (s.setEngine k x).cores = s.cores := rfl
@[simp] theorem State.setEngine_strands (k : Nat) (x : Engine) : (s.setEngine k x).strands = s.strands := rfl
@[simp] theorem State.setEngine_watches (k : Nat) (x : Engine) : (s.setEngine k x).watches = s.watches := rfl
@[simp] theorem State.setEngine_cmds (k : Nat) (x : Engine) : (s.setEngine k x).cmds = s.cmds := rfl
@[simp] theorem State.setEngine_ops (k : Nat) (x : Engine) : (s.setEngine k x).ops = s.ops := rfl
@[simp] theorem State.setEngine_granted (k : Nat) (x : Engine) : (s.setEngine k x).granted = s.granted := rfl
@[simp] theorem State.setEngine_pendZero (k : Nat) (x : Engine) : (s.setEngine k x).pendZero = s.pendZero := rfl
@[simp] theorem State.setEngine_lines (k : Nat) (x : Engine) : (s.setEngine k x).lines = s.lines := rfl
@[simp] theorem State.setEngine_tasks (k : Nat) (x : Engine) : (s.setEngine k x).tasks = s.tasks := rfl
@[simp] theorem State.setEngine_queues (k : Nat) (x : Engine) : (s.setEngine k x).queues = s.queues := rfl
@[simp] theorem State.setEngine_graphs (k : Nat) (x : Engine) : (s.setEngine k x).graphs = s.graphs := rfl
@[simp] theorem State.setEngine_insts (k : Nat) (x : Engine) : (s.setEngine k x).insts = s.insts := rfl
@[simp] theorem State.setEngine_lp1s (k : Nat) (x : Engine) : (s.setEngine k x).lp1s = s.lp1s := rfl
@[simp] theorem State.setEngine_binds (k : Nat) (x : Engine) : (s.setEngine k x).binds = s.binds := rfl
@[simp] theorem State.setEngine_parts (k : Nat) (x : Engine) : (s.setEngine k x).parts = s.parts := rfl
@[simp] theorem State.setEngine_ctxs (k : Nat) (x : Engine) : (s.setEngine k x).ctxs = s.ctxs := rfl
@[simp] theorem State.setEngine_issue (k : Nat) (x : Engine) : (s.setEngine k x).issue = s.issue := rfl
@[simp] theorem State.setEngine_script (k : Nat) (x : Engine) : (s.setEngine k x).script = s.script := rfl
@[simp] theorem State.setEngine_frames (k : Nat) (x : Engine) : (s.setEngine k x).frames = s.frames := rfl
@[simp] theorem State.setEngine_worn (k : Nat) (x : Engine) : (s.setEngine k x).worn = s.worn := rfl

@[simp] theorem State.setLine_lines (k : Nat) (x : LineMeta) : (s.setLine k x).lines = sput LineMeta.zero s.lines k x := rfl
@[simp] theorem State.setLine_cur (k : Nat) (x : LineMeta) : (s.setLine k x).cur = s.cur := rfl
@[simp] theorem State.setLine_freeCtr (k : Nat) (x : LineMeta) : (s.setLine k x).freeCtr = s.freeCtr := rfl
@[simp] theorem State.setLine_nextId (k : Nat) (x : LineMeta) : (s.setLine k x).nextId = s.nextId := rfl
@[simp] theorem State.setLine_clk (k : Nat) (x : LineMeta) : (s.setLine k x).clk = s.clk := rfl
@[simp] theorem State.setLine_pkg (k : Nat) (x : LineMeta) : (s.setLine k x).pkg = s.pkg := rfl
@[simp] theorem State.setLine_mem (k : Nat) (x : LineMeta) : (s.setLine k x).mem = s.mem := rfl
@[simp] theorem State.setLine_threads (k : Nat) (x : LineMeta) : (s.setLine k x).threads = s.threads := rfl
@[simp] theorem State.setLine_bands (k : Nat) (x : LineMeta) : (s.setLine k x).bands = s.bands := rfl
@[simp] theorem State.setLine_blocks (k : Nat) (x : LineMeta) : (s.setLine k x).blocks = s.blocks := rfl
@[simp] theorem State.setLine_hasps (k : Nat) (x : LineMeta) : (s.setLine k x).hasps = s.hasps := rfl
@[simp] theorem State.setLine_cores (k : Nat) (x : LineMeta) : (s.setLine k x).cores = s.cores := rfl
@[simp] theorem State.setLine_strands (k : Nat) (x : LineMeta) : (s.setLine k x).strands = s.strands := rfl
@[simp] theorem State.setLine_engines (k : Nat) (x : LineMeta) : (s.setLine k x).engines = s.engines := rfl
@[simp] theorem State.setLine_watches (k : Nat) (x : LineMeta) : (s.setLine k x).watches = s.watches := rfl
@[simp] theorem State.setLine_cmds (k : Nat) (x : LineMeta) : (s.setLine k x).cmds = s.cmds := rfl
@[simp] theorem State.setLine_ops (k : Nat) (x : LineMeta) : (s.setLine k x).ops = s.ops := rfl
@[simp] theorem State.setLine_granted (k : Nat) (x : LineMeta) : (s.setLine k x).granted = s.granted := rfl
@[simp] theorem State.setLine_pendZero (k : Nat) (x : LineMeta) : (s.setLine k x).pendZero = s.pendZero := rfl
@[simp] theorem State.setLine_tasks (k : Nat) (x : LineMeta) : (s.setLine k x).tasks = s.tasks := rfl
@[simp] theorem State.setLine_queues (k : Nat) (x : LineMeta) : (s.setLine k x).queues = s.queues := rfl
@[simp] theorem State.setLine_graphs (k : Nat) (x : LineMeta) : (s.setLine k x).graphs = s.graphs := rfl
@[simp] theorem State.setLine_insts (k : Nat) (x : LineMeta) : (s.setLine k x).insts = s.insts := rfl
@[simp] theorem State.setLine_lp1s (k : Nat) (x : LineMeta) : (s.setLine k x).lp1s = s.lp1s := rfl
@[simp] theorem State.setLine_binds (k : Nat) (x : LineMeta) : (s.setLine k x).binds = s.binds := rfl
@[simp] theorem State.setLine_parts (k : Nat) (x : LineMeta) : (s.setLine k x).parts = s.parts := rfl
@[simp] theorem State.setLine_ctxs (k : Nat) (x : LineMeta) : (s.setLine k x).ctxs = s.ctxs := rfl
@[simp] theorem State.setLine_issue (k : Nat) (x : LineMeta) : (s.setLine k x).issue = s.issue := rfl
@[simp] theorem State.setLine_script (k : Nat) (x : LineMeta) : (s.setLine k x).script = s.script := rfl
@[simp] theorem State.setLine_frames (k : Nat) (x : LineMeta) : (s.setLine k x).frames = s.frames := rfl
@[simp] theorem State.setLine_worn (k : Nat) (x : LineMeta) : (s.setLine k x).worn = s.worn := rfl

@[simp] theorem State.setQueue_queues (k : Nat) (x : Queue) : (s.setQueue k x).queues = sput Queue.zero s.queues k x := rfl
@[simp] theorem State.setQueue_cur (k : Nat) (x : Queue) : (s.setQueue k x).cur = s.cur := rfl
@[simp] theorem State.setQueue_freeCtr (k : Nat) (x : Queue) : (s.setQueue k x).freeCtr = s.freeCtr := rfl
@[simp] theorem State.setQueue_nextId (k : Nat) (x : Queue) : (s.setQueue k x).nextId = s.nextId := rfl
@[simp] theorem State.setQueue_clk (k : Nat) (x : Queue) : (s.setQueue k x).clk = s.clk := rfl
@[simp] theorem State.setQueue_pkg (k : Nat) (x : Queue) : (s.setQueue k x).pkg = s.pkg := rfl
@[simp] theorem State.setQueue_mem (k : Nat) (x : Queue) : (s.setQueue k x).mem = s.mem := rfl
@[simp] theorem State.setQueue_threads (k : Nat) (x : Queue) : (s.setQueue k x).threads = s.threads := rfl
@[simp] theorem State.setQueue_bands (k : Nat) (x : Queue) : (s.setQueue k x).bands = s.bands := rfl
@[simp] theorem State.setQueue_blocks (k : Nat) (x : Queue) : (s.setQueue k x).blocks = s.blocks := rfl
@[simp] theorem State.setQueue_hasps (k : Nat) (x : Queue) : (s.setQueue k x).hasps = s.hasps := rfl
@[simp] theorem State.setQueue_cores (k : Nat) (x : Queue) : (s.setQueue k x).cores = s.cores := rfl
@[simp] theorem State.setQueue_strands (k : Nat) (x : Queue) : (s.setQueue k x).strands = s.strands := rfl
@[simp] theorem State.setQueue_engines (k : Nat) (x : Queue) : (s.setQueue k x).engines = s.engines := rfl
@[simp] theorem State.setQueue_watches (k : Nat) (x : Queue) : (s.setQueue k x).watches = s.watches := rfl
@[simp] theorem State.setQueue_cmds (k : Nat) (x : Queue) : (s.setQueue k x).cmds = s.cmds := rfl
@[simp] theorem State.setQueue_ops (k : Nat) (x : Queue) : (s.setQueue k x).ops = s.ops := rfl
@[simp] theorem State.setQueue_granted (k : Nat) (x : Queue) : (s.setQueue k x).granted = s.granted := rfl
@[simp] theorem State.setQueue_pendZero (k : Nat) (x : Queue) : (s.setQueue k x).pendZero = s.pendZero := rfl
@[simp] theorem State.setQueue_lines (k : Nat) (x : Queue) : (s.setQueue k x).lines = s.lines := rfl
@[simp] theorem State.setQueue_tasks (k : Nat) (x : Queue) : (s.setQueue k x).tasks = s.tasks := rfl
@[simp] theorem State.setQueue_graphs (k : Nat) (x : Queue) : (s.setQueue k x).graphs = s.graphs := rfl
@[simp] theorem State.setQueue_insts (k : Nat) (x : Queue) : (s.setQueue k x).insts = s.insts := rfl
@[simp] theorem State.setQueue_lp1s (k : Nat) (x : Queue) : (s.setQueue k x).lp1s = s.lp1s := rfl
@[simp] theorem State.setQueue_binds (k : Nat) (x : Queue) : (s.setQueue k x).binds = s.binds := rfl
@[simp] theorem State.setQueue_parts (k : Nat) (x : Queue) : (s.setQueue k x).parts = s.parts := rfl
@[simp] theorem State.setQueue_ctxs (k : Nat) (x : Queue) : (s.setQueue k x).ctxs = s.ctxs := rfl
@[simp] theorem State.setQueue_issue (k : Nat) (x : Queue) : (s.setQueue k x).issue = s.issue := rfl
@[simp] theorem State.setQueue_script (k : Nat) (x : Queue) : (s.setQueue k x).script = s.script := rfl
@[simp] theorem State.setQueue_frames (k : Nat) (x : Queue) : (s.setQueue k x).frames = s.frames := rfl
@[simp] theorem State.setQueue_worn (k : Nat) (x : Queue) : (s.setQueue k x).worn = s.worn := rfl

@[simp] theorem State.setLp1_lp1s (k : Nat) (x : Lp1) : (s.setLp1 k x).lp1s = sput Lp1.zero s.lp1s k x := rfl
@[simp] theorem State.setLp1_cur (k : Nat) (x : Lp1) : (s.setLp1 k x).cur = s.cur := rfl
@[simp] theorem State.setLp1_freeCtr (k : Nat) (x : Lp1) : (s.setLp1 k x).freeCtr = s.freeCtr := rfl
@[simp] theorem State.setLp1_nextId (k : Nat) (x : Lp1) : (s.setLp1 k x).nextId = s.nextId := rfl
@[simp] theorem State.setLp1_clk (k : Nat) (x : Lp1) : (s.setLp1 k x).clk = s.clk := rfl
@[simp] theorem State.setLp1_pkg (k : Nat) (x : Lp1) : (s.setLp1 k x).pkg = s.pkg := rfl
@[simp] theorem State.setLp1_mem (k : Nat) (x : Lp1) : (s.setLp1 k x).mem = s.mem := rfl
@[simp] theorem State.setLp1_threads (k : Nat) (x : Lp1) : (s.setLp1 k x).threads = s.threads := rfl
@[simp] theorem State.setLp1_bands (k : Nat) (x : Lp1) : (s.setLp1 k x).bands = s.bands := rfl
@[simp] theorem State.setLp1_blocks (k : Nat) (x : Lp1) : (s.setLp1 k x).blocks = s.blocks := rfl
@[simp] theorem State.setLp1_hasps (k : Nat) (x : Lp1) : (s.setLp1 k x).hasps = s.hasps := rfl
@[simp] theorem State.setLp1_cores (k : Nat) (x : Lp1) : (s.setLp1 k x).cores = s.cores := rfl
@[simp] theorem State.setLp1_strands (k : Nat) (x : Lp1) : (s.setLp1 k x).strands = s.strands := rfl
@[simp] theorem State.setLp1_engines (k : Nat) (x : Lp1) : (s.setLp1 k x).engines = s.engines := rfl
@[simp] theorem State.setLp1_watches (k : Nat) (x : Lp1) : (s.setLp1 k x).watches = s.watches := rfl
@[simp] theorem State.setLp1_cmds (k : Nat) (x : Lp1) : (s.setLp1 k x).cmds = s.cmds := rfl
@[simp] theorem State.setLp1_ops (k : Nat) (x : Lp1) : (s.setLp1 k x).ops = s.ops := rfl
@[simp] theorem State.setLp1_granted (k : Nat) (x : Lp1) : (s.setLp1 k x).granted = s.granted := rfl
@[simp] theorem State.setLp1_pendZero (k : Nat) (x : Lp1) : (s.setLp1 k x).pendZero = s.pendZero := rfl
@[simp] theorem State.setLp1_lines (k : Nat) (x : Lp1) : (s.setLp1 k x).lines = s.lines := rfl
@[simp] theorem State.setLp1_tasks (k : Nat) (x : Lp1) : (s.setLp1 k x).tasks = s.tasks := rfl
@[simp] theorem State.setLp1_queues (k : Nat) (x : Lp1) : (s.setLp1 k x).queues = s.queues := rfl
@[simp] theorem State.setLp1_graphs (k : Nat) (x : Lp1) : (s.setLp1 k x).graphs = s.graphs := rfl
@[simp] theorem State.setLp1_insts (k : Nat) (x : Lp1) : (s.setLp1 k x).insts = s.insts := rfl
@[simp] theorem State.setLp1_binds (k : Nat) (x : Lp1) : (s.setLp1 k x).binds = s.binds := rfl
@[simp] theorem State.setLp1_parts (k : Nat) (x : Lp1) : (s.setLp1 k x).parts = s.parts := rfl
@[simp] theorem State.setLp1_ctxs (k : Nat) (x : Lp1) : (s.setLp1 k x).ctxs = s.ctxs := rfl
@[simp] theorem State.setLp1_issue (k : Nat) (x : Lp1) : (s.setLp1 k x).issue = s.issue := rfl
@[simp] theorem State.setLp1_script (k : Nat) (x : Lp1) : (s.setLp1 k x).script = s.script := rfl
@[simp] theorem State.setLp1_frames (k : Nat) (x : Lp1) : (s.setLp1 k x).frames = s.frames := rfl
@[simp] theorem State.setLp1_worn (k : Nat) (x : Lp1) : (s.setLp1 k x).worn = s.worn := rfl

@[simp] theorem State.modLp1_lp1s (k : Nat) (f : Lp1 → Lp1) : (s.modLp1 k f).lp1s = sput Lp1.zero s.lp1s k (f (s.lp1 k)) := rfl
@[simp] theorem State.modLp1_cur (k : Nat) (f : Lp1 → Lp1) : (s.modLp1 k f).cur = s.cur := rfl
@[simp] theorem State.modLp1_freeCtr (k : Nat) (f : Lp1 → Lp1) : (s.modLp1 k f).freeCtr = s.freeCtr := rfl
@[simp] theorem State.modLp1_nextId (k : Nat) (f : Lp1 → Lp1) : (s.modLp1 k f).nextId = s.nextId := rfl
@[simp] theorem State.modLp1_clk (k : Nat) (f : Lp1 → Lp1) : (s.modLp1 k f).clk = s.clk := rfl
@[simp] theorem State.modLp1_pkg (k : Nat) (f : Lp1 → Lp1) : (s.modLp1 k f).pkg = s.pkg := rfl
@[simp] theorem State.modLp1_mem (k : Nat) (f : Lp1 → Lp1) : (s.modLp1 k f).mem = s.mem := rfl
@[simp] theorem State.modLp1_threads (k : Nat) (f : Lp1 → Lp1) : (s.modLp1 k f).threads = s.threads := rfl
@[simp] theorem State.modLp1_bands (k : Nat) (f : Lp1 → Lp1) : (s.modLp1 k f).bands = s.bands := rfl
@[simp] theorem State.modLp1_blocks (k : Nat) (f : Lp1 → Lp1) : (s.modLp1 k f).blocks = s.blocks := rfl
@[simp] theorem State.modLp1_hasps (k : Nat) (f : Lp1 → Lp1) : (s.modLp1 k f).hasps = s.hasps := rfl
@[simp] theorem State.modLp1_cores (k : Nat) (f : Lp1 → Lp1) : (s.modLp1 k f).cores = s.cores := rfl
@[simp] theorem State.modLp1_strands (k : Nat) (f : Lp1 → Lp1) : (s.modLp1 k f).strands = s.strands := rfl
@[simp] theorem State.modLp1_engines (k : Nat) (f : Lp1 → Lp1) : (s.modLp1 k f).engines = s.engines := rfl
@[simp] theorem State.modLp1_watches (k : Nat) (f : Lp1 → Lp1) : (s.modLp1 k f).watches = s.watches := rfl
@[simp] theorem State.modLp1_cmds (k : Nat) (f : Lp1 → Lp1) : (s.modLp1 k f).cmds = s.cmds := rfl
@[simp] theorem State.modLp1_ops (k : Nat) (f : Lp1 → Lp1) : (s.modLp1 k f).ops = s.ops := rfl
@[simp] theorem State.modLp1_granted (k : Nat) (f : Lp1 → Lp1) : (s.modLp1 k f).granted = s.granted := rfl
@[simp] theorem State.modLp1_pendZero (k : Nat) (f : Lp1 → Lp1) : (s.modLp1 k f).pendZero = s.pendZero := rfl
@[simp] theorem State.modLp1_lines (k : Nat) (f : Lp1 → Lp1) : (s.modLp1 k f).lines = s.lines := rfl
@[simp] theorem State.modLp1_tasks (k : Nat) (f : Lp1 → Lp1) : (s.modLp1 k f).tasks = s.tasks := rfl
@[simp] theorem State.modLp1_queues (k : Nat) (f : Lp1 → Lp1) : (s.modLp1 k f).queues = s.queues := rfl
@[simp] theorem State.modLp1_graphs (k : Nat) (f : Lp1 → Lp1) : (s.modLp1 k f).graphs = s.graphs := rfl
@[simp] theorem State.modLp1_insts (k : Nat) (f : Lp1 → Lp1) : (s.modLp1 k f).insts = s.insts := rfl
@[simp] theorem State.modLp1_binds (k : Nat) (f : Lp1 → Lp1) : (s.modLp1 k f).binds = s.binds := rfl
@[simp] theorem State.modLp1_parts (k : Nat) (f : Lp1 → Lp1) : (s.modLp1 k f).parts = s.parts := rfl
@[simp] theorem State.modLp1_ctxs (k : Nat) (f : Lp1 → Lp1) : (s.modLp1 k f).ctxs = s.ctxs := rfl
@[simp] theorem State.modLp1_issue (k : Nat) (f : Lp1 → Lp1) : (s.modLp1 k f).issue = s.issue := rfl
@[simp] theorem State.modLp1_script (k : Nat) (f : Lp1 → Lp1) : (s.modLp1 k f).script = s.script := rfl
@[simp] theorem State.modLp1_frames (k : Nat) (f : Lp1 → Lp1) : (s.modLp1 k f).frames = s.frames := rfl
@[simp] theorem State.modLp1_worn (k : Nat) (f : Lp1 → Lp1) : (s.modLp1 k f).worn = s.worn := rfl

@[simp] theorem State.setBind_binds (k : Nat) (x : Bind) : (s.setBind k x).binds = sput Bind.zero s.binds k x := rfl
@[simp] theorem State.setBind_cur (k : Nat) (x : Bind) : (s.setBind k x).cur = s.cur := rfl
@[simp] theorem State.setBind_freeCtr (k : Nat) (x : Bind) : (s.setBind k x).freeCtr = s.freeCtr := rfl
@[simp] theorem State.setBind_nextId (k : Nat) (x : Bind) : (s.setBind k x).nextId = s.nextId := rfl
@[simp] theorem State.setBind_clk (k : Nat) (x : Bind) : (s.setBind k x).clk = s.clk := rfl
@[simp] theorem State.setBind_pkg (k : Nat) (x : Bind) : (s.setBind k x).pkg = s.pkg := rfl
@[simp] theorem State.setBind_mem (k : Nat) (x : Bind) : (s.setBind k x).mem = s.mem := rfl
@[simp] theorem State.setBind_threads (k : Nat) (x : Bind) : (s.setBind k x).threads = s.threads := rfl
@[simp] theorem State.setBind_bands (k : Nat) (x : Bind) : (s.setBind k x).bands = s.bands := rfl
@[simp] theorem State.setBind_blocks (k : Nat) (x : Bind) : (s.setBind k x).blocks = s.blocks := rfl
@[simp] theorem State.setBind_hasps (k : Nat) (x : Bind) : (s.setBind k x).hasps = s.hasps := rfl
@[simp] theorem State.setBind_cores (k : Nat) (x : Bind) : (s.setBind k x).cores = s.cores := rfl
@[simp] theorem State.setBind_strands (k : Nat) (x : Bind) : (s.setBind k x).strands = s.strands := rfl
@[simp] theorem State.setBind_engines (k : Nat) (x : Bind) : (s.setBind k x).engines = s.engines := rfl
@[simp] theorem State.setBind_watches (k : Nat) (x : Bind) : (s.setBind k x).watches = s.watches := rfl
@[simp] theorem State.setBind_cmds (k : Nat) (x : Bind) : (s.setBind k x).cmds = s.cmds := rfl
@[simp] theorem State.setBind_ops (k : Nat) (x : Bind) : (s.setBind k x).ops = s.ops := rfl
@[simp] theorem State.setBind_granted (k : Nat) (x : Bind) : (s.setBind k x).granted = s.granted := rfl
@[simp] theorem State.setBind_pendZero (k : Nat) (x : Bind) : (s.setBind k x).pendZero = s.pendZero := rfl
@[simp] theorem State.setBind_lines (k : Nat) (x : Bind) : (s.setBind k x).lines = s.lines := rfl
@[simp] theorem State.setBind_tasks (k : Nat) (x : Bind) : (s.setBind k x).tasks = s.tasks := rfl
@[simp] theorem State.setBind_queues (k : Nat) (x : Bind) : (s.setBind k x).queues = s.queues := rfl
@[simp] theorem State.setBind_graphs (k : Nat) (x : Bind) : (s.setBind k x).graphs = s.graphs := rfl
@[simp] theorem State.setBind_insts (k : Nat) (x : Bind) : (s.setBind k x).insts = s.insts := rfl
@[simp] theorem State.setBind_lp1s (k : Nat) (x : Bind) : (s.setBind k x).lp1s = s.lp1s := rfl
@[simp] theorem State.setBind_parts (k : Nat) (x : Bind) : (s.setBind k x).parts = s.parts := rfl
@[simp] theorem State.setBind_ctxs (k : Nat) (x : Bind) : (s.setBind k x).ctxs = s.ctxs := rfl
@[simp] theorem State.setBind_issue (k : Nat) (x : Bind) : (s.setBind k x).issue = s.issue := rfl
@[simp] theorem State.setBind_script (k : Nat) (x : Bind) : (s.setBind k x).script = s.script := rfl
@[simp] theorem State.setBind_frames (k : Nat) (x : Bind) : (s.setBind k x).frames = s.frames := rfl
@[simp] theorem State.setBind_worn (k : Nat) (x : Bind) : (s.setBind k x).worn = s.worn := rfl

@[simp] theorem State.setPart_parts (k : Nat) (x : Part) : (s.setPart k x).parts = sput Part.zero s.parts k x := rfl
@[simp] theorem State.setPart_cur (k : Nat) (x : Part) : (s.setPart k x).cur = s.cur := rfl
@[simp] theorem State.setPart_freeCtr (k : Nat) (x : Part) : (s.setPart k x).freeCtr = s.freeCtr := rfl
@[simp] theorem State.setPart_nextId (k : Nat) (x : Part) : (s.setPart k x).nextId = s.nextId := rfl
@[simp] theorem State.setPart_clk (k : Nat) (x : Part) : (s.setPart k x).clk = s.clk := rfl
@[simp] theorem State.setPart_pkg (k : Nat) (x : Part) : (s.setPart k x).pkg = s.pkg := rfl
@[simp] theorem State.setPart_mem (k : Nat) (x : Part) : (s.setPart k x).mem = s.mem := rfl
@[simp] theorem State.setPart_threads (k : Nat) (x : Part) : (s.setPart k x).threads = s.threads := rfl
@[simp] theorem State.setPart_bands (k : Nat) (x : Part) : (s.setPart k x).bands = s.bands := rfl
@[simp] theorem State.setPart_blocks (k : Nat) (x : Part) : (s.setPart k x).blocks = s.blocks := rfl
@[simp] theorem State.setPart_hasps (k : Nat) (x : Part) : (s.setPart k x).hasps = s.hasps := rfl
@[simp] theorem State.setPart_cores (k : Nat) (x : Part) : (s.setPart k x).cores = s.cores := rfl
@[simp] theorem State.setPart_strands (k : Nat) (x : Part) : (s.setPart k x).strands = s.strands := rfl
@[simp] theorem State.setPart_engines (k : Nat) (x : Part) : (s.setPart k x).engines = s.engines := rfl
@[simp] theorem State.setPart_watches (k : Nat) (x : Part) : (s.setPart k x).watches = s.watches := rfl
@[simp] theorem State.setPart_cmds (k : Nat) (x : Part) : (s.setPart k x).cmds = s.cmds := rfl
@[simp] theorem State.setPart_ops (k : Nat) (x : Part) : (s.setPart k x).ops = s.ops := rfl
@[simp] theorem State.setPart_granted (k : Nat) (x : Part) : (s.setPart k x).granted = s.granted := rfl
@[simp] theorem State.setPart_pendZero (k : Nat) (x : Part) : (s.setPart k x).pendZero = s.pendZero := rfl
@[simp] theorem State.setPart_lines (k : Nat) (x : Part) : (s.setPart k x).lines = s.lines := rfl
@[simp] theorem State.setPart_tasks (k : Nat) (x : Part) : (s.setPart k x).tasks = s.tasks := rfl
@[simp] theorem State.setPart_queues (k : Nat) (x : Part) : (s.setPart k x).queues = s.queues := rfl
@[simp] theorem State.setPart_graphs (k : Nat) (x : Part) : (s.setPart k x).graphs = s.graphs := rfl
@[simp] theorem State.setPart_insts (k : Nat) (x : Part) : (s.setPart k x).insts = s.insts := rfl
@[simp] theorem State.setPart_lp1s (k : Nat) (x : Part) : (s.setPart k x).lp1s = s.lp1s := rfl
@[simp] theorem State.setPart_binds (k : Nat) (x : Part) : (s.setPart k x).binds = s.binds := rfl
@[simp] theorem State.setPart_ctxs (k : Nat) (x : Part) : (s.setPart k x).ctxs = s.ctxs := rfl
@[simp] theorem State.setPart_issue (k : Nat) (x : Part) : (s.setPart k x).issue = s.issue := rfl
@[simp] theorem State.setPart_script (k : Nat) (x : Part) : (s.setPart k x).script = s.script := rfl
@[simp] theorem State.setPart_frames (k : Nat) (x : Part) : (s.setPart k x).frames = s.frames := rfl
@[simp] theorem State.setPart_worn (k : Nat) (x : Part) : (s.setPart k x).worn = s.worn := rfl

@[simp] theorem State.setCtx_ctxs (k : Nat) (x : Ctx) : (s.setCtx k x).ctxs = sput Ctx.zero s.ctxs k x := rfl
@[simp] theorem State.setCtx_cur (k : Nat) (x : Ctx) : (s.setCtx k x).cur = s.cur := rfl
@[simp] theorem State.setCtx_freeCtr (k : Nat) (x : Ctx) : (s.setCtx k x).freeCtr = s.freeCtr := rfl
@[simp] theorem State.setCtx_nextId (k : Nat) (x : Ctx) : (s.setCtx k x).nextId = s.nextId := rfl
@[simp] theorem State.setCtx_clk (k : Nat) (x : Ctx) : (s.setCtx k x).clk = s.clk := rfl
@[simp] theorem State.setCtx_pkg (k : Nat) (x : Ctx) : (s.setCtx k x).pkg = s.pkg := rfl
@[simp] theorem State.setCtx_mem (k : Nat) (x : Ctx) : (s.setCtx k x).mem = s.mem := rfl
@[simp] theorem State.setCtx_threads (k : Nat) (x : Ctx) : (s.setCtx k x).threads = s.threads := rfl
@[simp] theorem State.setCtx_bands (k : Nat) (x : Ctx) : (s.setCtx k x).bands = s.bands := rfl
@[simp] theorem State.setCtx_blocks (k : Nat) (x : Ctx) : (s.setCtx k x).blocks = s.blocks := rfl
@[simp] theorem State.setCtx_hasps (k : Nat) (x : Ctx) : (s.setCtx k x).hasps = s.hasps := rfl
@[simp] theorem State.setCtx_cores (k : Nat) (x : Ctx) : (s.setCtx k x).cores = s.cores := rfl
@[simp] theorem State.setCtx_strands (k : Nat) (x : Ctx) : (s.setCtx k x).strands = s.strands := rfl
@[simp] theorem State.setCtx_engines (k : Nat) (x : Ctx) : (s.setCtx k x).engines = s.engines := rfl
@[simp] theorem State.setCtx_watches (k : Nat) (x : Ctx) : (s.setCtx k x).watches = s.watches := rfl
@[simp] theorem State.setCtx_cmds (k : Nat) (x : Ctx) : (s.setCtx k x).cmds = s.cmds := rfl
@[simp] theorem State.setCtx_ops (k : Nat) (x : Ctx) : (s.setCtx k x).ops = s.ops := rfl
@[simp] theorem State.setCtx_granted (k : Nat) (x : Ctx) : (s.setCtx k x).granted = s.granted := rfl
@[simp] theorem State.setCtx_pendZero (k : Nat) (x : Ctx) : (s.setCtx k x).pendZero = s.pendZero := rfl
@[simp] theorem State.setCtx_lines (k : Nat) (x : Ctx) : (s.setCtx k x).lines = s.lines := rfl
@[simp] theorem State.setCtx_tasks (k : Nat) (x : Ctx) : (s.setCtx k x).tasks = s.tasks := rfl
@[simp] theorem State.setCtx_queues (k : Nat) (x : Ctx) : (s.setCtx k x).queues = s.queues := rfl
@[simp] theorem State.setCtx_graphs (k : Nat) (x : Ctx) : (s.setCtx k x).graphs = s.graphs := rfl
@[simp] theorem State.setCtx_insts (k : Nat) (x : Ctx) : (s.setCtx k x).insts = s.insts := rfl
@[simp] theorem State.setCtx_lp1s (k : Nat) (x : Ctx) : (s.setCtx k x).lp1s = s.lp1s := rfl
@[simp] theorem State.setCtx_binds (k : Nat) (x : Ctx) : (s.setCtx k x).binds = s.binds := rfl
@[simp] theorem State.setCtx_parts (k : Nat) (x : Ctx) : (s.setCtx k x).parts = s.parts := rfl
@[simp] theorem State.setCtx_issue (k : Nat) (x : Ctx) : (s.setCtx k x).issue = s.issue := rfl
@[simp] theorem State.setCtx_script (k : Nat) (x : Ctx) : (s.setCtx k x).script = s.script := rfl
@[simp] theorem State.setCtx_frames (k : Nat) (x : Ctx) : (s.setCtx k x).frames = s.frames := rfl
@[simp] theorem State.setCtx_worn (k : Nat) (x : Ctx) : (s.setCtx k x).worn = s.worn := rfl

@[simp] theorem State.modTask_tasks (k : Nat) (f : Task → Task) : (s.modTask k f).tasks = mmod s.tasks k f := rfl
@[simp] theorem State.modTask_cur (k : Nat) (f : Task → Task) : (s.modTask k f).cur = s.cur := rfl
@[simp] theorem State.modTask_freeCtr (k : Nat) (f : Task → Task) : (s.modTask k f).freeCtr = s.freeCtr := rfl
@[simp] theorem State.modTask_nextId (k : Nat) (f : Task → Task) : (s.modTask k f).nextId = s.nextId := rfl
@[simp] theorem State.modTask_clk (k : Nat) (f : Task → Task) : (s.modTask k f).clk = s.clk := rfl
@[simp] theorem State.modTask_pkg (k : Nat) (f : Task → Task) : (s.modTask k f).pkg = s.pkg := rfl
@[simp] theorem State.modTask_mem (k : Nat) (f : Task → Task) : (s.modTask k f).mem = s.mem := rfl
@[simp] theorem State.modTask_threads (k : Nat) (f : Task → Task) : (s.modTask k f).threads = s.threads := rfl
@[simp] theorem State.modTask_bands (k : Nat) (f : Task → Task) : (s.modTask k f).bands = s.bands := rfl
@[simp] theorem State.modTask_blocks (k : Nat) (f : Task → Task) : (s.modTask k f).blocks = s.blocks := rfl
@[simp] theorem State.modTask_hasps (k : Nat) (f : Task → Task) : (s.modTask k f).hasps = s.hasps := rfl
@[simp] theorem State.modTask_cores (k : Nat) (f : Task → Task) : (s.modTask k f).cores = s.cores := rfl
@[simp] theorem State.modTask_strands (k : Nat) (f : Task → Task) : (s.modTask k f).strands = s.strands := rfl
@[simp] theorem State.modTask_engines (k : Nat) (f : Task → Task) : (s.modTask k f).engines = s.engines := rfl
@[simp] theorem State.modTask_watches (k : Nat) (f : Task → Task) : (s.modTask k f).watches = s.watches := rfl
@[simp] theorem State.modTask_cmds (k : Nat) (f : Task → Task) : (s.modTask k f).cmds = s.cmds := rfl
@[simp] theorem State.modTask_ops (k : Nat) (f : Task → Task) : (s.modTask k f).ops = s.ops := rfl
@[simp] theorem State.modTask_granted (k : Nat) (f : Task → Task) : (s.modTask k f).granted = s.granted := rfl
@[simp] theorem State.modTask_pendZero (k : Nat) (f : Task → Task) : (s.modTask k f).pendZero = s.pendZero := rfl
@[simp] theorem State.modTask_lines (k : Nat) (f : Task → Task) : (s.modTask k f).lines = s.lines := rfl
@[simp] theorem State.modTask_queues (k : Nat) (f : Task → Task) : (s.modTask k f).queues = s.queues := rfl
@[simp] theorem State.modTask_graphs (k : Nat) (f : Task → Task) : (s.modTask k f).graphs = s.graphs := rfl
@[simp] theorem State.modTask_insts (k : Nat) (f : Task → Task) : (s.modTask k f).insts = s.insts := rfl
@[simp] theorem State.modTask_lp1s (k : Nat) (f : Task → Task) : (s.modTask k f).lp1s = s.lp1s := rfl
@[simp] theorem State.modTask_binds (k : Nat) (f : Task → Task) : (s.modTask k f).binds = s.binds := rfl
@[simp] theorem State.modTask_parts (k : Nat) (f : Task → Task) : (s.modTask k f).parts = s.parts := rfl
@[simp] theorem State.modTask_ctxs (k : Nat) (f : Task → Task) : (s.modTask k f).ctxs = s.ctxs := rfl
@[simp] theorem State.modTask_issue (k : Nat) (f : Task → Task) : (s.modTask k f).issue = s.issue := rfl
@[simp] theorem State.modTask_script (k : Nat) (f : Task → Task) : (s.modTask k f).script = s.script := rfl
@[simp] theorem State.modTask_frames (k : Nat) (f : Task → Task) : (s.modTask k f).frames = s.frames := rfl
@[simp] theorem State.modTask_worn (k : Nat) (f : Task → Task) : (s.modTask k f).worn = s.worn := rfl

@[simp] theorem State.modInst_insts (k : Nat) (f : Inst → Inst) : (s.modInst k f).insts = mmod s.insts k f := rfl
@[simp] theorem State.modInst_cur (k : Nat) (f : Inst → Inst) : (s.modInst k f).cur = s.cur := rfl
@[simp] theorem State.modInst_freeCtr (k : Nat) (f : Inst → Inst) : (s.modInst k f).freeCtr = s.freeCtr := rfl
@[simp] theorem State.modInst_nextId (k : Nat) (f : Inst → Inst) : (s.modInst k f).nextId = s.nextId := rfl
@[simp] theorem State.modInst_clk (k : Nat) (f : Inst → Inst) : (s.modInst k f).clk = s.clk := rfl
@[simp] theorem State.modInst_pkg (k : Nat) (f : Inst → Inst) : (s.modInst k f).pkg = s.pkg := rfl
@[simp] theorem State.modInst_mem (k : Nat) (f : Inst → Inst) : (s.modInst k f).mem = s.mem := rfl
@[simp] theorem State.modInst_threads (k : Nat) (f : Inst → Inst) : (s.modInst k f).threads = s.threads := rfl
@[simp] theorem State.modInst_bands (k : Nat) (f : Inst → Inst) : (s.modInst k f).bands = s.bands := rfl
@[simp] theorem State.modInst_blocks (k : Nat) (f : Inst → Inst) : (s.modInst k f).blocks = s.blocks := rfl
@[simp] theorem State.modInst_hasps (k : Nat) (f : Inst → Inst) : (s.modInst k f).hasps = s.hasps := rfl
@[simp] theorem State.modInst_cores (k : Nat) (f : Inst → Inst) : (s.modInst k f).cores = s.cores := rfl
@[simp] theorem State.modInst_strands (k : Nat) (f : Inst → Inst) : (s.modInst k f).strands = s.strands := rfl
@[simp] theorem State.modInst_engines (k : Nat) (f : Inst → Inst) : (s.modInst k f).engines = s.engines := rfl
@[simp] theorem State.modInst_watches (k : Nat) (f : Inst → Inst) : (s.modInst k f).watches = s.watches := rfl
@[simp] theorem State.modInst_cmds (k : Nat) (f : Inst → Inst) : (s.modInst k f).cmds = s.cmds := rfl
@[simp] theorem State.modInst_ops (k : Nat) (f : Inst → Inst) : (s.modInst k f).ops = s.ops := rfl
@[simp] theorem State.modInst_granted (k : Nat) (f : Inst → Inst) : (s.modInst k f).granted = s.granted := rfl
@[simp] theorem State.modInst_pendZero (k : Nat) (f : Inst → Inst) : (s.modInst k f).pendZero = s.pendZero := rfl
@[simp] theorem State.modInst_lines (k : Nat) (f : Inst → Inst) : (s.modInst k f).lines = s.lines := rfl
@[simp] theorem State.modInst_tasks (k : Nat) (f : Inst → Inst) : (s.modInst k f).tasks = s.tasks := rfl
@[simp] theorem State.modInst_queues (k : Nat) (f : Inst → Inst) : (s.modInst k f).queues = s.queues := rfl
@[simp] theorem State.modInst_graphs (k : Nat) (f : Inst → Inst) : (s.modInst k f).graphs = s.graphs := rfl
@[simp] theorem State.modInst_lp1s (k : Nat) (f : Inst → Inst) : (s.modInst k f).lp1s = s.lp1s := rfl
@[simp] theorem State.modInst_binds (k : Nat) (f : Inst → Inst) : (s.modInst k f).binds = s.binds := rfl
@[simp] theorem State.modInst_parts (k : Nat) (f : Inst → Inst) : (s.modInst k f).parts = s.parts := rfl
@[simp] theorem State.modInst_ctxs (k : Nat) (f : Inst → Inst) : (s.modInst k f).ctxs = s.ctxs := rfl
@[simp] theorem State.modInst_issue (k : Nat) (f : Inst → Inst) : (s.modInst k f).issue = s.issue := rfl
@[simp] theorem State.modInst_script (k : Nat) (f : Inst → Inst) : (s.modInst k f).script = s.script := rfl
@[simp] theorem State.modInst_frames (k : Nat) (f : Inst → Inst) : (s.modInst k f).frames = s.frames := rfl
@[simp] theorem State.modInst_worn (k : Nat) (f : Inst → Inst) : (s.modInst k f).worn = s.worn := rfl

/-! ### Reading after a write -/

@[simp] theorem State.thread_setThread (k : Nat) (x : Thread) : (s.setThread k x).thread? k = some x := mget_mput_same ..
theorem State.thread_setThread_other {k j : Nat} (x : Thread) (h : j ≠ k) : (s.setThread k x).thread? j = s.thread? j :=
  mget_mput_other _ x h
@[simp] theorem State.thread_modThread (k : Nat) (f : Thread → Thread) : (s.modThread k f).thread? k = (s.thread? k).map f :=
  mget_mmod_same ..
theorem State.thread_modThread_other {k j : Nat} (f : Thread → Thread) (h : j ≠ k) : (s.modThread k f).thread? j = s.thread? j :=
  mget_mmod_other _ f h
@[simp] theorem State.band_setBand (k : Nat) (x : Band) : (s.setBand k x).band? k = some x := mget_mput_same ..
theorem State.band_setBand_other {k j : Nat} (x : Band) (h : j ≠ k) : (s.setBand k x).band? j = s.band? j := mget_mput_other _ x h
@[simp] theorem State.band_modBand (k : Nat) (f : Band → Band) : (s.modBand k f).band? k = (s.band? k).map f := mget_mmod_same ..
theorem State.band_modBand_other {k j : Nat} (f : Band → Band) (h : j ≠ k) : (s.modBand k f).band? j = s.band? j :=
  mget_mmod_other _ f h
theorem State.hasp_setHasp (k : Nat) (x : Hasp) (h : Rising s.hasps) : (s.setHasp k x).hasp k = x := sget_sput_same _ k x h
theorem State.hasp_setHasp_other {k j : Nat} (x : Hasp) (h : j ≠ k) : (s.setHasp k x).hasp j = s.hasp j := sget_sput_other _ _ x h
theorem State.core_setCore (k : Nat) (x : Core) (h : Rising s.cores) : (s.setCore k x).core k = x := sget_sput_same _ k x h
theorem State.core_setCore_other {k j : Nat} (x : Core) (h : j ≠ k) : (s.setCore k x).core j = s.core j := sget_sput_other _ _ x h
theorem State.strand_setStrand (k : Nat) (x : Strand) (h : Rising s.strands) : (s.setStrand k x).strand k = x := sget_sput_same _ k x h
theorem State.strand_setStrand_other {k j : Nat} (x : Strand) (h : j ≠ k) : (s.setStrand k x).strand j = s.strand j := sget_sput_other _ _ x h
theorem State.engine_setEngine (k : Nat) (x : Engine) (h : Rising s.engines) : (s.setEngine k x).engine k = x := sget_sput_same _ k x h
theorem State.engine_setEngine_other {k j : Nat} (x : Engine) (h : j ≠ k) : (s.setEngine k x).engine j = s.engine j := sget_sput_other _ _ x h
theorem State.line_setLine (k : Nat) (x : LineMeta) (h : Rising s.lines) : (s.setLine k x).line k = x := sget_sput_same _ k x h
theorem State.line_setLine_other {k j : Nat} (x : LineMeta) (h : j ≠ k) : (s.setLine k x).line j = s.line j := sget_sput_other _ _ x h
theorem State.queue_setQueue (k : Nat) (x : Queue) (h : Rising s.queues) : (s.setQueue k x).queue k = x := sget_sput_same _ k x h
theorem State.queue_setQueue_other {k j : Nat} (x : Queue) (h : j ≠ k) : (s.setQueue k x).queue j = s.queue j := sget_sput_other _ _ x h
theorem State.lp1_setLp1 (k : Nat) (x : Lp1) (h : Rising s.lp1s) : (s.setLp1 k x).lp1 k = x := sget_sput_same _ k x h
theorem State.lp1_setLp1_other {k j : Nat} (x : Lp1) (h : j ≠ k) : (s.setLp1 k x).lp1 j = s.lp1 j := sget_sput_other _ _ x h
theorem State.bind_setBind (k : Nat) (x : Bind) (h : Rising s.binds) : (s.setBind k x).bind k = x := sget_sput_same _ k x h
theorem State.bind_setBind_other {k j : Nat} (x : Bind) (h : j ≠ k) : (s.setBind k x).bind j = s.bind j := sget_sput_other _ _ x h
theorem State.part_setPart (k : Nat) (x : Part) (h : Rising s.parts) : (s.setPart k x).part k = x := sget_sput_same _ k x h
theorem State.part_setPart_other {k j : Nat} (x : Part) (h : j ≠ k) : (s.setPart k x).part j = s.part j := sget_sput_other _ _ x h
theorem State.ctx_setCtx (k : Nat) (x : Ctx) (h : Rising s.ctxs) : (s.setCtx k x).ctx k = x := sget_sput_same _ k x h
theorem State.ctx_setCtx_other {k j : Nat} (x : Ctx) (h : j ≠ k) : (s.setCtx k x).ctx j = s.ctx j := sget_sput_other _ _ x h

/-! ### Reads that another update leaves alone -/

@[simp] theorem State.band_setThread (k : Nat) (x : Thread) (j : Nat) : (s.setThread k x).band? j = s.band? j := rfl
@[simp] theorem State.block_setThread (k : Nat) (x : Thread) (j : Nat) : (s.setThread k x).block? j = s.block? j := rfl
@[simp] theorem State.hasp_setThread (k : Nat) (x : Thread) (j : Nat) : (s.setThread k x).hasp j = s.hasp j := rfl
@[simp] theorem State.core_setThread (k : Nat) (x : Thread) (j : Nat) : (s.setThread k x).core j = s.core j := rfl
@[simp] theorem State.strand_setThread (k : Nat) (x : Thread) (j : Nat) : (s.setThread k x).strand j = s.strand j := rfl
@[simp] theorem State.task_setThread (k : Nat) (x : Thread) (j : Nat) : (s.setThread k x).task? j = s.task? j := rfl
@[simp] theorem State.inst_setThread (k : Nat) (x : Thread) (j : Nat) : (s.setThread k x).inst? j = s.inst? j := rfl
@[simp] theorem State.part_setThread (k : Nat) (x : Thread) (j : Nat) : (s.setThread k x).part j = s.part j := rfl
@[simp] theorem State.lp1_setThread (k : Nat) (x : Thread) (j : Nat) : (s.setThread k x).lp1 j = s.lp1 j := rfl
@[simp] theorem State.bind_setThread (k : Nat) (x : Thread) (j : Nat) : (s.setThread k x).bind j = s.bind j := rfl
@[simp] theorem State.band_modThread (k : Nat) (f : Thread → Thread) (j : Nat) : (s.modThread k f).band? j = s.band? j := rfl
@[simp] theorem State.block_modThread (k : Nat) (f : Thread → Thread) (j : Nat) : (s.modThread k f).block? j = s.block? j := rfl
@[simp] theorem State.hasp_modThread (k : Nat) (f : Thread → Thread) (j : Nat) : (s.modThread k f).hasp j = s.hasp j := rfl
@[simp] theorem State.core_modThread (k : Nat) (f : Thread → Thread) (j : Nat) : (s.modThread k f).core j = s.core j := rfl
@[simp] theorem State.strand_modThread (k : Nat) (f : Thread → Thread) (j : Nat) : (s.modThread k f).strand j = s.strand j := rfl
@[simp] theorem State.task_modThread (k : Nat) (f : Thread → Thread) (j : Nat) : (s.modThread k f).task? j = s.task? j := rfl
@[simp] theorem State.inst_modThread (k : Nat) (f : Thread → Thread) (j : Nat) : (s.modThread k f).inst? j = s.inst? j := rfl
@[simp] theorem State.part_modThread (k : Nat) (f : Thread → Thread) (j : Nat) : (s.modThread k f).part j = s.part j := rfl
@[simp] theorem State.lp1_modThread (k : Nat) (f : Thread → Thread) (j : Nat) : (s.modThread k f).lp1 j = s.lp1 j := rfl
@[simp] theorem State.bind_modThread (k : Nat) (f : Thread → Thread) (j : Nat) : (s.modThread k f).bind j = s.bind j := rfl
@[simp] theorem State.thread_setBand (k : Nat) (x : Band) (j : Nat) : (s.setBand k x).thread? j = s.thread? j := rfl
@[simp] theorem State.block_setBand (k : Nat) (x : Band) (j : Nat) : (s.setBand k x).block? j = s.block? j := rfl
@[simp] theorem State.hasp_setBand (k : Nat) (x : Band) (j : Nat) : (s.setBand k x).hasp j = s.hasp j := rfl
@[simp] theorem State.core_setBand (k : Nat) (x : Band) (j : Nat) : (s.setBand k x).core j = s.core j := rfl
@[simp] theorem State.strand_setBand (k : Nat) (x : Band) (j : Nat) : (s.setBand k x).strand j = s.strand j := rfl
@[simp] theorem State.task_setBand (k : Nat) (x : Band) (j : Nat) : (s.setBand k x).task? j = s.task? j := rfl
@[simp] theorem State.inst_setBand (k : Nat) (x : Band) (j : Nat) : (s.setBand k x).inst? j = s.inst? j := rfl
@[simp] theorem State.part_setBand (k : Nat) (x : Band) (j : Nat) : (s.setBand k x).part j = s.part j := rfl
@[simp] theorem State.lp1_setBand (k : Nat) (x : Band) (j : Nat) : (s.setBand k x).lp1 j = s.lp1 j := rfl
@[simp] theorem State.bind_setBand (k : Nat) (x : Band) (j : Nat) : (s.setBand k x).bind j = s.bind j := rfl
@[simp] theorem State.thread_modBand (k : Nat) (f : Band → Band) (j : Nat) : (s.modBand k f).thread? j = s.thread? j := rfl
@[simp] theorem State.block_modBand (k : Nat) (f : Band → Band) (j : Nat) : (s.modBand k f).block? j = s.block? j := rfl
@[simp] theorem State.hasp_modBand (k : Nat) (f : Band → Band) (j : Nat) : (s.modBand k f).hasp j = s.hasp j := rfl
@[simp] theorem State.core_modBand (k : Nat) (f : Band → Band) (j : Nat) : (s.modBand k f).core j = s.core j := rfl
@[simp] theorem State.strand_modBand (k : Nat) (f : Band → Band) (j : Nat) : (s.modBand k f).strand j = s.strand j := rfl
@[simp] theorem State.task_modBand (k : Nat) (f : Band → Band) (j : Nat) : (s.modBand k f).task? j = s.task? j := rfl
@[simp] theorem State.inst_modBand (k : Nat) (f : Band → Band) (j : Nat) : (s.modBand k f).inst? j = s.inst? j := rfl
@[simp] theorem State.part_modBand (k : Nat) (f : Band → Band) (j : Nat) : (s.modBand k f).part j = s.part j := rfl
@[simp] theorem State.lp1_modBand (k : Nat) (f : Band → Band) (j : Nat) : (s.modBand k f).lp1 j = s.lp1 j := rfl
@[simp] theorem State.bind_modBand (k : Nat) (f : Band → Band) (j : Nat) : (s.modBand k f).bind j = s.bind j := rfl
@[simp] theorem State.thread_modBlock (k : Nat) (f : Block → Block) (j : Nat) : (s.modBlock k f).thread? j = s.thread? j := rfl
@[simp] theorem State.band_modBlock (k : Nat) (f : Block → Block) (j : Nat) : (s.modBlock k f).band? j = s.band? j := rfl
@[simp] theorem State.hasp_modBlock (k : Nat) (f : Block → Block) (j : Nat) : (s.modBlock k f).hasp j = s.hasp j := rfl
@[simp] theorem State.core_modBlock (k : Nat) (f : Block → Block) (j : Nat) : (s.modBlock k f).core j = s.core j := rfl
@[simp] theorem State.strand_modBlock (k : Nat) (f : Block → Block) (j : Nat) : (s.modBlock k f).strand j = s.strand j := rfl
@[simp] theorem State.task_modBlock (k : Nat) (f : Block → Block) (j : Nat) : (s.modBlock k f).task? j = s.task? j := rfl
@[simp] theorem State.inst_modBlock (k : Nat) (f : Block → Block) (j : Nat) : (s.modBlock k f).inst? j = s.inst? j := rfl
@[simp] theorem State.part_modBlock (k : Nat) (f : Block → Block) (j : Nat) : (s.modBlock k f).part j = s.part j := rfl
@[simp] theorem State.lp1_modBlock (k : Nat) (f : Block → Block) (j : Nat) : (s.modBlock k f).lp1 j = s.lp1 j := rfl
@[simp] theorem State.bind_modBlock (k : Nat) (f : Block → Block) (j : Nat) : (s.modBlock k f).bind j = s.bind j := rfl
@[simp] theorem State.thread_setHasp (k : Nat) (x : Hasp) (j : Nat) : (s.setHasp k x).thread? j = s.thread? j := rfl
@[simp] theorem State.band_setHasp (k : Nat) (x : Hasp) (j : Nat) : (s.setHasp k x).band? j = s.band? j := rfl
@[simp] theorem State.block_setHasp (k : Nat) (x : Hasp) (j : Nat) : (s.setHasp k x).block? j = s.block? j := rfl
@[simp] theorem State.core_setHasp (k : Nat) (x : Hasp) (j : Nat) : (s.setHasp k x).core j = s.core j := rfl
@[simp] theorem State.strand_setHasp (k : Nat) (x : Hasp) (j : Nat) : (s.setHasp k x).strand j = s.strand j := rfl
@[simp] theorem State.task_setHasp (k : Nat) (x : Hasp) (j : Nat) : (s.setHasp k x).task? j = s.task? j := rfl
@[simp] theorem State.inst_setHasp (k : Nat) (x : Hasp) (j : Nat) : (s.setHasp k x).inst? j = s.inst? j := rfl
@[simp] theorem State.part_setHasp (k : Nat) (x : Hasp) (j : Nat) : (s.setHasp k x).part j = s.part j := rfl
@[simp] theorem State.lp1_setHasp (k : Nat) (x : Hasp) (j : Nat) : (s.setHasp k x).lp1 j = s.lp1 j := rfl
@[simp] theorem State.bind_setHasp (k : Nat) (x : Hasp) (j : Nat) : (s.setHasp k x).bind j = s.bind j := rfl
@[simp] theorem State.thread_setCore (k : Nat) (x : Core) (j : Nat) : (s.setCore k x).thread? j = s.thread? j := rfl
@[simp] theorem State.band_setCore (k : Nat) (x : Core) (j : Nat) : (s.setCore k x).band? j = s.band? j := rfl
@[simp] theorem State.block_setCore (k : Nat) (x : Core) (j : Nat) : (s.setCore k x).block? j = s.block? j := rfl
@[simp] theorem State.hasp_setCore (k : Nat) (x : Core) (j : Nat) : (s.setCore k x).hasp j = s.hasp j := rfl
@[simp] theorem State.strand_setCore (k : Nat) (x : Core) (j : Nat) : (s.setCore k x).strand j = s.strand j := rfl
@[simp] theorem State.task_setCore (k : Nat) (x : Core) (j : Nat) : (s.setCore k x).task? j = s.task? j := rfl
@[simp] theorem State.inst_setCore (k : Nat) (x : Core) (j : Nat) : (s.setCore k x).inst? j = s.inst? j := rfl
@[simp] theorem State.part_setCore (k : Nat) (x : Core) (j : Nat) : (s.setCore k x).part j = s.part j := rfl
@[simp] theorem State.lp1_setCore (k : Nat) (x : Core) (j : Nat) : (s.setCore k x).lp1 j = s.lp1 j := rfl
@[simp] theorem State.bind_setCore (k : Nat) (x : Core) (j : Nat) : (s.setCore k x).bind j = s.bind j := rfl
@[simp] theorem State.thread_modCore (k : Nat) (f : Core → Core) (j : Nat) : (s.modCore k f).thread? j = s.thread? j := rfl
@[simp] theorem State.band_modCore (k : Nat) (f : Core → Core) (j : Nat) : (s.modCore k f).band? j = s.band? j := rfl
@[simp] theorem State.block_modCore (k : Nat) (f : Core → Core) (j : Nat) : (s.modCore k f).block? j = s.block? j := rfl
@[simp] theorem State.hasp_modCore (k : Nat) (f : Core → Core) (j : Nat) : (s.modCore k f).hasp j = s.hasp j := rfl
@[simp] theorem State.strand_modCore (k : Nat) (f : Core → Core) (j : Nat) : (s.modCore k f).strand j = s.strand j := rfl
@[simp] theorem State.task_modCore (k : Nat) (f : Core → Core) (j : Nat) : (s.modCore k f).task? j = s.task? j := rfl
@[simp] theorem State.inst_modCore (k : Nat) (f : Core → Core) (j : Nat) : (s.modCore k f).inst? j = s.inst? j := rfl
@[simp] theorem State.part_modCore (k : Nat) (f : Core → Core) (j : Nat) : (s.modCore k f).part j = s.part j := rfl
@[simp] theorem State.lp1_modCore (k : Nat) (f : Core → Core) (j : Nat) : (s.modCore k f).lp1 j = s.lp1 j := rfl
@[simp] theorem State.bind_modCore (k : Nat) (f : Core → Core) (j : Nat) : (s.modCore k f).bind j = s.bind j := rfl
@[simp] theorem State.thread_setStrand (k : Nat) (x : Strand) (j : Nat) : (s.setStrand k x).thread? j = s.thread? j := rfl
@[simp] theorem State.band_setStrand (k : Nat) (x : Strand) (j : Nat) : (s.setStrand k x).band? j = s.band? j := rfl
@[simp] theorem State.block_setStrand (k : Nat) (x : Strand) (j : Nat) : (s.setStrand k x).block? j = s.block? j := rfl
@[simp] theorem State.hasp_setStrand (k : Nat) (x : Strand) (j : Nat) : (s.setStrand k x).hasp j = s.hasp j := rfl
@[simp] theorem State.core_setStrand (k : Nat) (x : Strand) (j : Nat) : (s.setStrand k x).core j = s.core j := rfl
@[simp] theorem State.task_setStrand (k : Nat) (x : Strand) (j : Nat) : (s.setStrand k x).task? j = s.task? j := rfl
@[simp] theorem State.inst_setStrand (k : Nat) (x : Strand) (j : Nat) : (s.setStrand k x).inst? j = s.inst? j := rfl
@[simp] theorem State.part_setStrand (k : Nat) (x : Strand) (j : Nat) : (s.setStrand k x).part j = s.part j := rfl
@[simp] theorem State.lp1_setStrand (k : Nat) (x : Strand) (j : Nat) : (s.setStrand k x).lp1 j = s.lp1 j := rfl
@[simp] theorem State.bind_setStrand (k : Nat) (x : Strand) (j : Nat) : (s.setStrand k x).bind j = s.bind j := rfl
@[simp] theorem State.thread_setEngine (k : Nat) (x : Engine) (j : Nat) : (s.setEngine k x).thread? j = s.thread? j := rfl
@[simp] theorem State.band_setEngine (k : Nat) (x : Engine) (j : Nat) : (s.setEngine k x).band? j = s.band? j := rfl
@[simp] theorem State.block_setEngine (k : Nat) (x : Engine) (j : Nat) : (s.setEngine k x).block? j = s.block? j := rfl
@[simp] theorem State.hasp_setEngine (k : Nat) (x : Engine) (j : Nat) : (s.setEngine k x).hasp j = s.hasp j := rfl
@[simp] theorem State.core_setEngine (k : Nat) (x : Engine) (j : Nat) : (s.setEngine k x).core j = s.core j := rfl
@[simp] theorem State.strand_setEngine (k : Nat) (x : Engine) (j : Nat) : (s.setEngine k x).strand j = s.strand j := rfl
@[simp] theorem State.task_setEngine (k : Nat) (x : Engine) (j : Nat) : (s.setEngine k x).task? j = s.task? j := rfl
@[simp] theorem State.inst_setEngine (k : Nat) (x : Engine) (j : Nat) : (s.setEngine k x).inst? j = s.inst? j := rfl
@[simp] theorem State.part_setEngine (k : Nat) (x : Engine) (j : Nat) : (s.setEngine k x).part j = s.part j := rfl
@[simp] theorem State.lp1_setEngine (k : Nat) (x : Engine) (j : Nat) : (s.setEngine k x).lp1 j = s.lp1 j := rfl
@[simp] theorem State.bind_setEngine (k : Nat) (x : Engine) (j : Nat) : (s.setEngine k x).bind j = s.bind j := rfl
@[simp] theorem State.thread_setLine (k : Nat) (x : LineMeta) (j : Nat) : (s.setLine k x).thread? j = s.thread? j := rfl
@[simp] theorem State.band_setLine (k : Nat) (x : LineMeta) (j : Nat) : (s.setLine k x).band? j = s.band? j := rfl
@[simp] theorem State.block_setLine (k : Nat) (x : LineMeta) (j : Nat) : (s.setLine k x).block? j = s.block? j := rfl
@[simp] theorem State.hasp_setLine (k : Nat) (x : LineMeta) (j : Nat) : (s.setLine k x).hasp j = s.hasp j := rfl
@[simp] theorem State.core_setLine (k : Nat) (x : LineMeta) (j : Nat) : (s.setLine k x).core j = s.core j := rfl
@[simp] theorem State.strand_setLine (k : Nat) (x : LineMeta) (j : Nat) : (s.setLine k x).strand j = s.strand j := rfl
@[simp] theorem State.task_setLine (k : Nat) (x : LineMeta) (j : Nat) : (s.setLine k x).task? j = s.task? j := rfl
@[simp] theorem State.inst_setLine (k : Nat) (x : LineMeta) (j : Nat) : (s.setLine k x).inst? j = s.inst? j := rfl
@[simp] theorem State.part_setLine (k : Nat) (x : LineMeta) (j : Nat) : (s.setLine k x).part j = s.part j := rfl
@[simp] theorem State.lp1_setLine (k : Nat) (x : LineMeta) (j : Nat) : (s.setLine k x).lp1 j = s.lp1 j := rfl
@[simp] theorem State.bind_setLine (k : Nat) (x : LineMeta) (j : Nat) : (s.setLine k x).bind j = s.bind j := rfl
@[simp] theorem State.thread_setQueue (k : Nat) (x : Queue) (j : Nat) : (s.setQueue k x).thread? j = s.thread? j := rfl
@[simp] theorem State.band_setQueue (k : Nat) (x : Queue) (j : Nat) : (s.setQueue k x).band? j = s.band? j := rfl
@[simp] theorem State.block_setQueue (k : Nat) (x : Queue) (j : Nat) : (s.setQueue k x).block? j = s.block? j := rfl
@[simp] theorem State.hasp_setQueue (k : Nat) (x : Queue) (j : Nat) : (s.setQueue k x).hasp j = s.hasp j := rfl
@[simp] theorem State.core_setQueue (k : Nat) (x : Queue) (j : Nat) : (s.setQueue k x).core j = s.core j := rfl
@[simp] theorem State.strand_setQueue (k : Nat) (x : Queue) (j : Nat) : (s.setQueue k x).strand j = s.strand j := rfl
@[simp] theorem State.task_setQueue (k : Nat) (x : Queue) (j : Nat) : (s.setQueue k x).task? j = s.task? j := rfl
@[simp] theorem State.inst_setQueue (k : Nat) (x : Queue) (j : Nat) : (s.setQueue k x).inst? j = s.inst? j := rfl
@[simp] theorem State.part_setQueue (k : Nat) (x : Queue) (j : Nat) : (s.setQueue k x).part j = s.part j := rfl
@[simp] theorem State.lp1_setQueue (k : Nat) (x : Queue) (j : Nat) : (s.setQueue k x).lp1 j = s.lp1 j := rfl
@[simp] theorem State.bind_setQueue (k : Nat) (x : Queue) (j : Nat) : (s.setQueue k x).bind j = s.bind j := rfl
@[simp] theorem State.thread_setLp1 (k : Nat) (x : Lp1) (j : Nat) : (s.setLp1 k x).thread? j = s.thread? j := rfl
@[simp] theorem State.band_setLp1 (k : Nat) (x : Lp1) (j : Nat) : (s.setLp1 k x).band? j = s.band? j := rfl
@[simp] theorem State.block_setLp1 (k : Nat) (x : Lp1) (j : Nat) : (s.setLp1 k x).block? j = s.block? j := rfl
@[simp] theorem State.hasp_setLp1 (k : Nat) (x : Lp1) (j : Nat) : (s.setLp1 k x).hasp j = s.hasp j := rfl
@[simp] theorem State.core_setLp1 (k : Nat) (x : Lp1) (j : Nat) : (s.setLp1 k x).core j = s.core j := rfl
@[simp] theorem State.strand_setLp1 (k : Nat) (x : Lp1) (j : Nat) : (s.setLp1 k x).strand j = s.strand j := rfl
@[simp] theorem State.task_setLp1 (k : Nat) (x : Lp1) (j : Nat) : (s.setLp1 k x).task? j = s.task? j := rfl
@[simp] theorem State.inst_setLp1 (k : Nat) (x : Lp1) (j : Nat) : (s.setLp1 k x).inst? j = s.inst? j := rfl
@[simp] theorem State.part_setLp1 (k : Nat) (x : Lp1) (j : Nat) : (s.setLp1 k x).part j = s.part j := rfl
@[simp] theorem State.bind_setLp1 (k : Nat) (x : Lp1) (j : Nat) : (s.setLp1 k x).bind j = s.bind j := rfl
@[simp] theorem State.thread_modLp1 (k : Nat) (f : Lp1 → Lp1) (j : Nat) : (s.modLp1 k f).thread? j = s.thread? j := rfl
@[simp] theorem State.band_modLp1 (k : Nat) (f : Lp1 → Lp1) (j : Nat) : (s.modLp1 k f).band? j = s.band? j := rfl
@[simp] theorem State.block_modLp1 (k : Nat) (f : Lp1 → Lp1) (j : Nat) : (s.modLp1 k f).block? j = s.block? j := rfl
@[simp] theorem State.hasp_modLp1 (k : Nat) (f : Lp1 → Lp1) (j : Nat) : (s.modLp1 k f).hasp j = s.hasp j := rfl
@[simp] theorem State.core_modLp1 (k : Nat) (f : Lp1 → Lp1) (j : Nat) : (s.modLp1 k f).core j = s.core j := rfl
@[simp] theorem State.strand_modLp1 (k : Nat) (f : Lp1 → Lp1) (j : Nat) : (s.modLp1 k f).strand j = s.strand j := rfl
@[simp] theorem State.task_modLp1 (k : Nat) (f : Lp1 → Lp1) (j : Nat) : (s.modLp1 k f).task? j = s.task? j := rfl
@[simp] theorem State.inst_modLp1 (k : Nat) (f : Lp1 → Lp1) (j : Nat) : (s.modLp1 k f).inst? j = s.inst? j := rfl
@[simp] theorem State.part_modLp1 (k : Nat) (f : Lp1 → Lp1) (j : Nat) : (s.modLp1 k f).part j = s.part j := rfl
@[simp] theorem State.bind_modLp1 (k : Nat) (f : Lp1 → Lp1) (j : Nat) : (s.modLp1 k f).bind j = s.bind j := rfl
@[simp] theorem State.thread_setBind (k : Nat) (x : Bind) (j : Nat) : (s.setBind k x).thread? j = s.thread? j := rfl
@[simp] theorem State.band_setBind (k : Nat) (x : Bind) (j : Nat) : (s.setBind k x).band? j = s.band? j := rfl
@[simp] theorem State.block_setBind (k : Nat) (x : Bind) (j : Nat) : (s.setBind k x).block? j = s.block? j := rfl
@[simp] theorem State.hasp_setBind (k : Nat) (x : Bind) (j : Nat) : (s.setBind k x).hasp j = s.hasp j := rfl
@[simp] theorem State.core_setBind (k : Nat) (x : Bind) (j : Nat) : (s.setBind k x).core j = s.core j := rfl
@[simp] theorem State.strand_setBind (k : Nat) (x : Bind) (j : Nat) : (s.setBind k x).strand j = s.strand j := rfl
@[simp] theorem State.task_setBind (k : Nat) (x : Bind) (j : Nat) : (s.setBind k x).task? j = s.task? j := rfl
@[simp] theorem State.inst_setBind (k : Nat) (x : Bind) (j : Nat) : (s.setBind k x).inst? j = s.inst? j := rfl
@[simp] theorem State.part_setBind (k : Nat) (x : Bind) (j : Nat) : (s.setBind k x).part j = s.part j := rfl
@[simp] theorem State.lp1_setBind (k : Nat) (x : Bind) (j : Nat) : (s.setBind k x).lp1 j = s.lp1 j := rfl
@[simp] theorem State.thread_setPart (k : Nat) (x : Part) (j : Nat) : (s.setPart k x).thread? j = s.thread? j := rfl
@[simp] theorem State.band_setPart (k : Nat) (x : Part) (j : Nat) : (s.setPart k x).band? j = s.band? j := rfl
@[simp] theorem State.block_setPart (k : Nat) (x : Part) (j : Nat) : (s.setPart k x).block? j = s.block? j := rfl
@[simp] theorem State.hasp_setPart (k : Nat) (x : Part) (j : Nat) : (s.setPart k x).hasp j = s.hasp j := rfl
@[simp] theorem State.core_setPart (k : Nat) (x : Part) (j : Nat) : (s.setPart k x).core j = s.core j := rfl
@[simp] theorem State.strand_setPart (k : Nat) (x : Part) (j : Nat) : (s.setPart k x).strand j = s.strand j := rfl
@[simp] theorem State.task_setPart (k : Nat) (x : Part) (j : Nat) : (s.setPart k x).task? j = s.task? j := rfl
@[simp] theorem State.inst_setPart (k : Nat) (x : Part) (j : Nat) : (s.setPart k x).inst? j = s.inst? j := rfl
@[simp] theorem State.lp1_setPart (k : Nat) (x : Part) (j : Nat) : (s.setPart k x).lp1 j = s.lp1 j := rfl
@[simp] theorem State.bind_setPart (k : Nat) (x : Part) (j : Nat) : (s.setPart k x).bind j = s.bind j := rfl
@[simp] theorem State.thread_setCtx (k : Nat) (x : Ctx) (j : Nat) : (s.setCtx k x).thread? j = s.thread? j := rfl
@[simp] theorem State.band_setCtx (k : Nat) (x : Ctx) (j : Nat) : (s.setCtx k x).band? j = s.band? j := rfl
@[simp] theorem State.block_setCtx (k : Nat) (x : Ctx) (j : Nat) : (s.setCtx k x).block? j = s.block? j := rfl
@[simp] theorem State.hasp_setCtx (k : Nat) (x : Ctx) (j : Nat) : (s.setCtx k x).hasp j = s.hasp j := rfl
@[simp] theorem State.core_setCtx (k : Nat) (x : Ctx) (j : Nat) : (s.setCtx k x).core j = s.core j := rfl
@[simp] theorem State.strand_setCtx (k : Nat) (x : Ctx) (j : Nat) : (s.setCtx k x).strand j = s.strand j := rfl
@[simp] theorem State.task_setCtx (k : Nat) (x : Ctx) (j : Nat) : (s.setCtx k x).task? j = s.task? j := rfl
@[simp] theorem State.inst_setCtx (k : Nat) (x : Ctx) (j : Nat) : (s.setCtx k x).inst? j = s.inst? j := rfl
@[simp] theorem State.part_setCtx (k : Nat) (x : Ctx) (j : Nat) : (s.setCtx k x).part j = s.part j := rfl
@[simp] theorem State.lp1_setCtx (k : Nat) (x : Ctx) (j : Nat) : (s.setCtx k x).lp1 j = s.lp1 j := rfl
@[simp] theorem State.bind_setCtx (k : Nat) (x : Ctx) (j : Nat) : (s.setCtx k x).bind j = s.bind j := rfl
@[simp] theorem State.thread_modTask (k : Nat) (f : Task → Task) (j : Nat) : (s.modTask k f).thread? j = s.thread? j := rfl
@[simp] theorem State.band_modTask (k : Nat) (f : Task → Task) (j : Nat) : (s.modTask k f).band? j = s.band? j := rfl
@[simp] theorem State.block_modTask (k : Nat) (f : Task → Task) (j : Nat) : (s.modTask k f).block? j = s.block? j := rfl
@[simp] theorem State.hasp_modTask (k : Nat) (f : Task → Task) (j : Nat) : (s.modTask k f).hasp j = s.hasp j := rfl
@[simp] theorem State.core_modTask (k : Nat) (f : Task → Task) (j : Nat) : (s.modTask k f).core j = s.core j := rfl
@[simp] theorem State.strand_modTask (k : Nat) (f : Task → Task) (j : Nat) : (s.modTask k f).strand j = s.strand j := rfl
@[simp] theorem State.inst_modTask (k : Nat) (f : Task → Task) (j : Nat) : (s.modTask k f).inst? j = s.inst? j := rfl
@[simp] theorem State.part_modTask (k : Nat) (f : Task → Task) (j : Nat) : (s.modTask k f).part j = s.part j := rfl
@[simp] theorem State.lp1_modTask (k : Nat) (f : Task → Task) (j : Nat) : (s.modTask k f).lp1 j = s.lp1 j := rfl
@[simp] theorem State.bind_modTask (k : Nat) (f : Task → Task) (j : Nat) : (s.modTask k f).bind j = s.bind j := rfl
@[simp] theorem State.thread_modInst (k : Nat) (f : Inst → Inst) (j : Nat) : (s.modInst k f).thread? j = s.thread? j := rfl
@[simp] theorem State.band_modInst (k : Nat) (f : Inst → Inst) (j : Nat) : (s.modInst k f).band? j = s.band? j := rfl
@[simp] theorem State.block_modInst (k : Nat) (f : Inst → Inst) (j : Nat) : (s.modInst k f).block? j = s.block? j := rfl
@[simp] theorem State.hasp_modInst (k : Nat) (f : Inst → Inst) (j : Nat) : (s.modInst k f).hasp j = s.hasp j := rfl
@[simp] theorem State.core_modInst (k : Nat) (f : Inst → Inst) (j : Nat) : (s.modInst k f).core j = s.core j := rfl
@[simp] theorem State.strand_modInst (k : Nat) (f : Inst → Inst) (j : Nat) : (s.modInst k f).strand j = s.strand j := rfl
@[simp] theorem State.task_modInst (k : Nat) (f : Inst → Inst) (j : Nat) : (s.modInst k f).task? j = s.task? j := rfl
@[simp] theorem State.part_modInst (k : Nat) (f : Inst → Inst) (j : Nat) : (s.modInst k f).part j = s.part j := rfl
@[simp] theorem State.lp1_modInst (k : Nat) (f : Inst → Inst) (j : Nat) : (s.modInst k f).lp1 j = s.lp1 j := rfl
@[simp] theorem State.bind_modInst (k : Nat) (f : Inst → Inst) (j : Nat) : (s.modInst k f).bind j = s.bind j := rfl

end Sys2Proof.Machine
end

