-- ==== Sys2Proof/Laws/Memory.lean ====
section
/-! SUPPORT. The canonical form of memory (log 2): what it says, and that every operation on memory keeps it. -/

namespace Sys2Proof.Machine

/-- The canonical form: addresses rise strictly, and no entry is the 0 that an unlisted address reads as. -/
theorem Memory.wf_iff (m : List Host.Cell) : Memory.wf m = true ↔ Rising m ∧ ∀ c ∈ m, c.2 ≠ 0 := by
  induction m with
  | nil => simp [Memory.wf, Rising]
  | cons c m ih =>
    obtain ⟨a, b⟩ := c
    simp only [Memory.wf, Rising, Bool.and_eq_true, bne_iff_ne, ne_eq, List.all_eq_true, decide_eq_true_eq, ih, List.mem_cons,
      forall_eq_or_imp]
    constructor
    · rintro ⟨⟨h1, h2⟩, h3, h4⟩; exact ⟨⟨h2, h3⟩, h1, h4⟩
    · rintro ⟨⟨h2, h3⟩, h1, h4⟩; exact ⟨⟨h1, h2⟩, h3, h4⟩

theorem Memory.wf_sput {m : List Host.Cell} (a : Nat) (b : Byte) (h : Memory.wf m = true) : Memory.wf (sput 0 m a b) = true := by
  obtain ⟨h1, h2⟩ := (Memory.wf_iff m).1 h
  refine (Memory.wf_iff _).2 ⟨rising_sput 0 a b h1, fun c hc => ?_⟩
  unfold sput at hc
  split at hc
  · exact h2 c (mem_mdel hc)
  · rename_i hb
    rcases mem_mput hc with rfl | hc
    · exact hb
    · exact h2 c hc

theorem Memory.wf_filter {m : List Host.Cell} (p : Host.Cell → Bool) (h : Memory.wf m = true) : Memory.wf (m.filter p) = true := by
  obtain ⟨h1, h2⟩ := (Memory.wf_iff m).1 h
  exact (Memory.wf_iff _).2 ⟨rising_filter p h1, fun c hc => h2 c (List.mem_filter.1 hc).1⟩

theorem Memory.wf_storeBytes {m : List Host.Cell} (a : Nat) (bs : List Byte) (h : Memory.wf m = true) :
    Memory.wf (storeBytes m a bs) = true := by
  induction bs generalizing m a with
  | nil => exact h
  | cons b bs ih => exact ih (a + 1) (Memory.wf_sput a b h)

/-- Bytes put at keys of one's own, as a restore puts a slice's (R327). -/
theorem Memory.wf_puts {m : List Host.Cell} (key : Nat → Nat) (xs : List Host.Cell) (h : Memory.wf m = true) :
    Memory.wf (xs.foldl (fun (m : List Host.Cell) (b : Host.Cell) => sput 0 m (key b.1) b.2) m) = true := by
  induction xs generalizing m with
  | nil => exact h
  | cons x xs ih => exact ih (Memory.wf_sput (key x.1) x.2 h)

theorem State.settleLine_wf {s : State} (l : Nat) (h : Memory.wf s.mem = true) : Memory.wf (s.settleLine l).mem = true := by
  unfold State.settleLine
  split
  · exact Memory.wf_filter _ h
  · exact h

theorem State.zeroRange_wf {s : State} (lo hi : Nat) (h : Memory.wf s.mem = true) : Memory.wf (s.zeroRange lo hi).mem = true :=
  Memory.wf_filter _ h

/-- Whatever a fold over a list keeps step by step, it keeps. -/
theorem State.foldl_wf {α : Type} (f : State → α → State) (hf : ∀ s x, Memory.wf s.mem = true → Memory.wf (f s x).mem = true)
    (xs : List α) {s : State} (h : Memory.wf s.mem = true) : Memory.wf (xs.foldl f s).mem = true := by
  induction xs generalizing s with
  | nil => exact h
  | cons x xs ih => exact ih (hf s x h)

theorem State.touchLines_mem (s : State) (ls : List Nat) : (ls.foldl State.touchLine s).mem = s.mem := by
  induction ls generalizing s with
  | nil => rfl
  | cons l ls ih => exact (ih _).trans rfl

/-- The one write of memory keeps the canonical form. -/
theorem State.writeHome_wf {s : State} (a : Nat) (bs : List Byte) (h : Memory.wf s.mem = true) :
    Memory.wf (s.writeHome a bs).mem = true := by
  unfold State.writeHome
  rw [State.touchLines_mem]
  exact Memory.wf_storeBytes a bs (State.foldl_wf _ (fun s l => State.settleLine_wf l) _ h)

theorem State.writeDev_wf {s : State} (pa : Nat) (bs : List Byte) (h : Memory.wf s.mem = true) :
    Memory.wf (s.writeDev pa bs).mem = true := State.writeHome_wf _ _ h

/-- Memory after reset has the canonical form, listing nothing. -/
theorem State.reset_mem_wf : Memory.wf State.reset.mem = true := rfl

end Sys2Proof.Machine
end

