-- ==== Sys2Proof/Laws/Ops.lean ====
section
/-! SUPPORT. What the shared operations of execution can do, said once: the budget check, a halt, going on after an instruction, a
result delivered, the frames in which instructions run. -/

namespace Sys2Proof.Machine

/-! ### The budget -/

theorem beyond_fold (b : Nat) (ns : List Nat) (m : Option Nat) (h : ∀ n ∈ ns, n < b) :
    ns.foldl (fun m n => if n < b then m else some (match m with
      | some x => min x n
      | none => n)) m = m := by
  induction ns generalizing m with
  | nil => rfl
  | cons n ns ih =>
    rw [List.foldl_cons, if_pos (h n List.mem_cons_self)]
    exact ih m fun j hj => h j (List.mem_cons_of_mem _ hj)

/-- No register is beyond the budget where all named lie below it (R27). -/
theorem beyond_of_below {b : Nat} {ns : List Nat} (h : ∀ n ∈ ns, n < b) : beyond b ns = none := beyond_fold b ns none h

/-- A list split at its first element that fails a test, folded. -/
theorem beyond_fold_some (b : Nat) (ns : List Nat) (x : Nat) (hx : b ≤ x) :
    ∃ y, ns.foldl (fun m n => if n < b then m else some (match m with
      | some x => min x n
      | none => n)) (some x) = some y ∧ b ≤ y ∧ (y = x ∨ y ∈ ns) ∧ y ≤ x ∧ ∀ n ∈ ns, b ≤ n → y ≤ n := by
  induction ns generalizing x with
  | nil => exact ⟨x, rfl, hx, .inl rfl, Nat.le_refl x, by simp⟩
  | cons n ns ih =>
    rw [List.foldl_cons]
    by_cases h : n < b
    · rw [if_pos h]
      obtain ⟨y, h1, h2, h3, h4, h5⟩ := ih x hx
      refine ⟨y, h1, h2, h3.imp id (List.mem_cons_of_mem _), h4, fun m hm hb => ?_⟩
      rcases List.mem_cons.1 hm with rfl | hm
      · omega
      · exact h5 m hm hb
    · rw [if_neg h]
      obtain ⟨y, h1, h2, h3, h4, h5⟩ := ih (min x n) (by omega)
      refine ⟨y, h1, h2, ?_, by omega, fun m hm hb => ?_⟩
      · rcases h3 with h3 | h3
        · rcases Nat.le_total x n with hl | hl
          · exact .inl (by omega)
          · exact .inr (by simp [show y = n by omega])
        · exact .inr (List.mem_cons_of_mem _ h3)
      · rcases List.mem_cons.1 hm with rfl | hm
        · omega
        · exact h5 m hm hb

/-- Where some register named lies at or beyond the budget, the lowest such is found (R27). -/
theorem beyond_of_above {b : Nat} {ns : List Nat} {n : Nat} (hn : n ∈ ns) (hb : b ≤ n) (hl : ∀ m ∈ ns, b ≤ m → n ≤ m) :
    beyond b ns = some n := by
  unfold beyond
  induction ns with
  | nil => cases hn
  | cons j ns ih =>
    rw [List.foldl_cons]
    by_cases h : j < b
    · rw [if_pos h]
      rcases List.mem_cons.1 hn with rfl | hn
      · omega
      · exact ih hn fun m hm => hl m (List.mem_cons_of_mem _ hm)
    · rw [if_neg h]
      obtain ⟨y, h1, h2, h3, h4, h5⟩ := beyond_fold_some b ns j (by omega)
      refine h1.trans ?_
      congr 1
      have hj := hl j List.mem_cons_self (by omega)
      have hy : n ≤ y := by
        rcases h3 with h3 | h3
        · omega
        · exact hl y (List.mem_cons_of_mem _ h3) h2
      rcases List.mem_cons.1 hn with rfl | hn
      · omega
      · have := h5 n hn hb; omega

/-! ### Halting and going on -/

/-- A halt changes the thread and its core's debug block. -/
theorem State.settleHalt_frame (s : State) (k : Nat) :
    s.settleHalt k = { s with threads := (s.settleHalt k).threads, cores := (s.settleHalt k).cores } := by
  unfold State.settleHalt State.haltThread
  split
  · split
    · split <;> rfl
    · rfl
  · rfl

theorem State.settleHalt_none {s : State} {k : Nat} {t : Thread} (h : s.thread? k = some t) (hr : t.haltReq = false) :
    s.settleHalt k = s := by
  simp [State.settleHalt, h, hr]

/-- What a halt leaves of its thread, and of the others. -/
theorem State.settleHalt_thread {s : State} {k : Nat} {t : Thread} (h : s.thread? k = some t) :
    (s.settleHalt k).thread? k = some t ∨
      (s.settleHalt k).thread? k = some { t with halted := true, haltReq := false, stepping := false } := by
  unfold State.settleHalt State.haltThread
  simp only [h]
  split
  · right
    exact mget_mput_same ..
  · exact .inl h

theorem State.settleHalt_thread_other (s : State) {k j : Nat} (h : j ≠ k) : (s.settleHalt k).thread? j = s.thread? j := by
  unfold State.settleHalt State.haltThread
  split
  · split
    · split
      · rfl
      · exact mget_mput_other _ _ h
    · rfl
  · rfl

/-- Going on changes the thread table and, at a halt, a core. -/
theorem State.goTo_frame (s : State) (k : Nat) (pc : Addr) :
    s.goTo k pc = { s with threads := (s.goTo k pc).threads, cores := (s.goTo k pc).cores } := by
  unfold State.goTo
  rw [State.settleHalt_frame]
  rfl

theorem State.goTo_thread_other (s : State) {k j : Nat} (pc : Addr) (h : j ≠ k) : (s.goTo k pc).thread? j = s.thread? j := by
  unfold State.goTo
  rw [State.settleHalt_thread_other _ h]
  exact State.thread_modThread_other _ _ h

/-- What going on keeps of a thread. -/
theorem Thread.goneTo_kept (t : Thread) (pc : Addr) (clk : Nat) (yld : Bool) :
    let u := t.goneTo pc clk yld
    u.pc = pc ∧ u.status = .ready ∧ u.v = t.v ∧ u.f = t.f ∧ u.rs = t.rs ∧ u.fstat = t.fstat ∧ u.trapstat = t.trapstat ∧
      u.trapMode = t.trapMode ∧ u.clkh = t.clkh ∧ u.uid = t.uid ∧ u.spilled = t.spilled ∧ u.trapPt = t.trapPt ∧
      u.halted = t.halted ∧ u.haltReq = t.haltReq := by
  unfold Thread.goneTo Thread.endClause
  dsimp only
  repeat' split
  all_goals simp

/-- The thread that goes on stands at the pc, ready; its registers are as before. -/
theorem State.goTo_thread {s : State} {k : Nat} {t : Thread} (pc : Addr) (h : s.thread? k = some t) :
    ∃ t', (s.goTo k pc).thread? k = some t' ∧ t'.pc = pc ∧ t'.status = .ready ∧ t'.v = t.v ∧ t'.f = t.f ∧ t'.rs = t.rs ∧
      t'.fstat = t.fstat ∧ t'.trapstat = t.trapstat ∧ t'.trapMode = t.trapMode ∧ t'.clkh = t.clkh ∧ t'.uid = t.uid ∧
      t'.spilled = t.spilled ∧ t'.trapPt = t.trapPt ∧ (t.haltReq = false → t'.halted = t.halted) := by
  unfold State.goTo
  have h1 : (s.modThread k fun t => t.goneTo pc s.clk (s.headerAt (s.instOf k) t.pc).yld).thread? k =
      some (t.goneTo pc s.clk (s.headerAt (s.instOf k) t.pc).yld) := by simp [h]
  obtain ⟨g1, g2, g3, g4, g5, g6, g7, g8, g9, g10, g11, g12, g13, g14⟩ :=
    t.goneTo_kept pc s.clk (s.headerAt (s.instOf k) t.pc).yld
  rcases hr : t.haltReq with _ | _
  · rw [State.settleHalt_none h1 (by rw [g14, hr])]
    exact ⟨_, h1, g1, g2, g3, g4, g5, g6, g7, g8, g9, g10, g11, g12, fun _ => g13⟩
  · rcases State.settleHalt_thread h1 with h3 | h3
    · exact ⟨_, h3, g1, g2, g3, g4, g5, g6, g7, g8, g9, g10, g11, g12, by simp⟩
    · exact ⟨_, h3, g1, g2, g3, g4, g5, g6, g7, g8, g9, g10, g11, g12, by simp⟩

/-- A thread that no halt waits for goes on without a change to any core. -/
theorem State.goTo_cores {s : State} {k : Nat} {t : Thread} (pc : Addr) (h : s.thread? k = some t) (hr : t.haltReq = false) :
    (s.goTo k pc).cores = s.cores := by
  unfold State.goTo
  rw [State.settleHalt_none (t := t.goneTo pc s.clk (s.headerAt (s.instOf k) t.pc).yld) (by simp [h])]
  · rfl
  · rw [(t.goneTo_kept ..).2.2.2.2.2.2.2.2.2.2.2.2.2, hr]

/-! ### Results -/

theorem Thread.getV_setV_same (t : Thread) {n : Nat} (w : Word) (h : n < 160) : (t.setV n w).getV n = w := by
  simp [Thread.getV, Thread.setV, h]

theorem Thread.getV_setV_other (t : Thread) {n m : Nat} (w : Word) (h : m ≠ n) : (t.setV n w).getV m = t.getV m := by
  unfold Thread.setV
  split
  · unfold Thread.getV
    split
    · exact Vector.getElem_set_ne (by assumption) _ (Ne.symm h)
    · rfl
  · rfl

/-- A delivered result: the destination holds it, no other register changed, FSTAT gained its conditions. -/
theorem Thread.delivered (t : Thread) (d : LaneDst) (r : FRes) :
    (∀ n, d = .v n → ((t.setD d r.1).orStat r.2).getV n.val = r.1) ∧
    (∀ n, d ≠ .v n → ((t.setD d r.1).orStat r.2).getV n.val = t.getV n.val) ∧
    ((t.setD d r.1).orStat r.2).fstat = t.fstat ||| (r.2 &&& fstatMask) := by
  refine ⟨?_, ?_, ?_⟩
  · rintro n rfl
    exact t.getV_setV_same r.1 n.isLt
  · intro n hn
    cases d with
    | discard => rfl
    | v m =>
      refine t.getV_setV_other r.1 fun h => hn ?_
      rw [Fin.val_inj] at h
      rw [h]
  · cases d with
    | discard => rfl
    | v m => simp only [Thread.setD, Thread.setV, Thread.orStat]; split <;> rfl

theorem Thread.setD_orStat_kept (t : Thread) (d : LaneDst) (r : FRes) :
    let u := (t.setD d r.1).orStat r.2
    u.f = t.f ∧ u.rs = t.rs ∧ u.trapstat = t.trapstat ∧ u.trapMode = t.trapMode ∧ u.clkh = t.clkh ∧ u.haltReq = t.haltReq ∧
      u.pc = t.pc := by
  cases d with
  | discard => simp [Thread.setD, Thread.orStat]
  | v m => simp only [Thread.setD, Thread.setV, Thread.orStat]; split <;> simp

theorem State.deliver_thread {s : State} {k : Nat} {t : Thread} (d : LaneDst) (r : FRes) (h : s.thread? k = some t) :
    (s.deliver k d r).thread? k = some ((t.setD d r.1).orStat r.2) := by simp [State.deliver, h]

theorem State.deliver_pcAfter {s : State} {k : Nat} {t : Thread} (d : LaneDst) (r : FRes) (h : s.thread? k = some t) :
    (s.deliver k d r).pcAfter k = s.pcAfter k := by
  unfold State.pcAfter
  rw [State.deliver_thread d r h, h]
  simp only [(t.setD_orStat_kept d r).2.2.2.2.2.2]
  rfl

/-! ### Frames of instructions -/

/-- A lane instruction of a resident thread whose registers lie below the budget, and whose sources hold no error, runs its body. -/
theorem laneFrame_runs {s : State} {k : Nat} {t : Thread} {ds rs : List Nat} (body : Nat → Thread → Res) (hc : s.cur = .thread k)
    (ht : s.thread? k = some t) (hb : ∀ n ∈ ds ++ rs, n < s.budgetOf k) (hg : t.anyBad rs = false) :
    laneFrame s ds rs body = .next (State.laneFinish k (body k t)) := by
  simp [laneFrame, hc, ht, beyond_of_below hb, hg]

/-- Beyond the budget it traps, naming the register (R27, R236). -/
theorem laneFrame_traps {s : State} {k n : Nat} {t : Thread} {ds rs : List Nat} (body : Nat → Thread → Res) (hc : s.cur = .thread k)
    (ht : s.thread? k = some t) (hb : beyond (s.budgetOf k) (ds ++ rs) = some n) :
    laneFrame s ds rs body = .next (s.laneTrap k ⟨3, n, 0⟩) := by
  simp [laneFrame, hc, ht, hb]

/-- A source with an error that no code corrects traps (R363). -/
theorem laneFrame_bad {s : State} {k : Nat} {t : Thread} {ds rs : List Nat} (body : Nat → Thread → Res) (hc : s.cur = .thread k)
    (ht : s.thread? k = some t) (hb : ∀ n ∈ ds ++ rs, n < s.budgetOf k) (hg : t.anyBad rs = true) :
    laneFrame s ds rs body = .next (s.laneTrap k (cAccess 12)) := by
  simp [laneFrame, hc, ht, beyond_of_below hb, hg]

theorem bandLaneFrame_runs {s : State} {k : Nat} {t : Thread} {ds rs : List Nat} (body : State → List Nat → Res) (hc : s.cur = .thread k)
    (ht : s.thread? k = some t) (hb : ∀ n ∈ ds ++ rs, n < s.budgetOf k) :
    bandLaneFrame s ds rs body = .next (rendezvous s k (unlessBad rs body)) := by
  simp [bandLaneFrame, hc, ht, beyond_of_below hb]

/-- Where no thread of the meeting reads a register in error, the body runs (R363). -/
theorem unlessBad_good {s : State} {ks rs : List Nat} (body : State → List Nat → Res)
    (h : ∀ j ∈ ks, ∀ t, s.thread? j = some t → t.anyBad rs = false) : unlessBad rs body s ks = body s ks := by
  unfold unlessBad
  rw [if_neg]
  simp only [List.any_eq_true, not_exists, not_and]
  intro j hj hb
  cases ht : s.thread? j with
  | none => simp [ht] at hb
  | some t => simp [ht, h j hj t ht] at hb

theorem uniFrame_runs {s : State} {k : Nat} {t : Thread} (body : State → Party → List Nat → Res) (hc : s.cur = .thread k)
    (ht : s.thread? k = some t) :
    uniFrame s body = .next (rendezvous s k fun s ks => body s (.band (bandOfThread k)) ks) := by
  simp [uniFrame, hc, ht]

theorem uniFrame_strand {s : State} {q : Nat} (body : State → Party → List Nat → Res) (hc : s.cur = .strand q) :
    uniFrame s body = .next (State.strandFinish q (body s (.strand q) [])) := by
  simp [uniFrame, hc]

/-- A thread in trap mode does not wait for the scalar pipe (R116). -/
theorem State.pipeFree_trapMode {s : State} {k : Nat} {t : Thread} (ht : s.thread? k = some t) (hm : t.trapMode = true) :
    s.pipeFree k = true := by
  simp [State.pipeFree, ht, hm]

/-- Alone in trap mode, a thread is the whole rendezvous (R116). -/
theorem rendezvous_trapMode {s : State} {k : Nat} {t : Thread} (body : State → List Nat → Res) (ht : s.thread? k = some t)
    (hm : t.trapMode = true) : rendezvous s k body = State.bandFinish [k] ((body s [k]).piped k true) := by
  simp [rendezvous, ht, hm, State.meeting, State.rendezvousP, State.pipeFree_trapMode ht hm]

/-- A thread outside P passes (R113). -/
theorem rendezvous_outside {s : State} {k : Nat} {t : Thread} (body : State → List Nat → Res) (ht : s.thread? k = some t)
    (hm : t.trapMode = false) (hp : s.inPm k = false) : rendezvous s k body = s.advance k := by
  simp [rendezvous, ht, hm, hp]

/-- A complete meeting that the scalar pipe takes runs the operation once (R113, R117). -/
theorem rendezvous_complete {s : State} {k : Nat} {t : Thread} {ks : List Nat} (body : State → List Nat → Res)
    (ht : s.thread? k = some t) (hm : t.trapMode = false) (hp : s.inPm k = true) (hk : (s.arrive k).meeting k = .complete ks)
    (hf : (s.arrive k).pipeFree k = true) :
    rendezvous s k body = State.bandFinish ks ((body (s.arrive k) ks).piped k false) := by
  simp [rendezvous, ht, hm, hp, hk, hf]

/-- One that must wait for the scalar pipe only arrives (R117). -/
theorem rendezvous_waits {s : State} {k : Nat} {t : Thread} {ks : List Nat} (body : State → List Nat → Res)
    (ht : s.thread? k = some t) (hm : t.trapMode = false) (hp : s.inPm k = true) (hk : (s.arrive k).meeting k = .complete ks)
    (hf : (s.arrive k).pipeFree k = false) : rendezvous s k body = s.arrive k := by
  simp [rendezvous, ht, hm, hp, hk, hf]

/-- The scalar pipe's note changes only a core. -/
theorem State.piped_frame (s : State) (k : Nat) (alone held : Bool) :
    s.piped k alone held = { s with cores := (s.piped k alone held).cores } := by
  unfold State.piped
  split
  · rfl
  · split <;> rfl

end Sys2Proof.Machine
end

