-- ==== Sys2Proof/Tests/Slice0.lean ====
section
/-! SUPPORT. The model's own tests: ill-formed terms, words of every encoding, single steps, and for each statement with hypotheses a
state and operands that meet them. -/

open Sys2Proof Sys2Proof.Machine Sys2Proof.Says

namespace Sys2Proof.Tests

/-! ### Well-formedness: one ill-formed term for each check, which the check refuses -/

theorem test_wf_uniform_special : (Instr.smov (.s 1) (.sp 16)).wf = false ∧ (Instr.smov (.s 1) (.sp 1)).wf = false ∧
    (Instr.smov (.s 1) (.sp 18)).wf = true := by decide
theorem test_wf_cross_lane_source : (Instr.mov (.v 1) (.s 2) (.xor 1)).wf = false ∧ (Instr.mov (.v 1) (.v 2) (.xor 1)).wf = true := by decide
theorem test_wf_load_run : (Instr.ld .b64 .relaxed .a (.v 159) (.v 0) 0).wf = false ∧ (Instr.ld .b128 .relaxed .a .discard (.v 0) 0).wf = false ∧
    (Instr.ld .b128 .relaxed .a (.v 156) (.v 0) 0).wf = true := by decide
theorem test_wf_store_run : (Instr.st .none .b64 .relaxed .a (.v 0) 0 (.v 159)).wf = false ∧ (Instr.st .none .b64 .relaxed .a (.v 0) 0 (.k 0)).wf = false := by
  decide
theorem test_wf_store_size : (Instr.st .none .s8 .relaxed .a (.v 0) 0 (.v 1)).wf = false := by decide
theorem test_wf_orders : (Instr.ld .u32 (.rel .pkg) .a (.v 1) (.v 0) 0).wf = false ∧ (Instr.st .none .u32 (.acq .pkg) .a (.v 0) 0 (.v 1)).wf = false ∧
    (Instr.red .add false (.acq .pkg) .a (.v 0) 0 (.v 1)).wf = false := by decide
theorem test_wf_atomics : (Instr.atom .fadd true .relaxed .a (.v 2) (.v 0) 0 (.v 4)).wf = false ∧
    (Instr.atom .add true .relaxed .a (.v 2) (.v 0) 0 (.s 4)).wf = false := by decide
theorem test_wf_reduction_rounding : (Instr.xred .add .zero (.v 1) (.v 2)).wf = false ∧ (Instr.xred .fadd .zero (.v 1) (.v 2)).wf = true := by decide
theorem test_wf_grades : (Instr.gconf .none .a (.v 1) (.v 2) 0).wf = false ∧ (Instr.amend true .none 1 2 3).wf = false := by decide
theorem test_wf_records : (Instr.resumeRetry 0 ⟨0, 0, 0, 1, 0, 0, 0, 0, 0⟩).wf = false ∧ (Instr.resumeFail 0 ⟨0, 0, 0, 0, 0, 0, 0, 0, 0⟩).wf = false ∧
    (Instr.bindRecordWrite 0 []).wf = false := by decide

/-! ### Decoding: words written out from the encoding tables (R22-R36, R59-R112, R119-R178, R268-R277), one for each constructor that has
words; and rejections by name (R33, R59, R269) -/

/-- A decoder reads each list of words as the instruction beside it, and leaves no word. -/
def reads (dec : List Word → Dec (Instr × List Word)) (xs : List (List Word × Instr)) : Bool :=
  xs.all fun x => (dec x.1).toOption == some (x.2, [])

/-- Why a decoder refuses. -/
def refusal (r : Dec (Instr × List Word)) : Option DecodeError :=
  match r with
  | .error e => some e
  | .ok _ => none

/-- Opcode 0x16 is in no row; D = 160 names nothing; POPC's B is not 0; BFE's MOD bit is reserved; IMAD without its second word. -/
theorem test_decode_rejects : refusal (decode [0x16000000]) = some .unassigned ∧ refusal (decode [0x00A00000]) = some .illegalField ∧
    refusal (decode [0x11010201]) = some .unusedField ∧ refusal (decode [0x13010203, 0x00000002]) = some .reservedModifier ∧
    refusal (decode [0x05060102]) = some .missingWord := by decide

/-- Opcode 0x1F is in no row of the command set; CRET's other fields are not 0. -/
theorem test_decode_command_rejects : refusal (decodeCmd [0x7C000000]) = some .unassigned ∧ refusal (decodeCmd [0x34000001]) = some .unusedField := by decide

theorem test_words_lane_integer_a :
    reads decode [
      ([0x00019FC0], .iadd (.v 1) (.v 159) (.k 0)),
      ([0x01029FC1], .isub (.v 2) (.v 159) (.k 1)),
      ([0x02039FC2], .imul (.v 3) (.v 159) (.k 2)),
      ([0x03049FC3], .imulh (.v 4) (.v 159) (.k 3)),
      ([0x04059FC4], .imulhu (.v 5) (.v 159) (.k 4)),
      ([0x06079FC6], .imin (.v 7) (.v 159) (.k 6)),
      ([0x07089FC7], .imax (.v 8) (.v 159) (.k 7)),
      ([0x08099FC8], .iminu (.v 9) (.v 159) (.k 8)),
      ([0x090A9FC9], .imaxu (.v 10) (.v 159) (.k 9)),
      ([0x0A0B9FCA], .and (.v 11) (.v 159) (.k 10)),
      ([0x0B0C9FCB], .or (.v 12) (.v 159) (.k 11)),
      ([0x0C0D9FCC], .xor (.v 13) (.v 159) (.k 12))] = true := by decide

theorem test_words_lane_integer_b :
    reads decode [
      ([0x0D0E9FCD], .andn (.v 14) (.v 159) (.k 13)),
      ([0x0E0F9FCE], .shl (.v 15) (.v 159) (.k 14)),
      ([0x0F109FCF], .shr (.v 16) (.v 159) (.k 15)),
      ([0x10119FD0], .sar (.v 17) (.v 159) (.k 16)),
      ([0x050601A2, 0x00018002], .imad .unsigned (.v 6) (.v 1) .none (.s 2) (.v 3)),
      ([0x11FF0900], .popc .discard (.v 9)),
      ([0x1208BF00], .clz (.v 8) (.s 31)),
      ([0x130102FF, 0x3F800001], .bfe true (.v 1) (.v 2) (.up 31) (.k 63)),
      ([0x14010203, 0x28020000], .bfi (.v 1) (.v 2) (.xor 16) (.v 3) (.v 4)),
      ([0x15010203, 0x0000000D], .icmp .ge true (.v 1) (.v 2) .none (.v 3))] = true := by decide

theorem test_words_lane_float_a :
    reads decode [
      ([0x20010203, 0x13800001], .fadd .zero (.v 1) (.v 2) (.idx 7) (.v 3)),
      ([0x21010203, 0x13800002], .fsub .down (.v 1) (.v 2) (.idx 7) (.v 3)),
      ([0x22010203, 0x13800003], .fmul .up (.v 1) (.v 2) (.idx 7) (.v 3)),
      ([0x23010203, 0x00520000], .ffma .nearest (.v 1) (.v 2) .none (.v 3) (.s 4)),
      ([0x24010203], .fmin (.v 1) (.v 2) (.v 3)),
      ([0x25010203], .fmax (.v 1) (.v 2) (.v 3)),
      ([0x26010200], .fabs (.v 1) (.v 2)),
      ([0x27010200], .fneg (.v 1) (.v 2)),
      ([0x28010203, 0x00000007], .fcmp .ord (.v 1) (.v 2) .none (.v 3)),
      ([0x29010200], .fclass (.v 1) (.v 2)),
      ([0x2A010200, 0x00000003], .frcp .up (.v 1) (.v 2) .none),
      ([0x2B010200, 0x00000002], .frsq .down (.v 1) (.v 2) .none)] = true := by decide

theorem test_words_lane_float_b :
    reads decode [
      ([0x2C010200, 0x00000001], .fsqrt .zero (.v 1) (.v 2) .none),
      ([0x2D010200, 0x00000018], .ftrn .cospi .nearest (.v 1) (.v 2) .none)] = true := by decide

theorem test_words_lane_packed :
    reads decode [
      ([0x40010203, 0x00000009], .padd .bf16 .zero (.v 1) (.v 2) .none (.v 3)),
      ([0x41010203, 0x00000003], .pmul .f16 .up (.v 1) (.v 2) .none (.v 3)),
      ([0x42090102, 0x00018008], .pfma .bf16 .nearest (.v 9) (.v 1) .none (.v 2) (.v 3)),
      ([0x43010203, 0x00000008], .pmin .bf16 (.v 1) (.v 2) .none (.v 3)),
      ([0x44010203, 0x00000000], .pmax .f16 (.v 1) (.v 2) .none (.v 3)),
      ([0x45010203, 0x0002000A], .pdot .bf16 .down (.v 1) (.v 2) .none (.v 3) (.v 4))] = true := by decide

theorem test_words_lane_convert :
    reads decode [
      ([0x46010200, 0x0000063B], .cvt .u32 .s8 .up (.v 1) (.v 2) .none),
      ([0x47010200, 0x40800003], .frnd .up (.v 1) (.v 2) (.down 1)),
      ([0x48010203, 0x00000009], .pcvt2 (.pack .bf16 .zero (.v 3)) (.v 1) (.v 2) .none),
      ([0x48010200, 0x00000090], .pcvt2 (.unpack .f16 true) (.v 1) (.v 2) .none),
      ([0x49010203, 0x0002004B], .pcvt4 (.pack .s8 .bf16 .up (.v 3)) (.v 1) (.v 2) .none (.v 4)),
      ([0x49010200, 0x000200B0], .pcvt4 (.unpack .e5m2 .f16 true .nearest) (.v 1) (.v 2) .none (.v 4)),
      ([0x4A019C00, 0x00020008], .pcvt8 (.pack .bf16 .nearest 156) (.v 1) (.v 4)),
      ([0x4A010200, 0x00020193], .pcvt8 (.unpack .f16 3 .up (.v 2) .none) (.v 1) (.v 4))] = true := by decide

theorem test_words_lane_move :
    reads decode [
      ([0x50020100, 0x41000000], .mov (.v 2) (.v 1) (.down 2)),
      ([0x51010000, 0xDEADBEEF], .movi (.v 1) 0xDEADBEEF),
      ([0x52010203, 0x00620000], .sel (.v 1) (.v 2) .none (.v 3) (.k 4)),
      ([0x53011200], .rdsp (.v 1) 18),
      ([0x53011001], .rdspClr (.v 1)),
      ([0x54010203, 0x00000000], .xshf (.v 1) (.v 2) (.v 3)),
      ([0x55010200, 0x00000000], .xbal (.v 1) (.v 2)),
      ([0x56010200, 0x00000041], .xred .fadd .zero (.v 1) (.v 2)),
      ([0x57010200, 0x000000A0], .xscn .umax .nearest true (.v 1) (.v 2))] = true := by decide

theorem test_words_lane_memory :
    reads decode [
      ([0x609E0400, 0xD43FFFF8], .ld .b64 (.acq .pkg) .b (.v 158) (.v 4) (-8)),
      ([0x619CA100, 0x60000010], .ldro .b128 .a (.v 156) (.s 1) 16),
      ([0x62020307, 0x49000040], .st .prov .u32 (.rel .pkg) .a (.v 3) 64 (.v 7)),
      ([0x63010203, 0x97C00008], .atom .smax true (.ar .dom) .b (.v 1) (.v 2) 8 (.v 3)),
      ([0x64010203, 0x00000004], .atomcas false .relaxed .a (.v 1) (.v 2) 4 (.v 3)),
      ([0x65000203, 0x49800004], .red .fadd false (.rel .blk) .a (.v 2) 4 (.v 3)),
      ([0x660502C1, 0x80000020], .cpa .b 5 (.v 2) 32 (.k 1)),
      ([0x67010000, 0x50000000], .fence .sc .dom .a (.v 1)),
      ([0x68010200, 0x00000003], .grd .a (.v 1) (.v 2) 3),
      ([0x69010200, 0xE03FFFFF], .gconf .final .b (.v 1) (.v 2) (-1))] = true := by decide

theorem test_words_lane_hasp :
    reads decode [
      ([0x6A010000, 0x7C000000], .harr none (.v 1) 31),
      ([0x6A010002, 0x78400000], .harr (some (.v 2)) (.v 1) 30),
      ([0x6B0200C0, 0x04000000], .hwait (.v 2) 1 (.k 0)),
      ([0x6C0100A2, 0x1C000000], .hwaits (.v 1) 7 (.s 2)),
      ([0x6DFF0002, 0x20000000], .htest .discard 8 (.v 2)),
      ([0x6E010200, 0x24000040], .hmon (.v 1) 9 (.v 2) 64)] = true := by decide

theorem test_words_lane_control_a :
    reads decode [
      ([0x70000000, 0xFFFFFFFF], .bra (-1)),
      ([0x71000100, 0x00000002], .brz (.v 1) 2),
      ([0x72000100, 0x00000003], .brnz (.v 1) 3),
      ([0x73000100], .jmpi (.v 1)),
      ([0x74000000, 0x00000004], .call 4),
      ([0x7500A500], .calli (.s 5)),
      ([0x76000000], .ret),
      ([0x77000000], .exit),
      ([0x78000000], .nop),
      ([0x79000000], .brk),
      ([0x7A000007], .trap 7),
      ([0x7B019000, 0x80000000], .cont .b (.v 1) 144)] = true := by decide

theorem test_words_lane_control_b :
    reads decode [
      ([0x7C01029E, 0x00000000], .enq .a (.v 1) (.v 2) 158)] = true := by decide

theorem test_words_uniform_scalar_a :
    reads decode [
      ([0x80001FC0], .sadd (.s 0) (.s 31) (.k 0)),
      ([0x81011FC1], .ssub (.s 1) (.s 31) (.k 1)),
      ([0x82021FC2], .smul (.s 2) (.s 31) (.k 2)),
      ([0x83031FC3], .smin (.s 3) (.s 31) (.k 3)),
      ([0x84041FC4], .smax (.s 4) (.s 31) (.k 4)),
      ([0x85051FC5], .sand (.s 5) (.s 31) (.k 5)),
      ([0x86061FC6], .sor (.s 6) (.s 31) (.k 6)),
      ([0x87071FC7], .sxor (.s 7) (.s 31) (.k 7)),
      ([0x88081FC8], .sshl (.s 8) (.s 31) (.k 8)),
      ([0x89091FC9], .sshr (.s 9) (.s 31) (.k 9)),
      ([0x8A0A1FCA], .ssar (.s 10) (.s 31) (.k 10)),
      ([0x8B0122C3, 0x0000000B], .scmp .le true (.s 1) (.sp 2) (.k 3))] = true := by decide

theorem test_words_uniform_scalar_b :
    reads decode [
      ([0x8CFF0203, 0x00020000], .ssel .discard (.s 2) (.s 3) (.s 4)),
      ([0x8D012F00], .smov (.s 1) (.sp 15)),
      ([0x8E010000, 0x80000001], .smovi (.s 1) 0x80000001),
      ([0x8F013200], .spopc (.s 1) (.sp 18))] = true := by decide

theorem test_words_uniform_control :
    reads decode [
      ([0xA0000000, 0x00000001], .sbra 1),
      ([0xA1000100, 0x00000002], .sbrz (.s 1) 2),
      ([0xA2000100, 0x00000003], .sbrnz (.s 1) 3),
      ([0xA30A0000, 0xFFFFFFFD], .sloop 10 (-3)),
      ([0xA4000000], .sdone)] = true := by decide

theorem test_words_uniform_band :
    reads decode [
      ([0xB001C800, 0x0000001F], .grow (.s 1) 31 (.k 8)),
      ([0xB100C800], .shrink (.k 8)),
      ([0xB2010203, 0x00000000], .attach (.s 1) (.s 2) (.s 3)),
      ([0xB3010000], .detach (.s 1)),
      ([0xB4010001, 0x00000005], .fork .cp (.s 1) 5),
      ([0xB5011F00, 0x00000001], .srd .cp (.s 1) 31),
      ([0xB61E0200, 0x00000000], .swr .mx 30 (.s 2))] = true := by decide

theorem test_words_hasp_setup :
    reads decode [
      ([0xC01FC100], .hinit 31 (.k 1)),
      ([0xC10408EC, 0x00000001], .hsrc 4 1 (.s 8) (.k 44)),
      ([0xC1040000, 0x00000007], .hsrcClr 4 3),
      ([0xC25101C0], .hexp 17 2 (.s 1) (.k 0)),
      ([0xC305C2C1, 0x00000000], .hring 5 (.k 2) (.k 1)),
      ([0xC4060000], .hinv 6),
      ([0xC5070000], .sharr 7),
      ([0xC6080100], .shwait 8 (.s 1))] = true := by decide

theorem test_words_matrix :
    reads decode [
      ([0xD0C00102, 0xD03FFFC0], .mxld .e4m3 1 .b (.s 1) (-64) (.k 0) (.s 2)),
      ([0xD1000001], .mxsw 1),
      ([0xD2C00506, 0xE1C00000], .mxmm .bf16 7 .b (.s 5) 0 (.k 0) (.s 6)),
      ([0xD3000100, 0x1E000000], .mxscW 1 7 (.s 1)),
      ([0xD3000100, 0x20000008], .mxscA (.s 1) 8),
      ([0xD3000000, 0x40000000], .mxscANone),
      ([0xD4C00001, 0x00000000], .accz (.k 0) (.s 1)),
      ([0xD5C00102, 0x22000004], .accld true (some .blk) .a (.s 1) 4 (.k 0) (.s 2)),
      ([0xD6C00102, 0x45000004], .accmv true (some .dom) .a (.s 1) 4 (.k 0) (.s 2)),
      ([0xD6C00102, 0xA0000004], .accmvAdd none .b (.s 1) 4 (.k 0) (.s 2))] = true := by decide

theorem test_words_copy :
    reads decode [
      ([0xE0090A00, 0x48000000], .cpt (some 4) .a (.s 9) (.s 10) 0 0),
      ([0xE101021F, 0x80000020], .cpg none .b (.s 1) (.s 2) 32 31),
      ([0xE2010205, 0x7E000000], .cps (some 31) .a (.s 1) (.s 2) 0 5),
      ([0xE3010200, 0x00000040], .cpz none .a (.s 1) (.s 2) 64)] = true := by decide

theorem test_words_surrender :
    reads decode [
      ([0xF0010200, 0x00000006], .surr (.s 1) 6 (.s 2)),
      ([0xF1000000], .yieldDone),
      ([0xF1000001], .yieldSumm),
      ([0xF1000002], .yieldRefuse),
      ([0xF2030000], .rclq (.s 3)),
      ([0xF3000000], .tretRedo),
      ([0xF3000001], .tretSkip),
      ([0xF4000000], .snop),
      ([0xF5000000], .sbrk)] = true := by decide

theorem test_words_command_a :
    reads decodeCmd [
      ([0x04400000, 0xFFFFFFFF], .cli 1 0xFFFFFFFF),
      ([0x04800001, 0x00000005], .cliU 2 5),
      ([0x04C00002, 0x00000006], .cliHi 3 6),
      ([0x083C3FFF], .cadd 0 15 (.imm (-1))),
      ([0x0C7F8000], .csub 1 15 (.c 14)),
      ([0x10BC3FFF], .cand 2 15 (.imm (-1))),
      ([0x14FF8000], .cor 3 15 (.c 14)),
      ([0x193C3FFF], .cshl 4 15 (.imm (-1))),
      ([0x1D7F8000], .cshr 5 15 (.c 14)),
      ([0x204CBFF8], .cld 2 1 3 (-8)),
      ([0x244D0008], .cst 1 3 8 4),
      ([0x29448000, 0xFFFFFFFB], .cbr .geu 1 2 (-5))] = true := by decide

theorem test_words_command_b :
    reads decodeCmd [
      ([0x2C000000, 0x00000007], .cjmp 7),
      ([0x30000000, 0x00000008], .ccall 8),
      ([0x34000000], .cret),
      ([0x3A400000, 0xFFFFFFFE], .cloop 9 (-2)),
      ([0x4048C000], .launch 1 2 3),
      ([0x44480000, 0x12345678], .graph 1 2 0x1234 0x56 0x78),
      ([0x4848C00F], .amend true .final 1 2 3),
      ([0x4C480000], .cwaitNode 1 2),
      ([0x4C480001], .cwaitInst 1 2),
      ([0x4C48C002], .cwaitMem 1 2 3),
      ([0x4C40C003], .cwaitTime 1 3),
      ([0x50140FFF, 0x00000051], .signal 0x7FF true 5 0x51)] = true := by decide

theorem test_words_command_c :
    reads decodeCmd [
      ([0x54000000], .cfence),
      ([0x59000000], .ctime 4),
      ([0x5C000000], .chalt)] = true := by decide

/-! ### States of the tests -/

/-- Thread 0 of core 0 executes: it stands at slot 1 of the clause at 0, a free band of one thread with budget 160, every register 0. -/
def one : State := { State.reset.withDevice [] with cur := .thread 0, issue := [] }

/-- Its thread. -/
def t0 : Thread := Thread.start 0 4 0

/-- Thread 0 as f makes it. -/
def withT (f : Thread → Thread) (s : State := one) : State := { s with threads := mput s.threads 0 (f t0) }

/-- Thread 0 with an address in v1. -/
def t1 (w : Word) : Thread := t0.setV 1 w

/-- Its state. -/
def at1 (w : Word) (s : State := one) : State := withT (fun t => t.setV 1 w) s

/-- Band 0 as f makes it. -/
def withB (f : Band → Band) (s : State := one) : State := s.modBand 0 f

/-- Device memory of partition 0 behind a table at 0x4000: address 0 is plain memory at 0x200000, 0x10000 a graded page at 0x210000, 0x20000
host memory behind link 0, and every other address has no entry. -/
def paged : State :=
  let a := 2 ^ 44
  { one with
    mem := [(a + 0x4000, 3), (a + 0x4002, 8), (a + 0x80000, 3), (a + 0x80001, 8), (a + 0x80002, 16), (a + 0x100800, 3), (a + 0x100801, 16),
      (a + 0x100802, 16), (a + 0x101000, 13), (a + 0x101002, 32), (a + 0x101008, 13), (a + 0x10100A, 33), (a + 0x10100F, 128),
      (a + 0x101010, 13), (a + 0x101016, 32), (a + 0x101017, 32)]
    granted := [(32, 1), (33, 1)]
    binds := [(0, { Bind.zero with valid := true, root := 0x4000 })] }

/-- An access to plain device memory, to the graded line at 0x10040 of those tables, and to the issuer's slice. -/
def plain (o : Nat) : Acc := ⟨.dev (0x200000 + o), false, 0, none⟩
def grad : Acc := ⟨.dev 0x210040, true, 0, none⟩
def sli (o : Nat) : Acc := ⟨.slice 0 o, false, 0, none⟩

/-- The home and the line of the graded one. -/
def gh : Nat := 2 ^ 44 + 0x210040
def gl : Nat := gh / 64

/-- That line at a grade and depth. -/
def lineAt (g : Grade) (d : Nat := 0) : State := paged.setLine gl { LineMeta.zero with grade := g, depth := d }

/-- The outcome of placing an address for thread 0. -/
def placed (s : State) (va : Nat) (use : Use) (host : Bool := true) : TRes := (s.place (s.bandSpace 0) 0 va use host).1

/-- Operation 5 of thread 0, outstanding. -/
def opOf (kind : OpKind) (acc : Acc) (n : Nat) : Op := { one.blankOp 0 t0 kind with acc := acc, n := n }
def withOp (o : Op) (s : State := one) : State := { s with ops := [(5, o)], nextId := 6 }

/-- Task 1, which has read the graded line. -/
def task1 : Task := ⟨.block 0 0, 0, 0, 0, [gl], [], [], [], none, false, false, false, false, [], [], []⟩

/-- Every fact of a list holds. -/
def all (xs : List Bool) : Bool := xs.all id

theorem rising_of {α : Type} {m : Table α} (h : (m.map (·.1)).Pairwise (· < ·)) : Rising m := by
  induction m with
  | nil => trivial
  | cons x m ih =>
    rw [List.map_cons, List.pairwise_cons] at h
    exact ⟨fun p hp => h.1 _ (List.mem_map_of_mem hp), ih h.2⟩

theorem lane_one : Lane one 0 t0 [0, 159] := ⟨rfl, rfl, by decide⟩

/-- A block on core 0 that holds every hasp and both engines, and thread 0's band in it. -/
def blk : Block :=
  ⟨0, 0, 0, 0, 0, 0, 0, false, 0xFFFFFFFF, 2, true, true, 2, 2, 1, none, .held, none, 0, 0, 0, false, 0, 0, 0, false, false, false, false⟩
def inBlock (s : State := one) : State := { withB (fun b => { b with block := some 1 }) s with blocks := [(1, blk)] }

/-- In it hasp 3, valid and expecting one arrival, hasp 4 the only stage of a ring, hasps 8 and 9 a ring of two. -/
def hv : Hasp := { Hasp.zero with valid := true, expArr := 1 }
def hs : State :=
  (((inBlock.setHasp 3 hv).setHasp 4 { hv with ring := true, rbase := true, rhead := 4 }).setHasp 8
    { hv with ring := true, rbase := true, rhead := 8, rstg := 1 }).setHasp 9 { hv with ring := true, rhead := 8, rstg := 1, phase := 7 }

/-- The band of two threads, both in P. -/
def two (f : Thread → Thread) : State :=
  { withB (fun b => { b with s := b.s.set 31 3, present := 3 }) with threads := [(0, t0), (1, f (Thread.start 1 4 0))] }

/-- A node with a local area of one chunk for each thread, and band 0 with a local slot of it. -/
def node0 : Node := ⟨[], 0, 0, 0, 0, 0, 0, .final, 0, 0, 1, false, false, 1, 1, 0⟩
def withNode (n : Node) (s : State := one) : State := { s with graphs := mmod s.graphs 0 fun g => { g with nodes := [n] } }

/-- The matrix sequencer's strand of that block executes. -/
def strandy : State := { hs.setStrand 0 { Strand.zero with status := .run, block := 1, pc := 4 } with cur := .strand 0 }

/-- Engine command 6 of band 0's block. -/
def cmdOf (kind : CmdKind) : Cmd :=
  ⟨0, 1, 0, 0, .band 0 0, kind, [], [], [], [], [], false, false, 4, 0, [], [], [], [], false, none, false, 0⟩
def withCmd (c : Cmd) (s : State := hs) : State := { s with cmds := [(6, c)], nextId := 7 }

/-- The first address of core 0's slice; hs with command 6 of a kind; and with an error in the first line of that slice. -/
def va0 : Nat := 0x00FF000000000000
def run6 (k : CmdKind) (s : State := hs) : State := withCmd (cmdOf k) s
def badLine (s : State) : State := s.setLine 0 { LineMeta.zero with bad := true }

/-- The layout record of a tensor of four 4-byte elements in device memory at 0, the box its four. -/
def lrec4 : List Word := [0, 0, 0x11, 4, 0, 0, 0, 0, 0, 0, 4, 0, 0, 0, 0, 0]

/-- Queue 0 executes, bound to slot 0 with the tables above; and the program of run 0. -/
def qs : State := { paged.setQueue 0 { Queue.zero with state := 1, enable := true, qlog2 := 12 } with cur := .stream (.queue 0 0) }
def ps : State := { paged with cur := .stream (.prog 0), binds := [(0, { Bind.zero with valid := true, isGraph := true, root := 0x4000 })] }

/-- Core 0 holds nothing and runs slot 0, bound to graph 0 with core 0; run 0 has one node of one band role. -/
def st0 : NodeSt := ⟨0, true, 2, 0, 0, none, .final, none, true, false, false, []⟩
def launchable : State :=
  { State.reset with
    clk := 5000
    graphs := [(0, { Graph.bare with
      kernels := [⟨0, 0, 0, 8, false, false, false, 2⟩], nodes := [{ node0 with roles := [⟨1, 1, 8, 0, 0⟩], grid := 2, lsz := 0 }] })]
    insts := [(0, { Inst.ofCode [0, 0, 0, 0, 0, 0, 0, 0] with nodes := [st0] })]
    mem := paged.mem
    granted := paged.granted
    binds := [(0, { Bind.zero with valid := true, isGraph := true, weight := 1, root := 0x4000, cores := 1 })]
    cores := [(0, { Core.zero with running := some 0 })]
    parts := [(0, { Part.zero with live := true, wmax := 1, template := { Bind.zero with root := 0x4000 } })] }

/-! ### One step each; the expected values are the manual's examples or hand calculations from its rules -/

/-- What f reads of the state after an instruction. -/
def after {α : Type} (i : Instr) (s : State) (f : State → α) : Option α :=
  match exec i s with
  | .next u => some (f u)
  | _ => none

/-- Register n and FSTAT of thread 0 after an instruction of thread 0 with v1 = a, v2 = b, v3 = c. -/
def lane3 (i : Instr) (a b c : Word) (n : Nat := 9) : Option (Option (Word × Word)) :=
  after i (withT fun t => ((t.setV 1 a).setV 2 b).setV 3 c) fun u => (u.thread? 0).map fun t => (t.getV n, t.fstat)

theorem test_iadd_wraps : lane3 (.iadd (.v 9) (.v 1) (.v 2)) 0xFFFFFFFF 2 0 = some (some (1, 0)) := by decide
theorem test_isub_order : lane3 (.isub (.v 9) (.v 1) (.v 2)) 2 3 0 = some (some (0xFFFFFFFF, 0)) := by decide
theorem test_imulh_signed : lane3 (.imulh (.v 9) (.v 1) (.v 2)) 0xFFFFFFFF 2 0 = some (some (0xFFFFFFFF, 0)) := by decide
theorem test_andn : lane3 (.andn (.v 9) (.v 1) (.v 2)) 0xF 0x5 0 = some (some (0xA, 0)) := by decide
theorem test_sar_32 : lane3 (.sar (.v 9) (.v 1) (.v 2)) 0x80000000 32 0 = some (some (0xFFFFFFFF, 0)) := by decide
theorem test_shl_32 : lane3 (.shl (.v 9) (.v 1) (.v 2)) 1 32 0 = some (some (0, 0)) := by decide
theorem test_clz : lane3 (.clz (.v 9) (.v 1)) 0x00010000 0 0 = some (some (15, 0)) := by decide
/-- R63: the clamped sum is INT32_MAX and FSTAT takes bit 5. -/
theorem test_imad_saturates : lane3 (.imad .signed (.v 9) (.v 1) .none (.v 2) (.v 3)) 0x7FFFFFFF 2 1 = some (some (0x7FFFFFFF, 0x20)) := by decide
/-- R64: offset 4, width 4, sign-extended. -/
theorem test_bfe_sign : lane3 (.bfe true (.v 9) (.v 1) .none (.v 2)) 0x80 0x0404 0 = some (some (0xFFFFFFF8, 0)) := by decide
theorem test_bfi : lane3 (.bfi (.v 9) (.v 1) .none (.v 2) (.v 3)) 0xFFFFFFFF 0x5 0x0408 = some (some (0xFFFFF5FF, 0)) := by decide
theorem test_icmp_unsigned : lane3 (.icmp .lt true (.v 9) (.v 1) .none (.v 2)) 1 0xFFFFFFFF 0 = some (some (1, 0)) := by decide
/-- 1 + 2^-24 lies halfway: nearest even gives 1, inexact (R41, R44: bit 4). -/
theorem test_fadd_ties_to_even : lane3 (.fadd .nearest (.v 9) (.v 1) .none (.v 2)) 0x3F800000 0x33800000 0 = some (some (0x3F800000, 0x10)) := by decide
/-- R66: infinity minus infinity is invalid and gives the canonical NaN. -/
theorem test_fsub_invalid : lane3 (.fsub .nearest (.v 9) (.v 1) .none (.v 2)) 0x7F800000 0x7F800000 0 = some (some (0x7FC00000, 1)) := by decide
theorem test_ffma_single_rounding : lane3 (.ffma .nearest (.v 9) (.v 1) .none (.v 2) (.v 3)) 0x3F800001 0x3F800001 0xBF800002 =
    some (some (0x28800000, 0)) := by decide
theorem test_fmin_zeros : lane3 (.fmin (.v 9) (.v 1) (.v 2)) 0 0x80000000 0 = some (some (0x80000000, 0)) := by decide
theorem test_sel_false : lane3 (.sel (.v 9) (.v 1) .none (.v 2) (.v 3)) 7 8 0 = some (some (8, 0)) := by decide
theorem test_cvt_nan_to_int : lane3 (.cvt .s32 .f32 .zero (.v 9) (.v 1) .none) 0x7FC00000 0 0 = some (some (0, 1)) := by decide

/-- The band of the example under R60: PM holds lanes 0 to 7 but lane 5, every thread has arrived but lane 0, v1 holds 10 times the lane. -/
def eight : State :=
  { withB (fun b => { b with s := b.s.set 31 0xDF, present := 0xDF }) with
    threads := [0, 1, 2, 3, 4, 6, 7].map fun l =>
      (l, { (Thread.start l 4 0).setV 1 (BitVec.ofNat 32 (10 * l)) with status := if l = 0 then .ready else .arrived }) }

theorem test_mov_down : after (.mov (.v 2) (.v 1) (.down 2)) eight (fun u => u.threads.map fun x => (x.2.getV 2).toNat) =
    some [20, 30, 40, 30, 60, 60, 70] := by decide
theorem test_xbal : after (.xbal (.v 2) (.v 1)) eight (fun u => (u.thread? 7).map fun t => t.getV 2) = some (some 0xDE) := by decide

/-- R90: the low byte lies lowest. -/
theorem test_store_bytes :
    (let s := withOp { opOf .st (sli 0x1FFFFC) 4 with data := leBytes 4 0x04030201 }
     after (.storeComplete 5 .performed) s fun u => (u.mem, u.ops.length)) =
    some ([(0x1FFFFC, 1), (0x1FFFFD, 2), (0x1FFFFE, 3), (0x1FFFFF, 4)], 0) := by decide
theorem test_load_sign_extends :
    (let s := withOp { opOf (.ld .s16) (sli 2) 2 with d := .v 9 } { one with mem := [(2, 0xFE), (3, 0xFF)] }
     after (.loadComplete 5) s fun u => (u.thread? 0).map fun t => t.getV 9) = some (some 0xFFFFFFFE) := by decide
theorem test_atomic_old_value :
    (let s := withOp { opOf (.atom .add false) (sli 8) 4 with d := .v 9, data := leBytes 4 5 } { one with mem := [(8, 255)] }
     after (.atomicComplete 5) s fun u => ((u.thread? 0).map fun t => t.getV 9, u.mem)) = some (some 255, [(8, 4), (9, 1)]) := by decide

/-- R238, R239: TRAP 7 with a handler at clause 2: CAUSE 8, NUM 7, SLOT 1; the thread goes on at the handler. -/
theorem test_trap_taken : after (.trap 7) (withNode { node0 with roles := [⟨1, 1, 8, 0, 2⟩] }) (fun u => (u.thread? 0).map fun t =>
    (t.trapstat, t.trapMode, t.pc, t.trapPt.redo)) = some (some (0x40000701, true, 64, 4)) := by decide
theorem test_tret_redo :
    (let s := withT fun t => { t with trapMode := true, pc := 68, trapPt := ⟨4, 32, 0⟩ }
     after .tretRedo s fun u => (u.thread? 0).map fun t => (t.trapMode, t.pc)) = some (some (false, 4)) := by decide
theorem test_budget_trap : after (.iadd (.v 7) (.v 8) (.v 9)) (withB (fun b => { b with budget := 8 })
    (withNode { node0 with roles := [⟨1, 1, 8, 0, 2⟩] })) (fun u => (u.thread? 0).map fun t => t.trapstat) = some (some 0x18080001) := by decide

/-- R107: the target is the clause plus 32 * IMM. -/
theorem test_bra_back : after (.bra (-1)) (withT fun t => { t with pc := 72 }) (fun u => (u.thread? 0).map (·.pc)) = some (some 32) := by decide
theorem test_call_pushes : after (.call 2) (withT fun t => { t with pc := 72 }) (fun u => (u.thread? 0).map fun t => (t.pc, t.rs)) =
    some (some (128, [96])) := by decide
theorem test_sloop_ends : after (.sloop 10 (-3)) (withB fun b => { b with s := b.s.set 10 1 }) (fun u => (u.bandS 0 10, (u.thread? 0).map (·.pc))) =
    some (0, some 32) := by decide

/-- R100, R136: the last arrival completes phase 0. -/
theorem test_harr_completes : after (.harr none (.v 9) 3) hs (fun u => ((u.hasp 3).phase.toNat, (u.hasp 3).arrived)) = some (1, 0) := by decide
theorem test_exit_frees : after .exit one (fun u => (u.threads.length, u.bands.length)) = some (0, 0) := by decide

/-- R277, R266: CHALT placed by withFetchWord runs in the next step: QEXEC counts its 4 bytes and the queue has STATE 3. -/
theorem test_step_command :
    (match step (State.reset.withFetchWord 32 0x5C000000) with
     | .next u => some ((u.queue 0).qexec, (u.queue 0).state)
     | _ => none) = some (4, 3) := by decide

/-- A device word placed by withFetchWord runs in the next step: SP.LANE of lane 0, and the thread stands after its clause. -/
theorem test_step_device :
    (match step (State.reset.withFetchWord 32 0x53010100) with
     | .next u => (u.thread? 0).map fun t => (t.getV 1, t.pc)
     | _ => none) = some (0, 32) := by decide

/-! ### Witnesses: a state and operands that meet the hypotheses of each statement, clause by clause -/

theorem meets_one : MeetsAs one 0 t0 [0] := ⟨rfl, by decide, by decide⟩

theorem meets_hs : MeetsAs hs 0 t0 [0] := ⟨rfl, by decide, by decide⟩

theorem sound_one (ns : List Nat) : Sound one [0] ns := by
  intro j hj t ht
  obtain rfl := List.mem_singleton.mp hj
  obtain rfl := Option.some.inj ht
  show ns.any _ = false
  simp [Thread.start]

theorem ok_of {α β : Type} {e : Except α β} {v : β} (h : e.toOption = some v) : e = .ok v := by
  cases e <;> simp_all [Except.toOption]

theorem error_of {α : Type} {e : Except Nat α} {d : Nat} (h : (match e with | .error x => some x | .ok _ => none) = some d) : e = .error d := by
  cases e <;> simp_all

/-- The last word of the slice. -/
theorem reaches_slice (kind : Nat) (use : Use) (host : Bool) :
    Reaches (at1 0xC01FFFFC) 0 0xC01FFFFC 4 4 kind use host (at1 0xC01FFFFC) 0xFF0000001FFFFC (sli 0x1FFFFC) :=
  ⟨by decide, ok_of (by decide), Prod.ext (by cases use <;> cases host <;> decide) rfl, by cases use <;> rfl, fun _ => by decide, by decide⟩

/-- Plain memory, the graded line and host memory, by their first bytes. -/
theorem reaches_plain (kind : Nat) (use : Use) (host : Bool) (h : placed (at1 0 paged) 0 use host = .ok (plain 0)) :
    ∃ s1, Reaches (at1 0 paged) 0 0 16 16 kind use host s1 0 (plain 0) :=
  ⟨_, by decide, ok_of (by decide), Prod.ext h rfl, by cases use <;> rfl, fun _ => by cases use <;> cases host <;> decide, by cases use <;> cases host <;> decide⟩

theorem reaches_graded (kind : Nat) (use : Use) (host : Bool) (h : placed (at1 0x10040 paged) 0x10040 use host = .ok grad) :
    ∃ s1, Reaches (at1 0x10040 paged) 0 0x10040 4 4 kind use host s1 0x10040 grad ∧
      s1 = ((at1 0x10040 paged).place ((at1 0x10040 paged).bandSpace 0) 0 0x10040 use host).2 :=
  ⟨_, ⟨by decide, ok_of (by decide), Prod.ext h rfl, by cases use <;> rfl, fun _ => by cases use <;> cases host <;> decide, by cases use <;> cases host <;> decide⟩, rfl⟩

theorem witness_IntegerResults : Lane one 0 t0 (LaneDst.regs (.v 159) ++ LaneSrc.regs (.v 0) ++ LaneSrc.regs (.k 63)) ∧
    Lane one 0 t0 (LaneDst.regs .discard ++ LaneSrc.regs (.s 31)) := ⟨⟨rfl, rfl, by decide⟩, rfl, rfl, by decide⟩

/-- Without and with a cross-lane modifier: in P, outside P, and in trap mode. -/
theorem computes_met : Lane one 0 t0 [0, 159] ∧ (t0.trapMode = false ∧ MeetsAs one 0 t0 [0] ∧ Sound one [0] [0, 159]) ∧
    (t0.trapMode = false ∧ (withB (fun b => { b with s := b.s.set 31 0 })).inPm 0 = false) ∧
    ({ t0 with trapMode := true }.trapMode = true ∧ MeetsAs (withT fun t => { t with trapMode := true }) 0 { t0 with trapMode := true } [0]) :=
  ⟨lane_one, ⟨rfl, meets_one, sound_one _⟩, ⟨rfl, rfl⟩, rfl, rfl⟩

theorem witness_MultiplyAddFieldCompareResults : Lane one 0 t0 [0, 159] ∧ MeetsAs one 0 t0 [0] ∧ Sound one [0] [0, 159] :=
  ⟨lane_one, meets_one, sound_one _⟩

theorem witness_FloatOrderSignClassResults : Lane one 0 t0 [0, 159] ∧ MeetsAs one 0 t0 [0] ∧ Sound one [0] [0, 159] ∧
    all [0x7F800001 % 2 ^ 31 > 0x7F800000, 0xFFFFFFFF % 2 ^ 31 > 0x7F800000, !(0xFF800000 % 2 ^ 31 > 0x7F800000)] = true :=
  ⟨lane_one, meets_one, sound_one _, rfl⟩

/-- And, for the rows of R43 to R45: operands of each kind, a sum that overflows, one that is exact, and one that is rounded. -/
theorem witness_FloatAndPackedResults : Lane one 0 t0 [0, 159] ∧ MeetsAs one 0 t0 [0] ∧ Sound one [0] [0, 159] ∧
    rd32 0x7FC00000 = .nan ∧ rd32 0x7F800000 = .inf false ∧ rd32 0x80000000 = .fin true 0 (-149) ∧ rd32 0x3F800000 = .fin false 8388608 (-23) ∧
    rd32 0x00000001 = .fin false 1 (-149) ∧ (2 : ℝ) ^ 2 < (2 : ℝ) ^ 3 :=
  ⟨lane_one, meets_one, sound_one _, by decide, by decide, by decide, by decide, by decide, by norm_num⟩

/-- Each special operand of FTRN, an operand whose function is exact, and 0.5: the square root of 2 lies off every point of 25 bits. -/
theorem witness_FunctionResults : Lane one 0 t0 [0, 159] ∧ MeetsAs one 0 t0 [0] ∧ Sound one [0] [0, 159] ∧
    rd32 0x7FC00000 = .nan ∧ rd32 0xFF800000 = .inf true ∧ rd32 0 = .fin false 0 (-149) ∧ rd32 0xBF800000 = .fin true 8388608 (-23) ∧
    (∃ n : ℤ, real (.fin true 8388608 (-23)) = n) ∧ (∃ n : ℤ, real (.fin false 1 (-1)) = n + 1 / 2) ∧
    (∃ n q : ℤ, n.natAbs < 2 ^ 24 ∧ (2 : ℝ) ^ real (.fin false 3 0) = n * (2 : ℝ) ^ q) ∧
    ∀ n q : ℤ, n.natAbs < 2 ^ 25 → (2 : ℝ) ^ (-100 : ℤ) * |(2 : ℝ) ^ real (.fin false 1 (-1))| < |(2 : ℝ) ^ real (.fin false 1 (-1)) - n * (2 : ℝ) ^ q| := by
  refine ⟨lane_one, meets_one, sound_one _, by decide, by decide, by decide, by decide, ⟨-1, ?_⟩, ⟨0, ?_⟩, ⟨1, 3, by decide, ?_⟩, fun n q hn => ?_⟩
  · norm_num [real]
  · norm_num [real]
  · norm_num [real]
  · have hy : (2 : ℝ) ^ real (.fin false 1 (-1)) = Real.sqrt 2 := by rw [Real.sqrt_eq_rpow]; norm_num [real]
    rw [hy, abs_of_nonneg (Real.sqrt_nonneg 2)]
    have h2 : Real.sqrt 2 ^ 2 = 2 := Real.sq_sqrt (by norm_num)
    have hs : Real.sqrt 2 < 3 / 2 := by nlinarith [Real.sqrt_nonneg 2]
    have hl : 1 < Real.sqrt 2 := by nlinarith [Real.sqrt_nonneg 2]
    by_contra hc
    rw [not_lt, abs_le] at hc
    have he : (2 : ℝ) ^ (-100 : ℤ) * Real.sqrt 2 < 1 / 2 ^ 60 := by
      have : (2 : ℝ) ^ (-100 : ℤ) < 1 / 2 ^ 61 := by norm_num [zpow_neg]
      nlinarith [zpow_pos (two_pos (α := ℝ)) (-100)]
    generalize (2 : ℝ) ^ (-100 : ℤ) * Real.sqrt 2 = E at hc he
    obtain ⟨hc1, hc2⟩ := hc
    have hE : E < 1 / 2 := he.trans (by norm_num)
    have hp : (1 : ℝ) / 2 < n * (2 : ℝ) ^ q := by linarith
    have hp' : n * (2 : ℝ) ^ q < 2 := by linarith
    have hn' : (n : ℝ) < 2 ^ 25 := by exact_mod_cast (by omega : n < 2 ^ 25)
    have hq : -26 ≤ q := by
      by_contra h
      have : (2 : ℝ) ^ q ≤ (2 : ℝ) ^ (-27 : ℤ) := zpow_le_zpow_right₀ (by norm_num) (by omega)
      have h27 : (2 : ℝ) ^ (-27 : ℤ) = 1 / 2 ^ 27 := by norm_num [zpow_neg]
      have hq0 : (0 : ℝ) < (2 : ℝ) ^ q := zpow_pos two_pos q
      have hn0 : (0 : ℝ) < n := by by_contra h; nlinarith [not_lt.mp h]
      have h1 : (n : ℝ) * (2 : ℝ) ^ q ≤ 2 ^ 25 * (1 / 2 ^ 27) := mul_le_mul hn'.le (this.trans h27.le) hq0.le (by norm_num)
      have h4 : (2 : ℝ) ^ 25 * (1 / 2 ^ 27) < 1 / 2 := by norm_num
      linarith
    obtain ⟨m, hm⟩ : ∃ m : ℕ, q = m - 26 := ⟨(q + 26).toNat, by omega⟩
    have hz : n * (2 : ℝ) ^ q = ((n * 2 ^ m : ℤ) : ℝ) / 2 ^ 26 := by
      rw [hm, zpow_sub₀ (by norm_num)]; push_cast; norm_num [zpow_natCast]; ring
    set z : ℤ := n * 2 ^ m
    rw [hz] at hc1 hc2 hp hp'
    have hne : z ^ 2 - 2 * 2 ^ 52 ≠ 0 := by
      intro h
      have hr : Real.sqrt 2 = (z : ℝ) / 2 ^ 26 := by
        have hzr : ((z : ℝ)) ^ 2 = 2 * 2 ^ 52 := by exact_mod_cast (by omega : z ^ 2 = 2 * 2 ^ 52)
        have : (Real.sqrt 2 - z / 2 ^ 26) * (Real.sqrt 2 + z / 2 ^ 26) = 0 := by nlinarith
        rcases mul_eq_zero.mp this with h | h <;> linarith
      exact irrational_sqrt_two ⟨z / 2 ^ 26, by rw [hr]; push_cast; ring⟩
    have h1 : (1 : ℝ) ≤ |(z : ℝ) ^ 2 - 2 * 2 ^ 52| := by exact_mod_cast Int.one_le_abs hne
    have h3 : |(z : ℝ) ^ 2 - 2 * 2 ^ 52| = |Real.sqrt 2 - z / 2 ^ 26| * (Real.sqrt 2 + z / 2 ^ 26) * 2 ^ 52 := by
      rw [show (z : ℝ) ^ 2 - 2 * 2 ^ 52 = -((Real.sqrt 2 - z / 2 ^ 26) * ((Real.sqrt 2 + z / 2 ^ 26) * 2 ^ 52)) by nlinarith,
        abs_neg, abs_mul, abs_of_pos (by positivity : (0 : ℝ) < (Real.sqrt 2 + z / 2 ^ 26) * 2 ^ 52)]
      ring
    have h4 : |Real.sqrt 2 - z / 2 ^ 26| ≤ 1 / 2 ^ 60 := abs_le.mpr ⟨by linarith, by linarith⟩
    have h5 : |Real.sqrt 2 - z / 2 ^ 26| * (Real.sqrt 2 + z / 2 ^ 26) ≤ 1 / 2 ^ 60 * 4 :=
      mul_le_mul h4 (by linarith) (by linarith) (by norm_num)
    rw [h3] at h1
    have h6 : (1 : ℝ) / 2 ^ 60 * 4 * 2 ^ 52 < 1 := by norm_num
    exact absurd (h1.trans (mul_le_mul_of_nonneg_right h5 (by norm_num))) (not_le.mpr h6)

theorem witness_ConversionResults : MeetsAs one 0 t0 [0] ∧ Sound one [0] [0, 159] ∧
    Lane one 0 t0 (LaneDst.regs (.v 159) ++ [156, 157, 158, 159] ++ LaneSrc.regs (.k 0)) :=
  ⟨meets_one, sound_one _, rfl, rfl, by decide⟩

theorem witness_MoveSelectCrossLaneResults : Lane one 0 t0 [0, 159] ∧ MeetsAs one 0 t0 [0] ∧ Sound one [0] [0, 159] ∧ (18 : Nat) ∉ [0, 1, 12, 13, 16, 17] :=
  ⟨lane_one, meets_one, sound_one _, by decide⟩

/-- The last slice address of core 95 and the first past it, the largest window and the next, address 0xFF with a reserved bit and without. -/
theorem witness_AddressWindows :
    all [0xCBFFFFFF / 2 ^ 30 == 3, 0xCBFFFFFF / 2 ^ 21 % 2 ^ 7 == 95, 0xCC000000 / 2 ^ 21 % 2 ^ 7 == 96, 0xFFFFFFFF / 2 ^ 30 == 3,
      0xBFFFFFFF / 2 ^ 30 == 2, (0x03FFFFFF * 2 ^ 30 + 0x3FFFFFFF) / 2 ^ 48 == 0xFF,
      (0x03FFFFFF * 2 ^ 30 + 0x3FFFFFFF) / 2 ^ 38 % 2 ^ 10 != 0, (0x03FC0000 * 2 ^ 30) / 2 ^ 48 == 0xFF,
      (0x03FC00FF * 2 ^ 30 + 0x3FFFFFFF) / 2 ^ 38 % 2 ^ 10 == 0, (0x03FBFFFF * 2 ^ 30) / 2 ^ 48 == 0xFE] = true := by decide

theorem witness_StoresPostOrAreChecked : Lane (at1 0xC01FFFFC) 0 (t1 0xC01FFFFC) (LaneSrc.regs (.v 1) ++ runFrom 1 [159]) ∧
    (∃ s1, Reaches (at1 0x10040 paged) 0 0x10040 4 4 1 .write true s1 0x10040 grad) ∧
    (let s1 := ((at1 0x10040 paged).place ((at1 0x10040 paged).bandSpace 0) 0 0x10040 .write).2
      let s2 := s1.countOnce 0 (t1 0x10040) grad 0 1
      let w (l : LineMeta) (d : List Byte) : WOut := ((s2.setLine gl l).gradedWrite gh d .final (some (s2.taskOf 0)) (s2.depthLimit 0)).1
      let z := LineMeta.zero
      grad.loc.home = some gh ∧ s2.mayPerform s2.nextId (opOf .st grad 4) = true ∧ s2.awaited 0 (t1 0x10040) = none ∧
      (⟨.remote 1 0 true, true, 0, none⟩ : Acc).loc.home = none ∧ w z [1] = .wrote ∧
      w { z with grade := .guess } [1] = .depth ∧ w { z with grade := .prov } [0] = .confirmed ∧ w { z with grade := .final } [0] = .final) ∧
    (let w (g : Grade) (d : Nat) (b : Byte) (req : Grade) : WOut := ((lineAt g d).gradedWrite gh [b] req (some 0) 7).1
     w .none 0 0 .guess = .wrote ∧ w .guess 6 1 .prov = .amended ∧ w .prov 7 1 .prov = .depth ∧ w .guess 0 0 .prov = .confirmed ∧
      w .prov 0 0 .prov = .same ∧ (lineAt .guess 6).amendOf gl (some 0) none = none ∧ (lineAt .guess).logRoom (some 0) gl = true) :=
  ⟨⟨rfl, rfl, by decide⟩, (reaches_graded 1 .write true (by decide)).imp fun _ h => h.1, by decide, by decide⟩

theorem witness_LoadsAndAtomicsPostAndGoOn :
    Lane (at1 0xC01FFFFC) 0 (t1 0xC01FFFFC) (runFrom 4 (LaneDst.regs (.v 156)) ++ [1] ++ runFrom 2 (LaneSrc.regs (.v 158))) ∧
    (sli 0x1FFFFC).graded = false ∧
    Reaches (at1 0xC01FFFFC) 0 ((at1 0xC01FFFFC).laneAddr 0 (.v 1) 0) 4 4 0 .read true (at1 0xC01FFFFC) 0xFF0000001FFFFC (sli 0x1FFFFC) ∧
    Reaches (at1 0xC01FFFFC) 0 ((at1 0xC01FFFFC).laneAddr 0 (.v 1) 0) 4 4 2 .write false (at1 0xC01FFFFC) 0xFF0000001FFFFC (sli 0x1FFFFC) ∧
    (∃ s1, Reaches (at1 0x10040 paged) 0 0x10040 4 4 2 .write false s1 0x10040 grad) ∧
    (let s1 := ((at1 0x10040 paged).place ((at1 0x10040 paged).bandSpace 0) 0 0x10040 .write false).2
     let s2 := s1.countOnce 0 (t1 0x10040) grad 1 1
     let new (op : AtomOp) (s : State) : List Byte := leBytes 4 (atomNew op false (leNat (s.bytes gh 4)) (leNat [5, 0, 0, 0]))
     let w (l : LineMeta) (s : State) : WOut := ((s.setLine gl l).gradedWrite gh (new .add s) .final (some (s.taskOf 0)) (s.depthLimit (s.instOf 0))).1
     all [grad.graded, grad.loc.home == some gh, !s2.lowerHeld 0 (t1 0x10040) grad.loc, s2.casCompare 0 false (.v 9) == 0, leNat (s2.bytes gh 4) == 0,
      s2.mayPerform s2.nextId { opOf (.atom .add false) grad 4 with ord := s2.gradedOrd gh (new .add s2) .relaxed },
      (s2.logRead 0 gl).any fun s3 => new .add s3 != s3.bytes gh 4 && new .and s3 == s3.bytes gh 4 && w LineMeta.zero s3 == .wrote &&
        w { LineMeta.zero with grade := .final } s3 == .final] = true) :=
  ⟨⟨rfl, rfl, by decide⟩, rfl, reaches_slice 0 .read true, reaches_slice 2 .write false,
    (reaches_graded 2 .write false (by decide)).imp fun _ h => h.1, by decide⟩

theorem witness_FailedAccessTrapsOrParks : Lane one 0 t0 [0, 159] ∧ hs.holdsHasp 0 3 = true ∧ Lane hs 0 t0 (LaneDst.regs (.v 159) ++ LaneSrc.regs (.v 0)) ∧
    (at1 0xC01FFFFD).laneAddr 0 (.v 1) 0 % 4 ≠ 0 ∧ (at1 0xCC000000).bandVa 0 0xCC000000 = .error 1 ∧
    (paged.judgeLeaf (paged.bandSpace 0) 0 0x30000000000001 0 .write false = .bad 4 ∧ 2 ≤ bits 0x30000000000001 53 52) ∧
    placed paged 0x20000 .write false = .bad 4 ∧
    placed paged 0x30000 .read = .park 0 ∧ placed { paged with granted := [] } 0 .read = .bad 6 ∧
    (∃ a, placed paged 0x20000 .write = .ok a ∧ a.loc.isHost = true) :=
  ⟨lane_one, by decide, ⟨rfl, rfl, by decide⟩, by decide, error_of (by decide), ⟨rfl, by decide⟩, by decide, by decide, by decide, _, (by decide : placed paged 0x20000 .write = .ok ⟨.host 0 0, false, 1, none⟩), rfl⟩

theorem witness_LoadsComplete :
    (let o := opOf (.ld .u32) (sli 0x1FFFFC) 4
     Due (withOp o) 5 o ∧ (withOp o).opRefused o = false ∧ (withOp o).accBad o.acc 4 = false ∧ ((withOp o).loadValue 5 o false).isSome = true ∧
      ((withOp o).opLogRead o).isSome = true ∧ ∀ y ∈ o.laid ++ (withOp o).itemsOf o.uid, y.touches o.uid o.acc.loc o.n = false) ∧
    (let o := { opOf (.ld .u32) ⟨.slice 1 0, false, 0, none⟩ 4 with kind := .atom .add false }
     Due (withOp o) 5 o ∧ o.heldThere = false ∧ (withOp o).refusalDue o = true) ∧
    let o := { opOf (.ldro .u32) ⟨.remote 1 0 false, false, 0, none⟩ 4 with plane := some 3 }
    let s := withOp o { one with planes := 1 }
    Due s 5 o ∧ o.heldThere = false ∧ s.mayLose o = true ∧ (withOp { o with kind := .grd } { one with planes := 1 }).mayLose { o with kind := .grd } = true ∧
      [(1, Sz.s8), (2, .s16), (4, .u32), (16, .b128)].all (fun x => x.1 == szBytes x.2) = true :=
  ⟨⟨⟨rfl, rfl⟩, rfl, rfl, rfl, by decide, by decide⟩, ⟨⟨rfl, rfl⟩, rfl, rfl⟩, ⟨rfl, rfl⟩, rfl, by decide, by decide, by decide⟩

/-- A store at its port; one of a task that is PROV to host memory, held; one refused; an atomic; a RED for another package, held; an atomic at a line
in error. -/
theorem witness_StoresAndAtomicsComplete :
    (let o := opOf .st (sli 0) 4
     let s := withOp o
     Due s 5 o ∧ o.void = false ∧ o.heldThere = false ∧ o.egress = false ∧ o.core ≠ feCore ∧ s.fateOk o .performed = true ∧ s.heldBack o = false) ∧
    (let o := { opOf .st ⟨.host 0 0, false, 1, none⟩ 4 with task := 1 }
     let s := withOp o { lineAt .prov with tasks := [(1, task1)] }
     Due s 5 o ∧ s.fateOk o .performed = true ∧ s.heldBack o = true ∧ s.holdRoom 0 0 4 = true) ∧
    (let o := opOf (.red .add false) ⟨.slice 1 0, false, 0, none⟩ 4
     Due (withOp o) 5 o ∧ (withOp o).fateOk o .refused = true) ∧
    (let o := opOf (.cas true) (sli 0x1FFFF8) 8
     Due (withOp o) 5 o ∧ o.kind.atomic = true ∧ o.done = false ∧ (withOp o).opRefused o = false ∧
      (withOp o).accBad o.acc 8 = false ∧ (o.kind.isRed && !o.sent && (withOp o).heldBack o) = false ∧ o.acc.loc.home = some 0x1FFFF8) ∧
    (let o := { opOf (.red .add false) ⟨.remote 1 0 false, false, 1, none⟩ 4 with task := 1 }
     let s := withOp o { lineAt .prov with tasks := [(1, task1)] }
     Due s 5 o ∧ o.done = false ∧ s.opRefused o = false ∧ s.accBad o.acc 4 = false ∧ o.sent = false ∧ s.heldBack o = true ∧ s.holdRoom 0 0 4 = true) ∧
    (let o := opOf (.atom .add false) (sli 0) 4
     Due (badLine (withOp o)) 5 o ∧ (badLine (withOp o)).opRefused o = false ∧ (badLine (withOp o)).accBad o.acc 4 = true) ∧ 2 ^ 64 - 1 < 2 ^ 64 := by
  refine ⟨⟨⟨rfl, rfl⟩, rfl, rfl, rfl, nofun, rfl, rfl⟩, ⟨⟨rfl, by decide⟩, rfl, by decide, by decide⟩, ⟨⟨rfl, rfl⟩, rfl⟩, ⟨⟨rfl, rfl⟩, rfl, rfl, rfl, by decide, rfl, rfl⟩,
    ⟨⟨rfl, by decide⟩, rfl, by decide, by decide, rfl, by decide, by decide⟩, ⟨⟨rfl, by decide⟩, by decide, by decide⟩, by decide⟩

theorem witness_CopyFenceGradeComplete :
    (let o := opOf (.cpa 32 (sli 32) 32) (sli 0) 32
     let s := withOp o
     Due s 5 o ∧ ((32 != 0 && s.refusalDue o) || s.refusedAt 0 0 (sli 32).loc) = false ∧ s.accBad o.acc 32 = false ∧
      (s.cpaSource o 32).isSome = true ∧ (s.opLogRead o).isSome = true) ∧
    (let o := opOf (.fence .rel) (sli 0) 0
     Due (withOp o) 5 o) ∧
    (let o := opOf .grd grad 1
     Due (withOp o (lineAt .guess)) 5 o ∧ (withOp o (lineAt .guess)).grdWord o ≠ none ∧ o.acc.loc.home.map (· / 64) = some gl) ∧
    (withOp (opOf .grd ⟨.slice 1 0, false, 0, none⟩ 1)).opRefused (opOf .grd ⟨.slice 1 0, false, 0, none⟩ 1) = true ∧
    let o := opOf (.gconf .prov) grad 1
    let f (g : Grade) : State := withOp o (lineAt g)
    Due (f .guess) 5 o ∧ ((f .none).gconfAct o .prov).map (·.1) = some 2 ∧ ((f .guess).gconfAct o .prov).map (·.1) = some 0 ∧
      ((f .prov).gconfAct o .prov).map (·.1) = some 1 ∧ (f .prov).opRefused o = false :=
  ⟨⟨⟨rfl, rfl⟩, rfl, rfl, rfl, rfl⟩, ⟨rfl, rfl⟩, ⟨⟨rfl, rfl⟩, nofun, rfl⟩, by decide, ⟨rfl, rfl⟩, by decide, by decide, by decide, by decide⟩

/-- The nearest completed phase and the farthest, and the phase that is current. -/
theorem witness_PhaseJudgementAndStatusWord : (phaseDone (0 : BitVec 16) 0xFFFF = true ∧ phaseDone (0 : BitVec 16) 0x8000 = true ∧
    phaseDone (0 : BitVec 16) 0x7FFF = false ∧ phaseDone (0 : BitVec 16) 0 = false ∧ 0xFFFF < 2 ^ 16) ∧
    (hs.thread? 0 = some t0 ∧ hs.cur = .thread 0) ∧
    all [hs.holdsHasp 0 3, (hs.hasp 3).valid, phaseDone (hs.hasp 3).phase 0xFFFF, !phaseDone (hs.hasp 3).phase 0, !hs.stops 0,
      hs.seqPlace 0 8 1 == some (9, 0), hs.seqPlace 0 8 15 == some (9, 7), phaseDone (hs.hasp 9).phase 0, !phaseDone (hs.hasp 9).phase 7] = true ∧
    ∀ p ∈ [0xFFFF, 0], let s := withT (fun t => { t with status := .hwait 3 p (.v 159) 8 }) hs
      Rising s.threads ∧ (s.thread? 0).map (·.status) = some (.hwait 3 p (.v 159) 8) ∧ coreOfThread 0 = 0 ∧
      phaseDone (s.hasp 3).phase p = decide (p = 0xFFFF) := by
  refine ⟨by decide, ⟨rfl, rfl⟩, by decide, fun p hp => ?_⟩
  rcases List.mem_cons.mp hp with rfl | hp
  · exact ⟨rising_of (by decide), by decide, rfl, by decide⟩
  · obtain rfl := List.mem_singleton.mp hp
    exact ⟨rising_of (by decide), by decide, rfl, by decide⟩

/-- Words that the checks `RejectsB` and `RejectsC` of IntegerResults, MultiplyAddFieldCompareResults and FloatOrderSignClassResults are
about. -/
theorem witness_Rejects : ((0x11000001 : Word).toNat / 2 ^ 24 = 0x11 ∧ (0x11000001 : Word).toNat % 2 ^ 8 ≠ 0) ∧
    ((0x13000000 : Word).toNat / 2 ^ 24 = 0x13 ∧ (0x00008000 : Word).toNat / 2 ^ 15 % 2 ^ 8 ≠ 0) ∧
    (decode [0x11000001]).isOk = false ∧ (decode [0x13000000, 0x00008000]).isOk = false ∧ (decode [0x28000000, 0x00400000]).isOk = false := by
  decide

theorem witness_HaspInstructionResults : all [hs.holdsHasp 0 3, (hs.hasp 3).valid, hs.allPerformed 0 0, (hs.pendingJoin 0 3).isNone,
    (hs.hasp 3).arrived + 1 ≤ (hs.hasp 3).expArr,
    hs.seqPlace 0 4 0 == some (4, 0), hs.seqPlace 0 8 1 == some (9, 0), hs.seqPlace 0 8 15 == some (9, 7), (hs.hasp 9).phase.toNat == 7,
    phaseDone (hs.hasp 3).phase 0xFFFF, !phaseDone (hs.hasp 3).phase 0, !hs.stops 0, hs.holdsHasp 0 31, !(hs.hasp 31).valid,
    !phaseDone (hs.hasp 9).phase 7, phaseDone (hs.hasp 9).phase 6] = true ∧
    (hs.thread? 0 = some t0 ∧ hs.cur = .thread 0) ∧
    (let s := at1 0xC01FFFFC hs
     Reaches s 0 0xC01FFFFC 1 1 0 .read false s 0xFF0000001FFFFC (sli 0x1FFFFC) ∧ s.holdsHasp 0 3 = true ∧
       s.refusedAt 0 (s.partOf 0) (sli 0).loc = false ∧ s.refusedAt 0 (s.partOf 0) (.slice 1 0) = true) ∧
    ((withB (fun b => { b with joins := [(3, 0)] }) hs).pendingJoin 0 3 = some 0 ∧ (hs.routineEntry 0 t0).isNone = true) ∧
    (mkeys ((List.range 64).map fun i => (i, (⟨0, 0, 3, 0, 0, false⟩ : Watch))) fun _ w => w.core == 0).length = 64 :=
  ⟨by decide, ⟨rfl, rfl⟩, ⟨⟨by decide, ok_of (by decide), rfl, rfl, fun _ => by decide, by decide⟩, by decide, by decide, by decide⟩, by decide, by decide⟩

theorem witness_HaspMisuseTraps : all [!one.holdsHasp 0 3, hs.holdsHasp 0 31, !(hs.hasp 31).valid, hs.allPerformed 0 0, (hs.pendingJoin 0 3).isNone,
    ((hs.setHasp 3 { hv with arrived := 1 }).hasp 3).expArr < 1 + 1, (hs.hasp 3).valid, !(hs.hasp 3).rbase,
    hs.seqPlace 0 8 1 == some (9, 0), (hs.hasp 9).phase.toNat != 0] = true ∧ hs.thread? 0 = some t0 := ⟨by decide, rfl⟩

theorem witness_ControlTransferResults : Lane one 0 t0 [159] ∧ t0.rs.length < 8 ∧ one.laneSrc 0 .int (.k 37) = 32 ∧ one.laneSrc 0 .int (.k 31) = -16 ∧
    one.localArea 0 = none ∧ (List.replicate 8 (0 : Addr)).length = 8 ∧ t0.rs = [] ∧ t0.spilled = 0 ∧
    (let s := withB (fun b => { b with local? := some 0 }) (withNode node0 paged)
     let u (use : Use) : State := (s.place (s.bandSpace 0) 0 0 use false).2
     s.localArea 0 = some (0, 1) ∧ 1 ≤ { t0 with spilled := 1 }.spilled ∧ placed s 0 .write false = .ok (plain 0) ∧ placed s 0 .read false = .ok (plain 0) ∧
      all [bellUse (plain 0) 64 7 .write, bellUse (plain 0) 64 7 .read, !(u .write).accDead (plain 0) 64, !(u .read).accBad (plain 0) 64,
        !(u .read).accDead (plain 0) 64, !(plain 0).graded, (plain 0).loc.home.isSome, chunkEntries (u .read |>.bytes (2 ^ 44 + 0x200000) 64) != []] = true) :=
  ⟨⟨rfl, rfl, by decide⟩, by decide, by decide, by decide, rfl, by decide, rfl, rfl, by decide, le_rfl, by decide, by decide, by decide⟩

theorem witness_ExitBreakTrap : Lane one 0 t0 [] ∧ (one.part (one.partOf 0)).right = false ∧
    (({ one with parts := [(0, { Part.zero with right := true })] }).part 0).right = true ∧ t0.brkSkip = false ∧
    { t0 with brkSkip := true }.brkSkip = true ∧ t0.status ≠ .exited ∧ t0.counted = false ∧ Rising one.threads ∧ t0.quiet = true ∧ { t0 with f := t0.f.set 11 1 }.quiet = false ∧
    Rising one.bands ∧ (one.band? 0).isSome = true ∧ ((two id).thread? 1).isSome = true ∧ ∀ j, j ≠ 0 → bandOfThread j = bandOfThread 0 → one.thread? j = none :=
  ⟨⟨rfl, rfl, nofun, rfl⟩, rfl, rfl, rfl, rfl, nofun, rfl, rising_of (by decide), by decide, by decide, rising_of (by decide), rfl, rfl,
    fun j h _ => if_neg fun e => h e.symm⟩

theorem witness_CopyFenceGradeContEnqPost :
    (let s := withT fun t => (t.setV 1 0xC01FFFE0).setV 159 0xC0000000
     let t := (t0.setV 1 0xC01FFFE0).setV 159 0xC0000000
     Lane s 0 t (159 :: LaneSrc.regs (.v 1)) ∧ (t.getV 159).toNat % 32 = 0 ∧ s.bandVa 0 (t.getV 159).toNat = .ok 0x00FF000000000000 ∧
      isSlice 0x00FF000000000000 = true ∧ s.sliceAcc (s.bandSpace 0) 0 0x00FF000000000000 = .ok (sli 0) ∧
      (min (s.laneSrc 0 .int (.k 0)).toNat 32 = 0 ∧ s.laneAddr 0 (.v 1) 0 % 32 = 0) ∧ min (s.laneSrc 0 .int (.k 48)).toNat 32 = 32 ∧
      Reaches s 0 (s.laneAddr 0 (.v 1) 0) 32 32 3 .read false s 0x00FF0000001FFFE0 (sli 0x1FFFE0)) ∧
    Lane one 0 t0 (LaneDst.regs (.v 0) ++ runFrom 16 [144]) ∧ Lane one 0 t0 (LaneDst.regs .discard ++ [] ++ [158, 159]) :=
  ⟨⟨⟨rfl, rfl, by decide⟩, by decide, ok_of (by decide), rfl, by decide, ⟨by decide, by decide⟩, by decide,
    by decide, ok_of (by decide), rfl, rfl, fun _ => by decide, by decide⟩, ⟨rfl, rfl, by decide⟩, rfl, rfl, by decide⟩

/-- A record accepted, refused for want of room and refused as bad; a queue that is not there, has room, and is full with its spill area. -/
theorem witness_ContAndEnqComplete :
    (let o := { opOf .cont (sli 0) 0 with words := List.replicate 16 0 }
     let s := withOp o
     let full : State := { s with
       insts := [(0, Inst.ofCode []), (1, { Inst.ofCode [] with graph := 1 })]
       graphs := mput s.graphs 1 { Graph.bare with pool := Config.gatherPool } }
     Due s 5 o ∧ s.pause = false ∧ (o.words.headD 0).toNat / 2 % 2 ^ 4 = 0 ∧ (2 : Word).toNat / 2 % 2 ^ 4 ≠ 0 ∧ s.cancelled o.inst = false ∧
      s.inCode o.inst (s.codeBase o.inst o.n o.va + BitVec.ofNat 56 (32 * ((o.words.headD 0).toNat / 32))) = false ∧
      ((s.task? o.task).any (·.refire.isSome)) = false ∧ (withOp o { one with insts := [(0, Inst.ofCode (List.replicate 8 0))], graphs := [(0, { Graph.bare with ncode := 8 })] }).inCode 0 (s.codeBase 0 0 0) = true ∧
      s.poolRoom 0 = some false ∧ full.poolRoom 0 = none) ∧
    (let o := { opOf .enq (sli 0) 0 with va := 1023 }
     let q := { Queue.zero with state := 1, enable := true, qlog2 := 12, splog2 := 3 }
     let s := withOp o (one.setQueue 1023 q)
     let w : QWord := ⟨0, .spill 0⟩
     Due s 5 o ∧ (one.queue 1023).splog2 = 0 ∧ (s.queue 1023).splog2 ≠ 0 ∧ (s.queue 1023).state ≠ 0 ∧ 4 * (s.queue 1023).words.length < 2 ^ 12 ∧
      2 * 2 ^ 1 ≤ ([w, w, w, w].filter (·.place.spilled)).length ∧ 2 ^ 4 ≤ 4 * [w, w, w, w].length) :=
  ⟨⟨⟨rfl, rfl⟩, rfl, by decide, by decide, rfl, by decide, rfl, by decide, by decide, by decide⟩, ⟨rfl, rfl⟩, by decide, by decide, by decide, by decide,
    by decide, by decide⟩

theorem witness_RendezvousWaitsAndMismatches : isUniform .snop = true ∧ Runs (two id) 0 t0 ∧ (two id).inPm 0 = true ∧
    ((two id).arrive 0).meeting 0 = .waiting ∧
    ((two fun t => { t with status := .arrived, pc := 8 }).arrive 0).meeting 0 = .mismatch [0, 1] ∧
    (let m := (two fun t => { t with status := .arrived }).arrive 0
     m.meeting 0 = .complete [0, 1] ∧ m.pipeFree 0 = true ∧ (m.modCore 0 fun x => { x with pipeAt := 1 }).pipeFree 0 = false ∧
      (m.pipeOrder 0).filter (fun b => !(m.core 0).tried.contains b) = [0]) :=
  ⟨rfl, ⟨rfl, rfl⟩, by decide, by decide, by decide, by decide, by decide, by decide, by decide⟩

/-- A uniform instruction in a band and in a strand. -/
theorem uniform_met : Runs one 0 t0 ∧ MeetsAs one 0 t0 [0] ∧ (withB fun b => { b with s := b.s.set 31 0 }).inPm 0 = false ∧ strandy.cur = .strand 0 :=
  ⟨⟨rfl, rfl⟩, meets_one, rfl, rfl⟩

theorem witness_UniformScalarAndControlResults : Runs one 0 t0 ∧ MeetsAs one 0 t0 [0] ∧ strandy.cur = .strand 0 ∧ (one.band? 0).isSome = true ∧
    (strandy.block? (strandy.strand 0).block).isSome = true ∧ (launchable.nodeSt 0 0).isSome = true := ⟨⟨rfl, rfl⟩, meets_one, rfl, rfl, rfl, rfl⟩

/-- R30, R194: of a band in a block and in none. -/
theorem witness_MoveSpecialRegisters : (one.band? 0).any (fun x => x.block.isNone) = true ∧ (hs.band? 0).any (fun x => x.block == some 1) = true ∧
    (hs.block? 1).isSome = true := by decide

theorem witness_UniformWritesAndBudgets :
    (one.band? 0).isSome = true ∧ Rising one.strands ∧ (31 : Nat) ≠ 30 ∧ Runs hs 0 t0 ∧ MeetsAs hs 0 t0 [0] ∧
    all [!budgetOk 0, !budgetOk 7, budgetOk 8, budgetOk 160, !budgetOk 168, (hs.blockOfParty (.band 0)).isSome, blk.holds 31, !bitAt blk.membs.toNat 31,
      (hs.hasp 3).valid,
      !(withOp { opOf (.ld .u32) (sli 0) 4 with d := .v 8 } hs).dueAbove 0 16, (withOp { opOf (.ld .u32) (sli 0) 4 with d := .v 8 } hs).dueAbove 0 8,
      hs.freeRegs 0 == 131072 - 32 * 160] = true ∧
    (let s := (withB (fun b => { b with budget := 8, grow := some ⟨160, 3⟩ }) hs).modCore 0 fun c => { c with growQ := [0] }
     (s.core 0).growQ = [0] ∧ 32 * (160 - 8) ≤ s.freeRegs 0 ∧ (s.hasp 3).valid = true) ∧
    (let s := withB (fun b => { b with budget := 8, grow := some ⟨160, 3⟩ }) { hs with
       bands := (List.range 26).map fun i => (i, Band.start [] 1 160 0 0 0 0 0 0 0) }
     s.freeRegs 0 < 32 * (160 - 8)) ∧
    (let s := { (withB (fun b => { b with s := b.s.set 31 0 }) hs) with blocks := [(1, { blk with rstate := .routine, chosen := some 0 })] }
     s.routineIn 0 = true ∧ hs.routineIn 0 = false ∧ t0.status = .ready ∧ t0.trapMode = false ∧ t0.yielded = false ∧ (s.liveMask 0).getLsbD 0 = true ∧
      ((s.band? 0).any fun b => !b.s[31].getLsbD 0) = true) :=
  ⟨rfl, trivial, by decide, ⟨rfl, rfl⟩, meets_hs, by decide, by decide, by decide, by decide⟩

theorem witness_AttachDetachForkResults :
    (let free (b : Block) : State := { one with blocks := [(1, b)] }
     let j (e a : Nat) (x : Int) (m : Nat) : Bool := ({ Hasp.zero with expArr := e, arrived := a, nextd := x }).joinOk m
     let x := Band.start [] 1 160 0 0 0 0 0 0 0
     Runs (free blk) 0 t0 ∧ MeetsAs (free blk) 0 t0 [0] ∧ (free blk).attachTarget 0 x 0 0 = some 1 ∧ (free blk).attachTarget 0 x 0 1 = none ∧
      (free blk).nband 1 = 0 ∧ blk.maxBands = 2 ∧ blk.rstate = .held ∧ (free { blk with maxBands := 0 }).nband 1 = 0 ∧
      j 0 0 0 1 = true ∧ j 1 0 2046 1 = true ∧ j 1 0 2047 1 = false ∧ blk.membNums = [1] ∧ (free blk).inRoutine (.band 0) = false) ∧
    (hs.blockOfParty (.band 0)).isSome = true ∧ hs.inRoutine (.band 0) = false ∧ (one.blockOfParty (.band 0)).isNone = true ∧
    blk.hasEngine .mx = true ∧ { blk with cp := false }.hasEngine .cp = false ∧ (hs.strand 0).status = .idle ∧ (strandy.strand 0).status ≠ .idle ∧
    ownFile (.strand 0) .mx = true ∧ ownFile (.strand 0) .cp = false ∧ ownFile (.band 0) .mx = false ∧
    (Rising hs.bands ∧ Rising hs.hasps ∧ (hs.hasp 1).expArr = 0 ∧ (hs.hasp 1).arrived = 0 ∧ (hs.hasp 3).expArr = 1 ∧ (3, 0) ∈ [((3, 0) : Nat × Nat)]) ∧
    (let s (f : Option Nat) : State := { hs with tasks := [(0, { task1 with refire := f })], nextId := 9 }
     ((s none).task? 0).any (·.refire.isSome) = false ∧ ((s (some 4)).task? 0).any (·.refire.isSome) = true ∧ Rising (s none).tasks ∧ (0 : Nat) ≠ (s none).nextId) ∧
    ({ Strand.zero with forkAt := 1 }.forkAt = 0 + 1 ∧ { Strand.zero with wroteAt := 1, wrote := 4 }.wrote.getLsbD 2 = true) :=
  ⟨⟨⟨rfl, rfl⟩, ⟨rfl, by decide, by decide⟩, by decide, by decide, by decide, rfl, rfl, by decide, by decide, by decide, by decide, by decide, by decide⟩,
    rfl, rfl, rfl, rfl, rfl, rfl, nofun, rfl, rfl, rfl, ⟨rising_of (by decide), rising_of (by decide), rfl, rfl, rfl, by decide⟩,
    ⟨by decide, by decide, rising_of (by decide), by decide⟩, rfl, by decide⟩

theorem witness_HaspSetupResults : hs.partyHasp (.band 0) 3 = (true, false) ∧ hs.partyHasp (.band 0) 1 = (true, true) ∧
    one.partyHasp (.band 0) 3 ≠ (true, false) ∧ strandy.partyHasp (.strand 0) 31 = (true, false) ∧
    (hs.hasp 3).valid = true ∧ (hs.hasp 31).valid = false ∧
    all [4095 ≤ 4095, 4095 < 4096, 0x1FFFF / 2 ^ 17 == 0, 0x1FFDF % 2 ^ 7 == 95, 0x1FFE0 % 2 ^ 7 == 96, 0xFFFFFF < 2 ^ 24, !(0x1000000 < 2 ^ 24),
      24 + 8 - 1 ≤ 31, !(25 + 8 - 1 ≤ 31), (List.range 8).all fun i => hs.partyHasp (.band 0) (24 + i) == (true, false)] = true :=
  ⟨rfl, rfl, by decide, by decide, rfl, rfl, by decide⟩

theorem witness_PhaseCompletionAndInvalidation :
    (let s := withT (fun t => { t with status := .hwait 3 0 (.v 159) 8 }) hs
     Rising s.hasps ∧ Rising s.threads ∧ (s.thread? 0).map (·.status) = some (.hwait 3 0 (.v 159) 8) ∧ coreOfThread 0 = 0) ∧
    (hs.thread? 0 = some t0 ∧ ∀ p d nxt, t0.status ≠ .hwait 3 p d nxt) ∧
    (hs.band? 0).isSome = true ∧ coreOfBand 0 = 0 ∧ Rising hs.strands ∧ Rising hs.hasps ∧
    ({ strandy.strand 0 with status := .wait 3 0 8 }).status = .wait 3 0 8 ∧ (0 : Int) ≤ hv.expArr + { hv with nextd := -1 }.nextd ∧ hv.ready = false ∧ { hv with arrived := 1 }.ready = true ∧ hs.hasp 3 = hv :=
  ⟨⟨rising_of (by decide), rising_of (by decide), by decide, rfl⟩, ⟨rfl, nofun⟩, rfl, rfl, trivial, rising_of (by decide), rfl, by decide, by decide, by decide, rfl⟩

theorem witness_MonitorFiresAndStrandArrivals :
    (let s (w : Bool) (a : Nat) : State := { hs.setHasp 3 { hv with arrived := a, moncnt := 1 } with watches := [(7, ⟨0, 64, 3, 0, 0, w⟩)] }
     mget (s true 0).watches 7 = some ⟨0, 64, 3, 0, 0, true⟩ ∧ mget (s false 0).watches 7 = some ⟨0, 64, 3, 0, 0, false⟩ ∧
      (64 : Nat) < 2 ^ 52 ∧ 2 ^ 52 ≤ remoteLine 1 64 ∧ ((s true 0).hasp 3).arrived < ((s true 0).hasp 3).expArr ∧ ((s true 1).hasp 3).expArr ≤ ((s true 1).hasp 3).arrived) ∧
    strandy.cur = .strand 0 ∧
    all [(strandy.partyHasp (.strand 0) 3).1, (strandy.hasp 3).valid, !(strandy.hasp 30).valid, strandy.strandCmds 0 == [], (strandy.hasp 3).arrived + 1 ≤ (strandy.hasp 3).expArr,
      phaseDone (strandy.hasp 3).phase 0xFFFF, !phaseDone (strandy.hasp 3).phase 0, !(strandy.strand 0).stepping, !(strandy.strand 0).haltReq] = true :=
  ⟨⟨rfl, rfl, by decide, by decide, by decide, by decide⟩, rfl, by decide⟩

/-- A command of each kind at its check: its operands in range and beyond it, the engine full, and one that took a band's command in this clk. -/
theorem witness_MatrixCommandAcceptance : Runs hs 0 t0 ∧ MeetsAs hs 0 t0 [0] ∧ (one.blockOfParty (.band 0)).isNone = true ∧
    all [(hs.blockOfParty (.band 0)).isSome, blk.hasEngine .mx, !{ blk with mx := false }.hasEngine .mx, hs.engineLoad 0 .mx == 0,
      { hs with cmds := (List.range 16).map fun i => (i, cmdOf (.accz 0 0)) }.engineLoad 0 .mx == engineCap .mx,
      !hs.bandTook (.band 0) .mx, (hs.noteTaken (.band 0) .mx).bandTook (.strand 0) .mx, !hs.bandTook (.strand 0) .mx,
      7 + 1 ≤ 8, !(7 + 2 ≤ 8), 128 + 128 ≤ 256, !(129 + 128 ≤ 256), (hs.partyVa (.band 0) 0xC0000000).toOption == some 0x00FF000000000000,
      (hs.partyVa (.band 0) 0xCC000000).toOption == none,
      (hs.rangeBad (.band 0) 0x00FF000000000000 (2 ^ 21) true).isNone, hs.rangeBad (.band 0) 0x00FF000000000040 (2 ^ 21) true == some 2,
      hs.planeFmt 0 0 == .mxfp4, hs.arrays 1 0 == [0], (hs.arrays 1 0)[3 / 4]? == some 0, (hs.arrays 1 0)[4 / 4]? == none,
      2 ^ 21 < 2 ^ 21 - 8 * 128 + 8 + 8 * 128, !(2 ^ 21 < 2 ^ 21 - 8 * 128 + 8 * 128)] = true ∧ Rising hs.cmds ∧ Rising hs.cores :=
  ⟨⟨rfl, rfl⟩, meets_hs, rfl, by decide, trivial, rising_of (by decide)⟩

theorem witness_BlockPromotion : (rd32 0x7FC00000).isNan = true ∧ (rd32 0x3F800000).isNan = false ∧
    (alignBlock .mxfp4 0 [] 255).nf = true ∧ (alignBlock .s8 0 [] 0).nf = false := by decide

/-- A parked command, and one of each kind that runs, whole and in part; a source that reads and one in error; a write that lands; a copy
whose bytes have landed and one whose have not. -/
theorem witness_EngineCommandsComplete :
    (let run (k : CmdKind) : Bool := (run6 k).cmdRuns 6 (cmdOf k)
     all [run (.accz 0 256), run (.mxmm .s8 1 1 255 0 0 [] none), run (.mxld .s8 0 va0 0 0), run (.accld false va0 0 1), run (.accmv .st va0 0 1),
      run (.copy .cpz lrec4 0 [] 0 none), !(withCmd { cmdOf (.accz 0 0) with parked := some ⟨0, 0, 0, 0⟩ }).cmdRuns 6
        { cmdOf (.accz 0 0) with parked := some ⟨0, 0, 0, 0⟩ }, (hs.arrays 1 0) == [0], !(hs.homeBad 0), (badLine hs).homeBad 0,
      (badLine (run6 (.mxmm .s8 1 1 255 0 0 [] none))).cmdRuns 6 (cmdOf (.mxmm .s8 1 1 255 0 0 [] none)),
      mxmmAt .s8 1 0 none 0 == 0, (cmdOf (.mxmm .s8 1 1 255 0 0 [] none)).rest 0 (min 1 (mxmmBytes .s8 1 none)) == [0],
      (cmdOf (.copy .cpz lrec4 0 [] 0 none)).gotten != (lrecOf lrec4).total,
      { cmdOf (.copy .cpz lrec4 0 [] 0 none) with got := [(0, 16)] }.gotten == (lrecOf lrec4).total] = true) ∧ (∀ h, hs.homeBad h = false) ∧
    mget (run6 (.accz 0 256)).cmds 6 = some (cmdOf (.accz 0 256)) ∧
    (let c := cmdOf (.mxld .s8 0 va0 0 1)
     ∃ t m, Fetches ((withCmd c).reformat [0] 0 .s8) 6 c ((List.range (unitsOf (some (0, 2)) 8192).2).map fun i => (0 + i, va0 + 0 + i)) t m) ∧
    (let c := cmdOf (.accld false va0 0 1)
     ∃ t m, Fetches (withCmd c) 6 c ([0].flatMap fun e => (List.range 4).map fun i => (4 * e + i, va0 + 4 * e + i)) t m) ∧
    (let c := cmdOf (.accmv .st va0 0 1)
     ∃ u lost, (withCmd c).cmdWrite 6 c ((withCmd c).moveOut [0] .st va0 0 [0]) (fun l => (withCmd c).moveOut [0] .st va0 0 (lineElems .st va0 256 l))
        false .performed (fun u _ _ => u) = .go u lost) ∧
    (let c := cmdOf (.accmv .add va0 0 1)
     ∃ u, (withCmd c).addRows 6 c [0] va0 0 .performed ((List.range (unitsOf ((some (256, 256)).map fun x => (x.1 / 256, x.2 / 256)) 1).2).map (1 + ·)) = .done u) :=
  ⟨by decide, fun _ => rfl, rfl, ⟨_, _, fun _ => rfl⟩, ⟨_, _, fun _ => rfl⟩, ⟨_, _, rfl⟩, _, rfl⟩

theorem witness_PlanesAndElements : Rising (hs.engine 0).cells ∧ Rising (hs.engine 0).ew ∧ Rising (hs.engine 0).nf ∧ (1 : Fin 2) ≠ 0 ∧
    (hs.arrays 1 0).Nodup ∧ hs.arrays 1 0 ≠ [] ∧ Rising hs.engines ∧ (∀ c, Rising (hs.engine c).acc) ∧
    (sli 0).loc.home = some 0 ∧ (sli 0).graded = false ∧ hs.refusedAt 0 0 (sli 0).loc = false :=
  ⟨trivial, trivial, trivial, by decide, by decide, by decide, trivial, fun _ => trivial, rfl, rfl, rfl⟩

/-- A copy at its slot; its record, valid and invalid (word 2 with NDIM 0), in the band's slice, in error, or lost on its way from another
package. -/
theorem witness_CopyInstructionsAndTheirLayout :
    (let k : OpKind := .layout .cpz none .a (.k 0) 0 (.band 0 0)
     let o := opOf k (sli 0) 64
     let s (n : Byte) : State := withOp o { hs with mem := if n = 0 then [] else [(8, n), (12, 4), (40, 4)] }
     let ws (n : Byte) : List Word := wordsOfBytes ((s n).bytes 0 64)
     let far := { opOf k ⟨.remote 1 0 false, false, 0, none⟩ 64 with resp := some ([], .lost) }
     hs.layoutOpen (.band 0 0) = false ∧ (s 1).layoutOpen (.band 0 0) = true ∧
      (hs.place (hs.partySpace (.band 0)) 0 va0 .read false).1 = .ok (sli 0) ∧ bellUse (sli 0) 64 0 .read = true ∧
      Due (s 0x11) 5 o ∧ all [(s 0x11).layoutWaits o (.band 0 0), !(s 0x11).opRefused o, !(s 0x11).accBad o.acc 64, !(s 0x11).accDead o.acc 64,
        ((s 0x11).opLogRead o).isSome,
        (badLine (s 0x11)).accBad o.acc 64, (badLine (s 0x11)).layoutWaits o (.band 0 0), !(s 0x11).bandTook (.band 0) .cp,
        ws 0x11 == lrec4, !lrecBad (ws 0x11), lrecBad (ws 0), ((s 0x11).blockOfParty (.band 0)).isSome, (0xC0000000 : Nat) % 16 == 0,
        ((s 0x11).partyVa (.band 0) 0xC0000000).toOption == some va0, isSlice va0, !isSlice 0,
        ((s 0x11).rangeBad (.band 0) va0 ((lrecOf lrec4).rows * (lrecOf lrec4).pitch) false).isNone] = true ∧
      Due (withOp far hs) 5 far ∧ all [(withOp far hs).layoutWaits far (.band 0 0), !(withOp far hs).opRefused far, !(withOp far hs).accBad far.acc 64,
        far.acc.loc.home == none] = true) :=
  ⟨by decide, by decide, rfl, rfl, ⟨rfl, by decide⟩, by decide, ⟨rfl, by decide⟩, by decide⟩

/-- Bytes of a copy that may land and have landed; a box in another partition's slice, in this core's and in another package; the words of
its tensor; an index list in the slice. -/
theorem witness_CopyRowsLand :
    (let c (k : CopyKind) : Cmd := cmdOf (.copy k lrec4 va0 [0] 0 none)
     let s (k : CopyKind) : State := withCmd (c k)
     let r := lrecOf lrec4
     let at? := r.tensorAt [0] (copyRow .cpt r [0] [])
     let slot (j : Nat) : Option Nat := some (r.sliceAt j)
     mget (s .cpz).cmds 6 = some (c .cpz) ∧ all [(s .cpz).cmdRuns 6 (c .cpz), r.total == 16, (c .cpz).rest 12 4 == [12, 13, 14, 15],
      { c .cpz with got := [(0, 16)] }.rest 0 16 == [], (s .cpz).boxLoc (c .cpz) va0 == some (.slice 0 0),
      !(s .cpz).refusedAt 0 0 (.slice 0 0), (s .cpz).boxLoc (c .cpz) (va0 + 2 ^ 21) == some (.slice 1 0), (s .cpz).refusedAt 0 0 (.slice 1 0),
      (State.boxLoc { s .cpz with present := [1] } (c .cpz) (va0 + 2 ^ 30)).any fun l => l.pkg?.isSome,
      wordWhole slot 16 12 4, !wordWhole slot 16 13 3, !wordWhole slot 16 8 3, wordWhole at? 16 0 16, wordLow at? 3 8 == 8, wordHigh at? 3 12 == 12,
      at? 15 == some 15, r.tensorAt [4] (copyRow .cps r [4] []) 0 == none, !(hs.homeBad 0),
      { c .cpz with rel := true, got := [(0, 12)] }.lastBytes r 12 4, !(s .cpz).opsLeft []] = true) ∧
    (let c := cmdOf (.copy .cpt lrec4 va0 [0] 0 none)
     let s : State := withCmd c { paged with blocks := hs.blocks, bands := hs.bands }
     ∃ u m, Fetches (s.latch 6 []) 6 { c with latched := [] } [(0, 0), (1, 1), (2, 2), (3, 3)] u m) ∧
    (let c := cmdOf (.copy .cps lrec4 va0 [0] 0 none)
     let s : State := withCmd c { paged with blocks := hs.blocks, bands := hs.bands }
     ∃ u lost, s.cmdWrite 6 c [(0, 0, 0), (1, 1, 0), (2, 2, 0), (3, 3, 0)] (fun _ => []) false .performed (fun u _ _ => u) = .go u lost) ∧
    (let s : State := { hs with mem := [] }
     let r (lo : Nat) : LRec := lrecOf (BitVec.ofNat 32 lo :: 0x00FF0000 :: lrec4.drop 2)
     let g (lo : Nat) : Option Nat := s.gatherBad (cmdOf (.copy .cpg lrec4 va0 [0] 0 none)) (r lo) [0] (copyRow .cpg (r lo) [0] []) [0]
     (g (2 ^ 21 - 4)).isSome = true ∧ g 0 = none) ∧
    (let at? (j : Nat) : Option Nat := some j
     (∃ a b, at? (1 - 1) = some a ∧ at? 1 = some b ∧ a / 4 = b / 4) ∧ ¬ ∃ a b, at? (4 - 1) = some a ∧ at? 4 = some b ∧ a / 4 = b / 4) :=
  ⟨⟨rfl, by decide⟩, ⟨_, _, fun _ => rfl⟩, ⟨_, _, rfl⟩, by decide, ⟨0, 1, rfl, rfl, rfl⟩, by
    rintro ⟨a, b, h1, h2, h⟩
    cases h1
    cases h2
    exact absurd h (by decide)⟩

theorem witness_BoxElementsAndLandedBytes :
    (let r := { lrecOf lrec4 with box := [4, 65535, 3, 2, 1], swz := 3 }
     65534 < r.ext 1 ∧ 2 < r.ext 2 ∧ 1 < r.ext 3 ∧ 0 < r.ext 4 ∧ r.swz ≠ 0 ∧ (lrecOf lrec4).swz = 0 ∧ 3 < r.ext 0 ∧ 3 < r.size) ∧
    (let h := { hv with slots := hv.slots.set 3 ⟨true, 95, 16, 0⟩ }
     Rising hs.hasps ∧ h.valid = true ∧ (h.slots[3]).act = true ∧ (h.slots[3]).src = 95 ∧ (h.slots[2]).act = false ∧ Hasp.zero.valid = false ∧
      (h.slots[3]).landed + 0xFFFFFF < 2 ^ 24) :=
  ⟨by decide, rising_of (by decide), rfl, by decide, by decide, by decide, rfl, by decide⟩

/-- In a block of a NEGO core and in a free band; bounds at both ends of their range; in a routine with a refusal left and with none. -/
theorem witness_SurrenderAndYieldOutcomes :
    (let inR (f : Block → Block) : State := { withT (fun t => { t with resume := some 8 }) hs with
       blocks := [(1, f { blk with rstate := .routine, chosen := some 0 })] }
     Runs hs 0 t0 ∧ MeetsAs hs 0 t0 [0] ∧ Runs (inR id) 0 { t0 with resume := some 8 } ∧ MeetsAs (inR id) 0 { t0 with resume := some 8 } [0] ∧
      all [(one.blockOfParty (.band 0)).isNone, (hs.blockOfParty (.band 0)).isSome, !hs.inRoutine (.band 0), blk.lease == 2,
      !(63 == 0) && 63 < 64, !(65536 == 0) && 65535 < 65536, !(64 < 64 || 65535 < 64), !(65535 < 64 || 65535 < 65535),
      { blk with count := 2048 }.spent 0, !{ blk with count := 2048, countAt := 1 }.spent 0, !{ blk with count := 2048, summ := true }.spent 0,
      (inR id).inRoutine (.band 0), ((inR id).thread? 0).any fun t => t.resume.isSome, blk.used < blk.rlim,
      !({ blk with used := 1 }.used < { blk with used := 1 }.rlim)] = true) :=
  ⟨⟨rfl, rfl⟩, meets_hs, ⟨rfl, rfl⟩, ⟨rfl, by decide, by decide⟩, by decide⟩

/-- In trap mode and out of it; with the debug right and without it; a thread and a strand that an SBRK has halted. -/
theorem witness_TrapReturnAndUniformBreak :
    (let t := { t0 with trapMode := true }
     let s := withT fun t => { t with trapMode := true }
     Runs s 0 t ∧ t.trapMode = true ∧ t.haltReq = false ∧ (mkeys s.threads fun _ x => x.heldBy == some 0) = []) ∧
    (let s := { two (fun t => { t with heldBy := some 0 }) with threads := [(0, { t0 with trapMode := true, trapPt := ⟨4, 8, 1⟩ }), (1, { Thread.start 1 4 0 with heldBy := some 0 })] }
     s.cur = .thread 0 ∧ Rising s.threads ∧ (s.thread? 1).any (fun x => x.heldBy == some 0) = true ∧ ((s.thread? 0).map fun t => t.trapPt.src) = some 1) ∧
    Runs one 0 t0 ∧ t0.trapMode = false ∧ MeetsAs one 0 t0 [0] ∧ (∃ u, one.thread? 0 = some u ∧ u.trapMode = false) ∧ strandy.cur = .strand 0 ∧
    all [!(one.part (one.partyPart (.band 0))).right, !(strandy.part (strandy.partyPart (.strand 0))).right,
      ({ one with parts := [(0, { Part.zero with right := true })] }.part (one.partyPart (.band 0))).right,
      ({ strandy with parts := [(0, { Part.zero with right := true })] }.part (strandy.partyPart (.strand 0))).right, !t0.brkSkip,
      { t0 with brkSkip := true }.brkSkip, !(strandy.strand 0).brkSkip,
      ((strandy.setStrand 0 { Strand.zero with brkSkip := true }).strand 0).brkSkip] = true :=
  ⟨⟨⟨rfl, rfl⟩, rfl, rfl, by decide⟩, ⟨rfl, rising_of (by decide), rfl, rfl⟩, ⟨rfl, rfl⟩, rfl, meets_one, ⟨t0, rfl, rfl⟩, rfl, by decide⟩

/-- The program of run 0 with no command read yet, and with two. -/
theorem witness_CommandsGoPast : (∃ x, ps.inst? 0 = some x ∧ x.prog = []) ∧ { Inst.ofCode [] with prog := [1, 2] }.prog.length = 2 ∧
    (0 : Nat) < 1 ∧ ((-1 : Int) < 0 ∧ 1 ≤ (1 : Int)) := ⟨⟨_, rfl, rfl⟩, rfl, by decide, by decide⟩

theorem witness_TransferAndLaunchCommands : ps.cur = .stream (.prog 0) ∧ qs.cur = .stream (.queue 0 0) ∧
    all [(ps.streamSpace (.prog 0)).isSome, (qs.streamSpace (.queue 0 0)).isSome, (ps.inst? 0).isSome, (List.replicate 8 0).length == 8,
      (Inst.ofCode []).stack == [], { Inst.ofCode [] with stack := [3] }.stack == [3],
      launchable.runningOf 0 0 |>.isSome, (launchable.runningOf 1 0).isNone, (launchable.runningOf 0 1).isNone,
      ((launchable.runningOf 0 0).bind fun r => r.nodes[0]?).isSome, ((launchable.runningOf 0 0).bind fun r => r.nodes[1]?).isNone,
      (launchable.nodeOf 0 0).isSome, !node0.gated, st0.gateOpen, { node0 with gated := true }.gated, 0xFFFFFF / 2 ^ 24 == 0, 0x1000000 / 2 ^ 24 != 0,
      ({ launchable with lp1s := [(0, { Lp1.zero with maxInst := 2 })] }.launch 0 0).1.toOption.isSome, (launchable.launch 0 0).1.toOption.isNone] = true :=
  ⟨rfl, rfl, by decide⟩

theorem streamAt_plain (use : Use) (h : (qs.place (qs.spaceOf 0 0) feCore 0 use).1 = .ok (plain 0)) :
    ∃ u, StreamAt qs (qs.spaceOf 0 0) 0 0 8 use 0 (plain 0) u :=
  ⟨_, by decide, by decide, by decide, _, Prod.ext h rfl, by cases use <;> decide, by cases use <;> decide, fun _ => by cases use <;> decide,
    by cases use <;> decide, rfl⟩

/-- No stream address reads at an address outside the 56 bits, nor 8 bytes at one that is not a multiple of 8. -/
theorem streamBad_far (use : Use) : StreamBad qs (qs.spaceOf 0 0) (BitVec.ofNat 64 (2 ^ 56)) 0 8 use := fun _ _ _ h => absurd h.1 (by decide)

theorem streamAt_graded (h : (qs.place (qs.spaceOf 0 0) feCore 0x10040 .write).1 = .ok grad) :
    ∃ u, StreamAt qs (qs.spaceOf 0 0) (BitVec.ofNat 64 0x10040) 0 8 .write 0x10040 grad u := by
  refine ⟨_, ?_, ?_, ?_, (qs.place (qs.spaceOf 0 0) feCore 0x10040 .write).2, Prod.ext h rfl, ?_, ?_, fun _ => ?_, ?_, rfl⟩
  · decide
  · decide
  · decide
  · decide
  · decide
  · decide
  · decide

/-- Program 0 of a task below FINAL, with an item held and a hold buffer that has room or none; a place in host memory. -/
def psLow : State := { ps with lines := (lineAt .prov).lines, tasks := [(0, { task1 with kind := .program })] }
def offA : Acc := ⟨.host 0 64, false, 1, none⟩

/-- Queue 0 at plain and at graded memory, and at an address it cannot form; a program at a line that is PROV; stores held, sent and performed; every outcome
of the tumbler; answers from another package; waits that hold and that do not. -/
theorem witness_MemoryAndWaitCommands : qs.cur = .stream (.queue 0 0) ∧ qs.streamSpace (.queue 0 0) = some (qs.spaceOf 0 0) ∧
    (∃ u, StreamAt qs (qs.spaceOf 0 0) 0 0 8 .read 0 (plain 0) u) ∧ (∃ u, StreamAt qs (qs.spaceOf 0 0) 0 0 8 .write 0 (plain 0) u) ∧
    (∃ u, StreamAt qs (qs.spaceOf 0 0) 0x10040 0 8 .write 0x10040 grad u) ∧ StreamBad qs (qs.spaceOf 0 0) (BitVec.ofNat 64 (2 ^ 56)) 0 8 .read ∧
    Says.goesOn (StreamId.queue 0 0) qs (plain 0) 0 ∧ (qs.ns ≤ qs.ns ∧ qs.ns < qs.ns + 1) ∧
    all [(plain 0).loc.home == some (2 ^ 44 + 0x200000), (plain 0).graded == false, grad.graded, (qs.streamTask (.queue 0 0)).isNone,
      (grad.lines 1).head? == some gl, ((lineAt .prov).line gl).grade == .prov, ((lineAt .final).line gl).grade == .final,
      offA.offChip, psLow.streamTask (.prog 0) == some 0, psLow.holds 0, (psLow.task? 0).isSome, !ps.holds 0, psLow.holdRoom 0 0 32,
      2 ^ 56 / 2 ^ 56 != 0, (2 ^ 56 - 1) / 2 ^ 56 == 0, (lineAt .none |>.gradedWrite gh [0] .final none 7).1 == .wrote,
      (lineAt .final |>.gradedWrite gh [0] .final none 7).1 == .final, qs.streamOutcome (.queue 0 0) .waitLog == none,
      (qs.streamOutcome (.queue 0 0) .wrote).isSome] = true ∧
    (let far := { opOf .fill ⟨.remote 1 0 false, false, 0, none⟩ 8 with resp := some (leBytes 8 7, .performed) }
     all [(mget (withOp far).ops 5).bind (·.resp) == some (leBytes 8 7, .performed),
      (mget (withOp { far with resp := none }).ops 5).bind (·.resp) == none, far.acc.loc.home == none] = true) ∧
    all [(launchable.runningOf 0 0).isSome, (launchable.nodeSt 0 0).isSome, !st0.complete, !st0.faulted, (launchable.inst? 0).any fun x => x.lp1 == 0 && !x.cancelled && !x.ended,
      { st0 with complete := true }.complete, { st0 with faulted := true }.faulted, { Inst.ofCode [] with ended := true }.ended,
      { Inst.ofCode [] with cancelled := true }.cancelled,
      (launchable.inst? 1).isNone, (qs.strm (.queue 0 0)).wait.isNone,
      ({ Stream.zero with wait := some (.time 0, 15, 1) }).wait == some (.time 0, 15, 1)] = true :=
  ⟨rfl, by decide, streamAt_plain .read (by decide), streamAt_plain .write (by decide), streamAt_graded (by decide), streamBad_far .read, nofun, ⟨le_rfl, Nat.lt_succ_self _⟩, by decide, by decide,
    by decide⟩

theorem witness_RegisterSignalHaltCommands : qs.cur = .stream (.queue 0 0) ∧ (qs.streamSpace (.queue 0 0)).isSome = true ∧ ps.cur = .stream (.prog 0) ∧
    (ps.streamSpace (.prog 0)).isSome = true ∧ (ps.inst? 0).isSome = true ∧ ps.streamTask (.prog 0) = some 0 ∧ ps.holds 0 = false ∧
    qs.streamTask (.queue 0 0) = none ∧ psLow.cur = .stream (.prog 0) ∧ psLow.holds 0 = true ∧ (psLow.task? 0).isSome = true ∧
    psLow.holdRoom 0 0 32 = true ∧ psLow.holdRoom 0 0 (2 ^ 40) = false :=
  ⟨rfl, by decide, rfl, by decide, rfl, rfl, by decide, rfl, rfl, by decide, rfl, by decide, by decide⟩

/-- Thread 0 at the header of its clause: outside the code, with a deferred failure, held by a flag, at a page with no entry, at a line in error, at an
empty, an ill-framed and a whole clause. -/
theorem witness_ClauseStarts :
    (let s (h : Word) (f : Thread → Thread) : State :=
       let x := withT (fun t => f { t with pc := 0 }) paged
       { x with graphs := [(0, { Graph.bare with ncode := 8 })], insts := [(0, Inst.ofCode [h, 0, 0, 0, 0, 0, 0, 0])] }
     let t := { t0 with pc := 0 }
     let w (h : Word) : List Nat := (s h id).clauseWords 0 0
     Runs (s 0 id) 0 t ∧ t.status = .ready ∧ all [slotOf t.pc == 0, !(s 0 id).stops 0, (s 0 id).free 0 t, ((s 0 id).routineEntry 0 t).isNone, !(s 0 id).breakThread 0 t,
       t.deferred.isEmpty, !{ s 0 id with graphs := [] }.inCode 0 0, (s 0 id).inCode 0 0, !(s 0 id).inCode 0 32,
       ((s 0 id).translate ((s 0 id).bandSpace 0) 0 0 .fetch).1 == .ok (plain 0),
       ({ s 0 id with mem := [] }.translate ((s 0 id).bandSpace 0) 0 0 .fetch).1 == .park 0,
       !(s 0 id).accBad (plain 0) 32, ((s 0 id).setLine ((2 ^ 44 + 0x200000) / 64) { LineMeta.zero with bad := true }).accBad (plain 0) 32] = true ∧
     all [clauseBad (w 1), !clauseBad (w 0x1004), !clauseBad (w 0), (headerOf 0x1004).nslot != 0, (headerOf 0).nslot == 0] = true ∧
     (60 : Nat) < (61 : BitVec 6).toNat ∧ ¬ 60 < (60 : BitVec 6).toNat) :=
  ⟨⟨rfl, rfl⟩, rfl, by decide, by decide, by decide, by decide⟩

theorem witness_BlockAndRunEvents :
    (let s := { launchable with ready := [⟨1, 0, 0, 0, none⟩] }
     all [!{ launchable with cores := [(0, { Core.zero with unavail := true })] }.coreOpen 0, launchable.coreOpen 200, s.coreOpen 0, (s.takeSlot 0).slotHere 0 == some 0, s.saved.isEmpty, s.canPlace 0 ⟨1, 0, 0, 0, none⟩,
      (s.launchOf ⟨1, 0, 0, 0, none⟩).isSome] = true) ∧
    (let z : Saved := ⟨0, 0, 0, 0, 0, 0, false, false, [], [], [], [], [], [], [], none, none, [], [], [], [], [], false, false, []⟩
     let u := { launchable with saved := [z] }.takeSlot 0
     u.saved.find? (fun x => (u.instsOf 0).contains x.inst && u.mayRestore 0 0 x) = some z) ∧
    (let idle := { launchable with blocks := [(1, blk)] }
     all [hs.blockOver 1 == false, idle.blockOver 1, !(idle.core 0).saving, ({ idle with cores := [(0, { Core.zero with saving := true })] }.core 0).saving, !blk.faulted, !blk.stopping, blk.rstate == .held] = true) ∧
    (let i : Inst := { Inst.ofCode [] with nodes := [] }
     all [i.ended == false, { State.reset with insts := [(0, i)] }.instDone 0 i, !({ launchable with ready := [⟨1, 0, 0, 0, none⟩] }.instDone 0 { i with nodes := [st0] })] = true) ∧
    (let b : PartialBand := ⟨⟨0, 0, 0, 0⟩, [], 0⟩
     { launchable with pool := [b] }.pool.find? (fun x => x.key == b.key) = some b ∧ b.since + Config.defaultWindow ≤ launchable.clk ∧ (4999 : Nat) < 0 + Config.defaultWindow) ∧
    (let s := { launchable with released := [⟨⟨0, 0, 0, 0⟩, [], 0, none⟩] }
     all [(s.nextReleased 0).isSome, (s.launchOf ⟨0, 0, 0, 0, none⟩).isSome, (s.slotHere 0) == some 0, (s.freeFrames 0).head? == some 0,
      ((s.launchOf ⟨0, 0, 0, 0, none⟩).any fun l => s.canPlaceRecs 0 ⟨⟨0, 0, 0, 0⟩, [], 0, none⟩ l && (s.readArgs 0 ⟨0, 0, 0, 0, none⟩ l).isSome)] = true) :=
  ⟨by decide, by decide, by decide, by decide, ⟨by decide, by decide, by decide⟩, by decide⟩

theorem witness_LaunchPortsAndWords :
    (let s := { launchable with lp1s := [(0, { Lp1.zero with maxInst := 2, sources := [9] })] }
     let f : Frame := ⟨5, 9, 0x4B46, 1, 32, 15, 0, 0, List.replicate 32 0⟩
     let before (s : State) : List Nat := mkeys s.ops fun _ o => o.uid == 2 ^ 66 + f.port.val
     all [{ s with pause := true }.pause, !s.pause, s.waiting.isEmpty, !{ s with waiting := [(none, Instr.blockStart 0)] }.waiting.isEmpty,
      f.n.toNat ≤ 32, f.words.length == f.n.toNat, { f with lp1 := 0 }.src ∈ (s.lp1 0).sources, { f with lp1 := 0 }.tag == (s.lp1 0).tag, { f with lp1 := 16 }.lp1.toNat == 16,
      f.port.val < s.linkCounts.2.1, { s with linkCounts := (18, 5, 2) }.linkCounts.2.1 ≤ f.port.val, before s == [],
      before (withOp { opOf .st (plain 0) 4 with uid := 2 ^ 66 + 5 } s) == [5], (mget s.ops 5).isNone, (mget (withOp (opOf .st (plain 0) 4) s).ops 5).isSome,
      7 < 8, (65535 : DWord).toNat < 65536, (mget s.graphs (graphKey 0 0)).isSome, s.insts.any fun x => x.2.graph == graphKey 0 0 && !x.2.ended,
      !({ s with insts := [] }.insts.any fun x => x.2.graph == graphKey 0 0), (mget s.graphs (graphKey 0 1)).isNone,
      s.insts.length + 2 ≤ 2 ^ 32, (s.insts.filter fun x => x.2.lp1 == 0 && !x.2.ended).length == 1, (s.lp1 0).maxInst == 2,
      (launchable.lp1 0).maxInst ≤ 1, 0x0F / 2 ^ 4 == 0, 0x10 / 2 ^ 4 != 0] = true) ∧
    (let r : RegReq := ⟨0, 0, 0x40, true⟩
     { launchable with regReqs := [r] }.regReqs.find? (fun r => r.lp1 == 0) = some r ∧
      (match launchable.validate r 0 0 with | .error e => some e | .ok _ => none) = some 1 ∧
      (0 % 32 = 0 ∧ 0 + 2 ^ 25 ≤ Config.deviceBytes) ∧ ¬ 31 % 32 = 0) :=
  ⟨by decide, by decide, by decide, by decide, by decide⟩

theorem witness_QueueEvents :
    (let q := { Queue.zero with qlog2 := 24, qbase := 0x1000000, splog2 := 16, spbase := 0x80000 }
     all [12 ≤ q.qlog2, q.qlog2 ≤ 24, q.qbase.toNat % 2 ^ q.qlog2 == 0, q.splog2 ≤ 16, q.spbase.toNat % 2 ^ (q.splog2 + 3) == 0, !q.enable,
      !(12 ≤ { q with qlog2 := 11 }.qlog2), (qs.queue 0).state == 1, (qs.queue 0).enable, (qs.queue 1).state == 0, !qs.pause, qs.waiting.isEmpty,
      7 % 8 != 0, 4096 % 8 == 0, (qs.queue 0).qhead ≤ 4096, 4096 ≤ (qs.queue 0).qhead + 2 ^ (qs.queue 0).qlog2, (qs.queue 0).qhead + 2 ^ (qs.queue 0).qlog2 < 4104,
      8 < { qs.queue 0 with qhead := 16 }.qhead, qs.findBind false 0 0 == some 0, (State.reset.findBind false 0 0).isNone,
      (qs.ringBytes (qs.spaceOf 0 0) (qs.queue 0) 0 8).isSome, (qs.ringBytes (qs.spaceOf 0 0) { qs.queue 0 with qbase := 0x30000 } 0 8).isNone] = true) := by decide

/-- One partition's blocks at rest and running; a window's addresses at its end and past it; a function on its link and not; frames and lines; what the
links bring; settings that keep the nesting and that do not. -/
theorem witness_PageWindowAndFrameEvents :
    (let b := { Lp1.zero with links := 1 }
     let s := { launchable with lp1s := [(0, { b with gcVa := 0x10000, gcPages := 1, invN := 1 })] }
     let bad := { launchable with lp1s := [(0, { b with gcPages := 0 })] }
     all [bitAt 0x80000000 31, !bitAt 0x7FFFFFFF 31, !b.gcGo, { b with gcGo := true }.gcGo, (s.clearCheck 0).toOption.isSome, (bad.clearCheck 0).toOption.isNone,
      !s.invRefused 0 (s.lp1 0), bad.invRefused 0 b, !s.opsLeft [], { withOp (opOf .st (plain 0) 4) with cur := .nobody }.opsLeft [5],
      s.waiting.isEmpty, !s.heldIn ⟨0, 1, 0, 0⟩, (s.opsIn ⟨0, 1, 0, 0⟩).isEmpty,
      (launchable.windowVa 16 (2 ^ 30 - 8) 8).isSome, (launchable.windowVa 16 (2 ^ 30 - 8) 9).isNone,
      s.linkUp 0, s.linkUp 1, !{ s with linkCounts := (18, 6, 1) }.linkUp 1, s.fnOn 0 0, !s.fnOn 1 0, s.fnOn 1 16, !s.linkWaits (some 0),
      { s with waiting := [(some 0, Instr.blockStart 0)] }.linkWaits (some 0), !{ s with waiting := [(some 1, Instr.blockStart 0)] }.linkWaits (some 0),
      (launchable.outerRead (launchable.templateSpace 0) false false 0 8).isSome, (launchable.outerRead (launchable.templateSpace 0) false false 0x30000 8).isNone,
      s.regOn 0 (.block 0 16), !s.regOn 1 (.block 0 16), s.regOn 1 (.pf0 0), !s.recovery.active] = true ∧
     all [(launchable.placeHost (launchable.templateSpace 0) [(0, [1])] []).isSome, (launchable.placeHost (launchable.templateSpace 0) [(0x30000, [1])] []).isNone,
      !launchable.pause, 0xFFFFFC < 0x1000000, mget launchable.granted 32 == some (0 + 1), mget launchable.granted 32 != some (15 + 1),
      { launchable with pendZero := [gl] }.pendZero.contains gl, !launchable.pendZero.contains gl,
      64 * 12582911 < 2097152 * Config.cores, !(64 * 12582912 < 2097152 * Config.cores), 64 * 2 ^ 38 < 2 ^ 44 + Config.deviceBytes,
      !(64 * 2 ^ 39 < 2 ^ 44 + Config.deviceBytes), 2 ^ 60 + 4096 * 383 + 4095 < 2 ^ 60 + 4096 * Config.cores] = true) ∧
    (∃ l, (∃ i, i < 1024 ∧ l = (2 ^ 44 + 65536 * 1) / 64 + i) ∧ 2 ≤ [2 ^ 38 + 1024, 2 ^ 38 + 1024].count l) ∧
    (∀ l, (∃ i, i < 1024 ∧ l = (2 ^ 44 + 65536 * 1) / 64 + i) → ¬ 2 ≤ launchable.unfitRows.count l) ∧ (2 ^ 38 + 1024 : Nat) < 2 ^ 39 ∧
    (65536 * (5859374 + 1) ≤ Config.deviceBytes ∧ ¬ 65536 * (5859375 + 1) ≤ Config.deviceBytes) ∧
    (paged.hostWrite 0 (plain 0, 0, [1])).1 = .wrote ∧
    (let s := { lineAt .prov with lines := mput (lineAt .prov).lines gl { LineMeta.zero with grade := .prov, remote := [(1, 0, 0)] } }
     (s.hostWrite 0 (grad, 0x10040, [1])).1 = .waitAck) :=
  ⟨by decide, ⟨2 ^ 38 + 1024, ⟨0, by decide, by decide⟩, by decide⟩, fun l _ => by show ¬ 2 ≤ ([] : List Nat).count l; simp, by decide, by decide, by decide, by decide⟩

/-- An error in each storage; ports that are there and one that is not; a descriptor and a queue pair inside their parent's bounds and outside. -/
theorem witness_ArrivalEvents :
    (let s := { launchable with lp1s := [(0, { Lp1.zero with bounds := ⟨1, 255, 255, 15, 7, true⟩ })] }
     let d : Part := { Part.zero with live := true, hbmw := 255, wmax := 255, cset := 1 }
     let fits (d : Part) : Bool :=
       let b := (s.lp1 d.parent).bounds
       decide (d.parent < 16 ∧ (d.cset &&& ~~~b.cset) = 0 ∧ d.hbmw ≤ b.hbmw ∧ d.wmax ≤ b.wmax ∧ d.cls &&& b.cls = d.cls ∧ d.lse &&& b.lse = d.lse ∧
         (d.wlt = true → b.wlt = true) ∧ s.children d.parent 1 < 16 ∧ s.hasDead d.cset = false ∧ 1 ≤ d.hbmw ∧ d.hbmw < 256 ∧ 1 ≤ d.wmax ∧ d.wmax < 256)
     all [0x200000 + 32 * 2 ^ 16 ≤ Config.deviceBytes, !(Config.deviceBytes + 32 * 2 ^ 0 ≤ Config.deviceBytes), 16383 < 16384, 199 < 200, 30 ≤ 39,
      fits d, !fits { d with cset := 3 }, !fits { d with hbmw := 256 }, d.live, (s.part 0).live, (s.part 0).parent == 0, 4095 < 4096,
      5 < s.linkCounts.2.1, { s with linkCounts := (18, 5, 2) }.linkCounts.2.1 ≤ 5] = true) ∧
    one.thread? 0 = some t0 ∧ (1 ≤ 1 ∧ 9 ≤ 9) ∧ (9 : Nat) < 10 ∧ State.reset.fw.alive = true ∧
    ({ launchable with recovery := { launchable.recovery with active := true } }.linkUp 0 = true ∧
      { launchable with recovery := { launchable.recovery with active := true } }.linkUp 1 = false) :=
  ⟨by decide +kernel, rfl, by decide, by decide, rfl, by decide, by decide⟩

/-- A line's second correctable error puts it into the repair record; its frame is granted no more (R367). -/
theorem test_repeated_error : ({ State.reset with unfitRows := [2 ^ 38] }.noteCorrected (2 ^ 38)).flash.repair = [2 ^ 38] ∧
    ({ State.reset with unfitRows := [2 ^ 38] }.noteCorrected (2 ^ 38)).unfit (2 ^ 38) = true ∧
    (State.reset.noteCorrected (2 ^ 38)).flash.repair = [] := by decide

/-- A record that is right, with each ACT, and one that is not; a parked thread at a slot, at a clause, and at a rendezvous, with a routine to enter and
with none; a record behind a host write and in a pause. -/
theorem witness_ResumeRecords :
    (let r : ResumeRec := ⟨0, 0, 0, 0, 0, 0, 0, 0, 0⟩
     let live (s : State) : State := { s with parts := launchable.parts }
     let park (f : Thread → Thread) (s : State) : State := live (withT (fun t => f { t with parked := some ⟨0, 0, 0, 0⟩ }) s)
     let inR : State := { hs with blocks := [(1, { blk with rstate := .routine, chosen := some 0, surr := some ⟨32, 64⟩ })] }
     let t := { t0 with parked := some ⟨0, 0, 0, 0⟩ }
     all [(park id one).waiting.isEmpty, !(park id one).pause, !{ one with waiting := [(none, Instr.blockStart 0)] }.waiting.isEmpty, { one with pause := true }.pause,
      ((park id one).part r.part.val).live, ((park id one).part r.part.val).parent == 0, r.act.val ≤ 1, !((2 : Fin 16).val ≤ 1), { r with act := 1 }.act == 1,
      (park id one).matchedThreads r == [0],
      ((park id one).thread? 0).any fun t => t.parked == some ⟨0, 0, 0, 0⟩ && !t.haltReq && t.status != .arrived && slotOf t.pc != 0,
      ((park (fun t => { t with pc := 0 }) one).thread? 0).any fun t => slotOf t.pc == 0,
      ((park (fun t => { t with status := .arrived }) one).thread? 0).any fun t => t.status == .arrived,
      ((park id one).routineEntry 0 t0).isNone, (inR.routineEntry 0 t0).isSome, ((park id inR).thread? 0) == some t] = true) := by decide +kernel

theorem witness_SlotAndRecallEvents :
    (let w : List Word := [0xC0100000, 0, 0x4000, 0, 0, 0, 0, 0, 1] ++ List.replicate 23 0
     let rec0 := { launchable with binds := [], parts := [(0, { Part.zero with live := true, cset := 1 })] }
     all [(launchable.bind 0).valid, !(launchable.bind 127).valid, (bindOfWords w).2.1, !(bindOfWords []).2.1, (bindOfWords w).2.2, (bindOfWords (List.replicate 32 0)).2.2, !(bindOfWords (List.replicate 32 0)).2.1,
      !(bindOfWords [0x000F0000]).2.2, rec0.bindOk (bindOfWords w).1, !State.reset.bindOk (bindOfWords w).1] = true) ∧
    (let s := { launchable with clk := 25000 }
     let other : Bind := { Bind.zero with valid := true, cores := 1, cls := 0, handle := 5 }
     let both := { s with binds := s.binds ++ [(1, other)], queues := [(5, { Queue.zero with state := 1, words := [⟨0, .sram⟩] })] }
     let low := { both with binds := [(0, { s.bind 0 with cls := 1 }), (1, { other with isGraph := false })] }
     all [(State.reset.core 0).running.isNone, (s.core 0).running == some 0, (s.core 0).sliceAt + s.slice 0 ≤ s.clk, !((launchable.core 0).sliceAt + launchable.slice 0 ≤ launchable.clk),
      s.coreOpen 0, !s.fixedCore 0, !s.surrendering 0, !s.gained 0 0, (s.nextSlot 0).isNone, both.nextSlot 0 == some 1, !both.holdsWork 0, hs.holdsWork 0,
      { hs with blocks := [(1, { blk with lease := 0 })] }.fixedCore 0, { hs with blocks := [(1, { blk with rstate := .finishing })] }.surrendering 0,
      (low.bind 0).cls == 1] = true) ∧
    (let k := starveKey false 0 5
     let s := { State.reset with clk := 3750000, queues := [(5, { Queue.zero with cls := 0, state := 1, words := [⟨0, .sram⟩] })], starve := [(k, 0)] }
     all [mget s.noteHunger.starve k == some 0, 0 + 3750000 ≤ s.noteHunger.clk, (mget State.reset.noteHunger.starve k).isNone, !(s.bind s.noteHunger.slotToTake).valid,
      s.coreHeld 0, !({ s with cores := [(0, { Core.zero with saving := true })] }.coreHeld 0), 3 < Config.recallQueue, !(4 < Config.recallQueue)] = true) ∧
    (∃ i, i < 128 ∧ (State.reset.bind i).valid = false) ∧
    (∀ i < 128, ({ State.reset with binds := (List.range 128).map fun i => (i, { Bind.zero with valid := true }) }.bind i).valid = true) ∧
    (let r (x : RState) : State := { one with blocks := [(1, { blk with rstate := x, surr := some ⟨0, 64⟩, count := 64 })] }
     all [((r .routine).blockIn 0 .routine).any fun b => b.bound ≤ b.count && !b.summ, 63 < 64, ((r .finishing).blockIn 0 .finishing).isSome] = true) ∧
    ((0 : Nat) + 100 * 1000 ≤ { one with clk := 250000 }.ns ∧ one.ns < one.ns + 100000) :=
  ⟨by decide, by decide, by decide, ⟨0, by decide, rfl⟩, by decide, by decide, by
    show 100000 ≤ (32 * 250000 / 5 + Config.dieOffset 4) / 16
    omega, Nat.lt_add_of_pos_right (by decide)⟩

/-- A message whose home is here, elsewhere, in error and in a slice; a read that answers, and a notification; an amendment of another package with one
acknowledge left; a link that lives and one that is dead. -/
theorem witness_FabricEvents :
    (let m : Msg := { State.reset.blankMsg with spkg := 7, addr := 0x210000, n := 1, data := [1], mask := 1 }
     let o := { opOf (.ld .u32) ⟨.remote 7 0 false, false, 0, none⟩ 4 with sent := true }
     let bad := paged.setLine ((2 ^ 44 + 0x210000) / 64) { LineMeta.zero with bad := true, dead := true }
     let h := 2 ^ 44 + 0x210000
     all [paged.msgHome m == some h, (paged.msgHome { m with addr := 0x00FF000000000000 }).isNone, m.n != 0, !paged.farBad h 1, bad.farBad h 1, (bad.line (h / 64)).dead,
      m.grade == .none, ({ m with grade := .prov } : Msg).grade != .none, (paged.line (h / 64)).far == none,
      (Msg.atomNew { m with op := some .add, n := 4, data := [1, 0, 0, 0] } [0, 0, 0, 0]).isSome, (Msg.atomNew { m with cas := some 1, n := 4 } [0, 0, 0, 0]).isNone,
      (Msg.atomNew { m with op := some .add, n := 4, data := [1, 0, 0, 0] } [0, 0, 0, 0]) != some [0, 0, 0, 0],
      (paged.gradedWrite gh (mergeMask m.mask (paged.bytes gh 1) m.data) .final none 7 (some (farOf m))).1 == .wrote, m.node == 0,
      { paged with cores := [(0, { Core.zero with lastPart := some 0 })] }.msgHome { m with addr := 0x00FF000000000000 } == some 0,
      isSlice 0x00FF000000000000, !isSlice m.addr.toNat, (withOp o).ops.find? (fun x => x.2.answeredBy x.1 { m with tag := 5 }) == some (5, o),
      { m with fate := .refused }.fate != .performed, ((lineAt .prov).line gl).grade != .none, (paged.line gl).grade == .none] = true) ∧
    (let m : Msg := { State.reset.blankMsg with spkg := 7, tag := 9 }
     let a : Amendment := ⟨gl, none, none, [(7, 0, 0)], false, 0, none⟩
     let s := { one with amends := [(9, a)] }
     s.amends.find? (fun x => BitVec.ofNat 16 x.1 == m.tag) = some (9, a) ∧ farOf m = (7, 0, 0) ∧ a.acks.filter (· != (7, 0, 0)) = [] ∧ a.acks.filter (· != (8, 0, 0)) ≠ [] ∧
      { s with planes := 0 }.lostAt a.since m.spkg.toNat (lineAddr a.line).toNat = true ∧ (∃ r ∈ a.acks, r.1 = m.spkg.toNat) ∧
      ¬ ∃ r ∈ { a with acks := [(8, 0, 0)] }.acks, r.1 = m.spkg.toNat) ∧
    all [(mget [(17, 0)] 17).isSome && 17 < State.reset.linkCounts.1, !(17 < { State.reset with linkCounts := (17, 6, 2) }.linkCounts.1),
      (State.reset.ops.find? fun x => x.2.answeredBy x.1 State.reset.blankMsg).isNone, State.reset.planes.getLsbD 17, !{ State.reset with planes := 1 }.planes.getLsbD 17, !State.reset.inFlight, { one with sent := [] }.inFlight == false,
      !State.reset.recovery.active] = true :=
  ⟨by decide, ⟨by decide, by decide, by decide, by decide, by decide, ⟨(7, 0, 0), by decide, by decide⟩, by decide⟩, by decide⟩

/-- A queue pair with a READ and a bad request; a remote key and a range of it; ranges in plain memory, in a graded page and in slice space. -/
theorem witness_RdmaEvents :
    (let q : Qp := ⟨0, 0, 0x200000, 1, 0x200040, 1, 0, 0, 0, [⟨2, 0, 1, false, false⟩, ⟨3, 0, 1, true, false⟩]⟩
     let s := { launchable with qps := [(4, q)], rkeys := [(6, ⟨0, 0, 8⟩)] }
     let p : RdmaPkt := ⟨5, 4, 6, 0, 8, List.replicate 8 1, 0⟩
     all [(mget s.qps 4).isSome, (mget s.qps 5).isNone, (q.work.headD ⟨0, 0, 0, true, true⟩).op == 2, !(q.work.headD ⟨0, 0, 0, true, true⟩).wrote,
      p.port.val < s.linkCounts.2.1, !s.readWaits 4, (withOp { opOf .st (plain 0) 4 with uid := 2 ^ 67 + 4 } s).ops.any (fun o => o.2.uid == 2 ^ 67 + 4), { q with work := [] }.work == [], (s.roceWrite (2 ^ 67 + 4) (s.templateSpace 0) 0 [1]).isSome,
      (s.keySpace p).isSome, (s.keySpace { p with len := 9 }).isNone, (s.roceRead (s.templateSpace 0) 0 8).isSome, (s.roceWrite (2 ^ 66 + 5) (s.templateSpace 0) 0 p.data).isSome,
      p.data.length == p.len, (s.roceRead (s.templateSpace 0) 0x10000 8).isNone, (s.roceWrite 0 (s.templateSpace 0) 0x10000 p.data).isNone, isSlice va0] = true ∧
     (∃ a, (s.translate (s.templateSpace 0) feCore 0x10000 .write).1 = .ok a ∧ a.graded = true) ∧
     ∃ a, (s.translate (s.templateSpace 0) feCore 0x10000 .read).1 = .ok a ∧ a.graded = true) :=
  ⟨by decide, ⟨⟨.dev 0x210000, true, 0, none⟩, by decide, rfl⟩, ⟨.dev 0x210000, true, 0, none⟩, by decide, rfl⟩

/-- Which images are authentic is free (log 5): of the three outcomes of a reset one always holds. -/
theorem witness_FirmwareEvents :
    (∀ least, let auth (x : List Byte) : Prop := Config.authentic x = true ∧ least ≤ Config.imageVersion x
      auth [] ∨ (¬ auth [] ∧ auth [1]) ∨ (¬ auth [] ∧ ¬ auth [1])) ∧
    (let r : Recovery := ⟨true, 0, 0, false, 57344, [], []⟩
     all [r.active, !r.busy, { r with busy := true }.busy, 1 ≤ r.len, r.len ≤ Config.stagingBytes, !State.reset.recovery.active,
      State.reset.fw.heartbeat + 10000000 ≤ { State.reset with clk := 25000000 }.upNs, { State.reset with clk := 24999999 }.upNs < 10000000, !State.reset.fw.ready,
      { State.reset.fw with ready := true }.ready, ({ State.reset.fw with updating := some [], ready := true }).updating == some [], State.reset.fw.updating == none,
      { State.reset with pause := true }.pause, !State.reset.pause, (mget launchable.binds 0).isSome, (mget launchable.parts 0).isSome,
      ([49, 0].filter fun p => p / 50 == 0).length ≤ 2, 2 < ([49, 1, 0].filter fun p => p / 50 == 0).length] = true) := by
  refine ⟨?_, by decide⟩
  intro least auth
  by_cases h : auth []
  · exact .inl h
  · by_cases k : auth [1]
    · exact .inr (.inl ⟨h, k⟩)
    · exact .inr (.inr ⟨h, k⟩)

/-- A target that is there, with the right and halted, and each way it is not; a core sampled in this clk and not; threads that may be sampled and none. -/
theorem witness_DebugAndSampleEvents :
    (let right := [(0, { Part.zero with right := true, samp := { Sampling.zero with stallen := true, stallp := 4 } })]
     let s := withT (fun t => { t with halted := true }) { one with parts := right }
     let t := { t0 with halted := true }
     all [!(s.core 0).dbg.busy, s.target 0 0 == some (.thread 0), (s.target 0 0x7FF).isNone, (s.target 0 0x800).isNone, strandy.target 0 0x800 == some (.strand 0),
      (s.part (s.targetPart (.thread 0)).1).right, !(one.part 0).right, s.isHalted (.thread 0), !one.isHalted (.thread 0), (s.thread? 0).any (·.halted),
      (s.part 0).cmdAt != s.clk + 1, ({ s.part 0 with cmdAt := s.clk + 1 } : Part).cmdAt == s.clk + 1,
      (s.threadReg 0 t 0 159).isSome, (s.threadReg 0 t 0 160).isNone, (s.setThreadReg 0 t 0 159 1).isSome, (s.setThreadReg 0 t 0 160 1).isNone, (s.threadReg 0 t 5 0) == some 0,
      { t0 with parked := some ⟨0, 0, 0, 0⟩ }.parked.isSome, t0.parked.isNone, t0.status == .ready] = true ∧ (0xFFFFFF : Word).toNat < 2 ^ 24 ∧ 2 ^ 24 ≤ (0x1000000 : Word).toNat ∧
     (mkeys s.threads fun k t => coreOfThread k == 0 && t.status != .exited && s.samplable k) = [0] ∧ (s.core 0).sampAt ≠ s.clk + 1 ∧ Rising s.threads ∧ Rising s.parts ∧
     (mkeys one.threads fun k t => coreOfThread k == 0 && t.status != .exited && one.samplable k) = []) ∧
    { t0 with status := .header }.status = .header ∧
    (let s := one.modCore 0 fun x => { x with grpAt := 1, issuedAs := [(0, 4, 0)] }
     (s.core 0).grpAt = s.clk + 1 ∧ (s.core 0).issuedAs.find? (fun x => x.1 == 0) = some (0, 4, 0)) ∧
    all [!{ one with planes := 0 }.planes.getLsbD (27 - 10), one.planes.getLsbD (27 - 10), skewPair 9 == some (3, 4), skewPair 10 == none] = true :=
  ⟨⟨by decide +kernel, by decide, by decide, by decide, by decide, rising_of (by decide), rising_of (by decide), by decide⟩, rfl, by decide, by decide⟩

/-- The band's budget is 8: register 8 is the first beyond it. A source register with an error, read by an instruction of one thread and by one of a band. -/
theorem witness_BudgetAndStrandTraps : isLane (.iadd (.v 8) (.v 7) (.v 159)) = true ∧ strandy.cur = .strand 0 ∧
    (let s := withB fun b => { b with budget := 8 }
     Runs s 0 t0 ∧ 8 ∈ named (.iadd (.v 8) (.v 7) (.v 159)) ∧ s.budgetOf 0 ≤ 8 ∧
      ∀ n ∈ named (.iadd (.v 8) (.v 7) (.v 159)), s.budgetOf 0 ≤ n → 8 ≤ n) ∧
    (let s := withT fun t => { t with bad := [159] }
     let t := { t0 with bad := [159] }
     let u : Instr := .iadd (.v 0) (.v 1) (.v 159)
     let x : Instr := .xbal (.v 0) (.v 159)
     Runs s 0 t ∧ (∀ n ∈ named u, n < s.budgetOf 0) ∧ meets u = false ∧ t.anyBad (Says.reads u) = true ∧ (∀ n ∈ named x, n < s.budgetOf 0) ∧ meets x = true ∧
      MeetsAs s 0 t [0] ∧ (∃ j ∈ [0], ∃ y, (met s 0 t).thread? j = some y ∧ y.anyBad (Says.reads x) = true)) :=
  ⟨rfl, rfl, ⟨⟨rfl, rfl⟩, by decide, by decide, by decide⟩, ⟨rfl, rfl⟩, by decide, rfl, by decide, by decide, rfl, ⟨rfl, by decide, by decide⟩,
    0, by decide, _, rfl, by decide⟩

theorem witness_EveryStepAnswers : isEvent (.throttle 0) = true ∧ isLane .nop = true ∧ isUniform .snop = true ∧ isCommand .chalt = true ∧
    Runs one 0 t0 ∧ strandy.cur = .strand 0 ∧ qs.cur = .stream (.queue 0 0) ∧ State.reset.cur = .nobody :=
  ⟨rfl, rfl, rfl, rfl, ⟨rfl, rfl⟩, rfl, rfl, rfl⟩

theorem witness_TakingATrap :
    (let s := withNode { node0 with roles := [⟨1, 1, 8, 0, 2⟩] }
     s.thread? 0 = some t0 ∧ s.handlerPc 0 = some 64 ∧ t0.trapMode = false ∧ t0.haltReq = false) ∧ one.handlerPc 0 = none ∧
    ((31 : Nat) < 32 ∧ (255 : Nat) < 256 ∧ (15 : Nat) < 16 ∧ (7 : Nat) < 8) := ⟨⟨rfl, by decide, rfl, rfl⟩, by decide, by decide⟩

theorem witness_MemoryReadsBack : Memory.wf paged.mem = true ∧ { paged with pendZero := [gl] }.pendZero.contains (gh / 64) = true := by decide

/-- A thread of an issue group at an instruction, at a word that is none, blocked, and at a breakpoint; a core's turn before and after its group of
this clk; a thread's turn at a clause, held, ready and at a complete rendezvous; a strand's, a stream's, an event's and an arrival's turn. -/
theorem witness_StepRunsTheDecodedInstruction :
    (let s := State.reset.withDevice [0x53010000]
     let u := { s with issue := [] }
     s.issue = [0] ∧ s.thread? 0 = some t0 ∧ u.canIssue 0 t0 = true ∧ u.breakThread 0 t0 = false ∧ u.canIssue 0 { t0 with status := .header } = false ∧
      (decode [u.codeAt (u.instOf 0) 4, u.codeAt (u.instOf 0) 8]).toOption.map (·.1) = some (.rdsp (.v 1) 0) ∧
      (let b : BreakPt := ⟨4, true, 0⟩
       let v := { u with parts := [(0, { Part.zero with right := true })], cores := [(0, { Core.zero with dbg := { DebugBlk.zero with bps := DebugBlk.zero.bps.set 0 b } })] }
       v.canIssue 0 t0 = true ∧ v.breakThread 0 t0 = true)) ∧
    (let s := State.reset.withDevice [0xFF000000]
     (decode [{ s with issue := [] }.codeAt 0 4, { s with issue := [] }.codeAt 0 8]).toOption = none) ∧
    (State.reset.issue = [] ∧ State.reset.script = []) ∧
    (let s := { one with script := [⟨0, .core 0⟩] }
     let v := State.passTime { s with script := [] } 0
     v.thermal = false ∧ v.recovery.active = false ∧ (v.core 0).grpAt ≠ v.clk + 1 ∧
      ({ v with cores := [(0, { Core.zero with grpAt := v.clk + 1 })] }.core 0).grpAt = v.clk + 1) ∧
    (let v := State.passTime { one with script := [] } 0
     v.thread? 0 = some t0 ∧ slotOf t0.pc ≠ 0 ∧ slotOf (0 : Addr) = 0 ∧ v.free 0 t0 = true ∧ t0.status ≠ .held ∧ t0.status ≠ .arrived ∧
      { v with pause := false }.free 0 { t0 with halted := true } = false ∧
      (let w := { v with threads := [(0, { t0 with status := .arrived })] }
       w.inPm 0 = true ∧ w.meeting 0 ≠ .waiting)) ∧
    (let s := State.reset.withCommand [0x5C000000]
     let v := State.passTime { s with script := [] } 0
     s.script = [⟨0, .stream (.queue 0 0)⟩] ∧ s.issue = [] ∧ s.thermal = false ∧ v.thermal = false ∧ v.recovery.active = false ∧ v.streamRuns (.queue 0 0) = true ∧
      (decodeCmd (v.streamWords (.queue 0 0))).toOption.map (·.1) = some .chalt ∧ State.reset.streamRuns (.queue 0 0) = false) ∧
    (let s := { strandy with
       script := [⟨0, .strand 0⟩], issue := [], graphs := [(0, { Graph.bare with ncode := 8 })], insts := [(0, Inst.ofCode [0x0000FF04, 0xF4000000, 0, 0, 0, 0, 0, 0])] }
     let v := State.passTime { s with script := [] } 0
     v.thermal = false ∧ v.recovery.active = false ∧ v.strandFree 0 = true ∧ (v.strand 0).haltReq = false ∧ slotOf (v.strand 0).pc ≠ 0 ∧ v.breakStrand 0 = false ∧
      (decode (v.wordsAt (v.strandInst 0) (v.strand 0).pc)).toOption.map (·.1) = some .snop ∧ one.strandFree 0 = false) ∧
    (Actor.outside .reset).whileRecovering = true ∧ (Actor.core 0).whileRecovering = false ∧ (Actor.arrive .unsupported).whileRecovering = true :=
  ⟨⟨rfl, rfl, by decide, by decide, by decide, by decide, by decide, by decide⟩, by decide, ⟨rfl, rfl⟩, ⟨rfl, rfl, by decide, by decide⟩,
    ⟨rfl, by decide, by decide, by decide, nofun, nofun, by decide, by decide, by decide⟩,
    ⟨rfl, rfl, rfl, rfl, rfl, by decide, by decide, by decide⟩, ⟨by decide, by decide, by decide, by decide, by decide, by decide, by decide, by decide⟩,
    rfl, rfl, rfl⟩

theorem witness_DecodeInvertsEncode : isEvent (.throttle 0) = true ∧ (encode (.iadd (.v 159) (.v 0) (.k 63))).isSome = true ∧
    (Instr.iadd (.v 159) (.v 0) (.k 63)).wf = true ∧ isCommand (.iadd (.v 159) (.v 0) (.k 63)) = false ∧ (encode .chalt).isSome = true ∧
    Instr.wf .chalt = true ∧ isCommand .chalt = true := ⟨rfl, rfl, rfl, rfl, rfl, rfl, rfl⟩

theorem witness_StepsKeepMemoryCanonical : Memory.wf paged.mem = true ∧ (match step paged with | .next _ => true | _ => false) = true := by decide

end Sys2Proof.Tests
end

section
/-! SUPPORT. What an instruction of the uniform frame does, from what its body does (R113-R118). -/

namespace Sys2Proof.Machine

open Sys2Proof.Says

/-- A rendezvous that is met runs the operation once, alone in trap mode or for the threads of P (R113, R116). -/
theorem rendezvous_meets {s : State} {k : Nat} {t : Thread} {ks : List Nat} (body : State → List Nat → Res)
    (ht : s.thread? k = some t) (h : MeetsAs s k t ks) :
    rendezvous s k body = State.bandFinish ks ((body (met s k t) ks).piped k t.trapMode) := by
  cases hm : t.trapMode with
  | true =>
    obtain rfl : ks = [k] := by simpa [MeetsAs, hm] using h
    simpa [met, hm] using rendezvous_trapMode body ht hm
  | false =>
    obtain ⟨hp, hk, hf⟩ : s.inPm k = true ∧ (s.arrive k).meeting k = .complete ks ∧ (s.arrive k).pipeFree k = true := by
      simpa [MeetsAs, hm] using h
    simpa [met, hm] using rendezvous_complete body ht hm hp hk hf

/-- An instruction whose meaning is the uniform frame does what its body does. -/
theorem uniformDoes_of_body {i : Instr} {means : State → Party → List Nat → Res → Prop} {body : State → Party → List Nat → Res}
    (hi : ∀ s, exec i s = uniFrame s body) (hb : ∀ s p ks r, means s p ks r → body s p ks = r) : UniformDoes i means := by
  refine ⟨fun s k t hr hm hp => ?_, fun s k t ks r hr hmeet hmeans => ?_, fun s q r hc hmeans => ?_⟩
  · rw [hi, uniFrame_runs body hr.1 hr.2, rendezvous_outside _ hr.2 hm hp]
  · rw [hi, uniFrame_runs body hr.1 hr.2, rendezvous_meets _ hr.2 hmeet, hb _ _ _ _ hmeans]
  · rw [hi, uniFrame_strand body hc, hb _ _ _ _ hmeans]

/-- The same for an instruction that only a strand may execute: its body traps for a band (R114, R179). -/
theorem strandDoes_of_body {i : Instr} {means : State → Nat → Res → Prop} {body : State → Party → List Nat → Res}
    (hi : ∀ s, exec i s = uniFrame s body) (hband : ∀ s b ks, body s (.band b) ks = .trap s cIllegal)
    (hb : ∀ s q ks r, means s q r → body s (.strand q) ks = r) : StrandDoes i means := by
  refine uniformDoes_of_body hi fun s p ks r h => ?_
  cases p with
  | band b => exact (hband s b ks).trans h.symm
  | strand q => exact hb s q ks r h

end Sys2Proof.Machine
end

section
/-! Monitor fires (R104, R137), and the arrivals and waits of strands (R144). -/

namespace Sys2Proof.Machine

open Sys2Proof.Says

/-! ### Arrivals that may not be refused -/

/-- Within EXPECT_ARR the arrival is counted, and the phase tried for completion (R136, R137). -/
theorem State.arriveHeld_counts (s : State) (c n : Nat) {h : Hasp} (lost : Bool) (hr : h.arrived < h.expArr) :
    s.arriveHeld c n h lost =
      (s.setHasp (haspKey c n) { h with arrived := h.arrived + 1, spurNow := h.spurNow || lost }).tryComplete c n := by
  have hr' : h.arrived + 1 ≤ h.expArr := hr
  simp [State.arriveHeld, Hasp.arriveOrHold, hr']

/-- Beyond EXPECT_ARR the arrival is held (R137). -/
theorem State.arriveHeld_holds (s : State) (c n : Nat) {h : Hasp} (lost : Bool) (hr : h.expArr ≤ h.arrived) :
    s.arriveHeld c n h lost = s.setHasp (haspKey c n) { h with heldArr := h.heldArr ++ [⟨none, lost⟩] } := by
  have hr' : ¬ h.arrived + 1 ≤ h.expArr := by omega
  simp [State.arriveHeld, Hasp.arriveOrHold, hr']

/-! ### Monitors -/

/-- A watch of a line of this package that nothing has written does not fire, unless it is lost (R104). -/
theorem exec_monitorFire_unwritten {s : State} {n : Nat} {w : Watch} (hw : mget s.watches n = some w)
    (hn : w.written = false) (hl : w.line < 2 ^ 52) : exec (.monitorFire n false) s = .next s := by
  change execMonitorFire n false s = _
  simp only [execMonitorFire, hw, hn, hl]
  rfl

/-- A watch that was lost or written, or whose line another package has, is disarmed and arrives on its hasp (R104, R137). -/
theorem exec_monitorFire_arrives {s : State} {n : Nat} {lost : Bool} {w : Watch} (hw : mget s.watches n = some w)
    (hf : lost = true ∨ w.written = true ∨ 2 ^ 52 ≤ w.line) :
    let h := s.hasp w.hasp
    exec (.monitorFire n lost) s = .next ({ s with watches := mdel s.watches n }.arriveHeld (w.hasp / 32) (w.hasp % 32)
      { h with moncnt := h.moncnt - 1 } lost).settle := by
  have hf' : ¬ (!lost && !w.written && decide (w.line < 2 ^ 52)) = true := by
    rcases hf with hf | hf | hf
    · simp [hf]
    · simp [hf]
    · simp only [decide_eq_false (Nat.not_lt.2 hf), Bool.and_false, Bool.false_eq_true, not_false_eq_true]
  change execMonitorFire n lost s = _
  simp only [execMonitorFire, hw, if_neg hf']

/-! ### Strands -/

/-- Does a strand hold hasp n, and is it valid (R144)? -/
def State.strandHas (s : State) (q n : Nat) : Prop :=
  (s.partyHasp (.strand q) n).1 = true ∧ (s.hasp (haspKey (Party.strand q).core n)).valid = true

/-- The check that SHARR and SHWAIT make of their hasp. -/
theorem State.strandHas_iff (s : State) (q n : Nat) :
    s.strandHas q n ↔ (!(s.partyHasp (.strand q) n).1 || !(s.hasp (haspKey (Party.strand q).core n)).valid) = false := by
  simp [State.strandHas]

/-- SHARR in a strand: misuse traps, an earlier command of the strand holds it, and otherwise it arrives within EXPECT_ARR (R144, R137). -/
theorem sharr_strandDoes (h : Fin 32) :
    let H (s : State) (q : Nat) : Hasp := s.hasp (haspKey (Party.strand q).core h.val)
    StrandDoes (.sharr h) fun s q r =>
      (¬ s.strandHas q h.val ∧ r = .trap s (cHasp h.val)) ∨ (s.strandHas q h.val ∧ s.strandCmds q ≠ [] ∧ r = .stay s) ∨
      (s.strandHas q h.val ∧ s.strandCmds q = [] ∧ (H s q).expArr < (H s q).arrived + 1 ∧ r = .trap s (cHasp h.val)) ∨
      (s.strandHas q h.val ∧ s.strandCmds q = [] ∧ (H s q).arrived + 1 ≤ (H s q).expArr ∧
        r = .ok ((s.setHasp (haspKey (Party.strand q).core h.val) { H s q with arrived := (H s q).arrived + 1 }).tryComplete
          (Party.strand q).core h.val)) := by
  refine strandDoes_of_body (fun s => show execSharr h s = _ from rfl) ?_ fun s q _ r hm => ?_
  · exact fun _ _ _ => rfl
  simp only [State.strandHas_iff, Bool.not_eq_false] at hm
  rcases hm with ⟨hg, rfl⟩ | ⟨hg, hc, rfl⟩ | ⟨hg, hc, ha, rfl⟩ | ⟨hg, hc, ha, rfl⟩
  · simp only [hg, if_true]
  · simp [hg, hc]
  · simp [hg, hc, Nat.le_of_lt_succ ha]
  · simp [hg, hc, Nat.not_le_of_lt ha]

/-- SHWAIT in a strand: misuse traps, a completed phase is passed, a pending one blocks the strand (R144, R101). -/
theorem shwait_strandDoes (h : Fin 32) (a : UniSrc) :
    let H (s : State) (q : Nat) : Hasp := s.hasp (haspKey (Party.strand q).core h.val)
    StrandDoes (.shwait h a) fun s q r =>
      ∃ w s1, s.uniSrc (.strand q) false a = (w, s1) ∧
        let p := w.toNat % 2 ^ 16
        (¬ s.strandHas q h.val ∧ r = .trap s (cHasp h.val)) ∨
        (s.strandHas q h.val ∧ phaseDone (H s q).phase p = true ∧ r = .ok (s1.dropRoc (Party.strand q).core)) ∨
        (s.strandHas q h.val ∧ phaseDone (H s q).phase p = false ∧
          let x := s1.strand q
          r = .stay (s1.setStrand q { x with
            status := .wait h.val p ((s.headerAt (s.strandInst q) x.pc).after x.pc), haltReq := x.haltReq || x.stepping })) := by
  refine strandDoes_of_body (fun s => show execShwait h a s = _ from rfl) ?_ fun s q _ r hm => ?_
  · exact fun _ _ _ => rfl
  obtain ⟨w, s1, hw, hm⟩ := hm
  simp only [State.strandHas_iff, Bool.not_eq_false] at hm
  simp only [hw]
  rcases hm with ⟨hg, rfl⟩ | ⟨hg, hp, rfl⟩ | ⟨hg, hp, rfl⟩
  · simp only [hg, if_true]
  · simp only [hg, hp, Bool.false_eq_true, if_true, if_false]
  · simp only [hg, hp, Bool.false_eq_true, if_false]

/-- Settles O27: an arrival that may not be refused is counted or held, and a strand's arrival and wait go by the uniform frame. -/
theorem monitorFiresAndStrandArrivals : Obligations.MonitorFiresAndStrandArrivals := by
  refine ⟨fun s n lost w hw => ⟨?_, fun hf => ⟨fun hr => ?_, fun hr => ?_⟩⟩, fun h a => ⟨sharr_strandDoes h, shwait_strandDoes h a⟩⟩
  · rintro rfl hn hl
    exact exec_monitorFire_unwritten hw hn hl
  · rw [exec_monitorFire_arrives hw hf, State.arriveHeld_counts]
    exact hr
  · rw [exec_monitorFire_arrives hw hf, State.arriveHeld_holds]
    exact hr

end Sys2Proof.Machine
end

section
/-! The start of a clause (R9, R13, R15, R18, R19, R21, R237, R363). -/

namespace Sys2Proof.Machine

open Sys2Proof.Says

/-! ### The header's test -/

/-- A thread waits on a header while a flag that WAIT names is not 0, or one that SETA or SETB names exceeds 60 (R9, R18). -/
theorem Thread.mayStart_eq_false_iff (t : Thread) (h : Header) : t.mayStart h = false ↔
    ∃ i : Fin 12, (bitAt h.wait i.val = true ∧ t.f[i] ≠ 0) ∨ ((h.seta = i.val ∨ h.setb = i.val) ∧ 60 < (t.f[i]).toNat) := by
  rw [← Bool.not_eq_true, Thread.mayStart, List.all_eq_true]
  simp only [List.mem_finRange, forall_const, not_forall]
  refine exists_congr fun i => ?_
  simp only [Bool.and_eq_true, Bool.or_eq_true, Bool.not_eq_true', beq_iff_eq, bne_iff_ne, decide_eq_true_eq, not_and_or, not_or,
    Bool.not_eq_false, ne_eq, not_not, not_le]

theorem State.beginClause_held (s : State) (k : Nat) {t : Thread} {h : Header} (hm : t.mayStart h = false) :
    s.beginClause k t h = s.modThread k fun t => { t with status := .header } := by
  simp [State.beginClause, hm]

theorem State.beginClause_empty (s : State) (k : Nat) {t : Thread} {h : Header} (hm : t.mayStart h = true) (hn : h.nslot = 0) :
    s.beginClause k t h = s.passTo k (nextClause t.pc) := by
  simp [State.beginClause, hm, hn]

/-- A clause is entered at slot 1; a thread that waited on its header is ready from now (R13, R196). -/
theorem State.beginClause_enters {s : State} {k : Nat} {t : Thread} {h : Header} (hm : t.mayStart h = true) (hn : h.nslot ≠ 0)
    (ht : s.thread? k = some t) : (s.beginClause k t h).thread? k = some { t with
      pc := t.pc + 4, status := .ready, bpSkip := false,
      readyAt := if t.status = .header then s.clk else t.readyAt, clauses := if t.status = .header then 0 else t.clauses } := by
  by_cases hs : t.status = .header <;> simp [State.beginClause, hm, hn, hs, ht]

/-! ### Fetch and framing -/

/-- TRAPSTAT at a clause boundary: SLOT, UNIF and DEFER read 0 (R238). -/
theorem trapWord_edge (c d : Nat) : trapWord ⟨c, d, 0⟩ false false 0 0 = BitVec.ofNat 32 (c * 2 ^ 27 + d % 256 * 2 ^ 16) := by
  refine congrArg (BitVec.ofNat 32) ?_
  simp only [boolNat, Bool.false_eq_true, if_false]
  omega

/-- TRAPSTAT of a deferred failure (R237, R238). -/
theorem trapWord_deferred (d f : Nat) : trapWord (cAccess d) true false f 0 =
    BitVec.ofNat 32 (5 * 2 ^ 27 + 2 ^ 26 + d % 256 * 2 ^ 16 + f % 16 * 2 ^ 4) := by
  refine congrArg (BitVec.ofNat 32) ?_
  simp only [cAccess, boolNat, Bool.false_eq_true, if_true, if_false]
  omega

section ClauseStart

variable {s u : State} {k : Nat} {t : Thread}

theorem State.fetchClause_outside (hc : s.inCode (s.instOf k) t.pc = false) :
    s.fetchClause k t = s.edgeTrap k t (cAccess 11) := by
  simp [State.fetchClause, hc]

theorem State.fetchClause_parks {r : Nat} (hc : s.inCode (s.instOf k) t.pc = true)
    (ha : s.translate (s.bandSpace (bandOfThread k)) (coreOfThread k) t.pc.toNat .fetch = (.park r, u)) :
    s.fetchClause k t = u.parkThread k t.pc.toNat 4 r := by
  simp [State.fetchClause, hc, ha]

theorem State.fetchClause_fails {e : Nat} (hc : s.inCode (s.instOf k) t.pc = true)
    (ha : s.translate (s.bandSpace (bandOfThread k)) (coreOfThread k) t.pc.toNat .fetch = (.bad e, u)) :
    s.fetchClause k t = u.edgeTrap k t (cAccess e) := by
  simp [State.fetchClause, hc, ha]

/-- A clause that is fetched is checked for errors that no code corrects, then for its framing, and then begins (R363, R15). -/
theorem State.fetchClause_fetched {a : Acc} (hc : s.inCode (s.instOf k) t.pc = true)
    (ha : s.translate (s.bandSpace (bandOfThread k)) (coreOfThread k) t.pc.toNat .fetch = (.ok a, u)) :
    let v := u.sampleNow (coreOfThread k) (slotOfThread k) false (u.bandSpace (bandOfThread k)).part
      (t.pc - u.bandBase (bandOfThread k)).toNat t.pc.toNat 4 a.loc
    s.fetchClause k t =
      if v.accBad a 32 then v.edgeTrap k t (cAccess 12)
      else if clauseBad (v.clauseWords (s.instOf k) t.pc) then v.edgeTrap k t ⟨2, 0, 0⟩
      else v.beginClause k t (v.headerAt (s.instOf k) t.pc) := by
  simp only [State.fetchClause, hc, ha, Bool.not_true, Bool.false_eq_true, if_false]

/-! ### The thread at its clause -/

/-- A thread at a clause that nothing holds, of a band that is not to stop, starts it. -/
theorem exec_clauseStart_starts (hr : Runs s k t) (ht : t.status = .ready ∨ t.status = .header) (hp : slotOf t.pc = 0)
    (hs : s.stops k = false) (hf : s.free k t = true) : exec .clauseStart s = .next (s.startThread k t).settle := by
  obtain ⟨hcur, hthr⟩ := hr
  have hstands : ((t.status == .ready || t.status == .header) && slotOf t.pc == 0) = true := by simp [ht, hp]
  change execClauseStart s = _
  simp [execClauseStart, hcur, hthr, hstands, hs, hf]

theorem State.startThread_deferred {d : Deferred} {ds : List Deferred} (hr : s.routineEntry k t = none)
    (hb : s.breakThread k t = false) (hd : t.deferred = d :: ds) : s.startThread k t = s.deferredTrap k t d ds := by
  simp [State.startThread, hr, hb, hd]

theorem State.startThread_fetches (hr : s.routineEntry k t = none) (hb : s.breakThread k t = false) (hd : t.deferred = []) :
    s.startThread k t = s.fetchClause k t := by
  simp [State.startThread, hr, hb, hd]

end ClauseStart

/-- Settles O40, by the cases of a deferred failure, of the fetch, of the framing and of the header's test. -/
theorem clauseStarts : Obligations.ClauseStarts := by
  intro s k t hr ht hp hs hf hent hbrk inst go edge
  have hstart := exec_clauseStart_starts hr ht hp hs hf
  refine ⟨fun d ds hd => ?_, fun hd => ?_⟩
  · rw [hstart, State.startThread_deferred hent hbrk hd, State.deferredTrap, trapWord_deferred]
  rw [State.startThread_fetches hent hbrk hd] at hstart
  have hedge (u : State) (c d : Nat) :
      Host.Outcome.next (u.edgeTrap k t ⟨c, d, 0⟩).settle = edge u (BitVec.ofNat 32 (c * 2 ^ 27 + d % 256 * 2 ^ 16)) := by
    rw [State.edgeTrap, trapWord_edge]
  refine ⟨fun hc => ?_, fun r u hc ha => ?_, fun e u hc ha => ?_, fun a u0 hc ha => ?_⟩
  · rw [hstart, State.fetchClause_outside hc]
    exact hedge s 5 11
  · rw [hstart, State.fetchClause_parks hc ha]
  · rw [hstart, State.fetchClause_fails hc ha]
    exact hedge u 5 e
  rw [State.fetchClause_fetched hc ha] at hstart
  intro u h held
  have hheld : t.mayStart h = false ↔ held := t.mayStart_eq_false_iff h
  refine ⟨fun hbad => ?_, fun hok hbad => ?_, fun hok hframed => ?_⟩
  · rw [hstart, if_pos hbad]
    exact hedge u 5 12
  · rw [hstart, if_neg (ne_true_of_eq_false hok), if_pos hbad]
    exact hedge u 2 0
  rw [if_neg (ne_true_of_eq_false hok), if_neg (ne_true_of_eq_false hframed)] at hstart
  refine ⟨fun hh => ?_, fun hh hn => ?_, fun hh hn hthr => ?_⟩
  · rw [hstart, State.beginClause_held _ _ (hheld.2 hh)]
  · rw [hstart, State.beginClause_empty _ _ (eq_true_of_ne_false (mt hheld.1 hh)) hn]
  · exact ⟨_, hstart, State.beginClause_enters (eq_true_of_ne_false (mt hheld.1 hh)) hn hthr⟩

end Sys2Proof.Machine
end

section
/-! The encoder and the decoder agree (R20 to R26, R33, R86, R268): the forms of words, each once, then the instructions by their forms. -/

namespace Sys2Proof

open Sys2Proof.Says

/-! ### Checks and fields -/

@[simp] theorem zero_zero : zero 0 = .ok () := rfl
@[simp] theorem zeroMod_zero : zeroMod 0 = .ok () := rfl
@[simp] theorem need_true : need true = .ok () := rfl
@[simp] theorem needMod_true : needMod true = .ok () := rfl
theorem Dec.ok_bind {α β : Type} (x : α) (f : α → Dec β) : (Except.ok x >>= f) = f x := rfl

@[simp] theorem dPlain_val {k : Nat} [NeZero k] (n : Fin k) : dPlain k n.val = .ok n := by simp [dPlain, toFin_val]

/-- Whether a device word is the first of two depends on its set and opcode only (R31, R32). -/
theorem twoWord_congr {w w' : Nat} (hs : fSet w = fSet w') (ho : fOp w = fOp w') : twoWord w = twoWord w' := by
  simp only [twoWord, hs, ho]

theorem twoWord_devWord {s o w : Nat} (hs : s < 2) (ho : o < 128) (hws : fSet w = s) (hwo : fOp w = o) :
    twoWord w = twoWord (devWord s o 0 0 0) := by
  obtain ⟨hs', ho', -⟩ := devWord_fields (d := 0) (a := 0) (b := 0) hs ho (by decide) (by decide) (by decide)
  exact twoWord_congr (hws.trans hs'.symm) (hwo.trans ho'.symm)

/-- Whether a command word is the first of two depends on its opcode only (R269). -/
theorem twoWordCommand_cmdWord {o w : Nat} (ho : o < 64) (hwo : cOp w = o) : twoWordCommand w = twoWordCommand (cmdWord o 0 0 0 0) := by
  obtain ⟨ho', -⟩ := cmdWord_fields (d := 0) (a := 0) (b := 0) (x := 0) ho (by decide) (by decide) (by decide) (by decide)
  simp only [twoWordCommand, hwo, ho']

/-- The operand fields of a device word, together (R22). -/
theorem operands_zero {w : Nat} (hd : fD w = 0) (ha : fA w = 0) (hb : fB w = 0) : w % 2 ^ 24 = 0 := by
  simp only [fD, fA, fB, bits] at hd ha hb
  omega

theorem bitAt_true {m i : Nat} (h : m / 2 ^ i % 2 = 1) : bitAt m i = true := by simp [bitAt, h]
theorem bitAt_false {m i : Nat} (h : m / 2 ^ i % 2 = 0) : bitAt m i = false := by simp [bitAt, h]
/-- A flag read from its place in a modifier. -/
theorem bitAt_of {m i : Nat} {b : Bool} (h : m / 2 ^ i % 2 = boolNat b) : bitAt m i = b := by
  cases b with
  | false => exact bitAt_false h
  | true => exact bitAt_true h

/-- The rounding field of a form-S word, with the bits above the modifier 0 (R23). -/
theorem rmUpTo_of {w2 m : Nat} (lo : Nat) (r : Rm) (hm : fModS w2 = m) (hlo : m < 2 ^ lo) (hr : m % 8 = eRm r) : rmUpTo w2 lo = .ok r := by
  have h : bits w2 2 0 = eRm r := by rw [← hr, ← hm]; simp only [fModS, bits]; omega
  rw [rmUpTo, hm, Nat.div_eq_of_lt hlo, h, dRm_e]
  rfl

/-! ### Lane words -/

section Lane

variable {op : Nat} {i : Instr} {ws : List Word} (rest : List Word)

theorem decode_laneWord {d a b : Nat} (hw : one (devWord 0 op d a b) = some ws) (ho : op < 128) (ht : twoWord (devWord 0 op 0 0 0) = false)
    (hd : d < 256) (ha : a < 256) (hb : b < 256) (h : ∀ w, fOp w = op → fD w = d → fA w = a → fB w = b → decodeLane w 0 = .ok i) :
    decode (ws ++ rest) = .ok (i, rest) := by
  cases hw
  refine decode_devWord rest (by decide) ho hd ha hb (fun w hs hop => ht ▸ twoWord_devWord (by decide) ho hs hop)
    fun w hs hop hfd hfa hfb => ?_
  rw [decodeDevice, if_pos hs, h w hop hfd hfa hfb]

theorem decode_laneWords {d a b w2 : Nat} (hw : two (devWord 0 op d a b) w2 = some ws) (ho : op < 128)
    (ht : twoWord (devWord 0 op 0 0 0) = true) (hd : d < 256) (ha : a < 256) (hb : b < 256) (hw2 : w2 < 2 ^ 32)
    (h : ∀ w, fOp w = op → fD w = d → fA w = a → fB w = b → decodeLane w w2 = .ok i) : decode (ws ++ rest) = .ok (i, rest) := by
  cases hw
  refine decode_devWord_two rest (by decide) ho hd ha hb hw2 (fun w hs hop => ht ▸ twoWord_devWord (by decide) ho hs hop)
    fun w hs hop hfd hfa hfb => ?_
  rw [decodeDevice, if_pos hs, h w hop hfd hfa hfb]

theorem decode_eLane3 {f : LaneDst → LaneSrc → LaneSrc → Instr} {d : LaneDst} {a b : LaneSrc} (hw : eLane3 op d a b = some ws) (ho : op < 128)
    (ht : twoWord (devWord 0 op 0 0 0) = false) (h : ∀ w, fOp w = op → decodeLane w 0 = lane3 f w) :
    decode (ws ++ rest) = .ok (f d a b, rest) := by
  refine decode_laneWord rest hw ho ht (eLaneDst_lt d) (eLaneSrc_lt a) (eLaneSrc_lt b) fun w hop hfd hfa hfb => ?_
  simp [h w hop, lane3, hfd, hfa, hfb, Dec.ok_bind]

theorem decode_eLane2 {f : LaneDst → LaneSrc → Instr} {d : LaneDst} {a : LaneSrc} (hw : eLane2 op d a = some ws) (ho : op < 128)
    (ht : twoWord (devWord 0 op 0 0 0) = false) (h : ∀ w, fOp w = op → decodeLane w 0 = lane2 f w) :
    decode (ws ++ rest) = .ok (f d a, rest) := by
  refine decode_laneWord rest hw ho ht (eLaneDst_lt d) (eLaneSrc_lt a) (by decide) fun w hop hfd hfa hfb => ?_
  simp [h w hop, lane2, hfd, hfa, hfb, Dec.ok_bind]

/-- A form-S instruction: what is left to show is how its fields B, C and MOD are read. -/
theorem decode_eLaneS {b c m : Nat} {d : LaneDst} {a : LaneSrc} {x : Xl} (hw : eLaneS op d a x b c m = some ws) (hx : xlWf a x = true)
    (ho : op < 128) (ht : twoWord (devWord 0 op 0 0 0) = true) (hb : b < 256) (hc : c < 256) (hm : m < 32768)
    (h : ∀ w w2, fOp w = op → fB w = b → fC w2 = c → fModS w2 = m → (∀ f, laneS w w2 f = f d a x) → decodeLane w w2 = .ok i) :
    decode (ws ++ rest) = .ok (i, rest) := by
  obtain ⟨hab, hxl, hxln, hfc, hmod, hlt⟩ := sWord_fields (eXl_lt x) hc hm
  refine decode_laneWords rest hw ho ht (eLaneDst_lt d) (eLaneSrc_lt a) hb hlt fun w hop hfd hfa hfb => ?_
  refine h w _ hop hfb hfc hmod fun f => ?_
  simp [laneS, hab, hfd, hfa, dXl_e hxl hxln hx, Dec.ok_bind]

/-- A form-S instruction whose modifier is a rounding mode alone. -/
theorem decode_eLaneS_rm {b c : Nat} {r : Rm} {d : LaneDst} {a : LaneSrc} {x : Xl} (hw : eLaneS op d a x b c (eRm r) = some ws) (hx : xlWf a x = true)
    (ho : op < 128) (ht : twoWord (devWord 0 op 0 0 0) = true) (hb : b < 256) (hc : c < 256)
    (h : ∀ w w2, fOp w = op → fB w = b → fC w2 = c → rmUpTo w2 3 = .ok r → (∀ f, laneS w w2 f = f d a x) → decodeLane w w2 = .ok i) :
    decode (ws ++ rest) = .ok (i, rest) := by
  have hr := eRm_lt r
  exact decode_eLaneS rest hw hx ho ht hb hc (by omega) fun w w2 hop hfb hfc hm hS =>
    h w w2 hop hfb hfc (rmUpTo_of 3 r hm (by omega) (by omega)) hS

/-- A form-S instruction whose modifier is a packed format and a rounding mode. -/
theorem decode_eLaneS_fmt {b c : Nat} {f : PFmt} {r : Rm} {d : LaneDst} {a : LaneSrc} {x : Xl}
    (hw : eLaneS op d a x b c (eFmt f * 2 ^ 3 + eRm r) = some ws) (hx : xlWf a x = true)
    (ho : op < 128) (ht : twoWord (devWord 0 op 0 0 0) = true) (hb : b < 256) (hc : c < 256)
    (h : ∀ w w2, fOp w = op → fB w = b → fC w2 = c → bits (fModS w2) 3 3 = eFmt f → rmUpTo w2 4 = .ok r → (∀ f, laneS w w2 f = f d a x) →
      decodeLane w w2 = .ok i) : decode (ws ++ rest) = .ok (i, rest) := by
  have hf := eFmt_lt f
  have hr := eRm_lt r
  refine decode_eLaneS rest hw hx ho ht hb hc (by omega) fun w w2 hop hfb hfc hm hS =>
    h w w2 hop hfb hfc ?_ (rmUpTo_of 4 r hm (by omega) (by omega)) hS
  rw [hm, bits]; omega

/-- A form-M instruction of the memory family. -/
theorem decode_eLaneM {d a b m n : Nat} {ab : Ab} (hw : eLaneM op d a b ab m n = some ws) (ho : op < 128)
    (ht : twoWord (devWord 0 op 0 0 0) = true) (hd : d < 256) (ha : a < 256) (hb : b < 256) (hm : m < 512) (hn : n < 4194304)
    (h : ∀ w w2, fOp w = op → fD w = d → fA w = a → fB w = b → dAb w2 = ab → fAB w2 = eAb ab → fModM w2 = m → fOfs w2 = n →
      decodeLane w w2 = .ok i) : decode (ws ++ rest) = .ok (i, rest) := by
  obtain ⟨hab, hmod, hofs, hlt⟩ := mWord_fields (eAb_lt ab) hm hn
  exact decode_laneWords rest hw ho ht hd ha hb hlt fun w hop hfd hfa hfb => h w _ hop hfd hfa hfb (dAb_e hab) hab hmod hofs

end Lane
/-! ### Lane compute (04) -/

section LaneCompute

variable {ws : List Word} (rest : List Word)

theorem decode_imad {t d a x b c} (h : encode (.imad t d a x b c) = some ws) (hx : xlWf a x = true) :
    decode (ws ++ rest) = .ok (.imad t d a x b c, rest) := by
  have ht := eSat_lt t
  refine decode_eLaneS rest h hx (by decide) rfl (eLaneSrc_lt b) (eLaneSrc_lt c) (by omega) fun w w2 ho hb hc hm hS => ?_
  simp only [decodeLane, ho, hS, hm, hb, hc]
  cases t <;> simp [eSat, bits, Dec.ok_bind]

theorem decode_icmp {cc u d a x b} (h : encode (.icmp cc u d a x b) = some ws) (hx : xlWf a x = true) :
    decode (ws ++ rest) = .ok (.icmp cc u d a x b, rest) := by
  have hcc := eICond_lt cc
  have hu := boolNat_lt u
  refine decode_eLaneS rest h hx (by decide) rfl (eLaneSrc_lt b) (by decide) (by omega) fun w w2 ho hb hc hm hS => ?_
  have hz : fModS w2 / 16 = 0 := by omega
  have hbit : bitAt (fModS w2) 3 = u := bitAt_of (by omega)
  have hcond : bits (fModS w2) 2 0 = eICond cc := by rw [hm, bits]; omega
  simp only [decodeLane, ho, hS]
  simp [noC, hb, hc, hz, hbit, hcond, Dec.ok_bind]

theorem decode_fcmp {cc d a x b} (h : encode (.fcmp cc d a x b) = some ws) (hx : xlWf a x = true) :
    decode (ws ++ rest) = .ok (.fcmp cc d a x b, rest) := by
  have hcc := eFCond_lt cc
  refine decode_eLaneS rest h hx (by decide) rfl (eLaneSrc_lt b) (by decide) (by omega) fun w w2 ho hb hc hm hS => ?_
  have hz : fModS w2 / 8 = 0 := by omega
  have hcond : bits (fModS w2) 2 0 = eFCond cc := by rw [hm, bits]; omega
  simp only [decodeLane, ho, hS]
  simp [noC, hb, hc, hz, hcond, Dec.ok_bind]

theorem decode_bfe {s d a x b} (h : encode (.bfe s d a x b) = some ws) (hx : xlWf a x = true) :
    decode (ws ++ rest) = .ok (.bfe s d a x b, rest) := by
  have hs := boolNat_lt s
  refine decode_eLaneS rest h hx (by decide) rfl (eLaneSrc_lt b) (by decide) (by omega) fun w w2 ho hb hc hm hS => ?_
  have hz : fModS w2 / 2 = 0 := by omega
  have hbit : bitAt (fModS w2) 0 = s := bitAt_of (by omega)
  simp only [decodeLane, ho, hS]
  simp [noC, hb, hc, hz, hbit, Dec.ok_bind]

theorem decode_ftrn {f r d a x} (h : encode (.ftrn f r d a x) = some ws) (hx : xlWf a x = true) :
    decode (ws ++ rest) = .ok (.ftrn f r d a x, rest) := by
  have hf := eTrn_lt f
  have hr := eRm_lt r
  refine decode_eLaneS rest h hx (by decide) rfl (by decide) (by decide) (by omega) fun w w2 ho hb hc hm hS => ?_
  have hfn : bits (fModS w2) 4 3 = eTrn f := by rw [hm, bits]; omega
  simp only [decodeLane, ho, hS]
  simp [noB, noC, hb, hc, hfn, rmUpTo_of 5 r hm (by omega) (by omega), Dec.ok_bind]

theorem decode_cvt {dt st r d a x} (h : encode (.cvt dt st r d a x) = some ws) (hx : xlWf a x = true) :
    decode (ws ++ rest) = .ok (.cvt dt st r d a x, rest) := by
  have hdt := eNumType_lt dt
  have hst := eNumType_lt st
  have hr := eRm_lt r
  refine decode_eLaneS rest h hx (by decide) rfl (by decide) (by decide) (by omega) fun w w2 ho hb hc hm hS => ?_
  have hd' : bits (fModS w2) 10 7 = eNumType dt := by rw [hm, bits]; omega
  have hs' : bits (fModS w2) 6 3 = eNumType st := by rw [hm, bits]; omega
  simp only [decodeLane, ho, hS]
  simp [noB, noC, hb, hc, hd', hs', rmUpTo_of 11 r hm (by omega) (by omega), Dec.ok_bind]

theorem decode_pcvt2 {f d a x} (h : encode (.pcvt2 f d a x) = some ws) (hx : xlWf a x = true) :
    decode (ws ++ rest) = .ok (.pcvt2 f d a x, rest) := by
  cases f with
  | pack f r b =>
    have hf := eFmt_lt f
    have hr := eRm_lt r
    refine decode_eLaneS rest h hx (by decide) rfl (eLaneSrc_lt b) (by decide) (by omega) fun w w2 ho hb hc hm hS => ?_
    have hz : bits (fModS w2) 6 5 = 0 ∧ bits (fModS w2) 7 7 = 0 ∧ bits (fModS w2) 3 3 = eFmt f := by rw [hm]; simp only [bits]; omega
    have hbit : bitAt (fModS w2) 4 = false := bitAt_false (by omega)
    simp only [decodeLane, ho, hS]
    simp [noC, hb, hc, hz, hbit, rmUpTo_of 8 r hm (by omega) (by omega), Dec.ok_bind]
  | unpack f hi =>
    have hf := eFmt_lt f
    have hh := boolNat_lt hi
    refine decode_eLaneS rest h hx (by decide) rfl (by decide) (by decide) (by omega) fun w w2 ho hb hc hm hS => ?_
    have hz : bits (fModS w2) 6 5 = 0 ∧ bits (fModS w2) 2 0 = 0 ∧ bits (fModS w2) 3 3 = eFmt f := by rw [hm]; simp only [bits]; omega
    have hbit : bitAt (fModS w2) 4 = true := bitAt_true (by omega)
    have hhi : bitAt (fModS w2) 7 = hi := bitAt_of (by omega)
    simp only [decodeLane, ho, hS]
    simp [noB, noC, hb, hc, hz, hbit, hhi, rmUpTo_of 8 .nearest hm (by omega) (by simp only [eRm]; omega), Dec.ok_bind]

theorem decode_pcvt4 {f d a x c} (h : encode (.pcvt4 f d a x c) = some ws) (hx : xlWf a x = true) :
    decode (ws ++ rest) = .ok (.pcvt4 f d a x c, rest) := by
  cases f with
  | pack t f r b =>
    have ht := eT8_lt t
    have hf := eFmt_lt f
    have hr := eRm_lt r
    refine decode_eLaneS rest h hx (by decide) rfl (eLaneSrc_lt b) (eLaneSrc_lt c) (by omega) fun w w2 ho hb hc hm hS => ?_
    have hz : bits (fModS w2) 6 5 = eT8 t ∧ bits (fModS w2) 7 7 = 0 ∧ bits (fModS w2) 3 3 = eFmt f := by
      rw [hm]; simp only [bits]; omega
    have hbit : bitAt (fModS w2) 4 = false := bitAt_false (by omega)
    simp only [decodeLane, ho, hS]
    simp [hb, hc, hz, hbit, rmUpTo_of 8 r hm (by omega) (by omega), Dec.ok_bind]
  | unpack t f hi r =>
    have ht := eT8_lt t
    have hf := eFmt_lt f
    have hh := boolNat_lt hi
    have hr := eRm_lt r
    refine decode_eLaneS rest h hx (by decide) rfl (by decide) (eLaneSrc_lt c) (by omega) fun w w2 ho hb hc hm hS => ?_
    have hz : bits (fModS w2) 6 5 = eT8 t ∧ bits (fModS w2) 3 3 = eFmt f := by rw [hm]; simp only [bits]; omega
    have hbit : bitAt (fModS w2) 4 = true := bitAt_true (by omega)
    have hhi : bitAt (fModS w2) 7 = hi := bitAt_of (by omega)
    simp only [decodeLane, ho, hS]
    simp [noB, hb, hc, hz, hbit, hhi, rmUpTo_of 8 r hm (by omega) (by omega), Dec.ok_bind]

theorem decode_pcvt8 {f d c} (h : encode (.pcvt8 f d c) = some ws) (hw : (Instr.pcvt8 f d c).wf = true) :
    decode (ws ++ rest) = .ok (.pcvt8 f d c, rest) := by
  cases f with
  | pack f r n =>
    have hf := eFmt_lt f
    have hr := eRm_lt r
    have hn := n.2
    obtain ⟨hab, hxl, hxln, hfc, hm, hlt⟩ := sWord_fields (x := 0) (m := eFmt f * 2 ^ 3 + eRm r) (by decide) (eLaneSrc_lt c) (by omega)
    refine decode_laneWords rest h (by decide) rfl (eLaneDst_lt d) (by omega) (by decide) hlt fun w ho hfd hfa hfb => ?_
    generalize sWord 0 (eLaneSrc c) (eFmt f * 2 ^ 3 + eRm r) = w2 at hab hxl hxln hfc hm ⊢
    have hX : dXl w2 (dLaneSrc (fA w)) = .ok .none := dXl_e hxl hxln rfl
    have hz : bits (fModS w2) 6 5 = 0 ∧ bits (fModS w2) 8 7 = 0 ∧ bits (fModS w2) 3 3 = eFmt f := by rw [hm]; simp only [bits]; omega
    have hbit : bitAt (fModS w2) 4 = false := bitAt_false (by omega)
    simp only [decodeLane, ho, laneS, hX]
    simp [noB, hab, hfd, hfa, hfb, hfc, hz, hbit, rmUpTo_of 9 r hm (by omega) (by omega), Dec.ok_bind]
  | unpack f q r a x =>
    have hf := eFmt_lt f
    have hr := eRm_lt r
    have hq := q.2
    refine decode_eLaneS rest h hw (by decide) rfl (by decide) (eLaneSrc_lt c) (by omega) fun w w2 ho hb hc hm hS => ?_
    have hz : bits (fModS w2) 6 5 = 0 ∧ bits (fModS w2) 8 7 = q.val ∧ bits (fModS w2) 3 3 = eFmt f := by rw [hm]; simp only [bits]; omega
    have hbit : bitAt (fModS w2) 4 = true := bitAt_true (by omega)
    simp only [decodeLane, ho, hS]
    simp [noB, hb, hc, hz, hbit, toFin_val, rmUpTo_of 9 r hm (by omega) (by omega), Dec.ok_bind]

theorem decode_xred {op r d a} (h : encode (.xred op r d a) = some ws) (hw : xopRmOk op r = true) :
    decode (ws ++ rest) = .ok (.xred op r d a, rest) := by
  have hop := eXOp_lt op
  have hr := eRm_lt r
  refine decode_eLaneS rest h rfl (by decide) rfl (by decide) (by decide) (by omega) fun w w2 ho hb hc hm hS => ?_
  have hx : bits (fModS w2) 6 3 = eXOp op := by rw [hm, bits]; omega
  simp only [decodeLane, ho, hS]
  simp [noB, noC, hb, hc, hx, hw, rmUpTo_of 7 r hm (by omega) (by omega), Dec.ok_bind]

theorem decode_xscn {op r e d a} (h : encode (.xscn op r e d a) = some ws) (hw : xopRmOk op r = true) :
    decode (ws ++ rest) = .ok (.xscn op r e d a, rest) := by
  have hop := eXOp_lt op
  have hr := eRm_lt r
  have he := boolNat_lt e
  refine decode_eLaneS rest h rfl (by decide) rfl (by decide) (by decide) (by omega) fun w w2 ho hb hc hm hS => ?_
  have hx : bits (fModS w2) 6 3 = eXOp op := by rw [hm, bits]; omega
  have hbit : bitAt (fModS w2) 7 = e := bitAt_of (by omega)
  simp only [decodeLane, ho, hS]
  simp [noB, noC, hb, hc, hx, hw, hbit, rmUpTo_of 8 r hm (by omega) (by omega), Dec.ok_bind]

end LaneCompute

/-! ### Lane memory and control (05) -/

section LaneMemory

variable {ws : List Word} (rest : List Word)

theorem decode_ld {z o ab d a f} (h : encode (.ld z o ab d a f) = some ws) (hw : (Instr.ld z o ab d a f).wf = true) :
    decode (ws ++ rest) = .ok (.ld z o ab d a f, rest) := by
  obtain ⟨hload, hrun⟩ := Bool.and_eq_true_iff.1 (show (o.loadOk && d.wfRun z) = true from hw)
  have hz := eSz_lt z
  have ho := eOrd_lt o
  refine decode_eLaneM rest h (by decide) rfl (eLaneDst_lt d) (eLaneSrc_lt a) (by decide) (by omega) f.isLt
    fun w w2 hop hd ha hb hab _ hm hn => ?_
  have hf : bits (fModM w2) 1 0 = 0 ∧ bits (fModM w2) 8 6 = eSz z ∧ bits (fModM w2) 5 2 = eOrd o := by rw [hm]; simp only [bits]; omega
  simp only [decodeLane, hop, decodeLaneMem]
  simp [noB, hd, ha, hb, hab, hn, hf, hload, hrun, Dec.ok_bind]

theorem decode_ldro {z ab d a f} (h : encode (.ldro z ab d a f) = some ws) (hrun : d.wfRun z = true) :
    decode (ws ++ rest) = .ok (.ldro z ab d a f, rest) := by
  have hz := eSz_lt z
  refine decode_eLaneM rest h (by decide) rfl (eLaneDst_lt d) (eLaneSrc_lt a) (by decide) (by omega) f.isLt
    fun w w2 hop hd ha hb hab _ hm hn => ?_
  have hf : bits (fModM w2) 5 0 = 0 ∧ bits (fModM w2) 8 6 = eSz z := by rw [hm]; simp only [bits]; omega
  simp only [decodeLane, hop, decodeLaneMem]
  simp [noB, hd, ha, hb, hab, hn, hf, hrun, Dec.ok_bind]

theorem decode_st {g z o ab a f b} (h : encode (.st g z o ab a f b) = some ws) (hw : (Instr.st g z o ab a f b).wf = true) :
    decode (ws ++ rest) = .ok (.st g z o ab a f b, rest) := by
  obtain ⟨hkind, hrun⟩ := Bool.and_eq_true_iff.1 (show (z.storeOk && o.storeOk && b.wfRun z) = true from hw)
  obtain ⟨hstore, hord⟩ := Bool.and_eq_true_iff.1 hkind
  have hg := eGrade_lt g
  have hz := eSz_lt z
  have ho := eOrd_lt o
  refine decode_eLaneM rest h (by decide) rfl (by omega) (eLaneSrc_lt a) (eLaneSrc_lt b) (by omega) f.isLt
    fun w w2 hop hd ha hb hab _ hm hn => ?_
  have hf : bits (fModM w2) 1 0 = 0 ∧ bits (fModM w2) 8 6 = eSz z ∧ bits (fModM w2) 5 2 = eOrd o := by rw [hm]; simp only [bits]; omega
  simp only [decodeLane, hop, decodeLaneMem]
  simp [hd, hg, ha, hb, hab, hn, hf, hstore, hord, hrun, Dec.ok_bind]

theorem decode_atom {op w o ab d a f b} (h : encode (.atom op w o ab d a f b) = some ws) (hw : atomWf op w b = true) :
    decode (ws ++ rest) = .ok (.atom op w o ab d a f b, rest) := by
  have hop := eAtomOp_lt op
  have hbw := boolNat_lt w
  have ho := eOrd_lt o
  refine decode_eLaneM rest h (by decide) rfl (eLaneDst_lt d) (eLaneSrc_lt a) (eLaneSrc_lt b) (by omega) f.isLt
    fun v w2 hvo hd ha hb hab _ hm hn => ?_
  have hf : bits (fModM w2) 8 5 = eAtomOp op ∧ bits (fModM w2) 3 0 = eOrd o := by rw [hm]; simp only [bits]; omega
  have hbit : bitAt (fModM w2) 4 = w := bitAt_of (by omega)
  simp only [decodeLane, hvo, decodeLaneMem]
  simp [hd, ha, hb, hab, hn, hf, hbit, hw, Dec.ok_bind]

theorem decode_atomcas {w o ab d a f b} (h : encode (.atomcas w o ab d a f b) = some ws) (hw : atomWf .exch w b = true) :
    decode (ws ++ rest) = .ok (.atomcas w o ab d a f b, rest) := by
  have hbw := boolNat_lt w
  have ho := eOrd_lt o
  refine decode_eLaneM rest h (by decide) rfl (eLaneDst_lt d) (eLaneSrc_lt a) (eLaneSrc_lt b) (by omega) f.isLt
    fun v w2 hvo hd ha hb hab _ hm hn => ?_
  have hf : bits (fModM w2) 8 5 = 0 ∧ bits (fModM w2) 3 0 = eOrd o := by rw [hm]; simp only [bits]; omega
  have hbit : bitAt (fModM w2) 4 = w := bitAt_of (by omega)
  simp only [decodeLane, hvo, decodeLaneMem]
  simp [hd, ha, hb, hab, hn, hf, hbit, hw, Dec.ok_bind]

theorem decode_red {op w o ab a f b} (h : encode (.red op w o ab a f b) = some ws) (hw : (Instr.red op w o ab a f b).wf = true) :
    decode (ws ++ rest) = .ok (.red op w o ab a f b, rest) := by
  obtain ⟨hord, hatom⟩ := Bool.and_eq_true_iff.1 (show (o.storeOk && atomWf op w b) = true from hw)
  have hop := eAtomOp_lt op
  have hbw := boolNat_lt w
  have ho := eOrd_lt o
  refine decode_eLaneM rest h (by decide) rfl (by decide) (eLaneSrc_lt a) (eLaneSrc_lt b) (by omega) f.isLt
    fun v w2 hvo hd ha hb hab _ hm hn => ?_
  have hf : bits (fModM w2) 8 5 = eAtomOp op ∧ bits (fModM w2) 3 0 = eOrd o := by rw [hm]; simp only [bits]; omega
  have hbit : bitAt (fModM w2) 4 = w := bitAt_of (by omega)
  simp only [decodeLane, hvo, decodeLaneMem]
  simp [hd, ha, hb, hab, hn, hf, hbit, hord, hatom, Dec.ok_bind]

theorem decode_fence {k s ab d} (h : encode (.fence k s ab d) = some ws) : decode (ws ++ rest) = .ok (.fence k s ab d, rest) := by
  have hk := eKind_lt k
  have hs := eScope_lt s
  refine decode_eLaneM rest h (by decide) rfl (eLaneDst_lt d) (by decide) (by decide) (by omega) (by decide)
    fun w w2 hop hd ha hb hab _ hm hn => ?_
  have hf : bits (fModM w2) 3 0 = 0 ∧ bits (fModM w2) 8 7 = eKind k ∧ bits (fModM w2) 6 4 = eScope s := by rw [hm]; simp only [bits]; omega
  simp only [decodeLane, hop, decodeLaneMem]
  simp [noB, hd, ha, hb, hab, hn, hf, Dec.ok_bind]

theorem decode_gconf {g ab d a f} (h : encode (.gconf g ab d a f) = some ws) (hw : (g != .none) = true) :
    decode (ws ++ rest) = .ok (.gconf g ab d a f, rest) := by
  have hg := eGrade_lt g
  have hne : (eGrade g != 0) = true := by cases g <;> simp_all [eGrade]
  refine decode_eLaneM rest h (by decide) rfl (eLaneDst_lt d) (eLaneSrc_lt a) (by decide) (by omega) f.isLt
    fun w w2 hop hd ha hb hab _ hm hn => ?_
  have hf : bits (fModM w2) 6 0 = 0 ∧ bits (fModM w2) 8 7 = eGrade g := by rw [hm]; simp only [bits]; omega
  simp only [decodeLane, hop, decodeLaneMem]
  simp only [noB, hd, ha, hb, hab, hn, hf, hne]
  simp [Dec.ok_bind]

/-- The hasp's number in bits [8:4] of MOD, and what stands below it. -/
theorem haspMod_fields {n : Fin 32} {m r : Nat} (hm : m = n.val * 2 ^ 4 + r) (hr : r < 16) :
    bits m 8 4 = n.val ∧ bits m 3 0 = r ∧ bits m 3 1 = r / 2 := by
  have hn := n.2
  simp only [bits]
  omega

theorem decode_harr {q d n} (h : encode (.harr q d n) = some ws) : decode (ws ++ rest) = .ok (.harr q d n, rest) := by
  have hlt := n.2
  cases q with
  | none =>
    refine decode_eLaneM rest h (by decide) rfl (eLaneDst_lt d) (by decide) (by decide) (by omega) (by decide)
      fun w w2 hop hd ha hb _ hab hm hn => ?_
    have hbit : bitAt (fModM w2) 0 = false := bitAt_false (by omega)
    obtain ⟨h8, -, h3⟩ := haspMod_fields (n := n) (m := fModM w2) (r := 0) (by omega) (by decide)
    simp only [decodeLane, hop, decodeLaneMem]
    simp only [noB, hd, ha, hb, hab, hn, hbit]
    simp [h8, h3, eAb, toFin_val, Dec.ok_bind]
  | some b =>
    refine decode_eLaneM rest h (by decide) rfl (eLaneDst_lt d) (by decide) (eLaneSrc_lt b) (by omega) (by decide)
      fun w w2 hop hd ha hb _ hab hm hn => ?_
    have hbit : bitAt (fModM w2) 0 = true := bitAt_true (by omega)
    obtain ⟨h8, -, h3⟩ := haspMod_fields (n := n) (m := fModM w2) (r := 1) (by omega) (by decide)
    simp only [decodeLane, hop, decodeLaneMem]
    simp only [hd, ha, hb, hab, hn, hbit]
    simp [h8, h3, eAb, toFin_val, Dec.ok_bind]

end LaneMemory

/-- The instructions of control (R107 to R110). -/
def isLaneControl : Instr → Bool
  | .bra .. | .brz .. | .brnz .. | .jmpi .. | .call .. | .calli .. | .ret .. | .exit .. | .nop .. | .brk .. | .trap .. => true
  | _ => false

theorem decode_encode_laneControl {i : Instr} (hl : isLaneControl i = true) {ws : List Word} (rest : List Word) (h : encode i = some ws) :
    decode (ws ++ rest) = .ok (i, rest) := by
  cases i with
  | bra imm | call imm =>
    refine decode_laneWords rest h (by decide) rfl (by decide) (by decide) (by decide) imm.isLt fun w ho hd ha hb => ?_
    simp only [decodeLane, ho]
    simp [noB, hd, ha, hb, Dec.ok_bind]
  | brz a imm | brnz a imm =>
    refine decode_laneWords rest h (by decide) rfl (by decide) (eLaneSrc_lt a) (by decide) imm.isLt fun w ho hd ha hb => ?_
    simp only [decodeLane, ho]
    simp [noB, hd, ha, hb, Dec.ok_bind]
  | jmpi a | calli a =>
    refine decode_laneWord rest h (by decide) rfl (by decide) (eLaneSrc_lt a) (by decide) fun w ho hd ha hb => ?_
    simp only [decodeLane, ho]
    simp [noB, hd, ha, hb, Dec.ok_bind]
  | ret | exit | nop | brk =>
    refine decode_laneWord rest h (by decide) rfl (by decide) (by decide) (by decide) fun w ho hd ha hb => ?_
    simp only [decodeLane, ho, operands_zero hd ha hb]
    rfl
  | trap n =>
    refine decode_laneWord rest h (by decide) rfl (by decide) (by decide) n.isLt fun w ho hd ha hb => ?_
    simp only [decodeLane, ho]
    simp [hd, ha, hb, Dec.ok_bind]
  | _ => exact nomatch hl

/-- The memory instructions of lanes, with CONT and ENQ (R85 to R104, R111, R112). -/
def isLaneMemory : Instr → Bool
  | .ld .. | .ldro .. | .st .. | .atom .. | .atomcas .. | .red .. | .cpa .. | .fence .. | .grd .. | .gconf .. | .harr .. | .hwait ..
  | .hwaits .. | .htest .. | .hmon .. | .cont .. | .enq .. => true
  | _ => false

theorem decode_encode_laneMemory {i : Instr} (hl : isLaneMemory i = true) {ws : List Word} (rest : List Word) (h : encode i = some ws)
    (hw : i.wf = true) : decode (ws ++ rest) = .ok (i, rest) := by
  cases i with
  | ld => exact decode_ld rest h hw
  | ldro => exact decode_ldro rest h hw
  | st => exact decode_st rest h hw
  | atom => exact decode_atom rest h hw
  | atomcas => exact decode_atomcas rest h hw
  | red => exact decode_red rest h hw
  | cpa ab d a f b =>
    have hd := d.2
    refine decode_eLaneM rest h (by decide) rfl (by omega) (eLaneSrc_lt a) (eLaneSrc_lt b) (by decide) f.isLt
      fun w w2 hop hd ha hb hab _ hm hn => ?_
    simp only [decodeLane, hop, decodeLaneMem]
    simp [hd, ha, hb, hab, hm, hn, Dec.ok_bind]
  | fence => exact decode_fence rest h
  | grd ab d a f =>
    refine decode_eLaneM rest h (by decide) rfl (eLaneDst_lt d) (eLaneSrc_lt a) (by decide) (by decide) f.isLt
      fun w w2 hop hd ha hb hab _ hm hn => ?_
    simp only [decodeLane, hop, decodeLaneMem]
    simp [noB, hd, ha, hb, hab, hm, hn, Dec.ok_bind]
  | gconf => exact decode_gconf rest h hw
  | harr => exact decode_harr rest h
  | hwait d n b | hwaits d n b | htest d n b =>
    have hlt := n.2
    refine decode_eLaneM rest h (by decide) rfl (eLaneDst_lt d) (by decide) (eLaneSrc_lt b) (by omega) (by decide)
      fun w w2 hop hd ha hb _ hab hm hn => ?_
    obtain ⟨h8, h3, -⟩ := haspMod_fields (n := n) (m := fModM w2) (r := 0) (by omega) (by decide)
    simp only [decodeLane, hop, decodeLaneMem]
    simp only [hd, ha, hb, hab, hn]
    simp [h8, h3, eAb, toFin_val, Dec.ok_bind]
  | hmon d n a f =>
    have hlt := n.2
    refine decode_eLaneM rest h (by decide) rfl (eLaneDst_lt d) (eLaneSrc_lt a) (by decide) (by omega) f.isLt
      fun w w2 hop hd ha hb _ hab hm hn => ?_
    obtain ⟨h8, h3, -⟩ := haspMod_fields (n := n) (m := fModM w2) (r := 0) (by omega) (by decide)
    simp only [decodeLane, hop, decodeLaneMem]
    simp only [noB, hd, ha, hb, hab, hn]
    simp [h8, h3, eAb, toFin_val, Dec.ok_bind]
  | cont ab d n =>
    have hlt := n.2
    refine decode_eLaneM rest h (by decide) rfl (eLaneDst_lt d) (by omega) (by decide) (by decide) (by decide)
      fun w w2 hop hd ha hb hab _ hm hn => ?_
    simp only [decodeLane, hop, decodeLaneMem]
    simp [noB, hd, ha, hb, hab, hm, hn, Dec.ok_bind]
  | enq ab d a b =>
    have hlt := b.2
    refine decode_eLaneM rest h (by decide) rfl (eLaneDst_lt d) (eLaneSrc_lt a) (by omega) (by decide) (by decide)
      fun w w2 hop hd ha hb hab _ hm hn => ?_
    simp only [decodeLane, hop, decodeLaneMem]
    simp [hd, ha, hb, hab, hm, hn, Dec.ok_bind]
  | _ => exact nomatch hl

/-- The lane instructions decode from their words (R31). -/
theorem decode_encode_lane {i : Instr} (hl : isLane i = true) {ws : List Word} (rest : List Word) (h : encode i = some ws)
    (hw : i.wf = true) : decode (ws ++ rest) = .ok (i, rest) := by
  cases i with
  | iadd | isub | imul | imulh | imulhu | imin | imax | iminu | imaxu | and | or | xor | andn | shl | shr | sar | fmin | fmax =>
    exact decode_eLane3 rest h (by decide) rfl fun w ho => by simp only [decodeLane, ho]
  | popc | clz | fabs | fneg | fclass =>
    exact decode_eLane2 rest h (by decide) rfl fun w ho => by simp only [decodeLane, ho]
  | imad => exact decode_imad rest h hw
  | bfe => exact decode_bfe rest h hw
  | icmp => exact decode_icmp rest h hw
  | fcmp => exact decode_fcmp rest h hw
  | bfi d a x b c | sel d a x b c =>
    refine decode_eLaneS rest h hw (by decide) rfl (eLaneSrc_lt b) (eLaneSrc_lt c) (by decide) fun w w2 ho hb hc hm hS => ?_
    simp only [decodeLane, ho, hS]
    simp [hb, hc, hm, Dec.ok_bind]
  | mov =>
    refine decode_eLaneS rest h hw (by decide) rfl (by decide) (by decide) (by decide) fun w w2 ho hb hc hm hS => ?_
    simp only [decodeLane, ho, hS]
    simp [noB, noC, hb, hc, hm, Dec.ok_bind]
  | fadd r d a x b | fsub r d a x b | fmul r d a x b =>
    refine decode_eLaneS_rm rest h hw (by decide) rfl (eLaneSrc_lt b) (by decide) fun w w2 ho hb hc hr hS => ?_
    simp only [decodeLane, ho, hS]
    simp [noC, hb, hc, hr, Dec.ok_bind]
  | ffma r d a x b c =>
    refine decode_eLaneS_rm rest h hw (by decide) rfl (eLaneSrc_lt b) (eLaneSrc_lt c) fun w w2 ho hb hc hr hS => ?_
    simp only [decodeLane, ho, hS]
    simp [hb, hc, hr, Dec.ok_bind]
  | frcp | frsq | fsqrt | frnd =>
    refine decode_eLaneS_rm rest h hw (by decide) rfl (by decide) (by decide) fun w w2 ho hb hc hr hS => ?_
    simp only [decodeLane, ho, hS]
    simp [noB, noC, hb, hc, hr, Dec.ok_bind]
  | ftrn => exact decode_ftrn rest h hw
  | padd f r d a x b | pmul f r d a x b =>
    refine decode_eLaneS_fmt rest h hw (by decide) rfl (eLaneSrc_lt b) (by decide) fun w w2 ho hb hc hf hr hS => ?_
    simp only [decodeLane, ho, hS]
    simp [noC, hb, hc, hf, hr, Dec.ok_bind]
  | pfma f r d a x b c | pdot f r d a x b c =>
    refine decode_eLaneS_fmt rest h hw (by decide) rfl (eLaneSrc_lt b) (eLaneSrc_lt c) fun w w2 ho hb hc hf hr hS => ?_
    simp only [decodeLane, ho, hS]
    simp [hb, hc, hf, hr, Dec.ok_bind]
  | pmin f d a x b | pmax f d a x b =>
    have hf := eFmt_lt f
    refine decode_eLaneS rest h hw (by decide) rfl (eLaneSrc_lt b) (by decide) (by omega) fun w w2 ho hb hc hm hS => ?_
    have hz : fModS w2 / 16 = 0 ∧ bits (fModS w2) 2 0 = 0 ∧ bits (fModS w2) 3 3 = eFmt f := by rw [hm]; simp only [bits]; omega
    simp only [decodeLane, ho, hS]
    simp [noC, hb, hc, hz, Dec.ok_bind]
  | cvt => exact decode_cvt rest h hw
  | pcvt2 => exact decode_pcvt2 rest h hw
  | pcvt4 => exact decode_pcvt4 rest h hw
  | pcvt8 => exact decode_pcvt8 rest h hw
  | movi d imm =>
    refine decode_laneWords rest h (by decide) rfl (eLaneDst_lt d) (by decide) (by decide) imm.isLt fun w ho hd ha hb => ?_
    simp only [decodeLane, ho]
    simp [noB, hd, ha, hb, Dec.ok_bind]
  | rdsp d n =>
    have hn := n.2
    refine decode_laneWord rest h (by decide) rfl (eLaneDst_lt d) (by omega) (by decide) fun w ho hd ha hb => ?_
    simp only [decodeLane, ho]
    simp [hd, ha, hb, Dec.ok_bind]
  | rdspClr d =>
    refine decode_laneWord rest h (by decide) rfl (eLaneDst_lt d) (by decide) (by decide) fun w ho hd ha hb => ?_
    simp only [decodeLane, ho]
    simp [hd, ha, hb, Dec.ok_bind]
  | xshf d a b =>
    refine decode_eLaneS rest h rfl (by decide) rfl (eLaneSrc_lt b) (by decide) (by decide) fun w w2 ho hb hc hm hS => ?_
    simp only [decodeLane, ho, hS]
    simp [noC, hb, hc, hm, Dec.ok_bind]
  | xbal =>
    refine decode_eLaneS rest h rfl (by decide) rfl (by decide) (by decide) (by decide) fun w w2 ho hb hc hm hS => ?_
    simp only [decodeLane, ho, hS]
    simp [noB, noC, hb, hc, hm, Dec.ok_bind]
  | xred => exact decode_xred rest h hw
  | xscn => exact decode_xscn rest h hw
  | ld | ldro | st | atom | atomcas | red | cpa | fence | grd | gconf | harr | hwait | hwaits | htest | hmon | cont | enq =>
    exact decode_encode_laneMemory rfl rest h hw
  | bra | brz | brnz | jmpi | call | calli | ret | exit | nop | brk | trap => exact decode_encode_laneControl rfl rest h
  | _ => exact nomatch hl

/-! ### Uniform words -/

section Uniform

variable {op : Nat} {i : Instr} {ws : List Word} (rest : List Word)

theorem decode_uniWord {d a b : Nat} (hw : one (devWord 1 op d a b) = some ws) (ho : op < 128) (ht : twoWord (devWord 1 op 0 0 0) = false)
    (hd : d < 256) (ha : a < 256) (hb : b < 256) (h : ∀ w, fOp w = op → fD w = d → fA w = a → fB w = b → decodeUniform w 0 = .ok i) :
    decode (ws ++ rest) = .ok (i, rest) := by
  cases hw
  refine decode_devWord rest (by decide) ho hd ha hb (fun w hs hop => ht ▸ twoWord_devWord (by decide) ho hs hop)
    fun w hs hop hfd hfa hfb => ?_
  rw [decodeDevice, if_neg (by omega), h w hop hfd hfa hfb]

theorem decode_uniWords {d a b w2 : Nat} (hw : two (devWord 1 op d a b) w2 = some ws) (ho : op < 128)
    (ht : twoWord (devWord 1 op 0 0 0) = true) (hd : d < 256) (ha : a < 256) (hb : b < 256) (hw2 : w2 < 2 ^ 32)
    (h : ∀ w, fOp w = op → fD w = d → fA w = a → fB w = b → decodeUniform w w2 = .ok i) : decode (ws ++ rest) = .ok (i, rest) := by
  cases hw
  refine decode_devWord_two rest (by decide) ho hd ha hb hw2 (fun w hs hop => ht ▸ twoWord_devWord (by decide) ho hs hop)
    fun w hs hop hfd hfa hfb => ?_
  rw [decodeDevice, if_neg (by omega), h w hop hfd hfa hfb]

theorem decode_eUni3 {f : UniDst → UniSrc → UniSrc → Instr} {d : UniDst} {a b : UniSrc} (hw : eUni3 op d a b = some ws)
    (hwf : (a.wf && b.wf) = true) (ho : op < 128) (ht : twoWord (devWord 1 op 0 0 0) = false)
    (h : ∀ w, fOp w = op → decodeUniform w 0 = uni3 f w) : decode (ws ++ rest) = .ok (f d a b, rest) := by
  obtain ⟨hwa, hwb⟩ := Bool.and_eq_true_iff.1 hwf
  refine decode_uniWord rest hw ho ht (eUniDst_lt d) (eUniSrc_lt a) (eUniSrc_lt b) fun w hop hfd hfa hfb => ?_
  simp [h w hop, uni3, hfd, hfa, hfb, hwa, hwb, Dec.ok_bind]

/-- A form-S word of a uniform instruction: what is left to show is how its operands and C and MOD are read. -/
theorem decode_uniS {d a b c m : Nat} (hw : two (devWord 1 op d a b) (sWord 0 c m) = some ws) (ho : op < 128)
    (ht : twoWord (devWord 1 op 0 0 0) = true) (hd : d < 256) (ha : a < 256) (hb : b < 256) (hc : c < 256) (hm : m < 32768)
    (h : ∀ w w2, fOp w = op → fD w = d → fA w = a → fB w = b → uniS w2 = .ok () → fC w2 = c → fModS w2 = m → decodeUniform w w2 = .ok i) :
    decode (ws ++ rest) = .ok (i, rest) := by
  obtain ⟨hab, hxl, hxln, hfc, hmod, hlt⟩ := sWord_fields (x := 0) (by decide) hc hm
  refine decode_uniWords rest hw ho ht hd ha hb hlt fun w hop hfd hfa hfb => h w _ hop hfd hfa hfb ?_ hfc hmod
  rw [uniS, hab, hxl, hxln]
  rfl

/-- A form-M word of a uniform instruction. -/
theorem decode_eUniM {d a b m n : Nat} {ab : Ab} (hw : eUniM op d a b ab m n = some ws) (ho : op < 128)
    (ht : twoWord (devWord 1 op 0 0 0) = true) (hd : d < 256) (ha : a < 256) (hb : b < 256) (hm : m < 512) (hn : n < 4194304)
    (h : ∀ w w2, fOp w = op → fD w = d → fA w = a → fB w = b → dAb w2 = ab → fAB w2 = eAb ab → fModM w2 = m → fOfs w2 = n →
      decodeUniform w w2 = .ok i) : decode (ws ++ rest) = .ok (i, rest) := by
  obtain ⟨hab, hmod, hofs, hlt⟩ := mWord_fields (eAb_lt ab) hm hn
  exact decode_uniWords rest hw ho ht hd ha hb hlt fun w hop hfd hfa hfb => h w _ hop hfd hfa hfb (dAb_e hab) hab hmod hofs

/-- A form-M word whose A, D and B are uniform sources (R153, R159, R161). -/
theorem decode_eUniM_adb {d a b : UniSrc} {m n : Nat} {ab : Ab} (hw : eUniM op (eUniSrc d) (eUniSrc a) (eUniSrc b) ab m n = some ws)
    (hwf : (a.wf && d.wf && b.wf) = true) (ho : op < 128) (ht : twoWord (devWord 1 op 0 0 0) = true) (hm : m < 512) (hn : n < 4194304)
    (h : ∀ w w2, fOp w = op → dAb w2 = ab → fModM w2 = m → fOfs w2 = n → (∀ f, uniADB w f = .ok (f a d b)) → decodeUniform w w2 = .ok i) :
    decode (ws ++ rest) = .ok (i, rest) := by
  obtain ⟨hwad, hwb⟩ := Bool.and_eq_true_iff.1 hwf
  obtain ⟨hwa, hwd⟩ := Bool.and_eq_true_iff.1 hwad
  refine decode_eUniM rest hw ho ht (eUniSrc_lt d) (eUniSrc_lt a) (eUniSrc_lt b) hm hn fun w w2 hop hfd hfa hfb hab _ hfm hfn =>
    h w w2 hop hab hfm hfn fun f => ?_
  simp [uniADB, hfd, hfa, hfb, hwa, hwd, hwb, Dec.ok_bind]

end Uniform

/-! ### Uniform instructions (06) -/

section UniformInstructions

variable {ws : List Word} (rest : List Word)

theorem decode_scmp {cc u d a b} (h : encode (.scmp cc u d a b) = some ws) (hwf : (a.wf && b.wf) = true) :
    decode (ws ++ rest) = .ok (.scmp cc u d a b, rest) := by
  obtain ⟨hwa, hwb⟩ := Bool.and_eq_true_iff.1 hwf
  have hcc := eICond_lt cc
  have hu := boolNat_lt u
  refine decode_uniS rest h (by decide) rfl (eUniDst_lt d) (eUniSrc_lt a) (eUniSrc_lt b) (by decide) (by omega)
    fun w w2 ho hd ha hb hS hc hm => ?_
  have hz : fModS w2 / 16 = 0 := by omega
  have hbit : bitAt (fModS w2) 3 = u := bitAt_of (by omega)
  have hcond : bits (fModS w2) 2 0 = eICond cc := by rw [hm, bits]; omega
  simp only [decodeUniform, ho, hS]
  simp [noC, uni3, hd, ha, hb, hc, hwa, hwb, hz, hbit, hcond, Dec.ok_bind]

theorem decode_ssel {d a b c} (h : encode (.ssel d a b c) = some ws) (hwf : (a.wf && b.wf && c.wf) = true) :
    decode (ws ++ rest) = .ok (.ssel d a b c, rest) := by
  obtain ⟨hwab, hwc⟩ := Bool.and_eq_true_iff.1 hwf
  obtain ⟨hwa, hwb⟩ := Bool.and_eq_true_iff.1 hwab
  refine decode_uniS rest h (by decide) rfl (eUniDst_lt d) (eUniSrc_lt a) (eUniSrc_lt b) (eUniSrc_lt c) (by decide)
    fun w w2 ho hd ha hb hS hc hm => ?_
  simp only [decodeUniform, ho, hS]
  simp [uni3, hd, ha, hb, hc, hm, hwa, hwb, hwc, Dec.ok_bind]

theorem decode_grow {d n a} (h : encode (.grow d n a) = some ws) (hwa : a.wf = true) : decode (ws ++ rest) = .ok (.grow d n a, rest) := by
  have hn := n.2
  refine decode_uniS rest h (by decide) rfl (eUniDst_lt d) (eUniSrc_lt a) (by decide) (by decide) (by omega)
    fun w w2 ho hd ha hb hS hc hm => ?_
  have hf : fModS w2 / 32 = 0 ∧ bits (fModS w2) 4 0 = n.val := by rw [hm]; simp only [bits]; omega
  simp only [decodeUniform, ho, hS]
  simp [noB, noC, uni2, hd, ha, hb, hc, hwa, hf, toFin_val, Dec.ok_bind]

theorem decode_fork {q d imm} (h : encode (.fork q d imm) = some ws) : decode (ws ++ rest) = .ok (.fork q d imm, rest) := by
  have hq := eSeq_lt q
  refine decode_uniWords rest h (by decide) rfl (eUniDst_lt d) (by decide) (by omega) imm.isLt fun w ho hd ha hb => ?_
  simp only [decodeUniform, ho, hb]
  cases q <;> simp [eSeq, hd, ha, Dec.ok_bind]

/-- The sequencer that bit 0 of MOD names (R133). -/
theorem seq_of_bit {w2 : Nat} {q : Seq} (hm : fModS w2 = eSeq q) : (if bitAt (fModS w2) 0 = true then Seq.cp else Seq.mx) = q := by
  cases q <;> simp [hm, eSeq, bitAt]

theorem decode_srd {q d n} (h : encode (.srd q d n) = some ws) : decode (ws ++ rest) = .ok (.srd q d n, rest) := by
  have hq := eSeq_lt q
  have hn := n.2
  refine decode_uniS rest h (by decide) rfl (eUniDst_lt d) (by omega) (by decide) (by decide) (by omega)
    fun w w2 ho hd ha hb hS hc hm => ?_
  have hz : fModS w2 / 2 = 0 := by omega
  simp only [decodeUniform, ho, hS, seq_of_bit hm]
  simp [noB, noC, hd, ha, hb, hc, hz, Dec.ok_bind]

theorem decode_swr {q n a} (h : encode (.swr q n a) = some ws) (hwa : a.wf = true) : decode (ws ++ rest) = .ok (.swr q n a, rest) := by
  have hq := eSeq_lt q
  have hn := n.2
  refine decode_uniS rest h (by decide) rfl (by omega) (eUniSrc_lt a) (by decide) (by decide) (by omega)
    fun w w2 ho hd ha hb hS hc hm => ?_
  have hz : fModS w2 / 2 = 0 := by omega
  simp only [decodeUniform, ho, hS, seq_of_bit hm]
  simp [noB, noC, hd, ha, hb, hc, hwa, hz, Dec.ok_bind]

theorem decode_hsrc {n i a b} (h : encode (.hsrc n i a b) = some ws) (hwf : (a.wf && b.wf) = true) :
    decode (ws ++ rest) = .ok (.hsrc n i a b, rest) := by
  obtain ⟨hwa, hwb⟩ := Bool.and_eq_true_iff.1 hwf
  have hn := n.2
  have hi := i.2
  refine decode_uniS rest h (by decide) rfl (by omega) (eUniSrc_lt a) (eUniSrc_lt b) (by decide) (by omega)
    fun w w2 ho hd ha hb hS hc hm => ?_
  have hf : fModS w2 / 8 = 0 ∧ bits (fModS w2) 1 0 = i.val := by rw [hm]; simp only [bits]; omega
  have hbit : bitAt (fModS w2) 2 = false := bitAt_false (by omega)
  simp only [decodeUniform, ho, hS]
  simp [noC, hd, ha, hb, hc, hwa, hwb, hf, hbit, toFin_val, Dec.ok_bind]

theorem decode_hsrcClr {n i} (h : encode (.hsrcClr n i) = some ws) : decode (ws ++ rest) = .ok (.hsrcClr n i, rest) := by
  have hn := n.2
  have hi := i.2
  refine decode_uniS rest h (by decide) rfl (by omega) (by decide) (by decide) (by decide) (by omega)
    fun w w2 ho hd ha hb hS hc hm => ?_
  have hf : fModS w2 / 8 = 0 ∧ bits (fModS w2) 1 0 = i.val := by rw [hm]; simp only [bits]; omega
  have hbit : bitAt (fModS w2) 2 = true := bitAt_true (by omega)
  simp only [decodeUniform, ho, hS]
  simp [noB, noC, hd, ha, hb, hc, hf, hbit, toFin_val, Dec.ok_bind]

theorem decode_hexp {n i a b} (h : encode (.hexp n i a b) = some ws) (hwf : (a.wf && b.wf) = true) :
    decode (ws ++ rest) = .ok (.hexp n i a b, rest) := by
  obtain ⟨hwa, hwb⟩ := Bool.and_eq_true_iff.1 hwf
  have hn := n.2
  have hi := i.2
  refine decode_uniWord rest h (by decide) rfl (by omega) (eUniSrc_lt a) (eUniSrc_lt b) fun w ho hd ha hb => ?_
  have hf : bits w 23 23 = 0 ∧ bits w 20 16 = n.val ∧ bits w 22 21 = i.val := by
    simp only [fD, bits] at hd ⊢
    omega
  simp only [decodeUniform, ho]
  simp [ha, hb, hwa, hwb, hf, toFin_val, Dec.ok_bind]

end UniformInstructions

/-! ### Engine instructions (07) -/

section EngineInstructions

variable {ws : List Word} (rest : List Word)

theorem decode_mxld {f p ab a o d b} (h : encode (.mxld f p ab a o d b) = some ws) (hwf : (a.wf && d.wf && b.wf) = true) :
    decode (ws ++ rest) = .ok (.mxld f p ab a o d b, rest) := by
  have hf := eMFmt_lt f
  have hp := p.2
  refine decode_eUniM_adb rest h hwf (by decide) rfl (by omega) o.isLt fun w w2 ho hab hm hn hU => ?_
  have hm' : bits (fModM w2) 5 0 = 0 ∧ bits (fModM w2) 8 7 = eMFmt f ∧ bits (fModM w2) 6 6 = p.val := by rw [hm]; simp only [bits]; omega
  simp only [decodeUniform, ho, hU]
  simp [hab, hn, hm', toFin_val, Dec.ok_bind]

theorem decode_mxmm {f u ab a o d b} (h : encode (.mxmm f u ab a o d b) = some ws) (hwf : (a.wf && d.wf && b.wf) = true) :
    decode (ws ++ rest) = .ok (.mxmm f u ab a o d b, rest) := by
  have hf := eMFmt_lt f
  have hu := u.2
  refine decode_eUniM_adb rest h hwf (by decide) rfl (by omega) o.isLt fun w w2 ho hab hm hn hU => ?_
  have hm' : bits (fModM w2) 8 7 = eMFmt f ∧ bits (fModM w2) 6 0 = u.val := by rw [hm]; simp only [bits]; omega
  simp only [decodeUniform, ho, hU]
  simp [hab, hn, hm', toFin_val]

theorem decode_mxscW {p t a} (h : encode (.mxscW p t a) = some ws) (hwa : a.wf = true) :
    decode (ws ++ rest) = .ok (.mxscW p t a, rest) := by
  have hp := p.2
  have ht := t.2
  refine decode_eUniM rest h (by decide) rfl (by decide) (eUniSrc_lt a) (by decide) (by omega) (by decide)
    fun w w2 ho hd ha hb _ hab hm hn => ?_
  have hm' : bits (fModM w2) 8 7 = 0 ∧ bits (fModM w2) 2 0 = 0 ∧ bits (fModM w2) 6 6 = p.val ∧ bits (fModM w2) 5 3 = t.val := by
    rw [hm]; simp only [bits]; omega
  simp only [decodeUniform, ho]
  simp [noB, hab, eAb, hd, ha, hb, hn, hm', hwa, toFin_val, Dec.ok_bind]

theorem decode_mxscA {a o} (h : encode (.mxscA a o) = some ws) (hwa : a.wf = true) : decode (ws ++ rest) = .ok (.mxscA a o, rest) := by
  refine decode_eUniM rest h (by decide) rfl (by decide) (eUniSrc_lt a) (by decide) (by decide) o.isLt
    fun w w2 ho hd ha hb _ hab hm hn => ?_
  have hm' : bits (fModM w2) 8 7 = 1 ∧ bits (fModM w2) 6 0 = 0 := by rw [hm]; decide
  simp only [decodeUniform, ho]
  simp [noB, hab, eAb, hd, ha, hb, hn, hm', hwa, Dec.ok_bind]

theorem decode_mxscANone (h : encode .mxscANone = some ws) : decode (ws ++ rest) = .ok (.mxscANone, rest) := by
  refine decode_eUniM rest h (by decide) rfl (by decide) (by decide) (by decide) (by decide) (by decide)
    fun w w2 ho hd ha hb _ hab hm hn => ?_
  have hm' : bits (fModM w2) 8 7 = 2 ∧ bits (fModM w2) 6 0 = 0 := by rw [hm]; decide
  simp only [decodeUniform, ho]
  simp [noB, hab, eAb, hd, ha, hb, hn, hm', Dec.ok_bind]

theorem decode_accz {d b} (h : encode (.accz d b) = some ws) (hwf : (d.wf && b.wf) = true) : decode (ws ++ rest) = .ok (.accz d b, rest) := by
  obtain ⟨hwd, hwb⟩ := Bool.and_eq_true_iff.1 hwf
  refine decode_eUniM rest h (by decide) rfl (eUniSrc_lt d) (by decide) (eUniSrc_lt b) (by decide) (by decide)
    fun w w2 ho hd ha hb _ hab hm hn => ?_
  simp only [decodeUniform, ho]
  simp [hab, eAb, hd, ha, hb, hm, hn, hwd, hwb, Dec.ok_bind]

theorem decode_accld {v q ab a o d b} (h : encode (.accld v q ab a o d b) = some ws) (hwf : (a.wf && d.wf && b.wf) = true) :
    decode (ws ++ rest) = .ok (.accld v q ab a o d b, rest) := by
  have hq := eSem_lt 1 q (by decide)
  have hv := boolNat_lt v
  refine decode_eUniM_adb rest h hwf (by decide) rfl (by omega) o.isLt fun w w2 ho hab hm hn hU => ?_
  have hs : dSem (fModM w2) 1 = .ok q := dSem_e (by omega) (.inl rfl)
  have hm' : bits (fModM w2) 8 7 = boolNat v := by rw [hm]; simp only [bits]; omega
  simp only [decodeUniform, ho, hU, hs, hm']
  cases v <;> simp [boolNat, hab, hn, Dec.ok_bind]

theorem decode_accmv {v q ab a o d b} (h : encode (.accmv v q ab a o d b) = some ws) (hwf : (a.wf && d.wf && b.wf) = true) :
    decode (ws ++ rest) = .ok (.accmv v q ab a o d b, rest) := by
  have hq := eSem_lt 2 q (by decide)
  have hv := boolNat_lt v
  refine decode_eUniM_adb rest h hwf (by decide) rfl (by omega) o.isLt fun w w2 ho hab hm hn hU => ?_
  have hs : dSem (fModM w2) 2 = .ok q := dSem_e (by omega) (.inr rfl)
  have hm' : bits (fModM w2) 8 7 = 2 * boolNat v := by rw [hm]; simp only [bits]; omega
  simp only [decodeUniform, ho, hU, hs, hm']
  cases v <;> simp [boolNat, hab, hn, Dec.ok_bind]

theorem decode_accmvAdd {q ab a o d b} (h : encode (.accmvAdd q ab a o d b) = some ws) (hwf : (a.wf && d.wf && b.wf) = true) :
    decode (ws ++ rest) = .ok (.accmvAdd q ab a o d b, rest) := by
  have hq := eSem_lt 2 q (by decide)
  refine decode_eUniM_adb rest h hwf (by decide) rfl (by omega) o.isLt fun w w2 ho hab hm hn hU => ?_
  have hs : dSem (fModM w2) 2 = .ok q := dSem_e (by omega) (.inr rfl)
  have hm' : bits (fModM w2) 8 7 = 1 := by rw [hm]; simp only [bits]; omega
  simp only [decodeUniform, ho, hU, hs, hm']
  simp [hab, hn, Dec.ok_bind]

end EngineInstructions

/-- The scalar and control instructions of a band or strand (R119 to R122), with budgets, blocks, strands and hasps (R123 to R144). -/
def isUniformScalar : Instr → Bool
  | .sadd .. | .ssub .. | .smul .. | .smin .. | .smax .. | .sand .. | .sor .. | .sxor .. | .sshl .. | .sshr .. | .ssar .. | .scmp ..
  | .ssel .. | .smov .. | .smovi .. | .spopc .. | .sbra .. | .sbrz .. | .sbrnz .. | .sloop .. | .sdone .. | .grow .. | .shrink ..
  | .attach .. | .detach .. | .fork .. | .srd .. | .swr .. | .hinit .. | .hsrc .. | .hsrcClr .. | .hexp .. | .hring .. | .hinv ..
  | .sharr .. | .shwait .. => true
  | _ => false

theorem decode_encode_uniformScalar {i : Instr} (hl : isUniformScalar i = true) {ws : List Word} (rest : List Word)
    (h : encode i = some ws) (hw : i.wf = true) : decode (ws ++ rest) = .ok (i, rest) := by
  cases i with
  | sadd | ssub | smul | smin | smax | sand | sor | sxor | sshl | sshr | ssar =>
    exact decode_eUni3 rest h hw (by decide) rfl fun w ho => by simp only [decodeUniform, ho]
  | scmp => exact decode_scmp rest h hw
  | ssel => exact decode_ssel rest h hw
  | smov d a | spopc d a =>
    have hwa : a.wf = true := hw
    refine decode_uniWord rest h (by decide) rfl (eUniDst_lt d) (eUniSrc_lt a) (by decide) fun w ho hd ha hb => ?_
    simp only [decodeUniform, ho]
    simp [uni2, noB, hd, ha, hb, hwa, Dec.ok_bind]
  | smovi d imm =>
    refine decode_uniWords rest h (by decide) rfl (eUniDst_lt d) (by decide) (by decide) imm.isLt fun w ho hd ha hb => ?_
    simp only [decodeUniform, ho]
    simp [noB, hd, ha, hb, Dec.ok_bind]
  | sbra imm =>
    refine decode_uniWords rest h (by decide) rfl (by decide) (by decide) (by decide) imm.isLt fun w ho hd ha hb => ?_
    simp only [decodeUniform, ho, bare, operands_zero hd ha hb]
    simp [Dec.ok_bind]
  | sbrz a imm | sbrnz a imm =>
    have hwa : a.wf = true := hw
    refine decode_uniWords rest h (by decide) rfl (by decide) (eUniSrc_lt a) (by decide) imm.isLt fun w ho hd ha hb => ?_
    simp only [decodeUniform, ho]
    simp [noB, hd, ha, hb, hwa, Dec.ok_bind]
  | sloop d imm =>
    have hlt := d.2
    refine decode_uniWords rest h (by decide) rfl (by omega) (by decide) (by decide) imm.isLt fun w ho hd ha hb => ?_
    simp only [decodeUniform, ho]
    simp [noB, hd, ha, hb, Dec.ok_bind]
  | sdone =>
    refine decode_uniWord rest h (by decide) rfl (by decide) (by decide) (by decide) fun w ho hd ha hb => ?_
    simp only [decodeUniform, ho, bare, operands_zero hd ha hb]
    rfl
  | grow => exact decode_grow rest h hw
  | shrink a =>
    have hwa : a.wf = true := hw
    refine decode_uniWord rest h (by decide) rfl (by decide) (eUniSrc_lt a) (by decide) fun w ho hd ha hb => ?_
    simp only [decodeUniform, ho]
    simp [noB, hd, ha, hb, hwa, Dec.ok_bind]
  | attach d a b =>
    obtain ⟨hwa, hwb⟩ := Bool.and_eq_true_iff.1 (show (a.wf && b.wf) = true from hw)
    refine decode_uniS (c := 0) (m := 0) rest h (by decide) rfl (eUniDst_lt d) (eUniSrc_lt a) (eUniSrc_lt b) (by decide) (by decide)
      fun w w2 ho hd ha hb hS hc hm => ?_
    simp only [decodeUniform, ho, hS]
    simp [noC, uni3, hd, ha, hb, hc, hm, hwa, hwb, Dec.ok_bind]
  | detach d =>
    refine decode_uniWord rest h (by decide) rfl (eUniDst_lt d) (by decide) (by decide) fun w ho hd ha hb => ?_
    simp only [decodeUniform, ho]
    simp [noB, hd, ha, hb, Dec.ok_bind]
  | fork => exact decode_fork rest h
  | srd => exact decode_srd rest h
  | swr => exact decode_swr rest h hw
  | hinit n a | shwait n a =>
    have hwa : a.wf = true := hw
    have hn := n.2
    refine decode_uniWord rest h (by decide) rfl (by omega) (eUniSrc_lt a) (by decide) fun w ho hd ha hb => ?_
    simp only [decodeUniform, ho]
    simp [noB, hd, ha, hb, hwa, Dec.ok_bind]
  | hsrc => exact decode_hsrc rest h hw
  | hsrcClr => exact decode_hsrcClr rest h
  | hexp => exact decode_hexp rest h hw
  | hring n a b =>
    obtain ⟨hwa, hwb⟩ := Bool.and_eq_true_iff.1 (show (a.wf && b.wf) = true from hw)
    have hn := n.2
    refine decode_uniS (c := 0) (m := 0) rest h (by decide) rfl (by omega) (eUniSrc_lt a) (eUniSrc_lt b) (by decide) (by decide)
      fun w w2 ho hd ha hb hS hc hm => ?_
    simp only [decodeUniform, ho, hS]
    simp [noC, hd, ha, hb, hc, hm, hwa, hwb, Dec.ok_bind]
  | hinv n | sharr n =>
    have hn := n.2
    refine decode_uniWord rest h (by decide) rfl (by omega) (by decide) (by decide) fun w ho hd ha hb => ?_
    simp only [decodeUniform, ho]
    simp [noB, hd, ha, hb, Dec.ok_bind]
  | _ => exact nomatch hl

/-- The uniform instructions decode from their words (R32). -/
theorem decode_encode_uniform {i : Instr} (hl : isUniform i = true) {ws : List Word} (rest : List Word) (h : encode i = some ws)
    (hw : i.wf = true) : decode (ws ++ rest) = .ok (i, rest) := by
  cases i with
  | sadd | ssub | smul | smin | smax | sand | sor | sxor | sshl | sshr | ssar | scmp | ssel | smov | smovi | spopc | sbra | sbrz | sbrnz
  | sloop | sdone | grow | shrink | attach | detach | fork | srd | swr | hinit | hsrc | hsrcClr | hexp | hring | hinv | sharr | shwait =>
    exact decode_encode_uniformScalar rfl rest h hw
  | mxld => exact decode_mxld rest h hw
  | mxsw p =>
    have hp := p.2
    refine decode_uniWord rest h (by decide) rfl (by decide) (by decide) (by omega) fun w ho hd ha hb => ?_
    simp only [decodeUniform, ho]
    simp [hd, ha, hb, Dec.ok_bind]
  | mxscW => exact decode_mxscW rest h hw
  | mxscA => exact decode_mxscA rest h hw
  | mxscANone => exact decode_mxscANone rest h
  | mxmm => exact decode_mxmm rest h hw
  | accz => exact decode_accz rest h hw
  | accld => exact decode_accld rest h hw
  | accmv => exact decode_accmv rest h hw
  | accmvAdd => exact decode_accmvAdd rest h hw
  | cpt c ab d a o b | cpg c ab d a o b | cps c ab d a o b =>
    obtain ⟨hwa, hwd⟩ := Bool.and_eq_true_iff.1 (show (a.wf && d.wf) = true from hw)
    have hb := b.2
    refine decode_eUniM rest h (by decide) rfl (eUniSrc_lt d) (eUniSrc_lt a) (by omega) (eCnt_lt c) o.isLt
      fun w w2 ho hd ha hb hab _ hm hn => ?_
    simp only [decodeUniform, ho]
    simp [hd, ha, hb, hab, hm, hn, hwa, hwd, Dec.ok_bind]
  | cpz c ab d a o =>
    obtain ⟨hwa, hwd⟩ := Bool.and_eq_true_iff.1 (show (a.wf && d.wf) = true from hw)
    refine decode_eUniM rest h (by decide) rfl (eUniSrc_lt d) (eUniSrc_lt a) (by decide) (eCnt_lt c) o.isLt
      fun w w2 ho hd ha hb hab _ hm hn => ?_
    simp only [decodeUniform, ho]
    simp [noB, hd, ha, hb, hab, hm, hn, hwa, hwd, Dec.ok_bind]
  | surr d imm a =>
    have hwa : a.wf = true := hw
    refine decode_uniWords rest h (by decide) rfl (eUniDst_lt d) (eUniSrc_lt a) (by decide) imm.isLt fun w ho hd ha hb => ?_
    simp only [decodeUniform, ho]
    simp [noB, hd, ha, hb, hwa, Dec.ok_bind]
  | yieldDone | yieldSumm | yieldRefuse | tretRedo | tretSkip =>
    refine decode_uniWord rest h (by decide) rfl (by decide) (by decide) (by decide) fun w ho hd ha hb => ?_
    simp only [decodeUniform, ho, hb]
    simp [hd, ha, Dec.ok_bind]
  | rclq d =>
    refine decode_uniWord rest h (by decide) rfl (eUniDst_lt d) (by decide) (by decide) fun w ho hd ha hb => ?_
    simp only [decodeUniform, ho]
    simp [noB, hd, ha, hb, Dec.ok_bind]
  | snop | sbrk =>
    refine decode_uniWord rest h (by decide) rfl (by decide) (by decide) (by decide) fun w ho hd ha hb => ?_
    simp only [decodeUniform, ho, bare, operands_zero hd ha hb]
    rfl
  | _ => exact nomatch hl

/-! ### Commands (R268 to R277) -/

theorem creg_val (n : CReg) : creg n.val = n := toFin_val n

section Commands

variable {op : Nat} {i : Instr} {ws : List Word} (rest : List Word)

theorem decodeCmd_word {d a b x : Nat} (hw : one (cmdWord op d a b x) = some ws) (ho : op < 64)
    (ht : twoWordCommand (cmdWord op 0 0 0 0) = false) (hd : d < 16) (ha : a < 16) (hb : b < 16) (hx : x < 16384)
    (h : ∀ w, cOp w = op → cD w = d → cA w = a → cB w = b → cX w = x → decodeCommand w 0 = .ok i) :
    decodeCmd (ws ++ rest) = .ok (i, rest) := by
  cases hw
  exact decodeCmd_cmdWord rest ho hd ha hb hx (fun w hop => ht ▸ twoWordCommand_cmdWord ho hop) h

theorem decodeCmd_words {d a b x w2 : Nat} (hw : two (cmdWord op d a b x) w2 = some ws) (ho : op < 64)
    (ht : twoWordCommand (cmdWord op 0 0 0 0) = true) (hd : d < 16) (ha : a < 16) (hb : b < 16) (hx : x < 16384) (hw2 : w2 < 2 ^ 32)
    (h : ∀ w, cOp w = op → cD w = d → cA w = a → cB w = b → cX w = x → decodeCommand w w2 = .ok i) :
    decodeCmd (ws ++ rest) = .ok (i, rest) := by
  cases hw
  exact decodeCmd_cmdWord_two rest ho hd ha hb hx hw2 (fun w hop => ht ▸ twoWordCommand_cmdWord ho hop) h

/-- A register command with a register or an immediate (R270). -/
theorem decodeCmd_eCalu {f : CReg → CReg → COp → Instr} {d a : CReg} {y : COp} (hw : eCalu op d a y = some ws) (ho : op < 64)
    (ht : twoWordCommand (cmdWord op 0 0 0 0) = false) (h : ∀ w, cOp w = op → decodeCommand w 0 = calu f w) :
    decodeCmd (ws ++ rest) = .ok (f d a y, rest) := by
  cases y with
  | c b =>
    refine decodeCmd_word rest hw ho ht d.2 a.2 b.2 (by decide) fun w hop hd ha hb hx => ?_
    have hbit : bitAt (cX w) 13 = false := bitAt_false (by omega)
    simp only [h w hop, calu, hbit]
    simp [hd, ha, hb, hx, creg_val, Dec.ok_bind]
  | imm x =>
    have hlt := x.isLt
    refine decodeCmd_word rest hw ho ht d.2 a.2 (by decide) (by omega) fun w hop hd ha hb hx => ?_
    have hbit : bitAt (cX w) 13 = true := bitAt_true (by omega)
    have himm : BitVec.ofNat 13 (cX w) = x := BitVec.eq_of_toNat_eq (by rw [BitVec.toNat_ofNat, hx]; omega)
    simp [h w hop, calu, hbit, himm, hd, ha, hb, creg_val, Dec.ok_bind]

/-- The low bits of a command word are those of X. -/
theorem cmd_lowBits {w x : Nat} (hx : cX w = x) : bits w 1 0 = bits x 1 0 ∧ bits w 3 2 = bits x 3 2 ∧ bitAt w 11 = bitAt x 11 := by
  subst hx
  have h : w / 2 ^ 11 % 2 = w / 2 ^ 0 % 2 ^ (13 + 1 - 0) / 2 ^ 11 % 2 := by omega
  refine ⟨?_, ?_, by rw [bitAt, bitAt, cX, bits, h]⟩
  · simp only [cX, bits]; omega
  · simp only [cX, bits]; omega

theorem cmd_operands_zero {w : Nat} (hd : cD w = 0) (ha : cA w = 0) (hb : cB w = 0) (hx : cX w = 0) : w % 2 ^ 26 = 0 := by
  simp only [cD, cA, cB, cX, bits] at hd ha hb hx
  omega

theorem cmd_operands_zero_but_d {w : Nat} (ha : cA w = 0) (hb : cB w = 0) (hx : cX w = 0) : w % 2 ^ 22 = 0 := by
  simp only [cA, cB, cX, bits] at ha hb hx
  omega

theorem decodeCmd_amend {v g d a b} (h : encode (.amend v g d a b) = some ws) (hw : (g != .none) = true) :
    decodeCmd (ws ++ rest) = .ok (.amend v g d a b, rest) := by
  have hg := eGrade_lt g
  have hv := boolNat_lt v
  have hne : (eGrade g != 0) = true := by cases g <;> simp_all [eGrade]
  refine decodeCmd_word rest h (by decide) rfl d.2 a.2 b.2 (by omega) fun w ho hd ha hb hx => ?_
  obtain ⟨h1, h3, -⟩ := cmd_lowBits hx
  have hlo : bits w 1 0 = 2 + boolNat v := by rw [h1, bits]; omega
  have hgr : bits w 3 2 = eGrade g := by rw [h3, bits]; omega
  have hz : cX w / 16 = 0 := by omega
  simp only [decodeCommand, ho, hlo, hgr, hne, hz, hd, ha, hb, creg_val, dGrade_e]
  cases v <;> rfl

theorem decodeCmd_graph {d a n f x} (h : encode (.graph d a n f x) = some ws) : decodeCmd (ws ++ rest) = .ok (.graph d a n f x, rest) := by
  have hn := n.isLt
  have hf := f.isLt
  have hx := x.isLt
  refine decodeCmd_words rest h (by decide) rfl d.2 a.2 (by decide) (by decide) (by omega) fun w ho hd ha hb hX => ?_
  have hfields : bits (n.toNat * 2 ^ 16 + f.toNat * 2 ^ 8 + x.toNat) 31 16 = n.toNat ∧
      bits (n.toNat * 2 ^ 16 + f.toNat * 2 ^ 8 + x.toNat) 15 8 = f.toNat ∧
      bits (n.toNat * 2 ^ 16 + f.toNat * 2 ^ 8 + x.toNat) 7 0 = x.toNat := by simp only [bits]; omega
  obtain ⟨e1, e2, e3⟩ := hfields
  simp only [decodeCommand, ho, e1, e2, e3]
  simp [hd, ha, hb, hX, creg_val, Dec.ok_bind]

theorem decodeCmd_signal {v r a imm} (h : encode (.signal v r a imm) = some ws) :
    decodeCmd (ws ++ rest) = .ok (.signal v r a imm, rest) := by
  have hv := v.isLt
  have hr := boolNat_lt r
  refine decodeCmd_words rest h (by decide) rfl (by decide) a.2 (by decide) (by omega) imm.isLt fun w ho hd ha hb hx => ?_
  have hbit : bitAt w 11 = r := (cmd_lowBits hx).2.2.trans (bitAt_of (by omega))
  have hvec : BitVec.ofNat 11 (cX w) = v := BitVec.eq_of_toNat_eq (by rw [BitVec.toNat_ofNat, hx]; omega)
  have hz : cX w / 4096 = 0 := by omega
  simp only [decodeCommand, ho, hbit, hvec, hz]
  simp [hd, ha, hb, creg_val, Dec.ok_bind]

end Commands

/-- The commands decode from their words (R269). -/
theorem decodeCmd_encode {i : Instr} (hl : isCommand i = true) {ws : List Word} (rest : List Word) (h : encode i = some ws)
    (hw : i.wf = true) : decodeCmd (ws ++ rest) = .ok (i, rest) := by
  cases i with
  | cli d imm | cliU d imm | cliHi d imm =>
    refine decodeCmd_words rest h (by decide) rfl d.2 (by decide) (by decide) (by decide) imm.isLt fun w ho hd ha hb hx => ?_
    simp only [decodeCommand, ho, (cmd_lowBits hx).1]
    simp [bits, hd, ha, hb, hx, creg_val, Dec.ok_bind]
  | cadd | csub | cand | cor | cshl | cshr =>
    exact decodeCmd_eCalu rest h (by decide) rfl fun w ho => by simp only [decodeCommand, ho]
  | cld o d a x =>
    have hlt := o.2
    refine decodeCmd_word rest h (by decide) rfl d.2 a.2 (by omega) x.isLt fun w ho hd ha hb hx => ?_
    simp only [decodeCommand, ho]
    simp [hd, ha, hb, hx, creg_val, toFin_val]
  | cst o a x b =>
    have hlt := o.2
    refine decodeCmd_word rest h (by decide) rfl (by omega) a.2 b.2 x.isLt fun w ho hd ha hb hx => ?_
    simp only [decodeCommand, ho]
    simp [hd, ha, hb, hx, creg_val, toFin_val]
  | cbr cc a b imm =>
    have hcc := eCCond_lt cc
    refine decodeCmd_words rest h (by decide) rfl (by omega) a.2 b.2 (by decide) imm.isLt fun w ho hd ha hb hx => ?_
    simp only [decodeCommand, ho]
    simp [hd, ha, hb, hx, creg_val, Dec.ok_bind]
  | cjmp imm | ccall imm =>
    refine decodeCmd_words rest h (by decide) rfl (by decide) (by decide) (by decide) (by decide) imm.isLt fun w ho hd ha hb hx => ?_
    simp only [decodeCommand, ho, cmd_operands_zero hd ha hb hx]
    simp [Dec.ok_bind]
  | cret | cfence | chalt =>
    refine decodeCmd_word rest h (by decide) rfl (by decide) (by decide) (by decide) (by decide) fun w ho hd ha hb hx => ?_
    simp only [decodeCommand, ho, cmd_operands_zero hd ha hb hx]
    rfl
  | cloop d imm =>
    refine decodeCmd_words rest h (by decide) rfl d.2 (by decide) (by decide) (by decide) imm.isLt fun w ho hd ha hb hx => ?_
    simp only [decodeCommand, ho, cmd_operands_zero_but_d ha hb hx]
    simp [hd, creg_val, Dec.ok_bind]
  | launch d a b =>
    refine decodeCmd_word rest h (by decide) rfl d.2 a.2 b.2 (by decide) fun w ho hd ha hb hx => ?_
    simp only [decodeCommand, ho]
    simp [hd, ha, hb, hx, creg_val, Dec.ok_bind]
  | graph => exact decodeCmd_graph rest h
  | cwaitNode d a | cwaitInst d a =>
    refine decodeCmd_word rest h (by decide) rfl d.2 a.2 (by decide) (by decide) fun w ho hd ha hb hx => ?_
    simp only [decodeCommand, ho, (cmd_lowBits hx).1]
    simp [bits, hd, ha, hb, hx, creg_val, Dec.ok_bind]
  | cwaitMem d a b =>
    refine decodeCmd_word rest h (by decide) rfl d.2 a.2 b.2 (by decide) fun w ho hd ha hb hx => ?_
    simp only [decodeCommand, ho, (cmd_lowBits hx).1]
    simp [bits, hd, ha, hb, hx, creg_val, Dec.ok_bind]
  | cwaitTime d b =>
    refine decodeCmd_word rest h (by decide) rfl d.2 (by decide) b.2 (by decide) fun w ho hd ha hb hx => ?_
    simp only [decodeCommand, ho, (cmd_lowBits hx).1]
    simp [bits, hd, ha, hb, hx, creg_val, Dec.ok_bind]
  | amend => exact decodeCmd_amend rest h hw
  | signal => exact decodeCmd_signal rest h
  | ctime d =>
    refine decodeCmd_word rest h (by decide) rfl d.2 (by decide) (by decide) (by decide) fun w ho hd ha hb hx => ?_
    simp only [decodeCommand, ho, cmd_operands_zero_but_d ha hb hx]
    simp [hd, creg_val, Dec.ok_bind]
  | _ => exact nomatch hl

/-! ### All instructions -/

/-- An event has no words, and nothing else has none. -/
theorem encode_isNone (i : Instr) : (encode i).isNone = isEvent i := by
  cases i with
  | pcvt2 f | pcvt4 f | pcvt8 f => cases f <;> rfl
  | harr q => cases q <;> rfl
  | cadd d a y | csub d a y | cand d a y | cor d a y | cshl d a y | cshr d a y => cases y <;> rfl
  | _ => rfl

/-- Settles O58: what is no event and no command is a lane or a uniform instruction, and each family decodes from its words. -/
theorem decodeInvertsEncode : Obligations.DecodeInvertsEncode := by
  intro i
  refine ⟨by rw [← Option.isNone_iff_eq_none, encode_isNone], fun ws rest h hw => ⟨fun hc => ?_, fun hc => decodeCmd_encode hc rest h hw⟩⟩
  cases hl : isLane i with
  | true => exact decode_encode_lane hl rest h hw
  | false =>
    have hu : isUniform i = true := by simpa [h, isEvent, hl, hc] using (encode_isNone i).symm
    exact decode_encode_uniform hu rest h hw

end Sys2Proof
end

section
/-! The constant table (R29). -/

namespace Sys2Proof.Machine

/-- Delivered in a narrow format, an entry's exact value and the FP32 pattern that stands for it give one result (R29). -/
theorem deliver_constVal : ∀ F ∈ [fp16, bf16, fe4m3, fe5m2, fe2m1], ∀ k : Fin 64,
    F.deliver .nearest (constVal k.val) = F.deliver .nearest (rd32 (constF32 k.val)) := by decide

/-- The same for E8M0, which holds powers of two only. -/
theorem toE8m0_constVal : ∀ k : Fin 64, toE8m0 .nearest (constVal k.val) = toE8m0 .nearest (rd32 (constF32 k.val)) := by decide

theorem constInt_low : ∀ i : Fin 16,
    (constInt i.val).toInt = i.val ∧ (constInt (16 + i.val)).toInt = -1 - (i.val : Int) ∧ (constInt (32 + i.val)).toNat = 2 ^ i.val := by decide

theorem constF32_negated : ∀ i : Fin 15, constF32 (16 + i.val) = constF32 (1 + i.val) + 0x80000000 := by decide

theorem constF32_powers : ∀ i : Fin 16, constF32 (32 + i.val) = BitVec.ofNat 32 ((119 + i.val) * 2 ^ 23) := by decide

theorem const64_low : ∀ k : Fin 64, k.val < 48 → const64 k.val = (BitVec.ofInt 64 (constInt k.val).toInt).toNat := by decide

theorem const64_high (k : Fin 64) (h : 48 ≤ k.val) : const64 k.val = (constInt k.val).toNat := if_neg (by omega)

/-- Field values 192 to 255 select the entries, in lane and in uniform sources (R26). -/
theorem src_constant (k : Fin 64) : dLaneSrc (192 + k.val) = .k k ∧ (dUniSrc (192 + k.val)).toOption = some (.k k) :=
  ⟨dLaneSrc_e (.k k), congrArg Except.toOption (dUniSrc_e (a := .k k) rfl)⟩

/-- A packed operand takes the rounded value in both halves. -/
theorem constRead_packed (f : PFmt) (k : Fin 64) :
    let h := ((pfmt f).deliver .nearest (rd32 (constF32 k.val))).1 % 2 ^ 16
    constRead (.packed f) k.val = BitVec.ofNat 32 (h + h * 2 ^ 16) := by
  have hmem : pfmt f ∈ [fp16, bf16, fe4m3, fe5m2, fe2m1] := by cases f <;> decide
  rw [← deliver_constVal _ hmem k]
  rfl

/-- CVT reads an entry as the pattern of its source type. -/
theorem constRead_cvt_float : ∀ st ∈ [NumType.f16, .bf16, .e4m3, .e5m2, .e2m1, .e8m0], ∀ k : Fin 64,
    constRead (.cvt st) k.val = (NumType.deliver st .nearest (rd32 (constF32 k.val))).1 := by
  intro st hst k
  have hw (F : FFmt) (h : F ∈ [fp16, bf16, fe4m3, fe5m2, fe2m1]) :
      (F.deliverW .nearest (constVal k.val)).1 = (F.deliverW .nearest (rd32 (constF32 k.val))).1 := by
    rw [FFmt.deliverW, FFmt.deliverW, deliver_constVal F h k]
  simp only [List.mem_cons, List.not_mem_nil, or_false] at hst
  rcases hst with rfl | rfl | rfl | rfl | rfl | rfl
  · exact hw fp16 (by decide)
  · exact hw bf16 (by decide)
  · exact hw fe4m3 (by decide)
  · exact hw fe5m2 (by decide)
  · exact hw fe2m1 (by decide)
  · exact congrArg Prod.fst (toE8m0_constVal k)

theorem constRead_cvt_int : ∀ st ∈ [NumType.s8, .s16, .s32, .u8, .u16, .u32], ∀ k : Nat, constRead (.cvt st) k = constInt k := by
  intro st hst k
  simp only [List.mem_cons, List.not_mem_nil, or_false] at hst
  rcases hst with rfl | rfl | rfl | rfl | rfl | rfl <;> rfl

/-- With source type F32 that is the float entry itself. -/
theorem constRead_cvt_f32 (k : Nat) : constRead (.cvt .f32) k = constF32 k := rfl

/-- Settles O54: the table entry by entry, and each reading from the entry's exact value. -/
theorem constantTable : Obligations.ConstantTable :=
  ⟨constInt_low, by decide, by decide, constF32_negated, by decide, constF32_powers, by decide, const64_low, const64_high, src_constant,
    fun _ _ _ k => ⟨rfl, rfl, rfl, rfl, rfl, fun f => constRead_packed f k, fun st hst => constRead_cvt_int st hst k.val,
      constRead_cvt_f32 k.val, fun st hst => constRead_cvt_float st hst k⟩⟩

end Sys2Proof.Machine
end

section
/-! The manual's example words (R22, R23, R24, R26, R29, R268). -/

namespace Sys2Proof

/-- Settles O57, by decoding each example's words. -/
theorem exampleWordsDecode : Obligations.ExampleWordsDecode :=
  ⟨rfl, rfl, rfl, rfl, rfl, rfl, rfl, rfl, rfl, rfl, rfl, rfl, rfl, rfl, rfl, rfl, rfl, rfl⟩

end Sys2Proof
end

section
/-! Whose turn a step runs, and what the turn does (R13, R19, R118, R195, R197, R203, R266, R362, R368, R371). -/

namespace Sys2Proof.Machine

/-! ### Which part of the schedule a step takes -/

theorem step_issue {s : State} {k : Nat} {rest : List Nat} (h : s.issue = k :: rest) :
    step s = endingBlocks (issueThread { s with issue := rest } k) := by simp only [step, h]

theorem step_idle {s : State} (hi : s.issue = []) (hs : s.script = []) : step s = endingBlocks (.next (s.passTime 1)) := by
  simp only [step, hi, hs]

theorem step_turn {s : State} {n : Nat} {a : Actor} {rest : List Turn} (hi : s.issue = []) (hs : s.script = ⟨n, a⟩ :: rest) :
    step s = endingBlocks (actorTurn ({ s with script := rest }.passTime n) a) := by simp only [step, hi, hs]

/-- After a thermal shutdown, and while the recovery window is open, most turns pass (R362, R368). -/
theorem actorTurn_passes {s : State} {a : Actor}
    (h : (s.thermal = true ∧ a ≠ .outside .reset) ∨ (s.recovery.active = true ∧ a.whileRecovering = false)) : actorTurn s a = .next s := by
  rw [actorTurn, if_pos]
  simpa using h

theorem actorTurn_acts {s : State} {a : Actor} (ht : s.thermal = false ∨ a = .outside .reset)
    (hr : s.recovery.active = false ∨ a.whileRecovering = true) : actorTurn s a = agentTurn s a := by
  rw [actorTurn, if_neg]
  have ht' : (s.thermal && a != .outside .reset) = false := by
    rcases ht with h | h <;> simp [h]
  have hr' : (s.recovery.active && !a.whileRecovering) = false := by
    rcases hr with h | h <;> simp [h]
  simp [ht', hr']

/-! ### Issuing -/

/-- Noting and counting an issue changes no code, no band and no thread. -/
theorem State.countIssue_frame (s : State) (k : Nat) : s.countIssue k = { s with blocks := (s.countIssue k).blocks } := by
  unfold State.countIssue
  split <;> rfl

theorem State.codeAt_countIssue (s : State) (k inst : Nat) (pc : Addr) : (s.countIssue k).codeAt inst pc = s.codeAt inst pc := by
  rw [s.countIssue_frame k]
  rfl

theorem State.instOf_countIssue (s : State) (k j : Nat) : (s.countIssue k).instOf j = s.instOf j := by
  rw [s.countIssue_frame k]
  rfl

section Issue

variable {s : State} {k : Nat} {t : Thread}

theorem issueThread_blocked (ht : s.thread? k = some t) (hc : s.canIssue k t = false) : issueThread s k = .next s := by
  simp [issueThread, ht, hc]

theorem issueThread_breaks (ht : s.thread? k = some t) (hc : s.canIssue k t = true) (hb : s.breakThread k t = true) :
    issueThread s k = .next (if s.stops k = true then s.endThread k else s.haltThread k) := by
  simp [issueThread, ht, hc, hb]

theorem issueThread_issues (ht : s.thread? k = some t) (hc : s.canIssue k t = true) (hb : s.breakThread k t = false) :
    issueThread s k = runAt ((s.noteIssue k t).countIssue k) k t := by
  simp [issueThread, ht, hc, hb]

theorem runAt_decoded {i : Instr} {ws : List Word} (h : decode (s.wordsAt (s.instOf k) t.pc) = .ok (i, ws)) :
    runAt s k t = exec i { s with cur := .thread k } := by
  simp only [runAt, h]

theorem runAt_undecoded {e : DecodeError} (h : decode (s.wordsAt (s.instOf k) t.pc) = .error e) :
    runAt s k t = .next (s.badWord k (s.wordsAt (s.instOf k) t.pc)) := by
  simp only [runAt, h]

/-- The words that an issuing thread executes are those of its code at its pc. -/
theorem wordsAt_issuing : ((s.noteIssue k t).countIssue k).wordsAt (((s.noteIssue k t).countIssue k).instOf k) t.pc =
    s.wordsAt (s.instOf k) t.pc := by
  simp only [State.wordsAt, State.codeAt_countIssue, State.instOf_countIssue]
  rfl

/-! ### A thread's turn outside the picker -/

theorem threadTurn_edge (ht : s.thread? k = some t) (he : slotOf t.pc = 0 ∧ (t.status = .ready ∨ t.status = .header)) :
    threadTurn s k = exec .clauseStart { s with cur := .thread k } := by
  simp [threadTurn, ht, he]

/-- A thread at an instruction goes on where it is held, and where it stands at a rendezvous that it may pass or that is met (R117, R145). -/
def State.goesOn (s : State) (k : Nat) (t : Thread) : Prop :=
  t.status = .held ∨ (t.status = .arrived ∧ ((t.trapMode = false ∧ s.inPm k = false) ∨ s.meeting k ≠ .waiting))

theorem threadTurn_waits (ht : s.thread? k = some t) (he : ¬ (slotOf t.pc = 0 ∧ (t.status = .ready ∨ t.status = .header)))
    (h : s.free k t = false ∨ ¬ s.goesOn k t) : threadTurn s k = .next s := by
  have he' : (slotOf t.pc == 0 && (t.status == .ready || t.status == .header)) = false := by simpa using he
  simp only [threadTurn, ht, he', Bool.false_eq_true, if_false]
  rcases h with hf | hg
  · simp [hf]
  · cases hst : t.status with
    | held => exact absurd (.inl hst) hg
    | arrived =>
      have hw : ((t.trapMode || s.inPm k) && s.meeting k == .waiting) = true := by
        by_contra hn
        refine hg (.inr ⟨hst, ?_⟩)
        simpa [or_iff_not_imp_left] using hn
      simp [hw]
    | _ => simp

theorem threadTurn_goesOn (ht : s.thread? k = some t) (he : ¬ (slotOf t.pc = 0 ∧ (t.status = .ready ∨ t.status = .header)))
    (hf : s.free k t = true) (hg : s.goesOn k t) : threadTurn s k = runAt s k t := by
  have he' : (slotOf t.pc == 0 && (t.status == .ready || t.status == .header)) = false := by simpa using he
  simp only [threadTurn, ht, he', hf, Bool.false_eq_true, Bool.not_true, if_false]
  rcases hg with hst | ⟨hst, hm⟩
  · simp [hst]
  · have hw : ((t.trapMode || s.inPm k) && s.meeting k == .waiting) = false := by
      rcases hm with ⟨h1, h2⟩ | h3
      · simp [h1, h2]
      · simp [h3]
    simp [hst, hw]

end Issue

/-! ### Turns of strands, streams and cores -/

section Turns

variable {s : State}

theorem State.pick_again {c : Nat} (h : (s.core c).grpAt = s.clk + 1) : s.pick c = s := by simp [State.pick, h]

theorem State.pick_forms {c : Nat} (h : (s.core c).grpAt ≠ s.clk + 1) :
    s.pick c = { s.modCore c (fun x => { x with grpAt := s.clk + 1, issuedAs := [] }) with issue := s.issueGroup c } := by
  simp [State.pick, h]

theorem strandTurn_blocked {q : Nat} (h : s.strandFree q = false) : strandTurn s q = .next s := by simp [strandTurn, h]

theorem strandTurn_halts {q : Nat} (h : s.strandFree q = true) (hr : (s.strand q).haltReq = true) :
    strandTurn s q = .next (s.haltStrand q) := by simp [strandTurn, h, hr]

theorem strandTurn_edge {q : Nat} (h : s.strandFree q = true) (hr : (s.strand q).haltReq = false) (he : slotOf (s.strand q).pc = 0) :
    strandTurn s q = exec .clauseStart { s with cur := .strand q } := by simp [strandTurn, h, hr, he]

theorem strandTurn_breaks {q : Nat} (h : s.strandFree q = true) (hr : (s.strand q).haltReq = false) (he : slotOf (s.strand q).pc ≠ 0)
    (hb : s.breakStrand q = true) : strandTurn s q = .next (s.haltStrand q) := by simp [strandTurn, h, hr, he, hb]

section Inside

variable {q : Nat} (h : s.strandFree q = true) (hr : (s.strand q).haltReq = false) (he : slotOf (s.strand q).pc ≠ 0)
  (hb : s.breakStrand q = false)

include h hr he hb

theorem strandTurn_decoded {i : Instr} {ws : List Word} (hd : decode (s.wordsAt (s.strandInst q) (s.strand q).pc) = .ok (i, ws)) :
    strandTurn s q = exec i { s with cur := .strand q } := by simp [strandTurn, h, hr, he, hb, hd]

theorem strandTurn_undecoded {e : DecodeError} (hd : decode (s.wordsAt (s.strandInst q) (s.strand q).pc) = .error e) :
    strandTurn s q = .next (s.strandTrap q ⟨1, 0, 0⟩) := by
  simp [strandTurn, h, hr, he, hb, hd, cIllegal]

end Inside

theorem streamTurn_blocked {id : StreamId} (h : s.streamRuns id = false) : streamTurn s id = .next s := by simp [streamTurn, h]

theorem streamTurn_decoded {id : StreamId} {i : Instr} {ws : List Word} (h : s.streamRuns id = true)
    (hd : decodeCmd (s.streamWords id) = .ok (i, ws)) : streamTurn s id = exec i { s with cur := .stream id } := by
  simp [streamTurn, h, hd]

/-- A word that is no command faults the stream, unless its second word has not arrived (R269). -/
theorem streamTurn_undecoded {id : StreamId} {e : DecodeError} (h : s.streamRuns id = true)
    (hd : decodeCmd (s.streamWords id) = .error e) (he : e ≠ .missingWord) : streamTurn s id = .next (s.streamFault id 5) := by
  cases e with
  | missingWord => exact absurd rfl he
  | _ => simp [streamTurn, h, hd]

end Turns

/-- Settles O56: the issue group first, then a turn of each kind of agent. -/
theorem stepRunsTheDecodedInstruction : Obligations.StepRunsTheDecodedInstruction := by
  unfold Obligations.StepRunsTheDecodedInstruction
  intro ends noted words
  have hends : ends = endingBlocks := funext fun o => by cases o <;> rfl
  clear_value ends
  subst hends
  refine ⟨fun s k rest t hi ht => ?_, fun s => step_idle, ?_⟩
  · intro u
    have hu : u.thread? k = some t := ht
    rw [step_issue hi]
    refine ⟨fun hc => by rw [issueThread_blocked hu hc], fun hc hb => by rw [issueThread_breaks hu hc hb], fun hc hb => ?_⟩
    rw [issueThread_issues hu hc hb]
    refine ⟨fun i ws hd => ?_, fun e hd => ?_⟩
    · rw [runAt_decoded ((congrArg decode wordsAt_issuing).trans hd)]
      rfl
    · rw [runAt_undecoded ((congrArg decode wordsAt_issuing).trans hd), wordsAt_issuing]
      rfl
  intro s n rest v runs hi
  have hstep {a : Actor} (hs : s.script = ⟨n, a⟩ :: rest) : step s = endingBlocks (actorTurn v a) := step_turn hi hs
  have hruns {a : Actor} (hs : s.script = ⟨n, a⟩ :: rest) (hr : runs) : step s = endingBlocks (agentTurn v a) := by
    rw [hstep hs, actorTurn_acts (.inl hr.1) (.inl hr.2)]
  refine ⟨fun a hs h => by rw [hstep hs, actorTurn_passes h], fun c hs hr => ?_, ?_, ?_, ?_, ?_, ?_⟩
  · rw [hruns hs hr, agentTurn]
    exact ⟨fun h => by rw [State.pick_again h], fun h => by rw [State.pick_forms h]⟩
  · intro k t hs hr ht edge goes
    rw [hruns hs hr, agentTurn]
    refine ⟨fun he => by rw [threadTurn_edge ht he], fun he h => by rw [threadTurn_waits ht he h], fun i ws he hf hg hd => ?_⟩
    rw [threadTurn_goesOn ht he hf hg, runAt_decoded hd]
  · intro q hs hr x
    rw [hruns hs hr, agentTurn]
    refine ⟨fun h => by rw [strandTurn_blocked h], fun h => ⟨fun hh => by rw [strandTurn_halts h hh],
      fun hh he => by rw [strandTurn_edge h hh he], fun hh he hb => by rw [strandTurn_breaks h hh he hb], fun hh he hb => ?_⟩⟩
    exact ⟨fun i ws hd => by rw [strandTurn_decoded h hh he hb hd], fun e hd => by rw [strandTurn_undecoded h hh he hb hd]⟩
  · intro id hs hr
    rw [hruns hs hr, agentTurn]
    exact ⟨fun h => by rw [streamTurn_blocked h], fun i ws h hd => by rw [streamTurn_decoded h hd],
      fun e h hd he => by rw [streamTurn_undecoded h hd he]⟩
  · intro i hs h
    have hacts : actorTurn v (.outside i) = agentTurn v (.outside i) := by
      rcases h with h | rfl | h
      · exact actorTurn_acts (.inl h.1) (.inl h.2)
      · exact actorTurn_acts (.inr rfl) (.inr rfl)
      · exact actorTurn_acts (.inl h.1) (.inr h.2)
    rw [hstep hs, hacts, agentTurn]
  · intro a hs h
    have hacts : actorTurn v (.arrive a) = agentTurn v (.arrive a) := by
      rcases h with h | h
      · exact actorTurn_acts (.inl h.1) (.inl h.2)
      · exact actorTurn_acts (.inl h.1) (.inr h.2)
    rw [hstep hs, hacts, agentTurn]

end Sys2Proof.Machine
end

section
/-! The frames of the lane instructions: the budget, registers in error and strands (R27, R34, R236, R363). -/

namespace Sys2Proof.Machine

open Sys2Proof.Says

/-! ### The frame of each lane instruction -/

/-- A lane instruction of one thread runs in the lane frame, over the registers it names (R34). -/
def RunsAlone (i : Instr) : Prop :=
  meets i = false ∧ ∃ (rs : List Nat) (body : State → Nat → Thread → Res), named i = dests i ++ rs ∧
    ∀ s, exec i s = laneFrame s (dests i) rs (body s)

/-- One that is a band operation runs in the frame of the rendezvous (R60, R105). -/
def RunsAsBand (i : Instr) : Prop :=
  meets i = true ∧ ∃ (rs : List Nat) (body : State → List Nat → Res), named i = dests i ++ rs ∧
    ∀ s, exec i s = bandLaneFrame s (dests i) rs body

theorem reads_of_named {i : Instr} {rs : List Nat} (h : named i = dests i ++ rs) : reads i = rs := by
  rw [reads, h, List.drop_left]

section Frames

variable {i : Instr} {rs : List Nat} {d : LaneDst} {a b : LaneSrc} {x : Xl}

theorem RunsAlone.of_meaning {g : State → Out} {body : State → Nat → Thread → Res} (hm : meets i = false) (hn : named i = dests i ++ rs)
    (hi : ∀ s, exec i s = g s) (hg : ∀ s, g s = laneFrame s (dests i) rs (body s)) : RunsAlone i :=
  ⟨hm, rs, body, hn, fun s => (hi s).trans (hg s)⟩

theorem RunsAsBand.of_meaning {g : State → Out} {body : State → List Nat → Res} (hm : meets i = true) (hn : named i = dests i ++ rs)
    (hi : ∀ s, exec i s = g s) (hg : ∀ s, g s = bandLaneFrame s (dests i) rs body) : RunsAsBand i :=
  ⟨hm, rs, body, hn, fun s => (hi s).trans (hg s)⟩

/-- A computation runs alone without a cross-lane modifier and as a band operation with one (R60). -/
theorem laneCompute_frame {g : State → Out} {ra : Reading} {f : State → Nat → Word → FRes} (hm : meets i = (x != .none))
    (hd : dests i = LaneDst.regs d) (hn : named i = LaneDst.regs d ++ rs) (hi : ∀ s, exec i s = g s)
    (hg : ∀ s, g s = laneCompute s (LaneDst.regs d) rs ra d a x f) : RunsAlone i ∨ RunsAsBand i := by
  rw [← hd] at hn hg
  cases x with
  | none => exact .inl (.of_meaning hm hn hi fun s => hg s)
  | _ => exact .inr (.of_meaning hm hn hi fun s => hg s)

theorem intUnary_frame {f : Word → Word} (hm : meets i = false) (hd : dests i = LaneDst.regs d)
    (hn : named i = LaneDst.regs d ++ LaneSrc.regs a) (hi : ∀ s, exec i s = intUnary f d a s) : RunsAlone i ∨ RunsAsBand i :=
  laneCompute_frame (x := .none) hm hd hn hi fun s => by rw [intUnary]

theorem intBinary_frame {f : Word → Word → Word} (hm : meets i = false) (hd : dests i = LaneDst.regs d)
    (hn : named i = LaneDst.regs d ++ LaneSrc.regs a ++ LaneSrc.regs b) (hi : ∀ s, exec i s = intBinary f d a b s) :
    RunsAlone i ∨ RunsAsBand i :=
  laneCompute_frame (x := .none) (rs := read2 a b) hm hd (by rw [hn, List.append_assoc, read2]) hi fun s => by rw [intBinary]

theorem packed2_frame {g : State → Out} {p : PFmt} {f : Nat → Nat → Nat × Word} (hm : meets i = (x != .none)) (hd : dests i = LaneDst.regs d)
    (hn : named i = LaneDst.regs d ++ LaneSrc.regs a ++ LaneSrc.regs b) (hi : ∀ s, exec i s = g s)
    (hg : ∀ s, g s = packed2 p f d a x b s) : RunsAlone i ∨ RunsAsBand i :=
  laneCompute_frame (rs := read2 a b) hm hd (by rw [hn, List.append_assoc, read2]) hi fun s => by rw [hg, packed2]

theorem floatUnary_frame {f : FVal → FRes} (hm : meets i = (x != .none)) (hd : dests i = LaneDst.regs d)
    (hn : named i = LaneDst.regs d ++ LaneSrc.regs a) (hi : ∀ s, exec i s = floatUnary f d a x s) : RunsAlone i ∨ RunsAsBand i :=
  laneCompute_frame hm hd hn hi fun s => by rw [floatUnary]

end Frames

/-- The frame of a lane computation or cross-lane operation (04). -/
theorem frame_of_compute {i : Instr} (hl : isLane i = true) (hc : isLaneMemory i = false) (hk : isLaneControl i = false) :
    RunsAlone i ∨ RunsAsBand i := by
  have assoc (d : LaneDst) (a b : LaneSrc) : LaneDst.regs d ++ LaneSrc.regs a ++ LaneSrc.regs b = LaneDst.regs d ++ read2 a b :=
    List.append_assoc ..
  have assoc3 (d : LaneDst) (a b c : LaneSrc) :
      LaneDst.regs d ++ LaneSrc.regs a ++ LaneSrc.regs b ++ LaneSrc.regs c = LaneDst.regs d ++ read3 a b c := by simp [read3, read2]
  cases i with
  | iadd | isub | imul | imulh | imulhu | imin | imax | iminu | imaxu | and | or | xor | shl | shr | sar =>
    exact intBinary_frame rfl rfl rfl fun _ => rfl
  | andn => exact intBinary_frame (f := fun x y => x &&& ~~~y) rfl rfl rfl fun _ => rfl
  | popc d a => exact intUnary_frame (f := countOnes) rfl rfl rfl fun _ => rfl
  | clz d a => exact intUnary_frame (f := countZeros) rfl rfl rfl fun _ => rfl
  | fmin d a b => exact laneCompute_frame (g := execFmin d a b) (x := .none) rfl rfl (assoc d a b) (fun _ => rfl) fun _ => by rw [execFmin]
  | fmax d a b => exact laneCompute_frame (g := execFmax d a b) (x := .none) rfl rfl (assoc d a b) (fun _ => rfl) fun _ => by rw [execFmax]
  | fabs d a => exact laneCompute_frame (g := execFabs d a) (x := .none) rfl rfl rfl (fun _ => rfl) fun _ => by rw [execFabs]
  | fneg d a => exact laneCompute_frame (g := execFneg d a) (x := .none) rfl rfl rfl (fun _ => rfl) fun _ => by rw [execFneg]
  | fclass d a => exact laneCompute_frame (g := execFclass d a) (x := .none) rfl rfl rfl (fun _ => rfl) fun _ => by rw [execFclass]
  | bfe s d a x b => exact laneCompute_frame (g := execBfe s d a x b) rfl rfl (assoc d a b) (fun _ => rfl) fun _ => by rw [execBfe]
  | icmp c u d a x b => exact laneCompute_frame (g := execIcmp c u d a x b) rfl rfl (assoc d a b) (fun _ => rfl) fun _ => by rw [execIcmp]
  | fadd r d a x b => exact laneCompute_frame (g := execFadd r d a x b) rfl rfl (assoc d a b) (fun _ => rfl) fun _ => by rw [execFadd]
  | fsub r d a x b => exact laneCompute_frame (g := execFsub r d a x b) rfl rfl (assoc d a b) (fun _ => rfl) fun _ => by rw [execFsub]
  | fmul r d a x b => exact laneCompute_frame (g := execFmul r d a x b) rfl rfl (assoc d a b) (fun _ => rfl) fun _ => by rw [execFmul]
  | fcmp c d a x b => exact laneCompute_frame (g := execFcmp c d a x b) rfl rfl (assoc d a b) (fun _ => rfl) fun _ => by rw [execFcmp]
  | padd f r d a x b => exact packed2_frame (g := execPadd f r d a x b) rfl rfl rfl (fun _ => rfl) fun _ => by rw [execPadd]
  | pmul f r d a x b => exact packed2_frame (g := execPmul f r d a x b) rfl rfl rfl (fun _ => rfl) fun _ => by rw [execPmul]
  | pmin f d a x b => exact packed2_frame (g := execPmin f d a x b) rfl rfl rfl (fun _ => rfl) fun _ => by rw [execPmin]
  | pmax f d a x b => exact packed2_frame (g := execPmax f d a x b) rfl rfl rfl (fun _ => rfl) fun _ => by rw [execPmax]
  | imad t d a x b c => exact laneCompute_frame (g := execImad t d a x b c) rfl rfl (assoc3 d a b c) (fun _ => rfl) fun _ => by rw [execImad]
  | bfi d a x b c => exact laneCompute_frame (g := execBfi d a x b c) rfl rfl (assoc3 d a b c) (fun _ => rfl) fun _ => by rw [execBfi]
  | ffma r d a x b c => exact laneCompute_frame (g := execFfma r d a x b c) rfl rfl (assoc3 d a b c) (fun _ => rfl) fun _ => by rw [execFfma]
  | pfma f r d a x b c => exact laneCompute_frame (g := execPfma f r d a x b c) rfl rfl (assoc3 d a b c) (fun _ => rfl) fun _ => by rw [execPfma]
  | pdot f r d a x b c => exact laneCompute_frame (g := execPdot f r d a x b c) rfl rfl (assoc3 d a b c) (fun _ => rfl) fun _ => by rw [execPdot]
  | sel d a x b c => exact laneCompute_frame (g := execSel d a x b c) rfl rfl (assoc3 d a b c) (fun _ => rfl) fun _ => by rw [execSel]
  | frcp | frsq | fsqrt | ftrn => exact floatUnary_frame rfl rfl rfl fun _ => rfl
  | cvt t u r d a x => exact laneCompute_frame (g := execCvt t u r d a x) rfl rfl rfl (fun _ => rfl) fun _ => by rw [execCvt]
  | frnd r d a x => exact laneCompute_frame (g := execFrnd r d a x) rfl rfl rfl (fun _ => rfl) fun _ => by rw [execFrnd]
  | mov d a x => exact laneCompute_frame (g := execMov d a x) rfl rfl rfl (fun _ => rfl) fun _ => by rw [execMov]
  | pcvt2 f d a x =>
    cases f with
    | pack f r b => exact laneCompute_frame (g := execPcvt2 (.pack f r b) d a x) rfl rfl (assoc d a b) (fun _ => rfl) fun _ => by rw [execPcvt2]
    | unpack f h => exact laneCompute_frame (g := execPcvt2 (.unpack f h) d a x) rfl rfl rfl (fun _ => rfl) fun _ => by rw [execPcvt2]
  | pcvt4 f d a x c =>
    cases f with
    | pack t f r b => exact laneCompute_frame (g := execPcvt4 (.pack t f r b) d a x c) rfl rfl (assoc3 d a b c) (fun _ => rfl) fun _ => by rw [execPcvt4]
    | unpack t f h r => exact laneCompute_frame (g := execPcvt4 (.unpack t f h r) d a x c) rfl rfl (assoc d a c) (fun _ => rfl) fun _ => by rw [execPcvt4]
  | pcvt8 f d c =>
    cases f with
    | pack f r n => exact .inl (.of_meaning (g := execPcvt8 (.pack f r n) d c) rfl (List.append_assoc ..) (fun _ => rfl) fun _ => rfl)
    | unpack f q r a x => exact laneCompute_frame (g := execPcvt8 (.unpack f q r a x) d c) rfl rfl (assoc d a c) (fun _ => rfl) fun _ => by rw [execPcvt8]
  | movi d w => exact .inl (.of_meaning (g := execMovi d w) rfl (List.append_nil _).symm (fun _ => rfl) fun _ => rfl)
  | rdsp d n => exact .inl (.of_meaning (g := execRdsp d n) rfl (List.append_nil _).symm (fun _ => rfl) fun _ => rfl)
  | rdspClr d => exact .inl (.of_meaning (g := execRdspClr d) rfl (List.append_nil _).symm (fun _ => rfl) fun _ => rfl)
  | xshf d a b => exact .inr (.of_meaning (g := execXshf d a b) rfl (assoc d a b) (fun _ => rfl) fun _ => rfl)
  | xbal d a => exact .inr (.of_meaning (g := execXbal d a) rfl rfl (fun _ => rfl) fun _ => rfl)
  | xred o r d a => exact .inr (.of_meaning (g := execXred o r d a) rfl rfl (fun _ => rfl) fun _ => rfl)
  | xscn o r e d a => exact .inr (.of_meaning (g := execXscn o r e d a) rfl rfl (fun _ => rfl) fun _ => rfl)
  | ld | ldro | st | atom | atomcas | red | cpa | fence | grd | gconf | harr | hwait | hwaits | htest | hmon | cont | enq => exact nomatch hc
  | bra | brz | brnz | jmpi | call | calli | ret | exit | nop | brk | trap => exact nomatch hk
  | _ => exact nomatch hl

/-- The memory instructions of lanes are of one thread each (R85 to R104, R111, R112). -/
theorem frame_of_memory {i : Instr} (h : isLaneMemory i = true) : RunsAlone i := by
  cases i with
  | ld z o ab d a f => exact .of_meaning (g := execLd z o ab d a f) rfl rfl (fun _ => rfl) fun _ => rfl
  | ldro z ab d a f => exact .of_meaning (g := execLdro z ab d a f) rfl rfl (fun _ => rfl) fun _ => rfl
  | st g z o ab a f b => exact .of_meaning (g := execSt g z o ab a f b) rfl rfl (fun _ => rfl) fun _ => rfl
  | atom p w o ab d a f b => exact .of_meaning (g := execAtom p w o ab d a f b) rfl (List.append_assoc ..) (fun _ => rfl) fun _ => rfl
  | atomcas w o ab d a f b => exact .of_meaning (g := execAtomcas w o ab d a f b) rfl rfl (fun _ => rfl) fun _ => rfl
  | red p w o ab a f b => exact .of_meaning (g := execRed p w o ab a f b) rfl rfl (fun _ => rfl) fun _ => rfl
  | cpa ab d a f b => exact .of_meaning (g := execCpa ab d a f b) rfl rfl (fun _ => rfl) fun _ => rfl
  | fence k c ab d => exact .of_meaning (g := execFence k c ab d) rfl (List.append_nil _).symm (fun _ => rfl) fun _ => rfl
  | grd ab d a f => exact .of_meaning (g := execGrd ab d a f) rfl rfl (fun _ => rfl) fun _ => rfl
  | gconf g ab d a f => exact .of_meaning (g := execGconf g ab d a f) rfl rfl (fun _ => rfl) fun _ => rfl
  | harr q d n => exact .of_meaning (g := execHarr q d n) rfl rfl (fun _ => rfl) fun _ => rfl
  | hwait d n b => exact .of_meaning (g := execHwait d n b) rfl rfl (fun _ => rfl) fun _ => rfl
  | hwaits d n b => exact .of_meaning (g := execHwaits d n b) rfl rfl (fun _ => rfl) fun _ => rfl
  | htest d n b => exact .of_meaning (g := execHtest d n b) rfl rfl (fun _ => rfl) fun _ => rfl
  | hmon d n a f => exact .of_meaning (g := execHmon d n a f) rfl rfl (fun _ => rfl) fun _ => rfl
  | cont ab d n => exact .of_meaning (g := execCont ab d n) rfl rfl (fun _ => rfl) fun _ => rfl
  | enq ab d a b => exact .of_meaning (g := execEnq ab d a b) rfl (List.append_assoc ..) (fun _ => rfl) fun _ => rfl
  | _ => exact nomatch h

/-- So are those of control (R107 to R110). -/
theorem frame_of_control {i : Instr} (h : isLaneControl i = true) : RunsAlone i := by
  cases i with
  | bra w => exact .of_meaning (g := execBra w) rfl rfl (fun _ => rfl) fun _ => rfl
  | brz a w => exact .of_meaning (g := execBrz a w) rfl rfl (fun _ => rfl) fun _ => rfl
  | brnz a w => exact .of_meaning (g := execBrnz a w) rfl rfl (fun _ => rfl) fun _ => rfl
  | jmpi a => exact .of_meaning (g := execJmpi a) rfl rfl (fun _ => rfl) fun _ => rfl
  | call w => exact .of_meaning (g := execCall w) rfl rfl (fun _ => rfl) fun _ => rfl
  | calli a => exact .of_meaning (g := execCalli a) rfl rfl (fun _ => rfl) fun _ => rfl
  | ret => exact .of_meaning (g := execRet) rfl rfl (fun _ => rfl) fun _ => rfl
  | exit => exact .of_meaning (g := execExit) rfl rfl (fun _ => rfl) fun _ => rfl
  | nop => exact .of_meaning (g := execNop) rfl rfl (fun _ => rfl) fun _ => rfl
  | brk => exact .of_meaning (g := execBrk) rfl rfl (fun _ => rfl) fun _ => rfl
  | trap n => exact .of_meaning (g := execTrap n) rfl rfl (fun _ => rfl) fun _ => rfl
  | _ => exact nomatch h

/-- Every lane instruction runs in one of the two frames, over the registers it names. -/
theorem frame_of_lane {i : Instr} (hl : isLane i = true) : RunsAlone i ∨ RunsAsBand i := by
  by_cases hm : isLaneMemory i = true
  · exact .inl (frame_of_memory hm)
  by_cases hk : isLaneControl i = true
  · exact .inl (frame_of_control hk)
  exact frame_of_compute hl (eq_false_of_ne_true hm) (eq_false_of_ne_true hk)

/-! ### What the frames do before the instruction's own meaning -/

theorem laneFrame_strand {s : State} {q : Nat} {ds rs : List Nat} (body : Nat → Thread → Res) (hc : s.cur = .strand q) :
    laneFrame s ds rs body = .next (s.strandTrap q ⟨1, 0, 0⟩) := by simp [laneFrame, hc, cIllegal]

theorem bandLaneFrame_strand {s : State} {q : Nat} {ds rs : List Nat} (body : State → List Nat → Res) (hc : s.cur = .strand q) :
    bandLaneFrame s ds rs body = .next (s.strandTrap q ⟨1, 0, 0⟩) := by simp [bandLaneFrame, hc, cIllegal]

theorem bandLaneFrame_traps {s : State} {k n : Nat} {t : Thread} {ds rs : List Nat} (body : State → List Nat → Res) (hc : s.cur = .thread k)
    (ht : s.thread? k = some t) (hb : beyond (s.budgetOf k) (ds ++ rs) = some n) :
    bandLaneFrame s ds rs body = .next (s.trapAt k ⟨3, n, 0⟩ true 0) := by simp [bandLaneFrame, hc, ht, hb]

/-- A register in error in any thread of a meeting traps, for the band (R363). -/
theorem unlessBad_bad {s : State} {ks rs : List Nat} (body : State → List Nat → Res)
    (h : ∃ j ∈ ks, ∃ t, s.thread? j = some t ∧ t.anyBad rs = true) : unlessBad rs body s ks = .trap s ⟨5, 12, 0⟩ := by
  obtain ⟨j, hj, t, ht, hb⟩ := h
  have hany : (ks.any fun j => (s.thread? j).any (·.anyBad rs)) = true := List.any_eq_true.2 ⟨j, hj, by simp [ht, hb]⟩
  simp [unlessBad, hany, cAccess]

theorem RunsAlone.settles {i : Instr} (h : RunsAlone i) (s : State) :
    (∀ q, s.cur = .strand q → exec i s = .next (s.strandTrap q ⟨1, 0, 0⟩)) ∧
    (∀ k t m, Runs s k t → beyond (s.budgetOf k) (named i) = some m → exec i s = .next (s.trapAt k ⟨3, m, 0⟩ (meets i) 0)) ∧
    ∀ k t, Runs s k t → (∀ n ∈ named i, n < s.budgetOf k) → t.anyBad (reads i) = true → exec i s = .next (s.trapAt k ⟨5, 12, 0⟩ false 0) := by
  obtain ⟨hm, rs, body, hn, hi⟩ := h
  rw [reads_of_named hn, hn, hm, hi]
  exact ⟨fun q hc => laneFrame_strand _ hc, fun k t m hr hb => laneFrame_traps _ hr.1 hr.2 hb,
    fun k t hr hb hg => laneFrame_bad _ hr.1 hr.2 hb hg⟩

theorem RunsAsBand.settles {i : Instr} (h : RunsAsBand i) (s : State) :
    (∀ q, s.cur = .strand q → exec i s = .next (s.strandTrap q ⟨1, 0, 0⟩)) ∧
    (∀ k t m, Runs s k t → beyond (s.budgetOf k) (named i) = some m → exec i s = .next (s.trapAt k ⟨3, m, 0⟩ (meets i) 0)) ∧
    ∀ k t ks, Runs s k t → (∀ n ∈ named i, n < s.budgetOf k) → MeetsAs s k t ks →
      (∃ j ∈ ks, ∃ x, (met s k t).thread? j = some x ∧ x.anyBad (reads i) = true) →
      exec i s = .next (State.bandFinish ks ((Res.trap (met s k t) ⟨5, 12, 0⟩).piped k t.trapMode)) := by
  obtain ⟨hm, rs, body, hn, hi⟩ := h
  rw [reads_of_named hn, hn, hm, hi]
  refine ⟨fun q hc => bandLaneFrame_strand _ hc, fun k t m hr hb => bandLaneFrame_traps _ hr.1 hr.2 hb, fun k t ks hr hb hmeet hbad => ?_⟩
  rw [bandLaneFrame_runs _ hr.1 hr.2 hb, rendezvous_meets _ hr.2 hmeet, unlessBad_bad _ hbad]

/-- Settles O50: each lane instruction runs in one of two frames, and both check budget, errors and strands before its meaning. -/
theorem budgetAndStrandTraps : Obligations.BudgetAndStrandTraps := by
  intro i s hl
  rcases frame_of_lane hl with h | h
  · obtain ⟨hstrand, hbudget, hbad⟩ := h.settles s
    exact ⟨hstrand, fun k t m hr hm hb hmin => hbudget k t m hr (beyond_of_above hm hb hmin),
      fun k t hr hb => ⟨fun _ hg => hbad k t hr hb hg, fun _ hm => absurd (hm.symm.trans h.1) nofun⟩⟩
  · obtain ⟨hstrand, hbudget, hbad⟩ := h.settles s
    exact ⟨hstrand, fun k t m hr hm hb hmin => hbudget k t m hr (beyond_of_above hm hb hmin),
      fun k t hr hb => ⟨fun hm => absurd (hm.symm.trans h.1) nofun, fun ks _ hmeet hg => hbad k t ks hr hb hmeet hg⟩⟩

end Sys2Proof.Machine
end

section
/-! The uniform scalar ALU, special registers and uniform control (R30, R119-R122). -/

namespace Sys2Proof.Machine

open Sys2Proof.Says

/-! ### Values -/

theorem shiftL_eq (a b : Word) : shiftL a b = BitVec.ofNat 32 (a.toNat * 2 ^ b.toNat) := by
  apply BitVec.eq_of_toNat_eq
  by_cases h : 32 ≤ b.toNat
  · have hz : a.toNat * 2 ^ b.toNat % 2 ^ 32 = 0 := Nat.mod_eq_zero_of_dvd (Dvd.dvd.mul_left (Nat.pow_dvd_pow 2 h) _)
    rw [shiftL, if_pos h, BitVec.toNat_ofNat, hz]
    rfl
  · rw [shiftL, if_neg h, BitVec.toNat_shiftLeft, Nat.shiftLeft_eq, BitVec.toNat_ofNat]

theorem shiftR_eq (a b : Word) : shiftR a b = BitVec.ofNat 32 (a.toNat / 2 ^ b.toNat) := by
  by_cases h : 32 ≤ b.toNat
  · have hz : a.toNat / 2 ^ b.toNat = 0 := Nat.div_eq_of_lt (a.isLt.trans_le (Nat.pow_le_pow_right (by decide) h))
    simp [shiftR, h, hz]
  · rw [shiftR, if_neg h, ← Nat.shiftRight_eq_div_pow, ← BitVec.toNat_ushiftRight, BitVec.ofNat_toNat, BitVec.setWidth_eq]

/-- A shift right by 31 or more leaves copies of the sign alone. -/
theorem toInt_div_pow_of_le (a : Word) {n : Nat} (h : 31 ≤ n) : a.toInt / 2 ^ n = if a.toInt < 0 then -1 else 0 := by
  have hpow : (2 : Int) ^ 31 ≤ 2 ^ n := pow_le_pow_right₀ (by decide) h
  have hlo := a.le_toInt
  have hhi := a.toInt_lt
  split
  case isTrue hneg => exact Int.ediv_eq_neg_one_of_neg_of_le hneg (by omega)
  case isFalse hpos => exact Int.ediv_eq_zero_of_lt (by omega) (by omega)

theorem shiftA_eq (a b : Word) : shiftA a b = BitVec.ofInt 32 (a.toInt / 2 ^ b.toNat) := by
  have hdiv : a.toInt / 2 ^ min b.toNat 31 = a.toInt / 2 ^ b.toNat := by
    rcases Nat.le_total b.toNat 31 with h | h
    · rw [Nat.min_eq_left h]
    · rw [Nat.min_eq_right h, toInt_div_pow_of_le a h, toInt_div_pow_of_le a (Nat.le_refl 31)]
  rw [← hdiv, shiftA, ← BitVec.ofInt_toInt (x := a.sshiftRight _), BitVec.toInt_sshiftRight, Int.shiftRight_eq_div_pow]
  norm_cast

theorem popcount_eq_length_filter (n w : Nat) : popcount n w = ((List.range n).filter fun i => w.testBit i).length := by
  induction n generalizing w with
  | zero => rfl
  | succ n ih =>
    rw [popcount, ih, List.range_succ_eq_map, List.filter_cons, List.filter_map, Nat.testBit_zero]
    have hshift : ((fun i => w.testBit i) ∘ Nat.succ) = fun i => (w / 2).testBit i := funext fun i => Nat.testBit_succ w i
    rw [hshift]
    rcases Nat.mod_two_eq_zero_or_one w with h | h <;> simp [h, Nat.add_comm]

theorem countOnes_eq (x : Word) : countOnes x = BitVec.ofNat 32 ((List.range 32).filter fun i => x.getLsbD i).length :=
  congrArg (BitVec.ofNat 32) (popcount_eq_length_filter 32 x.toNat)

/-! ### The scalar ALU -/

section Scalar

variable {i : Instr} {d : UniDst} {a b : UniSrc}

/-- An instruction of A and B reads A, then B in the state that leaves, and writes f of them (R119). -/
theorem uniBinary_does {f g : Word → Word → Word} (hi : ∀ s, exec i s = uniBinary g d a b s) (hfg : ∀ x y, g x y = f x y) :
    UniformDoes i fun s p _ r =>
      r = .ok (((s.uniSrc p false a).2.uniSrc p false b).2.setUni p d (f (s.uniSrc p false a).1 ((s.uniSrc p false a).2.uniSrc p false b).1)) := by
  refine uniformDoes_of_body (fun s => (hi s).trans (by rw [uniBinary])) ?_
  rintro s p ks r rfl
  simp only [hfg]

/-- One of A alone (R119). -/
theorem uniUnary_does {f g : Word → Word} (hi : ∀ s, exec i s = uniUnary g d a s) (hfg : ∀ x, g x = f x) :
    UniformDoes i fun s p _ r => r = .ok ((s.uniSrc p false a).2.setUni p d (f (s.uniSrc p false a).1)) := by
  refine uniformDoes_of_body (fun s => (hi s).trans (by rw [uniUnary])) ?_
  rintro s p ks r rfl
  simp only [hfg]

end Scalar

/-- SSEL reads its three sources in order, and tests the third (R120). -/
theorem ssel_does (d : UniDst) (a b c : UniSrc) : UniformDoes (.ssel d a b c) fun s p _ r =>
    let x := s.uniSrc p false a
    let y := x.2.uniSrc p false b
    let z := y.2.uniSrc p false c
    r = .ok (z.2.setUni p d (if z.1 = 0 then y.1 else x.1)) :=
  uniformDoes_of_body (fun s => show execSsel d a b c s = _ from rfl) fun _ _ _ _ h => h.symm

theorem smovi_does (d : UniDst) (imm : Word) : UniformDoes (.smovi d imm) fun s p _ r => r = .ok (s.setUni p d imm) :=
  uniformDoes_of_body (fun s => show execSmovi d imm s = _ from rfl) fun _ _ _ _ h => h.symm

/-! ### Special registers -/

/-- A special register other than the clock's two halves, and a strand's budget, reads what the party gives it (R30). -/
theorem State.uniSrc_sp {s : State} {p : Party} {i : Fin 32} (f : Bool) (h12 : i.val ≠ 12) (h13 : i.val ≠ 13)
    (h18 : i.val = 18 → ∃ b, p = .band b) : s.uniSrc p f (.sp i) = (s.spValue p i.val, s) := by
  cases p with
  | band b => simp [State.uniSrc, h12, h13]
  | strand q =>
    have hn : i.val ≠ 18 := fun h => by obtain ⟨b, hb⟩ := h18 h; cases hb
    simp [State.uniSrc, h12, h13, hn]

theorem State.uniSrc_clk {s : State} {p : Party} {i : Fin 32} (f : Bool) (h : i.val = 12) :
    s.uniSrc p f (.sp i) = (BitVec.ofNat 32 s.clk, match p with
      | .band b => s.modBand b fun x => { x with clkh := BitVec.ofNat 32 (s.clk / 2 ^ 32) }
      | .strand q => s.setStrand q { s.strand q with clkh := BitVec.ofNat 32 (s.clk / 2 ^ 32) }) := by
  have hclk : s.spValue p 12 = BitVec.ofNat 32 s.clk := by simp [State.spValue, BitVec.ofNat, Fin.ofNat]
  rw [← hclk]
  cases p <;> simp only [State.uniSrc, h, beq_self_eq_true, if_true]

theorem State.uniSrc_clkh {s : State} {p : Party} {i : Fin 32} (f : Bool) (h : i.val = 13) :
    s.uniSrc p f (.sp i) = (match p with
      | .band b => ((s.band? b).map (·.clkh)).getD 0
      | .strand q => (s.strand q).clkh, s) := by
  obtain rfl : i = 13 := Fin.ext h
  cases p <;> rfl

/-- What the special registers of a strand read: its own, its block's and its node's (R30). -/
theorem State.spValue_strand {s : State} {q : Nat} {y : Block} (hy : s.block? (s.strand q).block = some y) :
    let sp (j : Nat) : Word := s.spValue (.strand q) j
    let n (m : Nat) : Word := BitVec.ofNat 32 m
    sp 2 = (s.strand q).band ∧ sp 3 = (s.strand q).nband ∧ sp 4 = n y.blockId ∧ sp 6 = n (s.strandRole q) ∧ sp 7 = n (q / 2 % 96) ∧
      sp 8 = n (q / 2 / 96) ∧ sp 9 = n s.pkg.toNat ∧ sp 10 = n y.node ∧ sp 11 = n y.inst ∧ sp 14 = y.spRecall ∧
      sp 15 = n (gradeCode (s.taint y.task)) ∧ ∀ st, s.nodeSt y.inst y.node = some st → sp 5 = n st.grid := by
  refine ⟨rfl, rfl, ?_, rfl, rfl, rfl, rfl, ?_, ?_, ?_, ?_, fun st hst => ?_⟩ <;>
    simp only [State.spValue, State.partyBlock, State.partyTask, Option.bind_some, Option.map_some, Option.getD_some, *]

/-! ### Control -/

/-- A transfer of a party goes IMM clauses on where it is taken, else past the instruction (R121). -/
theorem State.uniBranch_eq (s : State) (p : Party) (ks : List Nat) (imm : Word) (taken : Bool) : s.uniBranch p ks imm taken =
    .goto s (if taken then clauseOf (s.partyPc p ks) + imm.signExtend 56 * 32 else clauseOf (s.partyPc p ks) + 32) := rfl

/-- A conditional transfer on the value of A (R121). -/
theorem uniBranch_does {i : Instr} {a : UniSrc} {imm : Word} {c : Word → Bool}
    (hi : ∀ s, exec i s = uniFrame s fun s p ks => (s.uniSrc p false a).2.uniBranch p ks imm (c (s.uniSrc p false a).1)) :
    UniformDoes i fun s p ks r =>
      r = .goto (s.uniSrc p false a).2 (if c (s.uniSrc p false a).1 then
        clauseOf ((s.uniSrc p false a).2.partyPc p ks) + imm.signExtend 56 * 32 else clauseOf ((s.uniSrc p false a).2.partyPc p ks) + 32) :=
  uniformDoes_of_body hi fun _ _ _ _ h => h.symm

/-- Settles O22: each instruction does what its body does, and each value is the one that the word says. -/
theorem uniformScalarAndControlResults : Obligations.UniformScalarAndControlResults := by
  refine ⟨?_, ?_, ?_⟩
  · intro d a b c imm two one
    exact ⟨uniBinary_does (f := fun x y => x + y) (fun _ => rfl) fun _ _ => rfl,
      uniBinary_does (f := fun x y => x - y) (fun _ => rfl) fun _ _ => rfl,
      uniBinary_does (f := fun x y => x * y) (fun _ => rfl) fun _ _ => rfl,
      uniBinary_does (g := minS) (f := fun x y => if x.toInt ≤ y.toInt then x else y) (fun _ => rfl) fun _ _ => rfl,
      uniBinary_does (g := maxS) (f := fun x y => if x.toInt ≤ y.toInt then y else x) (fun _ => rfl) fun _ _ => rfl,
      uniBinary_does (f := fun x y => x &&& y) (fun _ => rfl) fun _ _ => rfl,
      uniBinary_does (f := fun x y => x ||| y) (fun _ => rfl) fun _ _ => rfl,
      uniBinary_does (f := fun x y => x ^^^ y) (fun _ => rfl) fun _ _ => rfl,
      uniBinary_does (g := shiftL) (f := fun x y => BitVec.ofNat 32 (x.toNat * 2 ^ y.toNat)) (fun _ => rfl) shiftL_eq,
      uniBinary_does (g := shiftR) (f := fun x y => BitVec.ofNat 32 (x.toNat / 2 ^ y.toNat)) (fun _ => rfl) shiftR_eq,
      uniBinary_does (g := shiftA) (f := fun x y => BitVec.ofInt 32 (x.toInt / 2 ^ y.toNat)) (fun _ => rfl) shiftA_eq,
      fun cc u => uniBinary_does (g := fun x y => boolWord (icmpVal cc u x y)) (f := fun x y => if icmpVal cc u x y then 1 else 0)
        (fun _ => rfl) fun _ _ => rfl,
      ssel_does d a b c,
      uniUnary_does (g := id) (f := fun x => x) (fun _ => rfl) fun _ => rfl,
      smovi_does d imm,
      uniUnary_does (g := countOnes) (f := fun x => BitVec.ofNat 32 ((List.range 32).filter fun i => x.getLsbD i).length)
        (fun _ => rfl) countOnes_eq⟩
  · intro s p f i hi
    refine ⟨State.uniSrc_sp f, fun h => ?_, fun h => ?_, ?_⟩
    · rw [State.uniSrc_clk f h]
      exact ⟨rfl, fun q hq => by rw [hq], fun b hb => by rw [hb]⟩
    · rw [State.uniSrc_clkh f h]
      exact ⟨fun q hq => by rw [hq], fun b x hb hx => by rw [hb]; simp only [hx, Option.map_some, Option.getD_some]⟩
    · rintro q y rfl hy
      exact State.spValue_strand hy
  · intro a imm d goesTo
    exact ⟨uniformDoes_of_body (fun s => show execSbra imm s = _ from rfl) fun _ _ _ _ h => h.symm,
      uniBranch_does (c := fun x => x == 0) fun s => show execSbrz a imm s = _ from rfl,
      uniBranch_does (c := fun x => x != 0) fun s => show execSbrnz a imm s = _ from rfl,
      uniformDoes_of_body (fun s => show execSloop d imm s = _ from rfl) fun _ _ _ _ h => h.symm,
      strandDoes_of_body (fun s => show execSdone s = _ from rfl) (fun _ _ _ => rfl) fun _ _ _ _ h => h.symm⟩

end Sys2Proof.Machine
end

section
/-! Branches, jumps, calls and returns (R16, R107, R108). -/

namespace Sys2Proof.Machine

open Sys2Proof.Says

/-! ### Clauses -/

theorem clauseOf_toNat (pc : Addr) : (clauseOf pc).toNat = pc.toNat / 32 * 32 := by
  refine Nat.eq_of_testBit_eq fun i => ?_
  have hclause : (clauseOf pc).toNat.testBit i = (pc.getLsbD i && (decide (i < 56) && !(31#56).getLsbD i)) := by
    rw [BitVec.testBit_toNat, clauseOf, BitVec.getLsbD_and, BitVec.getLsbD_not]
  have hmask : (31#56).getLsbD i = decide (i < 5) := by
    rw [← BitVec.testBit_toNat]
    exact Nat.testBit_two_pow_sub_one 5 i
  have hdiv : (pc.toNat / 32 * 32).testBit i = (decide (5 ≤ i) && pc.toNat.testBit i) := by
    rw [show pc.toNat / 32 * 32 = (pc.toNat >>> 5) <<< 5 by rw [Nat.shiftRight_eq_div_pow, Nat.shiftLeft_eq],
      Nat.testBit_shiftLeft, Nat.testBit_shiftRight]
    by_cases h : 5 ≤ i
    · rw [Nat.add_sub_cancel' h]
    · simp [h]
  rw [hclause, hmask, hdiv, BitVec.testBit_toNat]
  rcases Nat.lt_or_ge i 56 with hi | hi
  · simp only [hi, decide_true, Bool.true_and, ← decide_not, Nat.not_lt, Bool.and_comm]
  · rw [BitVec.getLsbD_of_ge _ _ hi, Bool.false_and, Bool.and_false]

theorem clauseOf_eq (pc : Addr) : clauseOf pc = BitVec.ofNat 56 (pc.toNat / 32 * 32) := by
  rw [← clauseOf_toNat, BitVec.ofNat_toNat, BitVec.setWidth_eq]

/-- The target of a branch: the clause plus 32 * IMM (R16). -/
theorem clauseTarget_eq (pc : Addr) (imm : Word) : clauseTarget pc imm = BitVec.ofInt 56 ((pc.toNat / 32 * 32 : Nat) + 32 * imm.toInt) := by
  rw [clauseTarget, clauseOf_eq, BitVec.ofInt_add, BitVec.ofInt_mul, BitVec.ofInt_natCast, BitVec.mul_comm]
  rfl

theorem nextClause_eq (pc : Addr) : nextClause pc = BitVec.ofNat 56 (pc.toNat / 32 * 32 + 32) := by
  rw [nextClause, clauseOf_eq, BitVec.ofNat_add]
  rfl

/-! ### Transfers -/

section Transfers

variable {s : State} {k : Nat} {t : Thread}

/-- Going on at a pc changes the thread alone, and at a halt its core (R373). -/
theorem State.goTo_onlyThread (pc : Addr) (ht : s.thread? k = some t) : OnlyThread s (s.goTo k pc) k t :=
  ⟨State.goTo_frame s k pc, fun _ hj => State.goTo_thread_other s pc hj, fun hr => State.goTo_cores pc ht hr,
    fun _ => by rw [State.goTo_frame]; rfl⟩

/-- i does no more than to let thread k go on at pc. -/
def Goes (s : State) (k : Nat) (t : Thread) (i : Instr) (pc : Addr) : Prop :=
  ∃ u, exec i s = .next u ∧ OnlyThread s u k t ∧
    ∃ t', u.thread? k = some t' ∧ t'.pc = pc ∧ t'.status = .ready ∧ t'.v = t.v ∧ t'.f = t.f ∧ t'.rs = t.rs ∧ t'.fstat = t.fstat ∧
      t'.trapstat = t.trapstat ∧ t'.trapMode = t.trapMode

theorem goes_of_exec {i : Instr} {pc : Addr} (ht : s.thread? k = some t) (h : exec i s = .next (s.goTo k pc)) : Goes s k t i pc := by
  obtain ⟨t', hthr, hpc, hst, hv, hf, hrs, hfs, hts, htm, -⟩ := State.goTo_thread pc ht
  exact ⟨_, h, State.goTo_onlyThread pc ht, t', hthr, hpc, hst, hv, hf, hrs, hfs, hts, htm⟩

/-- A lane instruction that names no destination runs its body. -/
theorem laneFrame_reads {rs : List Nat} (body : Nat → Thread → Res) (h : Lane s k t rs) :
    laneFrame s [] rs body = .next (State.laneFinish k (body k t)) := by
  obtain ⟨hcur, ht, hb, hg⟩ := h
  exact laneFrame_runs body hcur ht hb hg

theorem bra_goes (imm : Word) (h : Lane s k t []) : Goes s k t (.bra imm) (clauseTarget t.pc imm) :=
  goes_of_exec h.2.1 (laneFrame_reads _ h)

theorem nop_goes (h : Lane s k t []) : Goes s k t .nop (s.pcAfter k) := goes_of_exec h.2.1 (laneFrame_reads _ h)

theorem brz_goes {a : LaneSrc} (imm : Word) (h : Lane s k t (LaneSrc.regs a)) :
    Goes s k t (.brz a imm) (if s.laneSrc k .int a = 0 then clauseTarget t.pc imm else nextClause t.pc) := by
  refine goes_of_exec h.2.1 ((laneFrame_reads _ h).trans ?_)
  split <;> rfl

theorem brnz_goes {a : LaneSrc} (imm : Word) (h : Lane s k t (LaneSrc.regs a)) :
    Goes s k t (.brnz a imm) (if s.laneSrc k .int a = 0 then nextClause t.pc else clauseTarget t.pc imm) := by
  refine goes_of_exec h.2.1 ((laneFrame_reads _ h).trans ?_)
  split <;> rfl

/-- A jump to a multiple of 32 goes to the code base plus it (R16, R107). -/
theorem State.jump_aligned {w : Word} (go : State → Addr → Res) (h : w.toNat % 32 = 0) :
    s.jump k w go = go s (s.bandBase (bandOfThread k) + BitVec.ofNat 56 w.toNat) := by
  rw [State.jump, BitVec.ofNat_toNat]
  simp only [h, bne_self_eq_false, Bool.false_eq_true, if_false]

theorem State.jump_misaligned {w : Word} (go : State → Addr → Res) (h : w.toNat % 32 ≠ 0) : s.jump k w go = .trap s cMisaligned := by
  rw [State.jump]
  simp only [bne_iff_ne, ne_eq, h, not_false_eq_true, if_true]

theorem jmpi_goes {a : LaneSrc} (h : Lane s k t (LaneSrc.regs a)) (ha : (s.laneSrc k .int a).toNat % 32 = 0) :
    Goes s k t (.jmpi a) (s.bandBase (bandOfThread k) + BitVec.ofNat 56 (s.laneSrc k .int a).toNat) := by
  refine goes_of_exec h.2.1 ((laneFrame_reads _ h).trans ?_)
  rw [State.jump_aligned _ ha, State.laneFinish]

theorem exec_jmpi_misaligned {a : LaneSrc} (h : Lane s k t (LaneSrc.regs a)) (ha : (s.laneSrc k .int a).toNat % 32 ≠ 0) :
    exec (.jmpi a) s = .next (s.laneTrap k ⟨4, 0, 0⟩) := by
  refine (laneFrame_reads _ h).trans ?_
  rw [State.jump_misaligned _ ha, State.laneFinish, cMisaligned]

/-! ### The return stack -/

/-- A call pushes and transfers; CALLI checks the alignment of A first (R108). -/
theorem exec_call (imm : Word) (h : Lane s k t []) :
    exec (.call imm) s = .next (State.laneFinish k (s.pushGo k t (clauseTarget t.pc imm))) := laneFrame_reads _ h

theorem exec_calli {a : LaneSrc} (h : Lane s k t (LaneSrc.regs a)) (ha : (s.laneSrc k .int a).toNat % 32 = 0) :
    exec (.calli a) s =
      .next (State.laneFinish k (s.pushGo k t (s.bandBase (bandOfThread k) + BitVec.ofNat 56 (s.laneSrc k .int a).toNat))) := by
  refine (laneFrame_reads _ h).trans ?_
  rw [State.jump_aligned _ ha]

theorem exec_calli_misaligned {a : LaneSrc} (h : Lane s k t (LaneSrc.regs a)) (ha : (s.laneSrc k .int a).toNat % 32 ≠ 0) :
    exec (.calli a) s = .next (s.laneTrap k ⟨4, 0, 0⟩) := by
  refine (laneFrame_reads _ h).trans ?_
  rw [State.jump_misaligned _ ha, State.laneFinish, cMisaligned]

theorem State.pushGo_room (pc : Addr) (hr : t.rs.length < 8) :
    s.pushGo k t pc = .goto (s.modThread k fun t => { t with rs := nextClause t.pc :: t.rs }) pc := by
  simp only [State.pushGo, hr, if_true]

theorem State.pushGo_full (pc : Addr) (hr : 8 ≤ t.rs.length) :
    s.pushGo k t pc = s.spill k t fun s => .goto (s.modThread k fun t => { t with rs := nextClause t.pc :: t.rs }) pc := by
  simp only [State.pushGo, Nat.not_lt.2 hr, if_false]

/-- Without room in the thread's area a spill traps with DETAIL 10 (R108). -/
theorem State.spill_traps (go : State → Res) (h : s.localArea k = none ∨ ∃ base n, s.localArea k = some (base, n) ∧ n ≤ t.spilled) :
    s.spill k t go = .trap s (cAccess 10) := by
  rcases h with h | ⟨base, n, h, hn⟩
  · simp only [State.spill, h]
  · simp only [State.spill, h, hn, if_true]

section Chunk

variable {base n : Nat} {s1 : State} {acc : Acc}

/-- An access that is placed, allowed and free of errors goes on at its place (R84, R236, R363). -/
theorem State.placeVa_ok {sp : Space} {c va sz kind : Nat} {use : Use} {host : Bool} (go : State → Acc → Res)
    (hp : s.place sp c va use host = (.ok acc, s1)) (hu : bellUse acc sz kind use = true)
    (hbad : ((use == .read || kind == 2 || acc.graded) && s1.accBad acc sz) = false) (hd : s1.accDead acc sz = false) :
    s.placeVa sp c va sz kind use host go = go s1 acc := by
  simp only [State.placeVa, hp, hu, hbad, hd, Bool.not_true, Bool.or_self, Bool.false_eq_true, if_false]

/-- A spill to a page that is not graded is performed at once (R108; log 86). -/
theorem State.spill_stores (go : State → Res) (ha : s.localArea k = some (base, n)) (hn : t.spilled < n)
    (hp : s.place (s.bandSpace (bandOfThread k)) (coreOfThread k) (base + 64 * t.spilled) .write false = (.ok acc, s1))
    (hu : bellUse acc 64 7 .write = true) (hd : s1.accDead acc 64 = false) (hg : acc.graded = false) :
    let s2 := s1.countOnce k t acc 0 1
    s.spill k t go = go ((s2.performStore acc (chunkBytes t.rs) (s2.partOf k)).modThread k fun u =>
      { u with rs := [], spilled := u.spilled + 1 }) := by
  have hbad : ((Use.write == .read || 7 == 2 || acc.graded) && s1.accBad acc 64) = false := by rw [hg]; rfl
  have hline : acc.gradedLine = none := by simp [Acc.gradedLine, hg]
  simp only [State.spill, ha, Nat.not_le.2 hn, if_false, State.placeVa_ok _ hp hu hbad hd, hline]

/-- A fill from a page of this package that is not graded reads the chunk at once (R108). -/
theorem State.fillStack_reads {h : Nat} (go : State → List Addr → Res) (ha : s.localArea k = some (base, n))
    (hp : s.place (s.bandSpace (bandOfThread k)) (coreOfThread k) (base + 64 * (t.spilled - 1)) .read false = (.ok acc, s1))
    (hu : bellUse acc 64 7 .read = true) (hbad : s1.accBad acc 64 = false) (hd : s1.accDead acc 64 = false) (hg : acc.graded = false)
    (hh : acc.loc.home = some h) :
    let s2 := s1.countOnce k t acc 1 0
    s.fillStack k t go = go s2 (chunkEntries (s2.bytes h 64)) := by
  have hbad' : ((Use.read == .read || 7 == 2 || acc.graded) && s1.accBad acc 64) = false := by rw [hbad, Bool.and_false]
  have hlines : acc.lines 64 = [] := by simp [Acc.lines, hg]
  simp only [State.fillStack, ha, State.placeVa_ok _ hp hu hbad' hd, hh, State.fillWith, hlines, List.head?_nil]

end Chunk

/-- A return with entries pops the latest (R108). -/
theorem exec_ret_pops {pc : Addr} {rest : List Addr} (h : Lane s k t []) (hr : t.rs = pc :: rest) :
    exec .ret s = .next ((s.modThread k fun t => { t with rs := rest }).goTo k pc) := by
  refine (laneFrame_reads _ h).trans ?_
  simp only [hr, List.isEmpty_cons, Bool.false_and, Bool.false_eq_true, if_false, State.popGo, State.laneFinish]

theorem exec_ret_fills (h : Lane s k t []) (hr : t.rs = []) (hs : t.spilled ≠ 0) :
    exec .ret s = .next (State.laneFinish k (s.fillStack k t fun s rs =>
      (s.modThread k fun t => { t with spilled := t.spilled - 1 }).popGo k rs)) := by
  refine (laneFrame_reads _ h).trans ?_
  simp only [hr, List.isEmpty_nil, Bool.true_and, bne_iff_ne, ne_eq, hs, not_false_eq_true, if_true]

theorem exec_ret_empty (h : Lane s k t []) (hr : t.rs = []) (hs : t.spilled = 0) : exec .ret s = .next (s.laneTrap k ⟨1, 1, 0⟩) := by
  refine (laneFrame_reads _ h).trans ?_
  simp only [hr, hs, List.isEmpty_nil, bne_self_eq_false, Bool.and_false, Bool.false_eq_true, if_false, State.popGo, State.laneFinish]

end Transfers

/-- Settles O17: transfers go on at their targets, and calls and returns go by what the return stack holds. -/
theorem controlTransferResults : Obligations.ControlTransferResults := by
  refine ⟨?_, ?_⟩
  · intro a imm s k t goes clause target next A
    have htarget : clauseTarget t.pc imm = target := clauseTarget_eq t.pc imm
    have hnext : nextClause t.pc = next := nextClause_eq t.pc
    refine ⟨fun h => ⟨htarget ▸ bra_goes imm h, nop_goes h⟩, fun h => ⟨?_, ?_, jmpi_goes h, exec_jmpi_misaligned h⟩⟩
    · exact htarget ▸ hnext ▸ brz_goes imm h
    · exact htarget ▸ hnext ▸ brnz_goes imm h
  · intro a imm s k t A push
    refine ⟨fun h hr => ?_, fun h hr ha => ?_, ?_, fun hr harea => ⟨fun h => ?_, fun h ha => ?_⟩, exec_calli_misaligned,
      fun pc rest => exec_ret_pops, ?_, exec_ret_empty⟩
    · rw [exec_call imm h, State.pushGo_room _ hr, State.laneFinish]
    · rw [exec_calli h ha, State.pushGo_room _ hr, State.laneFinish]
    · rintro i pc base n s1 acc (⟨rfl, h, rfl⟩ | ⟨rfl, h, ha, rfl⟩) hr harea hn hp hu hd hg
      · rw [exec_call imm h, State.pushGo_full _ hr, State.spill_stores _ harea hn hp hu hd hg, State.laneFinish]
      · rw [exec_calli h ha, State.pushGo_full _ hr, State.spill_stores _ harea hn hp hu hd hg, State.laneFinish]
    · rw [exec_call imm h, State.pushGo_full _ hr, State.spill_traps _ harea, State.laneFinish, cAccess]
    · rw [exec_calli h ha, State.pushGo_full _ hr, State.spill_traps _ harea, State.laneFinish, cAccess]
    · intro base n s1 acc h pc rest hl hr hs harea hp hu hbad hd hg hh s2 hchunk
      rw [exec_ret_fills hl hr hs, State.fillStack_reads _ harea hp hu hbad hd hg hh, hchunk, State.popGo, State.laneFinish]

end Sys2Proof.Machine
end

section
/-! Uniform register writes and the budgets of bands (R28, R118, R123-R125, R196). -/

namespace Sys2Proof.Machine

open Sys2Proof.Says

/-! ### Writes of s registers -/

theorem bitAt_toNat {n : Nat} (w : BitVec n) (i : Nat) : bitAt w.toNat i = w.getLsbD i := by
  rw [← BitVec.testBit_toNat, bitAt, Nat.testBit_eq_decide_div_mod_eq]
  rfl

section Writes

variable {s : State} {b : Nat} {x : Band}

theorem State.setUni_s31 (s : State) (b : Nat) {n : Fin 32} (w : Word) (hn : n.val = 31) : s.setUni (.band b) (.s n) w =
    (s.letGo b (w &&& s.liveMask b)).modBand b fun x => { x with s := x.s.set 31 (w &&& s.liveMask b) } := by
  simp [State.setUni, State.setS, hn]

theorem State.setUni_s (s : State) (b : Nat) {n : Fin 32} (w : Word) (hn : n.val ≠ 31) :
    s.setUni (.band b) (.s n) w = s.modBand b fun x => { x with s := x.s.set n w } := by
  simp [State.setUni, State.setS, hn]

/-- What PM lets go in a surrender routine: threads alone (R170, R196). -/
theorem State.letGo_frame (s : State) (b : Nat) (pm : Word) : s.letGo b pm = { s with threads := (s.letGo b pm).threads } := by
  unfold State.letGo
  split <;> rfl

theorem State.letGo_none {pm : Word} (h : s.routineIn b = false) : s.letGo b pm = s := by simp [State.letGo, h]

/-- In a routine, the threads that PM newly names become ready now, where they were held for standing outside it (R170, R196). -/
theorem State.letGo_threads {pm : Word} (hx : s.band? b = some x) (h : s.routineIn b = true) :
    (s.letGo b pm).threads = mmap s.threads fun k t =>
      if bandOfThread k = b ∧ pm.getLsbD (laneOfThread k) = true ∧ x.s[31].getLsbD (laneOfThread k) = false ∧
        t.status = .ready ∧ t.trapMode = false ∧ t.yielded = false then { t with readyAt := s.clk, clauses := 0 } else t := by
  simp only [State.letGo, h, hx, Bool.not_true, Bool.false_eq_true, if_false, Option.map_some, Option.getD_some, bitAt_toNat, Band.pm,
    Bool.and_eq_true, beq_iff_eq, Bool.not_eq_true', and_assoc]

theorem State.setUni_band_frame (s : State) (b : Nat) (n : Fin 32) (w : Word) : s.setUni (.band b) (.s n) w =
    { s with bands := (s.setUni (.band b) (.s n) w).bands, threads := (s.setUni (.band b) (.s n) w).threads } := by
  by_cases hn : n.val = 31
  · rw [State.setUni_s31 s b w hn, State.letGo_frame]
    rfl
  · rw [State.setUni_s s b w hn]
    rfl

theorem State.setUni_band_threads {n : Fin 32} (w : Word) (h : n.val ≠ 31 ∨ s.routineIn b = false) :
    (s.setUni (.band b) (.s n) w).threads = s.threads := by
  by_cases hn : n.val = 31
  · rw [State.setUni_s31 s b w hn, State.letGo_none (h.resolve_left fun h => h hn)]
    rfl
  · rw [State.setUni_s s b w hn]
    rfl

/-- The band whose register is written, and its fellows. -/
theorem State.setUni_band_same {n : Fin 32} (w : Word) (hx : s.band? b = some x) : (s.setUni (.band b) (.s n) w).band? b =
    some { x with s := x.s.set n (if n.val = 31 then w &&& s.liveMask b else w) } := by
  by_cases hn : n.val = 31
  · obtain rfl : n = 31 := Fin.ext hn
    rw [State.setUni_s31 s b w hn, State.band_modBand, State.letGo_frame]
    exact congrArg (Option.map _) hx
  · rw [State.setUni_s s b w hn, State.band_modBand, hx, if_neg hn]
    rfl

theorem State.setUni_band_other {n : Fin 32} {j : Nat} (w : Word) (hj : j ≠ b) : (s.setUni (.band b) (.s n) w).band? j = s.band? j := by
  by_cases hn : n.val = 31
  · rw [State.setUni_s31 s b w hn, State.band_modBand_other _ _ hj, State.letGo_frame]
    rfl
  · rw [State.setUni_s s b w hn, State.band_modBand_other _ _ hj]

theorem State.bandS_eq (hx : s.band? b = some x) (n : Fin 32) : s.bandS b n.val = x.s[n] := by
  simp only [State.bandS, hx, n.isLt, dif_pos, Fin.getElem_fin]

/-- A strand's write changes its register alone (R118). -/
theorem State.setUni_strand (s : State) (q : Nat) (n : Fin 32) (w : Word) :
    s.setUni (.strand q) (.s n) w = s.setStrand q (((s.strand q).setS n.val w).noteWrite s.clk n.val) := rfl

theorem Strand.setS_noteWrite_s (y : Strand) (clk : Nat) (n : Fin 32) (w : Word) :
    ((y.setS n.val w).noteWrite clk n.val).s = y.s.set n w := by
  simp [Strand.noteWrite, Strand.setS]

end Writes

/-! ### Budgets -/

/-- An instruction that only a band may execute: its body traps for a strand (R114, R179). -/
theorem bandDoes_of_body {i : Instr} {means : State → Nat → List Nat → Res → Prop} {body : State → Party → List Nat → Res}
    (hi : ∀ s, exec i s = uniFrame s body) (hstrand : ∀ s q ks, body s (.strand q) ks = .trap s cIllegal)
    (hb : ∀ s b ks r, means s b ks r → body s (.band b) ks = r) : BandDoes i means := by
  refine uniformDoes_of_body hi fun s p ks r h => ?_
  cases p with
  | band b => exact hb s b ks r h
  | strand q => exact (hstrand s q ks).trans h.symm

/-- Reading a uniform source leaves the block of a band as it was. -/
theorem State.uniSrc_blockOfBand (s : State) (b : Nat) (f : Bool) (a : UniSrc) :
    (s.uniSrc (.band b) f a).2.blockOfParty (.band b) = s.blockOfParty (.band b) := by
  have hclk (w : Word) : (s.modBand b fun x => { x with clkh := w }).blockOfParty (.band b) = s.blockOfParty (.band b) := by
    have hblock : (s.modBand b fun x => { x with clkh := w }).blockOfBand b = s.blockOfBand b := by
      simp only [State.blockOfBand, State.band_modBand, Option.bind_map]
      rfl
    simp only [State.blockOfParty, State.partyBlock, hblock]
    rfl
  cases a with
  | s n => rfl
  | k n => rfl
  | sp n =>
    simp only [State.uniSrc]
    split
    case isTrue => exact hclk _
    case isFalse => split <;> rfl

section Grow

variable {s : State} {b h n : Nat} {d : UniDst} {x : Band} {blk : Nat} {y : Block}

theorem State.growBand_outside (h n : Nat) (d : UniDst) (hb : s.blockOfParty (.band b) = none) :
    s.growBand b d h n = .trap s (cHasp h) := by
  cases hx : s.band? b <;> simp only [State.growBand, hb, hx]

/-- GROW of a band of a block on a hasp that the block does not hold, or a membership hasp (R124, R238). -/
theorem State.growBand_misuse (n : Nat) (d : UniDst) (hx : s.band? b = some x) (hb : s.blockOfParty (.band b) = some (blk, y))
    (hok : ¬ (y.holds h = true ∧ bitAt y.membs.toNat h = false)) : s.growBand b d h n = .trap s (cHasp h) := by
  have hbad : (!y.holds h || bitAt y.membs.toNat h) = true := by
    rw [Bool.or_eq_true, Bool.not_eq_true']
    by_contra hno
    rw [not_or, Bool.not_eq_false, Bool.not_eq_true] at hno
    exact hok hno
  simp only [State.growBand, hx, hb, hbad, if_true]

/-- On a hasp that it may name, by what is pending and what the band has (R124). -/
theorem State.growBand_held (n : Nat) (d : UniDst) (hx : s.band? b = some x) (hb : s.blockOfParty (.band b) = some (blk, y))
    (hok : y.holds h = true ∧ bitAt y.membs.toNat h = false) : s.growBand b d h n =
      if x.grow.isSome then .ok (s.setUni (.band b) d 2)
      else if x.budget < n then
        .ok (((s.modBand b fun x => { x with grow := some ⟨n, h⟩ }).modCore (coreOfBand b)
          fun c => { c with growQ := c.growQ ++ [b] }).setUni (.band b) d 0)
      else if !(s.hasp (haspKey (coreOfBand b) h)).valid then .trap s (cHasp h)
      else .ok ((s.arriveHeld (coreOfBand b) h (s.hasp (haspKey (coreOfBand b) h)) false).setUni (.band b) d 1) := by
  obtain ⟨hheld, hmemb⟩ := hok
  simp only [State.growBand, hx, hb, hheld, hmemb, Bool.not_true, Bool.or_self, Bool.false_eq_true, if_false]

end Grow

/-- GROW checks its operand, then what `growBand` checks, and a trap leaves the state before the operand was read (R123, R124). -/
theorem grow_bandDoes (d : UniDst) (h : Fin 32) (a : UniSrc) : BandDoes (.grow d h a) fun s b _ r =>
    ∃ n s1, s.uniSrc (.band b) false a = (n, s1) ∧
      ((budgetOk n.toNat = false ∧ r = .trap s ⟨1, 0, 0⟩) ∨
        (budgetOk n.toNat = true ∧ s.blockOfParty (.band b) = none ∧ r = .trap s ⟨7, h.val, 0⟩) ∨
        ∃ x blk y, budgetOk n.toNat = true ∧ s1.band? b = some x ∧ s1.blockOfParty (.band b) = some (blk, y) ∧
          let ok := y.holds h.val = true ∧ bitAt y.membs.toNat h.val = false
          let hasp := s1.hasp (haspKey (coreOfBand b) h.val)
          ((¬ ok ∧ r = .trap s ⟨7, h.val, 0⟩) ∨
            (ok ∧ x.grow ≠ none ∧ r = .ok (s1.setUni (.band b) d 2)) ∨
            (ok ∧ x.grow = none ∧ x.budget < n.toNat ∧
              r = .ok (((s1.modBand b fun x => { x with grow := some ⟨n.toNat, h.val⟩ }).modCore (coreOfBand b)
                fun c => { c with growQ := c.growQ ++ [b] }).setUni (.band b) d 0)) ∨
            (ok ∧ x.grow = none ∧ n.toNat ≤ x.budget ∧ hasp.valid = false ∧ r = .trap s ⟨7, h.val, 0⟩) ∨
            (ok ∧ x.grow = none ∧ n.toNat ≤ x.budget ∧ hasp.valid = true ∧
              r = .ok ((s1.arriveHeld (coreOfBand b) h.val hasp false).setUni (.band b) d 1)))) := by
  refine bandDoes_of_body (fun s => show execGrow d h a s = _ from rfl) (fun _ _ _ => rfl) ?_
  rintro s b ks r ⟨n, s1, hsrc, hm⟩
  have hblock : s1.blockOfParty (.band b) = s.blockOfParty (.band b) := by
    rw [← State.uniSrc_blockOfBand s b false a, hsrc]
  simp only [hsrc]
  rcases hm with ⟨hn, rfl⟩ | ⟨hn, hout, rfl⟩ | ⟨x, blk, y, hn, hx, hy, hm⟩
  · simp only [hn, Bool.false_eq_true, if_false, cIllegal]
  · simp only [hn, if_true, State.growBand_outside h.val n.toNat d (hblock.trans hout), cHasp]
  rcases hm with ⟨hok, rfl⟩ | ⟨hok, hg, rfl⟩ | ⟨hok, hg, hlt, rfl⟩ | ⟨hok, hg, hle, hv, rfl⟩ | ⟨hok, hg, hle, hv, rfl⟩
  · simp only [hn, if_true, State.growBand_misuse n.toNat d hx hy hok, cHasp]
  · simp only [hn, if_true, State.growBand_held n.toNat d hx hy hok, Option.isSome_iff_ne_none.2 hg]
  · simp only [hn, if_true, State.growBand_held n.toNat d hx hy hok, hg, Option.isSome_none, Bool.false_eq_true, if_false, hlt]
  · simp only [hn, if_true, State.growBand_held n.toNat d hx hy hok, hg, Option.isSome_none, Bool.false_eq_true, if_false,
      Nat.not_lt.2 hle, hv, Bool.not_false, cHasp]
  · simp only [hn, if_true, State.growBand_held n.toNat d hx hy hok, hg, Option.isSome_none, Bool.false_eq_true, if_false,
      Nat.not_lt.2 hle, hv, Bool.not_true]

/-- SHRINK waits for the writes still due to the registers it gives back (R125). -/
theorem shrink_bandDoes (a : UniSrc) : BandDoes (.shrink a) fun s b _ r =>
    ∃ n s1 x, s.uniSrc (.band b) false a = (n, s1) ∧ s.band? b = some x ∧
      ((budgetOk n.toNat = false ∧ r = .trap s ⟨1, 0, 0⟩) ∨
        (budgetOk n.toNat = true ∧ x.budget ≤ n.toNat ∧ r = .ok s1) ∨
        (budgetOk n.toNat = true ∧ n.toNat < x.budget ∧ s.dueAbove b n.toNat = true ∧ r = .stay s) ∨
        (budgetOk n.toNat = true ∧ n.toNat < x.budget ∧ s.dueAbove b n.toNat = false ∧
          r = .ok (s1.modBand b fun x => { x with budget := n.toNat }))) := by
  refine bandDoes_of_body (fun s => show execShrink a s = _ from rfl) (fun _ _ _ => rfl) ?_
  rintro s b ks r ⟨n, s1, x, hsrc, hx, hm⟩
  simp only [hsrc, hx, Option.map_some, Option.getD_some]
  rcases hm with ⟨hn, rfl⟩ | ⟨hn, hle, rfl⟩ | ⟨hn, hlt, hdue, rfl⟩ | ⟨hn, hlt, hdue, rfl⟩
  · simp only [hn, Bool.not_false, if_true, cIllegal]
  · simp only [hn, Bool.not_true, Bool.false_eq_true, if_false, hle, if_true]
  · simp only [hn, Bool.not_true, Bool.false_eq_true, if_false, Nat.not_le.2 hlt, hdue, if_true]
  · simp only [hn, Bool.not_true, Bool.false_eq_true, if_false, Nat.not_le.2 hlt, hdue]

section Grant

variable {s : State} {core b : Nat} {rest : List Nat} {x : Band} {g : GrowReq}

/-- The head of a core's requests waits while the pool lacks room (R124). -/
theorem exec_growGrant_waits (hq : (s.core core).growQ = b :: rest) (hx : s.band? b = some x) (hg : x.grow = some g)
    (hroom : s.freeRegs core < 32 * (g.n - x.budget)) : exec (.growGrant core) s = .next s := by
  change execGrowGrant core s = _
  simp only [execGrowGrant, hq, hx, hg, hroom, if_true]

/-- Once it has room the budget rises, the new registers read 0, and the grant arrives on its hasp where that is valid (R124; log 67). -/
theorem exec_growGrant_grants (hq : (s.core core).growQ = b :: rest) (hx : s.band? b = some x) (hg : x.grow = some g)
    (hroom : 32 * (g.n - x.budget) ≤ s.freeRegs core) :
    let s1 := ((s.modBand b fun x => { x with budget := max x.budget g.n, grow := none }).clearRegs b x.budget g.n).modCore core
      fun c => { c with growQ := rest }
    exec (.growGrant core) s = .next
      (if (s.hasp (haspKey core g.hasp)).valid then s1.arriveHeld core g.hasp (s1.hasp (haspKey core g.hasp)) false else s1) := by
  intro s1
  change execGrowGrant core s = _
  have hhasp : s1.hasp (haspKey core g.hasp) = s.hasp (haspKey core g.hasp) := rfl
  simp only [execGrowGrant, hq, hx, hg, Nat.not_lt.2 hroom, if_false]
  rw [← hhasp]
  exact (apply_ite Host.Outcome.next _ _ _).symm

end Grant

/-- Settles O23: a write reaches its register in the party's file, and budgets go by what the band has, asks and is due. -/
theorem uniformWritesAndBudgets : Obligations.UniformWritesAndBudgets := by
  refine ⟨?_, fun d h a => ⟨grow_bandDoes d h a, shrink_bandDoes a, fun s core b rest x g hq hx hg =>
    ⟨exec_growGrant_waits hq hx hg, exec_growGrant_grants hq hx hg⟩⟩⟩
  intro s b x n m w hx u
  have hu := State.setUni_band_same (n := n) w hx
  refine ⟨State.setUni_band_frame s b n w, State.setUni_band_threads w, fun hn hr => ?_, fun j => State.setUni_band_other w, rfl,
    fun hn => ?_, fun hn => ?_, fun hm => ?_, fun q hr => ?_⟩
  · exact (congrArg State.threads (State.setUni_s31 s b w hn)).trans (State.letGo_threads hx hr)
  · rw [State.bandS_eq hu, if_neg hn]
    exact Vector.getElem_set_self ..
  · obtain rfl : n = 31 := Fin.ext hn
    exact (State.bandS_eq hu 31).trans (Vector.getElem_set_self ..)
  · rw [State.bandS_eq hu, State.bandS_eq hx]
    exact Vector.getElem_set_ne n.isLt m.isLt fun h => hm (Fin.ext h).symm
  · intro v
    have hv : (v.strand q).s = (s.strand q).s.set n w := by
      rw [← Strand.setS_noteWrite_s _ s.clk]
      exact congrArg Strand.s (State.strand_setStrand _ _ _ hr)
    refine ⟨rfl, ?_, fun hm => ?_, fun j hj => State.strand_setStrand_other _ _ hj⟩
    · rw [hv]
      exact Vector.getElem_set_self ..
    · rw [hv]
      exact Vector.getElem_set_ne n.isLt m.isLt fun h => hm (Fin.ext h).symm

end Sys2Proof.Machine
end

section
/-! The one rounding of a float format is the rounding of the manual (R37, R41, R42, R45), in real numbers. -/

namespace Sys2Proof.Machine

open Sys2Proof.Says

/-! ### Rounding to an integer -/

/-- n is the nonnegative number t of sign s rounded to an integer under RM (R23). -/
def IntRounds (rm : Rm) (s : Bool) (t : ℝ) (n : Nat) : Prop :=
  let down : Prop := (n : ℝ) ≤ t ∧ t < n + 1
  let up : Prop := t ≤ n ∧ (n : ℝ) < t + 1
  match rm with
  | .nearest => |t - n| ≤ 1 / 2 ∧ (|t - n| = 1 / 2 → n % 2 = 0)
  | .zero => down
  | .down => if s then up else down
  | .up => if s then down else up

/-- What the half and the rest of a fraction, as `roundsUp` judges it, say of a number t whose whole part is f. -/
structure Fraction (t : ℝ) (f : Nat) (half rest : Bool) : Prop where
  whole : half = false → rest = false → t = f
  low : half = false → rest = true → (f : ℝ) < t ∧ t < f + 1 / 2
  tie : half = true → rest = false → t = f + 1 / 2
  high : half = true → rest = true → (f : ℝ) + 1 / 2 < t ∧ t < f + 1

section Integer

variable {rm : Rm} {s : Bool} {t : ℝ} {f n : Nat} {half rest : Bool}

theorem intRounds_self (rm : Rm) (s : Bool) (n : Nat) : IntRounds rm s n n := by
  cases rm <;> cases s <;> simp [IntRounds]

/-- The nearest integer, of two the even one. -/
theorem Fraction.intRounds_nearest (h : Fraction t f half rest) :
    IntRounds .nearest s t (f + boolNat (roundsUp .nearest s (f % 2 == 1) half rest)) := by
  obtain ⟨whole, low, tie, high⟩ := h
  rcases half with _ | _ <;> rcases rest with _ | _
  · obtain rfl := whole rfl rfl
    exact intRounds_self ..
  · obtain ⟨hl, hr⟩ := low rfl rfl
    have hlt : |t - f| < 1 / 2 := abs_lt.2 ⟨by linarith, by linarith⟩
    exact ⟨hlt.le, fun h => absurd h hlt.ne⟩
  · obtain rfl := tie rfl rfl
    rcases Nat.mod_two_eq_zero_or_one f with hf | hf
    · simp [IntRounds, roundsUp, boolNat, hf]
    · have hodd : (f + 1) % 2 = 0 := by omega
      simp only [IntRounds, roundsUp, boolNat, hf]
      norm_num [abs_le, hodd]
  · obtain ⟨hl, hr⟩ := high rfl rfl
    have hlt : |t - (f + 1 : Nat)| < 1 / 2 := by
      push_cast
      exact abs_lt.2 ⟨by linarith, by linarith⟩
    exact ⟨hlt.le, fun h => absurd h hlt.ne⟩

/-- Toward one side: the whole part, or one more where a fraction is to go up. -/
theorem Fraction.between (h : Fraction t f half rest) : (f : ℝ) ≤ t ∧ t < f + 1 ∧ ((half || rest) = false → t = f) ∧
    ((half || rest) = true → (f : ℝ) < t) := by
  obtain ⟨whole, low, tie, high⟩ := h
  rcases half with _ | _ <;> rcases rest with _ | _
  · obtain rfl := whole rfl rfl
    simp
  · obtain ⟨hl, hr⟩ := low rfl rfl
    exact ⟨hl.le, by linarith, nofun, fun _ => hl⟩
  · obtain rfl := tie rfl rfl
    exact ⟨by linarith, by linarith, nofun, fun _ => by linarith⟩
  · obtain ⟨hl, hr⟩ := high rfl rfl
    exact ⟨by linarith, hr, nofun, fun _ => by linarith⟩

theorem Fraction.rounds_down (h : Fraction t f half rest) : (f : ℝ) ≤ t ∧ t < f + 1 := ⟨h.between.1, h.between.2.1⟩

theorem Fraction.rounds_up (h : Fraction t f half rest) :
    t ≤ (f + boolNat (half || rest) : Nat) ∧ ((f + boolNat (half || rest) : Nat) : ℝ) < t + 1 := by
  obtain ⟨hle, hlt, heq, hgt⟩ := h.between
  cases hfr : half || rest with
  | false => simp [boolNat, heq hfr]
  | true =>
    have := hgt hfr
    simp only [boolNat, if_true]
    push_cast
    exact ⟨hlt.le, by linarith⟩

theorem Fraction.intRounds (h : Fraction t f half rest) : IntRounds rm s t (f + boolNat (roundsUp rm s (f % 2 == 1) half rest)) := by
  cases rm with
  | nearest => exact h.intRounds_nearest
  | zero => exact h.rounds_down
  | down =>
    cases s with
    | false => exact h.rounds_down
    | true => exact h.rounds_up
  | up =>
    cases s with
    | false => exact h.rounds_up
    | true => exact h.rounds_down

/-- Nothing is lost where the number is an integer. -/
theorem Fraction.exact_iff (h : Fraction t f half rest) :
    (half || rest) = false ↔ t = (f + boolNat (roundsUp rm s (f % 2 == 1) half rest) : Nat) := by
  obtain ⟨hle, hlt, heq, hgt⟩ := h.between
  constructor
  case mp =>
    intro hno
    obtain ⟨rfl, rfl⟩ := Bool.or_eq_false_iff.1 hno
    rw [heq hno]
    cases rm <;> simp [roundsUp, boolNat]
  case mpr =>
    intro ht
    by_contra hyes
    have hl := hgt (eq_true_of_ne_false hyes)
    rw [ht] at hl hlt
    norm_cast at hl hlt
    omega

/-- A rounded integer lies within one of the number. -/
theorem IntRounds.bounds (h : IntRounds rm s t n) : (n : ℝ) < t + 1 ∧ t < n + 1 := by
  have side (h : ((n : ℝ) ≤ t ∧ t < n + 1) ∨ (t ≤ n ∧ (n : ℝ) < t + 1)) : (n : ℝ) < t + 1 ∧ t < n + 1 := by
    rcases h with ⟨hl, hr⟩ | ⟨hl, hr⟩
    · exact ⟨by linarith, hr⟩
    · exact ⟨hr, by linarith⟩
  cases rm with
  | nearest =>
    obtain ⟨hl, hr⟩ := abs_le.1 h.1
    exact ⟨by linarith, by linarith⟩
  | zero => exact side (.inl h)
  | down =>
    cases s with
    | false => exact side (.inl h)
    | true => exact side (.inr h)
  | up =>
    cases s with
    | false => exact side (.inr h)
    | true => exact side (.inl h)

/-- It lies between the same integers as the number. -/
theorem IntRounds.le_of_le (h : IntRounds rm s t n) {c : Nat} (hc : (c : ℝ) ≤ t) : c ≤ n := by
  have hlt : (c : ℝ) < n + 1 := hc.trans_lt h.bounds.2
  exact_mod_cast Nat.lt_succ_iff.1 (by exact_mod_cast hlt)

theorem IntRounds.le_of_ge (h : IntRounds rm s t n) {c : Nat} (hc : t ≤ c) : n ≤ c := by
  have hlt : (n : ℝ) < c + 1 := h.bounds.1.trans_le (by linarith)
  exact_mod_cast Nat.lt_succ_iff.1 (by exact_mod_cast hlt)

/-- No integer is nearer than the nearest. -/
theorem IntRounds.nearest_le (h : IntRounds .nearest s t n) (c : Nat) : |t - n| ≤ |t - c| := by
  rcases eq_or_ne c n with rfl | hc
  · exact le_rfl
  have hone : (1 : ℝ) ≤ |(n : ℝ) - c| := by
    exact_mod_cast Int.one_le_abs (sub_ne_zero.2 (Nat.cast_injective.ne hc.symm : (n : ℤ) ≠ c))
  have htri : |(n : ℝ) - c| ≤ |t - n| + |t - c| := by
    rw [abs_sub_comm t n]
    exact (abs_sub_le (n : ℝ) t c)
  linarith [h.1]

/-- Where another is as near, the nearest is the even one. -/
theorem IntRounds.even_of_tie (h : IntRounds .nearest s t n) {c : Nat} (hc : c ≠ n) (he : |t - c| = |t - n|) : n % 2 = 0 := by
  have hone : (1 : ℝ) ≤ |(n : ℝ) - c| := by
    exact_mod_cast Int.one_le_abs (sub_ne_zero.2 (Nat.cast_injective.ne hc.symm : (n : ℤ) ≠ c))
  have htri : |(n : ℝ) - c| ≤ |t - n| + |t - c| := by
    rw [abs_sub_comm t n]
    exact (abs_sub_le (n : ℝ) t c)
  exact h.2 (le_antisymm h.1 (by linarith))

end Integer

/-! ### Rounding at an exponent -/

/-- The quotient, the half and the rest of a division by twice h, of m + d with d below 1. -/
theorem fraction_of_div {m h : Nat} {d : ℝ} {sticky : Bool} (hh : 0 < h) (h0 : 0 ≤ d) (h1 : d < 1) (hs : sticky = true ↔ 0 < d) :
    Fraction (((m : ℝ) + d) / (2 * h : Nat)) (m / (2 * h)) (decide (h ≤ m % (2 * h))) (sticky || decide (m % (2 * h) % h ≠ 0)) := by
  have hm : 2 * h * (m / (2 * h)) + m % (2 * h) = m := Nat.div_add_mod ..
  have hr : m % (2 * h) < 2 * h := Nat.mod_lt _ (by omega)
  generalize m / (2 * h) = f at *
  generalize m % (2 * h) = r at *
  have hpos : (0 : ℝ) < (2 * h : Nat) := by exact_mod_cast (by omega : 0 < 2 * h)
  have ht : ((m : ℝ) + d) / (2 * h : Nat) = f + (r + d) / (2 * h : Nat) := by
    rw [← hm]
    push_cast at hpos ⊢
    field_simp
    ring
  have hnone : (sticky || decide (r % h ≠ 0)) = false → d = 0 ∧ r % h = 0 := by
    intro hno
    rw [Bool.or_eq_false_iff, decide_eq_false_iff_not, not_not] at hno
    exact ⟨le_antisymm (not_lt.1 fun hd => by rw [hs.2 hd] at hno; exact absurd hno.1 nofun) h0, hno.2⟩
  have hsome : (sticky || decide (r % h ≠ 0)) = true → 0 < d ∨ r % h ≠ 0 := by
    intro hyes
    rwa [Bool.or_eq_true, hs, decide_eq_true_eq] at hyes
  have hhalf : (1 : ℝ) / 2 = h / (2 * h : Nat) := by
    have : (h : ℝ) ≠ 0 := by exact_mod_cast hh.ne'
    push_cast
    field_simp
  rw [ht]
  constructor
  case whole =>
    intro hlt hno
    obtain ⟨rfl, hmod⟩ := hnone hno
    rw [decide_eq_false_iff_not, not_le] at hlt
    rw [Nat.mod_eq_of_lt hlt] at hmod
    simp [hmod]
  case low =>
    intro hlt hyes
    rw [decide_eq_false_iff_not, not_le] at hlt
    have hlow : (0 : ℝ) < r + d := by
      rcases hsome hyes with hd | hmod
      · positivity
      · have : 0 < r := Nat.pos_of_ne_zero fun h0 => hmod (by simp [h0])
        positivity
    have hup : (r : ℝ) + 1 ≤ h := by exact_mod_cast hlt
    rw [hhalf]
    exact ⟨by linarith [div_pos hlow hpos], by linarith [div_lt_div_of_pos_right (show (r : ℝ) + d < h by linarith) hpos]⟩
  case tie =>
    intro hge hno
    obtain ⟨rfl, hmod⟩ := hnone hno
    rw [decide_eq_true_eq] at hge
    obtain rfl : r = h := by
      rw [Nat.mod_eq_sub_mod hge, Nat.mod_eq_of_lt (by omega)] at hmod
      omega
    rw [hhalf, add_zero]
  case high =>
    intro hge hyes
    rw [decide_eq_true_eq] at hge
    have hlow : (h : ℝ) < r + d := by
      rcases hsome hyes with hd | hmod
      · have : (h : ℝ) ≤ r := by exact_mod_cast hge
        linarith
      · have : h < r := lt_of_le_of_ne hge fun he => hmod (by simp [← he])
        have : (h : ℝ) < r := by exact_mod_cast this
        linarith
    have hup : (r : ℝ) + 1 ≤ (2 * h : Nat) := by exact_mod_cast hr
    rw [hhalf]
    refine ⟨by linarith [div_lt_div_of_pos_right hlow hpos], ?_⟩
    linarith [(div_lt_one hpos).2 (show (r : ℝ) + d < (2 * h : Nat) by linarith)]

/-- `roundAt` rounds (m + d) * 2^e to a multiple of 2^q, and says whether that changed it. -/
theorem roundAt_intRounds {rm : Rm} {s : Bool} {m : Nat} {e q : Int} {sticky : Bool} {d : ℝ} (h0 : 0 ≤ d) (h1 : d < 1)
    (hs : sticky = true ↔ 0 < d) (hq : sticky = true → e < q) :
    let t : ℝ := (m + d) * 2 ^ e / 2 ^ q
    let r := roundAt rm s m e sticky q
    IntRounds rm s t r.1 ∧ (r.2 = false ↔ t = r.1) := by
  intro t r
  by_cases hqe : q ≤ e
  · have hd : d = 0 := le_antisymm (not_lt.1 fun hd => absurd (hq (hs.2 hd)) (not_lt.2 hqe)) h0
    have hst : sticky = false := by
      rw [← Bool.not_eq_true, hs, hd]
      exact lt_irrefl 0
    have ht : t = r.1 := by
      obtain ⟨j, rfl⟩ := Int.le.dest hqe
      simp only [t, r, roundAt, hqe, if_true, hd, add_zero, add_sub_cancel_left, Int.toNat_natCast]
      push_cast
      rw [mul_div_assoc, zpow_add₀ two_ne_zero, zpow_natCast, mul_div_cancel_left₀ _ (zpow_ne_zero _ two_ne_zero)]
    refine ⟨ht ▸ intRounds_self rm s r.1, fun _ => ht, fun _ => ?_⟩
    simp only [r, roundAt, hqe, if_true, hst]
  · obtain ⟨j, hj⟩ : ∃ j : Nat, (q - e).toNat = j + 1 := ⟨(q - e).toNat - 1, by omega⟩
    have hpow : (2 : Nat) ^ (j + 1) = 2 * 2 ^ j := by rw [pow_succ, mul_comm]
    have ht : t = ((m : ℝ) + d) / (2 * 2 ^ j : Nat) := by
      have hqj : q = e + (j + 1 : Nat) := by omega
      simp only [t]
      rw [← hpow, hqj, zpow_add₀ two_ne_zero, zpow_natCast, mul_comm ((m : ℝ) + d), mul_div_mul_left _ _ (zpow_ne_zero _ two_ne_zero)]
      push_cast
      rfl
    have hfr := fraction_of_div (m := m) (Nat.two_pow_pos j) h0 h1 hs
    rw [← ht] at hfr
    have hr : r = (m / (2 * 2 ^ j) + boolNat (roundsUp rm s (m / (2 * 2 ^ j) % 2 == 1) (decide (2 ^ j ≤ m % (2 * 2 ^ j)))
        (sticky || decide (m % (2 * 2 ^ j) % 2 ^ j ≠ 0))),
        decide (2 ^ j ≤ m % (2 * 2 ^ j)) || (sticky || decide (m % (2 * 2 ^ j) % 2 ^ j ≠ 0))) := by
      simp only [r, roundAt, hqe, if_false, hj, hpow, Nat.add_sub_cancel]
    rw [hr]
    exact ⟨hfr.intRounds, hfr.exact_iff⟩

/-! ### Rounding to a format's magnitudes -/

section Grid

variable {F : FFmt} {low : Bool} {rm : Rm} {s : Bool} {t z : ℝ} {q : ℤ} {n : Nat}

/-- A magnitude of the grid is a multiple of 2^q, or lies below the numbers whose leading bit stands mb above q. -/
theorem onGrid_multiple (hz : OnGrid F low z) (hq : (2 : ℝ) ^ F.mb ≤ t ∨ (low = true ∧ q = F.qmin)) :
    (∃ c : Nat, z = c * (2 : ℝ) ^ q) ∨ ((2 : ℝ) ^ F.mb ≤ t ∧ z < (2 : ℝ) ^ F.mb * 2 ^ q) := by
  obtain ⟨c, p, hc, hp, rfl⟩ := hz
  by_cases hle : q ≤ p
  · obtain ⟨j, rfl⟩ := Int.le.dest hle
    refine .inl ⟨c * 2 ^ j, ?_⟩
    rw [zpow_add₀ two_ne_zero, zpow_natCast]
    push_cast
    ring
  · refine .inr ⟨hq.resolve_right fun ⟨hl, hqm⟩ => hle (hqm ▸ hp hl), ?_⟩
    obtain ⟨j, hj⟩ := Int.le.dest (Int.lt_iff_add_one_le.1 (not_le.1 hle))
    have hc' : (c : ℝ) < 2 ^ F.mb * 2 := by exact_mod_cast hc.trans_eq (pow_succ ..)
    have hstep : (2 : ℝ) * 2 ^ p ≤ 2 ^ q := by
      rw [← hj, zpow_add₀ two_ne_zero, zpow_add_one₀ two_ne_zero, zpow_natCast, mul_comm (2 : ℝ)]
      exact le_mul_of_one_le_right (by positivity) (one_le_pow₀ one_le_two)
    calc (c : ℝ) * 2 ^ p < 2 ^ F.mb * 2 * 2 ^ p := mul_lt_mul_of_pos_right hc' (by positivity)
      _ = 2 ^ F.mb * (2 * 2 ^ p) := mul_assoc ..
      _ ≤ 2 ^ F.mb * 2 ^ q := mul_le_mul_of_nonneg_left hstep (by positivity)

/-- What is rounded at a grid's own quantum lies on the grid. -/
theorem onGrid_of_le (hl : low = true → F.qmin ≤ q) (hn : n ≤ 2 ^ (F.mb + 1)) : OnGrid F low (n * (2 : ℝ) ^ q) := by
  rcases hn.lt_or_eq with hn | rfl
  · exact ⟨n, q, hn, hl, rfl⟩
  · refine ⟨2 ^ F.mb, q + 1, Nat.pow_lt_pow_right (by decide) (Nat.lt_succ_self _), fun h => (hl h).trans (by omega), ?_⟩
    rw [zpow_add_one₀ two_ne_zero]
    push_cast
    ring

theorem evenOnGrid_of_le (hb : 1 ≤ F.mb) (hl : low = true → F.qmin ≤ q) (hn : n ≤ 2 ^ (F.mb + 1)) (he : n % 2 = 0)
    (hq : 2 ^ F.mb ≤ n ∨ (low = true ∧ q = F.qmin)) : EvenOnGrid F low (n * (2 : ℝ) ^ q) := by
  rcases hn.lt_or_eq with hn | rfl
  · exact ⟨n, q, hn, hl, hq, he, rfl⟩
  · obtain ⟨j, hj⟩ := Nat.exists_eq_succ_of_ne_zero (Nat.one_le_iff_ne_zero.1 hb)
    have heven : 2 ^ F.mb % 2 = 0 := by rw [hj, Nat.succ_eq_add_one, pow_succ, Nat.mul_mod_left]
    refine ⟨2 ^ F.mb, q + 1, Nat.pow_lt_pow_right (by decide) (Nat.lt_succ_self _), fun h => (hl h).trans (by omega), .inl le_rfl, heven, ?_⟩
    rw [zpow_add_one₀ two_ne_zero]
    push_cast
    ring

section Rounded

variable (h : IntRounds rm s t n) (hq : (2 : ℝ) ^ F.mb ≤ t ∨ (low = true ∧ q = F.qmin))
include h hq

/-- A magnitude of the grid is a multiple of 2^q, or lies below the number and what it is rounded to, and is no nearer to it. -/
theorem onGrid_apart (hz : OnGrid F low z) : (∃ c : Nat, z = c * (2 : ℝ) ^ q) ∨
    ((2 : ℝ) ^ F.mb ≤ t ∧ z < (2 : ℝ) ^ F.mb * 2 ^ q ∧ z < n * 2 ^ q ∧ z < t * 2 ^ q) := by
  refine (onGrid_multiple hz hq).imp_right fun ⟨ht, hz⟩ => ?_
  have hn : (2 : ℝ) ^ F.mb ≤ n := by exact_mod_cast h.le_of_le (c := 2 ^ F.mb) (by push_cast; exact ht)
  exact ⟨ht, hz, hz.trans_le (mul_le_mul_of_nonneg_right hn (by positivity)),
    hz.trans_le (mul_le_mul_of_nonneg_right ht (by positivity))⟩

theorem onGrid_le_of_down (hd : (n : ℝ) ≤ t ∧ t < n + 1) :
    (n : ℝ) * 2 ^ q ≤ t * 2 ^ q ∧ ∀ z, OnGrid F low z → z ≤ t * 2 ^ q → z ≤ n * 2 ^ q := by
  have hpos : (0 : ℝ) < 2 ^ q := by positivity
  refine ⟨mul_le_mul_of_nonneg_right hd.1 hpos.le, fun z hz hle => ?_⟩
  rcases onGrid_apart h hq hz with ⟨c, rfl⟩ | ⟨-, -, hzn, -⟩
  · have hct : (c : ℝ) < n + 1 := (le_of_mul_le_mul_right hle hpos).trans_lt hd.2
    have hcn : c ≤ n := Nat.lt_succ_iff.1 (by exact_mod_cast hct)
    exact mul_le_mul_of_nonneg_right (by exact_mod_cast hcn) hpos.le
  · exact hzn.le

theorem onGrid_ge_of_up (hd : t ≤ n ∧ (n : ℝ) < t + 1) :
    t * 2 ^ q ≤ (n : ℝ) * 2 ^ q ∧ ∀ z, OnGrid F low z → t * 2 ^ q ≤ z → n * 2 ^ q ≤ z := by
  have hpos : (0 : ℝ) < 2 ^ q := by positivity
  refine ⟨mul_le_mul_of_nonneg_right hd.1 hpos.le, fun z hz hle => ?_⟩
  rcases onGrid_apart h hq hz with ⟨c, rfl⟩ | ⟨-, -, -, hzt⟩
  · have hct : (n : ℝ) < c + 1 := hd.2.trans_le (by linarith [le_of_mul_le_mul_right hle hpos])
    have hcn : n ≤ c := Nat.lt_succ_iff.1 (by exact_mod_cast hct)
    exact mul_le_mul_of_nonneg_right (by exact_mod_cast hcn) hpos.le
  · exact absurd hle (not_le.2 hzt)

end Rounded

theorem abs_sub_scaled (t : ℝ) (q : ℤ) (c : Nat) : |t * 2 ^ q - c * (2 : ℝ) ^ q| = |t - c| * 2 ^ q := by
  rw [← sub_mul, abs_mul, abs_of_pos (show (0 : ℝ) < 2 ^ q by positivity)]

/-- Of the grid the rounded multiple is nearest, and where it is not alone it is even. -/
theorem onGrid_nearest (h : IntRounds .nearest s t n) (hq : (2 : ℝ) ^ F.mb ≤ t ∨ (low = true ∧ q = F.qmin)) (hz : OnGrid F low z) :
    |t * 2 ^ q - n * 2 ^ q| ≤ |t * 2 ^ q - z| ∧ (z ≠ n * 2 ^ q → |t * 2 ^ q - z| = |t * 2 ^ q - n * 2 ^ q| → n % 2 = 0) := by
  have hpos : (0 : ℝ) < 2 ^ q := by positivity
  rcases onGrid_apart h hq hz with ⟨c, rfl⟩ | ⟨ht, hz, -, -⟩
  · rw [abs_sub_scaled, abs_sub_scaled]
    exact ⟨mul_le_mul_of_nonneg_right (h.nearest_le c) hpos.le,
      fun hne he => h.even_of_tie (fun hc => hne (by rw [hc])) (mul_right_cancel₀ hpos.ne' he)⟩
  · have hfar : |t * 2 ^ q - n * (2 : ℝ) ^ q| < |t * 2 ^ q - z| := by
      have hlead := h.nearest_le (2 ^ F.mb)
      push_cast at hlead
      calc |t * 2 ^ q - n * (2 : ℝ) ^ q| = |t - n| * 2 ^ q := abs_sub_scaled t q n
        _ ≤ |t - 2 ^ F.mb| * 2 ^ q := mul_le_mul_of_nonneg_right hlead hpos.le
        _ = t * 2 ^ q - 2 ^ F.mb * 2 ^ q := by rw [abs_of_nonneg (by linarith), sub_mul]
        _ < t * 2 ^ q - z := by linarith
        _ ≤ |t * 2 ^ q - z| := le_abs_self _
    exact ⟨hfar.le, fun _ he => absurd he hfar.ne'⟩

/-- Rounding to a multiple of 2^q rounds to the grid, where q is its quantum at the number (R37, R41). -/
theorem roundsTo_of_intRounds (hb : 1 ≤ F.mb) (hl : low = true → F.qmin ≤ q) (h : IntRounds rm s t n) (ht : t ≤ (2 : ℝ) ^ (F.mb + 1))
    (hq : (2 : ℝ) ^ F.mb ≤ t ∨ (low = true ∧ q = F.qmin)) :
    RoundsTo (OnGrid F low) (EvenOnGrid F low) rm s (t * 2 ^ q) (n * (2 : ℝ) ^ q) := by
  have hn : n ≤ 2 ^ (F.mb + 1) := h.le_of_ge (by push_cast; exact ht)
  have hnq : 2 ^ F.mb ≤ n ∨ (low = true ∧ q = F.qmin) := hq.imp_left fun hq => h.le_of_le (by push_cast; exact hq)
  refine ⟨onGrid_of_le hl hn, ?_⟩
  cases rm with
  | nearest =>
    exact ⟨fun z hz => (onGrid_nearest h hq hz).1,
      fun ⟨z, hz, hne, he⟩ => evenOnGrid_of_le hb hl hn ((onGrid_nearest h hq hz).2 hne he) hnq⟩
  | zero => exact onGrid_le_of_down h hq h
  | down =>
    cases s with
    | false => exact onGrid_le_of_down h hq h
    | true => exact onGrid_ge_of_up h hq h
  | up =>
    cases s with
    | false => exact onGrid_ge_of_up h hq h
    | true => exact onGrid_le_of_down h hq h

end Grid

/-! ### Codes of magnitudes -/

/-- The magnitude that the exponent and fraction bits c stand for (R37). -/
noncomputable def FFmt.codeMag (F : FFmt) (c : Nat) : ℝ :=
  if c / 2 ^ F.mb = 0 then (c % 2 ^ F.mb : Nat) * (2 : ℝ) ^ F.qmin
  else (c % 2 ^ F.mb + 2 ^ F.mb : Nat) * (2 : ℝ) ^ (F.qmin + (c / 2 ^ F.mb : Nat) - 1)

/-- What a format of R37 fulfils: a fraction, and codes up to the largest finite one that are neither a NaN nor an infinity. -/
structure FFmt.Standard (F : FFmt) : Prop where
  frac : 1 ≤ F.mb
  normal : 2 ^ F.mb ≤ F.maxFin
  fits : F.maxFin < 2 ^ (F.eb + F.mb)
  ieee : F.kind = .ieee → F.maxFin + 1 = (2 ^ F.eb - 1) * 2 ^ F.mb
  e4m3 : F.kind = .e4m3 → F.maxFin < 0x7F

theorem fp32_standard : fp32.Standard := ⟨by decide, by decide, by decide, fun _ => by decide, nofun⟩

section Codes

variable {F : FFmt} {c k n : Nat} {s : Bool}

/-- The code of n multiples of a quantum, k above the smallest: a carry out of the fraction reaches the exponent (R37). -/
theorem FFmt.codeMag_quantum (hn : n ≤ 2 ^ (F.mb + 1)) (hk : k = 0 ∨ 2 ^ F.mb ≤ n) :
    F.codeMag (n + k * 2 ^ F.mb) = n * (2 : ℝ) ^ (F.qmin + k) := by
  have hpos : 0 < 2 ^ F.mb := Nat.two_pow_pos _
  have hdiv : (n + k * 2 ^ F.mb) / 2 ^ F.mb = n / 2 ^ F.mb + k := Nat.add_mul_div_right _ _ hpos
  have hmod : (n + k * 2 ^ F.mb) % 2 ^ F.mb = n % 2 ^ F.mb := Nat.add_mul_mod_self_right ..
  rw [FFmt.codeMag, hdiv, hmod]
  rw [pow_succ] at hn
  rcases Nat.lt_or_ge n (2 ^ F.mb) with hlt | hge
  · obtain rfl := hk.resolve_right (not_le.2 hlt)
    rw [Nat.div_eq_of_lt hlt, Nat.mod_eq_of_lt hlt]
    simp
  rcases hn.lt_or_eq with hlt | rfl
  · have hq : n / 2 ^ F.mb = 1 := Nat.div_eq_of_lt_le (by omega) (by omega)
    have hr : n % 2 ^ F.mb + 2 ^ F.mb = n := by
      rw [Nat.mod_eq_sub_mod hge, Nat.mod_eq_of_lt (by omega)]
      omega
    rw [hq, hr, if_neg (by omega)]
    congr 2
    push_cast
    ring
  · have hq : 2 ^ F.mb * 2 / 2 ^ F.mb = 2 := Nat.mul_div_cancel_left 2 hpos
    rw [hq, Nat.mul_mod_right, if_neg (by omega)]
    push_cast
    rw [zero_add, mul_assoc, show F.qmin + (2 + (k : ℤ)) - 1 = F.qmin + k + 1 by ring, zpow_add_one₀ two_ne_zero, mul_comm (2 : ℝ) (_ ^ _)]

/-- The code of a magnitude tells its leading bits and its quantum. -/
theorem FFmt.exists_quantum (F : FFmt) (c : Nat) : ∃ n k, c = n + k * 2 ^ F.mb ∧ n < 2 ^ (F.mb + 1) ∧ (k = 0 ∨ 2 ^ F.mb ≤ n) := by
  have hpos : 0 < 2 ^ F.mb := Nat.two_pow_pos _
  have hmod := Nat.mod_lt c hpos
  have hdm := Nat.div_add_mod' c (2 ^ F.mb)
  rw [pow_succ]
  cases h : c / 2 ^ F.mb with
  | zero =>
    rw [h] at hdm
    exact ⟨c % 2 ^ F.mb, 0, by omega, by omega, .inl rfl⟩
  | succ k =>
    rw [h, Nat.succ_mul] at hdm
    exact ⟨c % 2 ^ F.mb + 2 ^ F.mb, k, by omega, by omega, .inr (by omega)⟩

/-- Codes of magnitudes stand in the order of the magnitudes (R37). -/
theorem FFmt.codeMag_strictMono (F : FFmt) : StrictMono F.codeMag := by
  refine strictMono_nat_of_lt_succ fun c => ?_
  obtain ⟨n, k, rfl, hn, hk⟩ := F.exists_quantum c
  rw [FFmt.codeMag_quantum hn.le hk, Nat.add_right_comm, FFmt.codeMag_quantum hn (hk.imp_right fun h => h.trans (Nat.le_succ n))]
  push_cast
  exact mul_lt_mul_of_pos_right (lt_add_one _) (by positivity)

theorem FFmt.codeMag_zero (F : FFmt) : F.codeMag 0 = 0 := by simp [FFmt.codeMag]

theorem FFmt.magOf_withSign (hc : c < 2 ^ (F.eb + F.mb)) : F.magOf (F.withSign s c) = c := by
  rw [FFmt.magOf, FFmt.withSign, Nat.add_mul_mod_self_right, Nat.mod_eq_of_lt hc]

theorem FFmt.signOf_withSign (hc : c < 2 ^ (F.eb + F.mb)) : F.signOf (F.withSign s c) = s := by
  rw [FFmt.signOf, bitAt, FFmt.withSign, Nat.add_mul_div_right _ _ (Nat.two_pow_pos _), Nat.div_eq_of_lt hc]
  cases s <;> rfl

theorem FFmt.withSign_lt (hc : c < 2 ^ (F.eb + F.mb)) : F.withSign s c < 2 ^ (F.eb + F.mb + 1) := by
  rw [FFmt.withSign, pow_succ]
  cases s <;> simp [boolNat] <;> omega

/-- A pattern of bits that are neither a NaN's nor an infinity's is the value of its sign and its code (R37). -/
theorem FFmt.read_finite {w : Nat} (hn : F.isNan w = false) (hi : F.isInf w = false) :
    ∃ m e, F.read w = .fin (F.signOf w) m e ∧ real (.fin false m e) = F.codeMag (F.magOf w) := by
  simp only [FFmt.read, hn, hi, Bool.false_eq_true, if_false, FFmt.codeMag, beq_iff_eq]
  split
  · exact ⟨_, _, rfl, by simp [real]⟩
  · exact ⟨_, _, rfl, by simp [real]⟩

theorem FFmt.Standard.finite_of_le (hF : F.Standard) {w : Nat} (hc : F.magOf w ≤ F.maxFin) : F.isNan w = false ∧ F.isInf w = false := by
  unfold FFmt.isNan FFmt.isInf
  cases hk : F.kind with
  | ieee =>
    have := hF.ieee hk
    exact ⟨decide_eq_false (by omega), beq_eq_false_iff_ne.2 (by omega)⟩
  | e4m3 =>
    have := hF.e4m3 hk
    exact ⟨beq_eq_false_iff_ne.2 (by omega), rfl⟩
  | e2m1 => exact ⟨rfl, rfl⟩

/-- The pattern of a sign over a finite code has that magnitude (R37). -/
theorem FFmt.Standard.hasMag (hF : F.Standard) (s : Bool) (hc : c ≤ F.maxFin) : HasMag F s (F.withSign s c) (F.codeMag c) := by
  have hlt : c < 2 ^ (F.eb + F.mb) := hc.trans_lt hF.fits
  have hmag : F.magOf (F.withSign s c) = c := FFmt.magOf_withSign hlt
  obtain ⟨hn, hi⟩ := hF.finite_of_le (w := F.withSign s c) (by rw [hmag]; exact hc)
  obtain ⟨m, e, hr, hv⟩ := FFmt.read_finite hn hi
  rw [FFmt.signOf_withSign hlt] at hr
  rw [hmag] at hv
  exact ⟨FFmt.withSign_lt hlt, m, e, hr, hv⟩

end Codes

/-! ### The one rounding -/

/-- The exponent of the last bit that F keeps of a number whose whole part is m * 2^e, were its exponent range unbounded. -/
def FFmt.quantum (F : FFmt) (m : Nat) (e : Int) : Int := e + bitLen m - (F.mb + 1)

theorem bitLen_bounds {m : Nat} (hm : m ≠ 0) : ∃ j, bitLen m = j + 1 ∧ 2 ^ j ≤ m ∧ m < 2 ^ (j + 1) :=
  ⟨m.log2, by simp [bitLen, hm], Nat.log2_self_le hm, Nat.lt_log2_self⟩

section Round

variable {F : FFmt} {rm : Rm} {s : Bool} {m : Nat} {e : Int} {sticky : Bool} {d : ℝ}

/-- A number has its leading bit mb above its quantum. -/
theorem FFmt.quantum_bounds (F : FFmt) (e : Int) (hm : m ≠ 0) (h0 : 0 ≤ d) (h1 : d < 1) :
    (2 : ℝ) ^ F.mb ≤ (m + d) * 2 ^ e / 2 ^ F.quantum m e ∧ (m + d) * (2 : ℝ) ^ e / 2 ^ F.quantum m e ≤ 2 ^ (F.mb + 1) := by
  obtain ⟨j, hj, hlo, hhi⟩ := bitLen_bounds hm
  have hlo' : (2 : ℝ) ^ j ≤ m + d := by
    have : (2 : ℝ) ^ j ≤ m := by exact_mod_cast hlo
    linarith
  have hhi' : (m : ℝ) + d ≤ 2 ^ (j + 1) := by
    have : (m : ℝ) + 1 ≤ 2 ^ (j + 1) := by exact_mod_cast hhi
    linarith
  have hpos : (0 : ℝ) < 2 ^ F.quantum m e := by positivity
  have hscale : (2 : ℝ) ^ F.mb * 2 ^ F.quantum m e = 2 ^ j * 2 ^ e := by
    rw [← zpow_natCast, ← zpow_natCast, ← zpow_add₀ two_ne_zero, ← zpow_add₀ two_ne_zero, FFmt.quantum, hj]
    congr 1
    push_cast
    ring
  constructor
  · rw [le_div_iff₀ hpos, hscale]
    exact mul_le_mul_of_nonneg_right hlo' (by positivity)
  · rw [div_le_iff₀ hpos, pow_succ, mul_right_comm, hscale, mul_right_comm, ← pow_succ]
    exact mul_le_mul_of_nonneg_right hhi' (by positivity)

/-- What `FFmt.round` is given: (m + d) * 2^e with d below 1 told by `sticky`, and bits enough where d is not 0. -/
structure Rounded (F : FFmt) (m : Nat) (sticky : Bool) (d : ℝ) : Prop where
  nonneg : 0 ≤ d
  below : d < 1
  told : sticky = true ↔ 0 < d
  bits : sticky = true → F.mb + 3 ≤ bitLen m
  nonzero : m ≠ 0

theorem Rounded.sticky_lt (h : Rounded F m sticky d) (hs : sticky = true) : e < F.quantum m e := by
  have := h.bits hs
  unfold FFmt.quantum
  omega

/-- Rounded at its quantum, a number is rounded to F's magnitudes with an unbounded exponent range (R42). -/
theorem Rounded.unbounded (h : Rounded F m sticky d) (hb : 1 ≤ F.mb) (rm : Rm) (s : Bool) (e : Int) :
    RoundsTo (OnGrid F false) (EvenOnGrid F false) rm s ((m + d) * 2 ^ e)
      ((roundAt rm s m e sticky (F.quantum m e)).1 * (2 : ℝ) ^ F.quantum m e) := by
  obtain ⟨hlo, hhi⟩ := F.quantum_bounds e h.nonzero h.nonneg h.below
  obtain ⟨hr, -⟩ := roundAt_intRounds (rm := rm) (s := s) (m := m) (e := e) h.nonneg h.below h.told h.sticky_lt
  have hto := roundsTo_of_intRounds (F := F) (low := false) (q := F.quantum m e) hb nofun hr hhi (.inl hlo)
  rwa [div_mul_cancel₀ _ (zpow_ne_zero _ two_ne_zero)] at hto

/-- Above its quantum a number has fewer bits. -/
theorem Rounded.le_at (h : Rounded F m sticky d) {q : Int} (hq : F.quantum m e ≤ q) :
    (m + d) * (2 : ℝ) ^ e / 2 ^ q ≤ (m + d) * 2 ^ e / 2 ^ F.quantum m e :=
  div_le_div_of_nonneg_left (mul_nonneg (add_nonneg (Nat.cast_nonneg m) h.nonneg) (by positivity)) (by positivity)
    (zpow_le_zpow_right₀ one_le_two hq)

/-- Rounded at its quantum or at F's smallest, it is rounded to F's magnitudes (R41). -/
theorem Rounded.bounded (h : Rounded F m sticky d) (hb : 1 ≤ F.mb) (rm : Rm) (s : Bool) (e : Int) :
    let q := max (F.quantum m e) F.qmin
    RoundsTo (OnGrid F true) (EvenOnGrid F true) rm s ((m + d) * 2 ^ e) ((roundAt rm s m e sticky q).1 * (2 : ℝ) ^ q) := by
  intro q
  obtain ⟨hlo, hhi⟩ := F.quantum_bounds e h.nonzero h.nonneg h.below
  have hqu : F.quantum m e ≤ q := le_max_left ..
  obtain ⟨hr, -⟩ := roundAt_intRounds (rm := rm) (s := s) (m := m) (e := e) h.nonneg h.below h.told fun hs => (h.sticky_lt hs).trans_le hqu
  have hlead : (2 : ℝ) ^ F.mb ≤ (m + d) * 2 ^ e / 2 ^ q ∨ (true = true ∧ q = F.qmin) := by
    rcases max_choice (F.quantum m e) F.qmin with hq | hq
    · exact .inl (by rw [show q = F.quantum m e from hq]; exact hlo)
    · exact .inr ⟨rfl, hq⟩
  have hto := roundsTo_of_intRounds (F := F) (low := true) hb (fun _ => le_max_right ..) hr ((h.le_at hqu).trans hhi) hlead
  rwa [div_mul_cancel₀ _ (zpow_ne_zero _ two_ne_zero)] at hto

/-- The multiple of its quantum that a number is rounded to has the format's bits, or is one beyond them. -/
theorem Rounded.roundAt_bounds (h : Rounded F m sticky d) (rm : Rm) (s : Bool) (e : Int) :
    2 ^ F.mb ≤ (roundAt rm s m e sticky (F.quantum m e)).1 ∧ (roundAt rm s m e sticky (F.quantum m e)).1 ≤ 2 ^ (F.mb + 1) := by
  obtain ⟨hlo, hhi⟩ := F.quantum_bounds e h.nonzero h.nonneg h.below
  obtain ⟨hr, -⟩ := roundAt_intRounds (rm := rm) (s := s) (m := m) (e := e) h.nonneg h.below h.told h.sticky_lt
  exact ⟨hr.le_of_le (by push_cast; exact hlo), hr.le_of_ge (by push_cast; exact hhi)⟩

/-- Below the normal magnitudes it stays below them, or reaches the smallest. -/
theorem Rounded.roundAt_qmin (h : Rounded F m sticky d) (rm : Rm) (s : Bool) (hq : F.quantum m e < F.qmin) :
    (roundAt rm s m e sticky F.qmin).1 ≤ 2 ^ F.mb := by
  obtain ⟨hlo, hhi⟩ := F.quantum_bounds e h.nonzero h.nonneg h.below
  obtain ⟨hr, -⟩ := roundAt_intRounds (rm := rm) (s := s) (m := m) (e := e) h.nonneg h.below h.told fun hs => (h.sticky_lt hs).trans hq
  refine hr.le_of_ge ?_
  have hstep : (m + d) * (2 : ℝ) ^ e / 2 ^ F.qmin ≤ (m + d) * 2 ^ e / 2 ^ (F.quantum m e + 1) :=
    div_le_div_of_nonneg_left (mul_nonneg (add_nonneg (Nat.cast_nonneg m) h.nonneg) (by positivity)) (by positivity)
      (zpow_le_zpow_right₀ one_le_two hq)
  rw [zpow_add_one₀ two_ne_zero, ← div_div] at hstep
  rw [pow_succ] at hhi
  push_cast
  linarith

end Round

section RoundOnce

variable {F : FFmt} {rm : Rm} {s : Bool} {m : Nat} {e : Int} {sticky : Bool} {d : ℝ}

/-- What `FFmt.round` gives for a number that is not 0, in the words above. -/
theorem FFmt.round_nonzero (F : FFmt) (rm : Rm) (s : Bool) (e : Int) (sticky : Bool) (hm : m ≠ 0) :
    let qu := F.quantum m e
    let ru := (roundAt rm s m e sticky qu).1
    let q := max qu F.qmin
    let r := roundAt rm s m e sticky q
    F.round rm s m e sticky =
      if F.qmin ≤ qu ∧ (F.maxFin : Int) < ru + (qu - F.qmin) * 2 ^ F.mb then F.overflow rm s
      else (F.withSign s (r.1 + (q - F.qmin).toNat * 2 ^ F.mb), flagIf r.2 fNX ||| flagIf (r.2 && (decide (qu < F.qmin) &&
        decide (ru * 2 ^ (qu - min qu F.qmin).toNat < 2 ^ (F.mb + (F.qmin - min qu F.qmin).toNat)))) fUF) := by
  have hz : (m == 0 && !sticky) = false := by simp [hm]
  simp only [FFmt.round, hz, Bool.false_eq_true, if_false, FFmt.quantum]
  exact if_congr (by simp only [Bool.and_eq_true, decide_eq_true_eq]) rfl rfl

/-- An overflow delivers the largest finite magnitude, or where R45 says so an infinity. -/
theorem FFmt.Standard.overflow_spec (hF : F.Standard) (rm : Rm) (s : Bool) :
    (F.kind ≠ .ieee → HasMag F s (F.overflow rm s).1 (F.codeMag F.maxFin) ∧ (F.overflow rm s).2 = 0x34) ∧
    (F.kind = .ieee → (F.overflow rm s).2 = 0x14 ∧
      if rm = .nearest ∨ (rm = .down ∧ s = true) ∨ (rm = .up ∧ s = false) then (F.overflow rm s).1 = infOf F s
      else HasMag F s (F.overflow rm s).1 (F.codeMag F.maxFin)) := by
  have hmag := hF.hasMag s (le_refl F.maxFin)
  constructor
  · intro hk
    cases hk' : F.kind with
    | ieee => exact absurd hk' hk
    | e4m3 | e2m1 => simp only [FFmt.overflow, hk']; exact ⟨hmag, by decide⟩
  · intro hk
    have hinf : F.withSign s F.infCode = infOf F s := by
      rw [FFmt.withSign, FFmt.infCode, hF.ieee hk, infOf]
      cases s <;> simp [boolNat]
    simp only [FFmt.overflow, hk]
    refine ⟨by decide, ?_⟩
    cases rm <;> cases s <;> simp [hinf, hmag]

/-- It overflows where its rounding with an unbounded exponent range is beyond the largest finite magnitude (R42). -/
theorem Rounded.overflows_iff (h : Rounded F m sticky d) (hF : F.Standard) (rm : Rm) (s : Bool) (e : Int) :
    let qu := F.quantum m e
    let ru := (roundAt rm s m e sticky qu).1
    F.codeMag F.maxFin < ru * 2 ^ qu ↔ F.qmin ≤ qu ∧ (F.maxFin : Int) < ru + (qu - F.qmin) * 2 ^ F.mb := by
  intro qu ru
  obtain ⟨hlo, hhi⟩ := h.roundAt_bounds rm s e
  rcases lt_or_ge qu F.qmin with hq | hq
  · refine iff_of_false (not_lt.2 ?_) fun hno => absurd hno.1 (not_le.2 hq)
    calc (ru : ℝ) * 2 ^ qu ≤ 2 ^ (F.mb + 1) * 2 ^ qu := mul_le_mul_of_nonneg_right (by exact_mod_cast hhi) (by positivity)
      _ = (2 ^ F.mb : Nat) * 2 ^ (qu + 1) := by
        rw [zpow_add_one₀ two_ne_zero]
        push_cast
        ring
      _ ≤ (2 ^ F.mb : Nat) * 2 ^ (F.qmin + (0 : Nat)) :=
        mul_le_mul_of_nonneg_left (zpow_le_zpow_right₀ one_le_two (by push_cast; omega)) (Nat.cast_nonneg _)
      _ = F.codeMag (2 ^ F.mb + 0 * 2 ^ F.mb) := (FFmt.codeMag_quantum (Nat.pow_le_pow_right (by decide) (Nat.le_succ _)) (.inl rfl)).symm
      _ ≤ F.codeMag F.maxFin := F.codeMag_strictMono.monotone (by rw [Nat.zero_mul]; exact hF.normal)
  · obtain ⟨k, hk⟩ := Int.le.dest hq
    rw [← hk, ← FFmt.codeMag_quantum hhi (.inr hlo), F.codeMag_strictMono.lt_iff_lt, add_sub_cancel_left]
    refine ⟨fun hlt => ⟨by omega, ?_⟩, fun ⟨_, hlt⟩ => ?_⟩
    · exact_mod_cast hlt
    · exact_mod_cast hlt

/-- What does not overflow has the magnitude of its rounding (R37, R41). -/
theorem Rounded.hasMag (h : Rounded F m sticky d) (hF : F.Standard) (rm : Rm) (s : Bool) (e : Int)
    (ho : ¬ (F.qmin ≤ F.quantum m e ∧
      (F.maxFin : Int) < (roundAt rm s m e sticky (F.quantum m e)).1 + (F.quantum m e - F.qmin) * 2 ^ F.mb)) :
    let q := max (F.quantum m e) F.qmin
    let r := (roundAt rm s m e sticky q).1
    HasMag F s (F.withSign s (r + (q - F.qmin).toNat * 2 ^ F.mb)) (r * 2 ^ q) := by
  intro q r
  rcases lt_or_ge (F.quantum m e) F.qmin with hq | hq
  · have hqm : q = F.qmin := max_eq_right hq.le
    have hr : r ≤ 2 ^ F.mb := by
      have := h.roundAt_qmin rm s hq
      rwa [← hqm] at this
    have hcode := FFmt.codeMag_quantum (F := F) (k := 0) (hr.trans (Nat.pow_le_pow_right (by decide) (Nat.le_succ _))) (.inl rfl)
    rw [Nat.cast_zero, add_zero] at hcode
    rw [hqm, sub_self, Int.toNat_zero, ← hcode]
    exact hF.hasMag s (by rw [Nat.zero_mul]; exact hr.trans hF.normal)
  · have hqu : q = F.quantum m e := max_eq_left hq
    obtain ⟨hlo, hhi⟩ := h.roundAt_bounds rm s e
    rw [← hqu] at hlo hhi ho hq
    obtain ⟨k, hk⟩ := Int.le.dest hq
    have hcode := FFmt.codeMag_quantum hhi (.inr hlo) (k := k)
    rw [hk] at hcode
    rw [show (q - F.qmin).toNat = k by omega, ← hcode]
    refine hF.hasMag s (not_lt.1 fun hlt => ho ⟨hq, ?_⟩)
    rw [show q - F.qmin = k by omega]
    exact_mod_cast hlt

/-- Tiny: below the smallest normal magnitude, rounded with an unbounded exponent range (R42). -/
theorem Rounded.tiny_iff (h : Rounded F m sticky d) (rm : Rm) (s : Bool) (e : Int) :
    let qu := F.quantum m e
    let ru := (roundAt rm s m e sticky qu).1
    (decide (qu < F.qmin) && decide (ru * 2 ^ (qu - min qu F.qmin).toNat < 2 ^ (F.mb + (F.qmin - min qu F.qmin).toNat))) = true ↔
      (ru : ℝ) * 2 ^ qu < (2 : ℝ) ^ (1 - (F.bias : ℤ)) := by
  intro qu ru
  obtain ⟨hlo, -⟩ := h.roundAt_bounds rm s e
  have hnormal : (2 : ℝ) ^ (1 - (F.bias : ℤ)) = 2 ^ F.mb * 2 ^ F.qmin := by
    rw [← zpow_natCast, ← zpow_add₀ two_ne_zero, FFmt.qmin]
    congr 1
    ring
  rw [hnormal]
  rcases lt_or_ge qu F.qmin with hq | hq
  · obtain ⟨k, hk⟩ := Int.le.dest hq.le
    have hsplit : (2 : ℝ) ^ F.mb * 2 ^ F.qmin = (2 ^ (F.mb + k) : Nat) * 2 ^ qu := by
      rw [← hk, zpow_add₀ two_ne_zero, zpow_natCast]
      push_cast
      ring
    rw [hsplit, mul_lt_mul_iff_left₀ (show (0 : ℝ) < 2 ^ qu by positivity), Nat.cast_lt, min_eq_left hq.le, sub_self, Int.toNat_zero,
      pow_zero, mul_one, show (F.qmin - qu).toNat = k by omega]
    simp [hq]
  · have hge : (2 : ℝ) ^ F.mb * 2 ^ F.qmin ≤ ru * 2 ^ qu :=
      mul_le_mul (by exact_mod_cast hlo) (zpow_le_zpow_right₀ one_le_two hq) (by positivity) (Nat.cast_nonneg _)
    simp [not_lt.2 hq, not_lt.2 hge]

/-- Exactly what needs no rounding is inexact in nothing (R42). -/
theorem Rounded.exact_iff (h : Rounded F m sticky d) (rm : Rm) (s : Bool) (e : Int) :
    let q := max (F.quantum m e) F.qmin
    let r := roundAt rm s m e sticky q
    r.2 = false ↔ (r.1 : ℝ) * 2 ^ q = (m + d) * 2 ^ e := by
  intro q r
  obtain ⟨-, hex⟩ := roundAt_intRounds (rm := rm) (s := s) (m := m) (e := e) h.nonneg h.below h.told
    fun hs => (h.sticky_lt hs).trans_le (le_max_left _ F.qmin)
  rw [hex, div_eq_iff (zpow_ne_zero _ two_ne_zero), eq_comm]

/-- `FFmt.round` is the one rounding of R41, R42 and R45, of a number that is not 0. -/
theorem Rounded.roundsOnce (h : Rounded F m sticky d) (hF : F.Standard) (rm : Rm) (s : Bool) (e : Int) :
    RoundsOnce F rm s ((m + d) * 2 ^ e) (F.round rm s m e sticky) := by
  have htop : HasMag F false F.maxFin (F.codeMag F.maxFin) := by
    simpa [FFmt.withSign, boolNat] using hF.hasMag false (le_refl F.maxFin)
  refine ⟨_, _, _, h.bounded hF.frac rm s e, h.unbounded hF.frac rm s e, htop, fun hover => ?_, fun hle => ?_⟩
  · rw [F.round_nonzero rm s e sticky h.nonzero, if_pos ((h.overflows_iff hF rm s e).1 hover)]
    exact hF.overflow_spec rm s
  · have hno := mt (h.overflows_iff hF rm s e).2 (not_lt.2 hle)
    rw [F.round_nonzero rm s e sticky h.nonzero, if_neg hno]
    refine ⟨h.hasMag hF rm s e hno, ?_⟩
    simp only [← h.exact_iff rm s e, ← h.tiny_iff rm s e, ne_eq, Bool.not_eq_false]
    generalize (roundAt rm s m e sticky (max (F.quantum m e) F.qmin)).2 = nx
    generalize (decide (F.quantum m e < F.qmin) && _) = tiny
    cases nx <;> cases tiny <;> rfl

/-- Zero rounds to itself. -/
theorem roundsTo_zero {low : Bool} (rm : Rm) (s : Bool) : RoundsTo (OnGrid F low) (EvenOnGrid F low) rm s 0 0 := by
  refine ⟨⟨0, F.qmin, by positivity, fun _ => le_rfl, by simp⟩, ?_⟩
  have hside : ((0 : ℝ) ≤ 0 ∧ ∀ z, OnGrid F low z → z ≤ 0 → z ≤ 0) ∧ (0 : ℝ) ≤ 0 ∧ ∀ z, OnGrid F low z → 0 ≤ z → 0 ≤ z :=
    ⟨⟨le_rfl, fun _ _ h => h⟩, le_rfl, fun _ _ h => h⟩
  cases rm with
  | nearest => exact ⟨fun z _ => by simp, fun ⟨z, _, hne, he⟩ => absurd (by simpa using he) hne⟩
  | zero => exact hside.1
  | down =>
    cases s with
    | false => exact hside.1
    | true => exact hside.2
  | up =>
    cases s with
    | false => exact hside.2
    | true => exact hside.1

/-- Zero is delivered exactly, with its sign. -/
theorem FFmt.Standard.zero_roundsOnce (hF : F.Standard) (rm : Rm) (s : Bool) : RoundsOnce F rm s 0 (F.withSign s 0, 0) := by
  have htop : HasMag F false F.maxFin (F.codeMag F.maxFin) := by
    simpa [FFmt.withSign, boolNat] using hF.hasMag false (le_refl F.maxFin)
  have hzero := hF.hasMag s (Nat.zero_le F.maxFin)
  rw [FFmt.codeMag_zero] at hzero
  have hpos : 0 ≤ F.codeMag F.maxFin := F.codeMag_zero ▸ F.codeMag_strictMono.monotone (Nat.zero_le _)
  exact ⟨0, 0, _, roundsTo_zero rm s, roundsTo_zero rm s, htop, fun h => absurd h (not_lt.2 hpos), fun _ => ⟨hzero, by simp⟩⟩

/-- `FFmt.round` is the one rounding of R41, R42 and R45. -/
theorem FFmt.Standard.round_roundsOnce (hF : F.Standard) (rm : Rm) (s : Bool) (e : Int) (h0 : 0 ≤ d) (h1 : d < 1)
    (hs : sticky = true ↔ 0 < d) (hbits : sticky = true → F.mb + 3 ≤ bitLen m) :
    RoundsOnce F rm s ((m + d) * 2 ^ e) (F.round rm s m e sticky) := by
  by_cases hm : m = 0
  · subst hm
    have hst : sticky = false := eq_false_of_ne_true fun h => absurd (hbits h) (by simp [bitLen])
    have hd : d = 0 := le_antisymm (not_lt.1 fun hd => by rw [hs.2 hd] at hst; cases hst) h0
    simpa [FFmt.round, hst, hd] using hF.zero_roundsOnce rm s
  · exact Rounded.roundsOnce ⟨h0, h1, hs, hbits, hm⟩ hF rm s e

end RoundOnce

end Sys2Proof.Machine
end

section
/-! Sums of FP32 operands, exact and rounded once (R43, R67, R106). -/

namespace Sys2Proof.Machine

open Sys2Proof.Says

/-! ### Results as register values -/

section Deliver

variable {F : FFmt} {rm : Rm} {s : Bool} {m : Nat} {e : Int}

theorem infOf_lt (F : FFmt) (s : Bool) : infOf F s < 2 ^ (F.eb + F.mb + 1) := by
  have hlt : (2 ^ F.eb - 1) * 2 ^ F.mb < 2 ^ (F.eb + F.mb) := by
    rw [pow_add]
    exact Nat.mul_lt_mul_of_pos_right (Nat.sub_lt (Nat.two_pow_pos _) Nat.one_pos) (Nat.two_pow_pos _)
  rw [infOf, pow_succ]
  cases s <;> simp <;> omega

/-- What a rounding delivers has the format's width. -/
theorem roundsOnce_lt {x : ℝ} {r : Nat × Word} (h : RoundsOnce F rm s x r) : r.1 < 2 ^ (F.eb + F.mb + 1) := by
  obtain ⟨y, u, top, -, -, -, hover, hfin⟩ := h
  rcases lt_or_ge top u with hlt | hle
  · by_cases hk : F.kind = .ieee
    · have hr := (hover hlt).2 hk
      split at hr
      · rw [hr.2]
        exact infOf_lt F s
      · exact hr.2.1
    · exact ((hover hlt).1 hk).1.1
  · exact (hfin hle).1.1

/-- A finite value that FP32 receives is rounded once (R41, R42, R45). -/
theorem fin32_roundsOnce (rm : Rm) (s : Bool) (m : Nat) (e : Int) :
    RoundsOnce fp32 rm s (m * 2 ^ e) ((fin32 rm (.fin s m e, 0)).1.toNat, (fin32 rm (.fin s m e, 0)).2) := by
  have h := fp32_standard.round_roundsOnce (m := m) (sticky := false) (d := 0) rm s e le_rfl one_pos (by simp) nofun
  rw [add_zero] at h
  have hw : (BitVec.ofNat 32 (fp32.round rm s m e false).1).toNat = (fp32.round rm s m e false).1 :=
    Nat.mod_eq_of_lt (roundsOnce_lt h)
  have hor (w : Word) : w ||| 0 = w := BitVec.or_zero
  simpa only [fin32, FFmt.finish, FFmt.deliver, hw, hor] using h

end Deliver

/-! ### Exact sums -/

/-- A finite value is its multiple of 2^q, for q no larger than its exponent. -/
theorem FVal.real_eq_scaled {v : FVal} {q : Int} (hv : ∃ s m e, v = .fin s m e) (hq : q ≤ v.expo) : real v = v.scaled q * (2 : ℝ) ^ q := by
  obtain ⟨s, m, e, rfl⟩ := hv
  obtain ⟨k, rfl⟩ := Int.le.dest hq
  cases s <;> simp [real, FVal.scaled, zpow_add₀] <;> ring

theorem foldl_min_le {α : Type} (f : α → Int) (l : List α) (i : Int) :
    l.foldl (fun q v => min q (f v)) i ≤ i ∧ ∀ v ∈ l, l.foldl (fun q v => min q (f v)) i ≤ f v := by
  induction l generalizing i with
  | nil => simp
  | cons a l ih =>
    obtain ⟨hi, hl⟩ := ih (min i (f a))
    rw [List.foldl_cons]
    refine ⟨hi.trans (min_le_left ..), fun v hv => ?_⟩
    rcases List.mem_cons.1 hv with rfl | hv
    · exact hi.trans (min_le_right ..)
    · exact hl v hv

/-- The sum of finite values is that of their multiples of a common quantum. -/
theorem sum_real_eq {ts : List FVal} {q : Int} (hfin : ∀ v ∈ ts, ∃ s m e, v = .fin s m e) (hq : ∀ v ∈ ts, q ≤ v.expo) (x : Int) :
    (x : ℝ) * 2 ^ q + (ts.map real).sum = (ts.foldl (fun x v => x + v.scaled q) x : Int) * (2 : ℝ) ^ q := by
  induction ts generalizing x with
  | nil => simp
  | cons v ts ih =>
    rw [List.forall_mem_cons] at hfin hq
    rw [List.foldl_cons, ← ih hfin.2 hq.2, List.map_cons, List.sum_cons, FVal.real_eq_scaled hfin.1 hq.1]
    push_cast
    ring

theorem any_isInf_iff (ts : List FVal) (s : Bool) : ts.any (·.isInf s) = true ↔ FVal.inf s ∈ ts := by
  simp [List.any_eq_true, FVal.isInf]

theorem any_isNan_iff (ts : List FVal) : ts.any FVal.isNan = true ↔ FVal.nan ∈ ts := by
  rw [List.any_eq_true]
  refine ⟨fun ⟨v, hv, hn⟩ => ?_, fun h => ⟨_, h, rfl⟩⟩
  cases v with
  | nan => exact hv
  | _ => cases hn

/-- Terms that are no NaN and no infinity are finite. -/
theorem finite_of_mem {ts : List FVal} (hn : FVal.nan ∉ ts) (hi : ∀ s, FVal.inf s ∉ ts) : ∀ v ∈ ts, ∃ s m e, v = .fin s m e := by
  intro v hv
  cases v with
  | nan => exact absurd hv hn
  | inf s => exact absurd hv (hi s)
  | fin s m e => exact ⟨s, m, e, rfl⟩

/-- The exact sum of finite values as a multiple of a common quantum, delivered (R106). -/
theorem exactSum_delivers (rm : Rm) {ts : List FVal} (hfin : ∀ v ∈ ts, ∃ s m e, v = .fin s m e) :
    let q := ts.foldl (fun q v => min q v.expo) 0
    let x := ts.foldl (fun x v => x + v.scaled q) (0 : Int)
    let r := if (x == 0) = true then
        fin32 rm (.fin (if ts.all (·.sign) = true then true else if ts.any (·.sign) = true then rm == .down else false) 0 0, 0)
      else fin32 rm (.fin (decide (x < 0)) x.natAbs q, 0)
    Delivers fp32 rm (ts.all FVal.sign || (ts.any FVal.sign && rm == .down)) (ts.map real).sum (r.1.toNat, r.2) := by
  intro q x r
  have hsum : (ts.map real).sum = x * (2 : ℝ) ^ q := by
    have h := sum_real_eq hfin (foldl_min_le FVal.expo ts 0).2 0
    rwa [Int.cast_zero, zero_mul, zero_add] at h
  have hpos : (0 : ℝ) < 2 ^ q := by positivity
  rw [hsum]
  by_cases hx : x = 0
  · have hsign : (if ts.all (·.sign) = true then true else if ts.any (·.sign) = true then rm == .down else false) =
        (ts.all FVal.sign || (ts.any FVal.sign && rm == .down)) := by
      cases ts.all FVal.sign <;> cases ts.any FVal.sign <;> rfl
    have h := fin32_roundsOnce rm (ts.all FVal.sign || (ts.any FVal.sign && rm == .down)) 0 0
    simp only [r, hx, beq_self_eq_true, if_true, hsign, Delivers, Int.cast_zero, zero_mul, abs_zero]
    simpa using h
  · have h := fin32_roundsOnce rm (decide (x < 0)) x.natAbs q
    have hne : (x : ℝ) * 2 ^ q ≠ 0 := mul_ne_zero (Int.cast_ne_zero.2 hx) hpos.ne'
    have hlt : (x : ℝ) * 2 ^ q < 0 ↔ x < 0 := by
      rw [← Int.cast_lt_zero (R := ℝ)]
      exact ⟨fun h => neg_of_mul_neg_left h hpos.le, fun h => mul_neg_of_neg_of_pos h hpos⟩
    have habs : |(x : ℝ) * 2 ^ q| = x.natAbs * 2 ^ q := by rw [abs_mul, abs_of_pos hpos, Nat.cast_natAbs, Int.cast_abs]
    simp only [r, beq_iff_eq, hx, if_false, Delivers, hne, hlt, habs]
    exact h

/-- The sum of XRED and XSCN is exact, and rounded once (R43, R67, R106). -/
theorem fsumVal_sumIs (rm : Rm) (ts : List FVal) : SumIs fp32 rm ts ((fsumVal rm ts).1.toNat, (fsumVal rm ts).2) := by
  have hT := any_isInf_iff ts true
  have hF := any_isInf_iff ts false
  have hN := any_isNan_iff ts
  refine ⟨fun hclash => ?_, fun hclash hnan => ?_, fun s hclash hnan hinf => ?_, fun hnan hinf => ?_⟩
  · have hboth : (ts.any (·.isInf true) && ts.any (·.isInf false)) = true := Bool.and_eq_true_iff.2 ⟨hT.2 hclash.1, hF.2 hclash.2⟩
    rw [fsumVal, if_pos hboth]
    rfl
  · rw [← hT, ← hF, ← Bool.and_eq_true_iff] at hclash
    rw [fsumVal, if_neg hclash, if_pos (hN.2 hnan)]
    rfl
  · rw [← hT, ← hF, ← Bool.and_eq_true_iff] at hclash
    rw [← hN] at hnan
    cases s with
    | true =>
      rw [fsumVal, if_neg hclash, if_neg hnan, if_pos (hT.2 hinf)]
      rfl
    | false =>
      have hneg : ¬ ts.any (·.isInf true) = true := fun h => hclash (Bool.and_eq_true_iff.2 ⟨h, hF.2 hinf⟩)
      rw [fsumVal, if_neg hclash, if_neg hnan, if_neg hneg, if_pos (hF.2 hinf)]
      rfl
  · have hneg : ts.any (·.isInf true) = false := eq_false_of_ne_true (mt hT.1 (hinf true))
    have hpos : ts.any (·.isInf false) = false := eq_false_of_ne_true (mt hF.1 (hinf false))
    have hnone : ts.any FVal.isNan = false := eq_false_of_ne_true (mt hN.1 hnan)
    rw [fsumVal]
    simp only [hneg, hpos, hnone, Bool.and_self, Bool.false_eq_true, if_false]
    exact exactSum_delivers rm (finite_of_mem hnan hinf)

end Sys2Proof.Machine
end

section
/-! The order of float patterns that minima and maxima go by (R68, R106). -/

namespace Sys2Proof.Machine

open Sys2Proof.Says

section Order

variable {F : FFmt} {v w : Nat}

/-- The signed magnitude that a pattern's bits stand for, an infinity's code read on as a finite one. -/
noncomputable def FFmt.signed (F : FFmt) (w : Nat) : ℝ := (if F.signOf w then -1 else 1) * F.codeMag (F.magOf w)

theorem FFmt.read_infinite (hn : F.isNan w = false) (hi : F.isInf w = true) : F.read w = .inf (F.signOf w) := by
  simp [FFmt.read, hn, hi]

theorem FFmt.isNan_iff (F : FFmt) (w : Nat) : F.isNan w = true ↔ F.read w = .nan := by
  refine ⟨fun h => by simp [FFmt.read, h], fun h => ?_⟩
  by_contra hn
  rw [Bool.not_eq_true] at hn
  by_cases hi : F.isInf w = true
  · rw [FFmt.read_infinite hn hi] at h
    cases h
  · obtain ⟨m, e, hr, -⟩ := FFmt.read_finite hn (eq_false_of_ne_true hi)
    rw [hr] at h
    cases h

/-- The sign of a pattern's value is its sign bit. -/
theorem FFmt.sign_read (hn : F.isNan w = false) : (F.read w).sign = F.signOf w := by
  by_cases hi : F.isInf w = true
  · rw [FFmt.read_infinite hn hi]
    rfl
  · obtain ⟨m, e, hr, -⟩ := FFmt.read_finite hn (eq_false_of_ne_true hi)
    rw [hr]
    rfl

theorem FFmt.codeMag_nonneg (F : FFmt) (c : Nat) : 0 ≤ F.codeMag c := F.codeMag_zero ▸ F.codeMag_strictMono.monotone (Nat.zero_le c)

/-- A finite pattern's value is its signed magnitude. -/
theorem FFmt.real_read (hn : F.isNan w = false) (hi : F.isInf w = false) :
    (∃ s m e, F.read w = .fin s m e) ∧ real (F.read w) = F.signed w := by
  obtain ⟨m, e, hr, hv⟩ := FFmt.read_finite hn hi
  refine ⟨⟨_, m, e, hr⟩, ?_⟩
  rw [hr, FFmt.signed, ← hv]
  simp [real]

/-- An infinity's magnitude bits are all alike, and stand above every finite pattern's (R37). -/
theorem FFmt.magOf_infinite (hi : F.isInf w = true) :
    (F.isInf v = true → F.magOf v = F.magOf w) ∧ (F.isNan v = false → F.isInf v = false → F.magOf v < F.magOf w) := by
  unfold FFmt.isInf FFmt.isNan at *
  cases hk : F.kind with
  | ieee =>
    simp only [hk, beq_iff_eq, decide_eq_false_iff_not, beq_eq_false_iff_ne] at *
    omega
  | _ => simp [hk] at hi

/-- Two finite values compare as the numbers that they stand for. -/
theorem FVal.cmp_finite {a b : FVal} (ha : ∃ s m e, a = .fin s m e) (hb : ∃ s m e, b = .fin s m e) :
    (a.cmp b < 0 ↔ real a < real b) ∧ (a.cmp b = 0 ↔ real a = real b) := by
  have hcmp : a.cmp b = (a.scaled (min a.expo b.expo) - b.scaled (min a.expo b.expo)).sign := by
    obtain ⟨s, m, e, rfl⟩ := ha
    obtain ⟨u, n, g, rfl⟩ := hb
    rfl
  have hpos : (0 : ℝ) < 2 ^ min a.expo b.expo := by positivity
  rw [hcmp, FVal.real_eq_scaled ha (min_le_left ..), FVal.real_eq_scaled hb (min_le_right ..), mul_lt_mul_iff_left₀ hpos, Int.cast_lt,
    mul_left_inj' hpos.ne', Int.cast_inj, Int.sign_eq_zero_iff_zero, sub_eq_zero, Int.sign_neg_iff, sub_neg]
  exact ⟨Iff.rfl, Iff.rfl⟩

theorem cmp_of_lt {c : Int} {x y : ℝ} (hc : c = -1) (h : x < y) : (c < 0 ↔ x < y) ∧ (c = 0 ↔ x = y) := by
  subst hc
  exact ⟨iff_of_true (by decide) h, iff_of_false (by decide) h.ne⟩

theorem cmp_of_gt {c : Int} {x y : ℝ} (hc : c = 1) (h : y < x) : (c < 0 ↔ x < y) ∧ (c = 0 ↔ x = y) := by
  subst hc
  exact ⟨iff_of_false (by decide) h.not_gt, iff_of_false (by decide) h.ne'⟩

/-- Patterns that are no NaN compare as their signed magnitudes (R68). -/
theorem FFmt.cmp_read (hF : F.Standard) (hv : F.isNan v = false) (hw : F.isNan w = false) :
    ((F.read v).cmp (F.read w) < 0 ↔ F.signed v < F.signed w) ∧ ((F.read v).cmp (F.read w) = 0 ↔ F.signed v = F.signed w) := by
  have hbound {a b : Nat} (ha : F.isInf a = false) (hna : F.isNan a = false) (hb : F.isInf b = true) :
      |F.signed a| < F.codeMag (F.magOf b) := by
    have hlt := F.codeMag_strictMono ((FFmt.magOf_infinite hb).2 hna ha)
    rw [FFmt.signed]
    cases F.signOf a <;> simpa [abs_of_nonneg (F.codeMag_nonneg _)] using hlt
  by_cases hiv : F.isInf v = true <;> by_cases hiw : F.isInf w = true
  · have hzero := hF.finite_of_le (w := 0) (by simp [FFmt.magOf])
    have hpos := F.codeMag_strictMono ((FFmt.magOf_infinite hiw).2 hzero.1 hzero.2)
    rw [show F.magOf 0 = 0 from Nat.zero_mod _, FFmt.codeMag_zero] at hpos
    rw [FFmt.read_infinite hv hiv, FFmt.read_infinite hw hiw, FFmt.signed, FFmt.signed, (FFmt.magOf_infinite hiw).1 hiv]
    cases F.signOf v <;> cases F.signOf w
    · simp [FVal.cmp]
    · exact cmp_of_gt rfl (by simpa using (neg_neg_of_pos hpos).trans hpos)
    · exact cmp_of_lt rfl (by simpa using (neg_neg_of_pos hpos).trans hpos)
    · simp [FVal.cmp]
  · obtain ⟨hlo, hhi⟩ := abs_lt.1 (hbound (eq_false_of_ne_true hiw) hw hiv)
    obtain ⟨⟨s, m, e, hr⟩, -⟩ := FFmt.real_read hw (eq_false_of_ne_true hiw)
    rw [FFmt.read_infinite hv hiv, hr, show F.signed v = (if F.signOf v then -1 else 1) * F.codeMag (F.magOf v) from rfl]
    cases F.signOf v
    · exact cmp_of_gt rfl (by simpa using hhi)
    · exact cmp_of_lt rfl (by simpa using hlo)
  · obtain ⟨hlo, hhi⟩ := abs_lt.1 (hbound (eq_false_of_ne_true hiv) hv hiw)
    obtain ⟨⟨s, m, e, hr⟩, -⟩ := FFmt.real_read hv (eq_false_of_ne_true hiv)
    rw [FFmt.read_infinite hw hiw, hr, show F.signed w = (if F.signOf w then -1 else 1) * F.codeMag (F.magOf w) from rfl]
    cases F.signOf w
    · exact cmp_of_lt rfl (by simpa using hhi)
    · exact cmp_of_gt rfl (by simpa using hlo)
  · obtain ⟨hfv, hrv⟩ := FFmt.real_read hv (eq_false_of_ne_true hiv)
    obtain ⟨hfw, hrw⟩ := FFmt.real_read hw (eq_false_of_ne_true hiw)
    rw [← hrv, ← hrw]
    exact FVal.cmp_finite hfv hfw

theorem signOf_iff (hw : w < 2 ^ (F.eb + F.mb + 1)) : F.signOf w = true ↔ 2 ^ (F.eb + F.mb) ≤ w := by
  rw [FFmt.signOf, bitAt, beq_iff_eq]
  rw [pow_succ] at hw
  rcases Nat.lt_or_ge w (2 ^ (F.eb + F.mb)) with hlt | hge
  · rw [Nat.div_eq_of_lt hlt]
    simp [hlt]
  · rw [Nat.div_eq_of_lt_le (by omega) (by omega) (k := 1)]
    simp [hge]

/-- The smaller of two patterns is the one below (R68). -/
theorem FFmt.Standard.leMin_iff (hF : F.Standard) (hv : F.isNan v = false) (hw : F.isNan w = false) (hv' : v < 2 ^ (F.eb + F.mb + 1))
    (hw' : w < 2 ^ (F.eb + F.mb + 1)) : (F.read v).leMin (F.read w) = true ↔ Below (F.eb + F.mb + 1) v w := by
  obtain ⟨hlt, heq⟩ := FFmt.cmp_read hF hv hw
  have hle : (F.read v).leMin (F.read w) = true ↔ F.signed v < F.signed w ∨ (F.signed v = F.signed w ∧ (F.signOf v = true ∨ F.signOf w = false)) := by
    simp [FVal.leMin, hlt, heq, FFmt.sign_read hv, FFmt.sign_read hw]
  rw [hle]
  simp only [Below, Nat.add_sub_cancel, ← signOf_iff hv', ← signOf_iff hw', Nat.cast_le]
  change _ ↔ (_ ∧ _ ∧ F.magOf w ≤ F.magOf v) ∨ _ ∨ (_ ∧ _ ∧ F.magOf v ≤ F.magOf w)
  simp only [← F.codeMag_strictMono.le_iff_le, FFmt.signed]
  have h1 := F.codeMag_nonneg (F.magOf v)
  have h2 := F.codeMag_nonneg (F.magOf w)
  generalize F.codeMag (F.magOf v) = p at *
  generalize F.codeMag (F.magOf w) = q at *
  cases F.signOf v <;> cases F.signOf w
  · simpa using (le_iff_lt_or_eq (a := p) (b := q)).symm
  · simpa using (neg_nonpos.2 h2).trans h1
  · simpa using lt_or_eq_of_le ((neg_nonpos.2 h1).trans h2)
  · simpa [eq_comm] using (le_iff_lt_or_eq (a := q) (b := p)).symm

/-! ### Extremes -/

/-- The place of a pattern of n bits in the order of R68. -/
def patKey (n w : Nat) : Int := if 2 ^ (n - 1) ≤ w then -(w % 2 ^ (n - 1) : Nat) - 1 else (w % 2 ^ (n - 1) : Nat)

theorem below_iff (n v w : Nat) : Below n v w ↔ patKey n v ≤ patKey n w := by
  simp only [Below, patKey]
  split <;> split <;> simp [*] <;> omega

/-- Of two patterns that are no NaN the smaller, and the larger, in the order of R68. -/
theorem FFmt.Standard.fmin_key (hF : F.Standard) (hv : F.isNan v = false) (hw : F.isNan w = false) (hv' : v < 2 ^ (F.eb + F.mb + 1))
    (hw' : w < 2 ^ (F.eb + F.mb + 1)) :
    F.fmin v w = (if patKey (F.eb + F.mb + 1) v ≤ patKey (F.eb + F.mb + 1) w then v else w) ∧
      F.fmax v w = (if patKey (F.eb + F.mb + 1) v ≤ patKey (F.eb + F.mb + 1) w then w else v) := by
  simp only [FFmt.fmin, FFmt.fmax, hv, hw, hF.leMin_iff hv hw hv' hw', below_iff, and_self]

end Order

end Sys2Proof.Machine
end

section
/-! What the operators of XRED and XSCN make of their operands (R106). -/

namespace Sys2Proof.Machine

open Sys2Proof.Says

/-! ### Minima and maxima of FP32 patterns -/

/-- fmin where the least is sought, fmax where the greatest is. -/
def extremeOp (least : Bool) : XOp := if least then .fmin else .fmax

/-- v stands at or before w on the side that is sought (R68). -/
def Ahead (least : Bool) (v w : Word) : Prop := if least then Below 32 v.toNat w.toNat else Below 32 w.toNat v.toNat

/-- Is the word a NaN of FP32? -/
def isNanWord (w : Word) : Prop := fp32.read w.toNat = .nan

section Extreme

variable {least : Bool} {a b r : Word} {pre vs : List Word}

theorem ahead_refl (least : Bool) (a : Word) : Ahead least a a := by
  cases least <;> exact (below_iff ..).2 le_rfl

theorem ahead_trans (hab : Ahead least a b) (hbr : Ahead least b r) : Ahead least a r := by
  cases least with
  | false => exact (below_iff ..).2 (((below_iff ..).1 hbr).trans ((below_iff ..).1 hab))
  | true => exact (below_iff ..).2 (((below_iff ..).1 hab).trans ((below_iff ..).1 hbr))

theorem not_isNanWord_iff (a : Word) : ¬ isNanWord a ↔ fp32.isNan a.toNat = false := by
  rw [isNanWord, ← FFmt.isNan_iff, Bool.not_eq_true]

/-- Both NaNs give the canonical NaN; one is passed over. -/
theorem xopInt_nan (least : Bool) (a b : Word) :
    (isNanWord a → isNanWord b → xopInt (extremeOp least) a b = nan32) ∧
    (isNanWord a → ¬ isNanWord b → xopInt (extremeOp least) a b = b) ∧
    (¬ isNanWord a → isNanWord b → xopInt (extremeOp least) a b = a) := by
  simp only [not_isNanWord_iff]
  simp only [isNanWord, ← FFmt.isNan_iff]
  have hnan : BitVec.ofNat 32 fp32.nan = nan32 := rfl
  refine ⟨fun ha hb => ?_, fun ha hb => ?_, fun ha hb => ?_⟩ <;> cases least <;>
    simp [extremeOp, xopInt, FFmt.fmin, FFmt.fmax, ha, hb, hnan]

/-- Of two that are no NaN one is given, at or before both. -/
theorem xopInt_ahead (least : Bool) (ha : ¬ isNanWord a) (hb : ¬ isNanWord b) :
    (xopInt (extremeOp least) a b = a ∨ xopInt (extremeOp least) a b = b) ∧ Ahead least (xopInt (extremeOp least) a b) a ∧
      Ahead least (xopInt (extremeOp least) a b) b := by
  obtain ⟨hmin, hmax⟩ := fp32_standard.fmin_key ((not_isNanWord_iff a).1 ha) ((not_isNanWord_iff b).1 hb) a.isLt b.isLt
  by_cases hle : patKey (fp32.eb + fp32.mb + 1) a.toNat ≤ patKey (fp32.eb + fp32.mb + 1) b.toNat
  · rw [if_pos hle] at hmin hmax
    cases least with
    | false =>
      rw [show xopInt (extremeOp false) a b = b by simp [extremeOp, xopInt, hmax]]
      exact ⟨.inr rfl, (below_iff ..).2 hle, ahead_refl ..⟩
    | true =>
      rw [show xopInt (extremeOp true) a b = a by simp [extremeOp, xopInt, hmin]]
      exact ⟨.inl rfl, ahead_refl .., (below_iff ..).2 hle⟩
  · rw [if_neg hle] at hmin hmax
    have hge := (not_le.1 hle).le
    cases least with
    | false =>
      rw [show xopInt (extremeOp false) a b = a by simp [extremeOp, xopInt, hmax]]
      exact ⟨.inl rfl, ahead_refl .., (below_iff ..).2 hge⟩
    | true =>
      rw [show xopInt (extremeOp true) a b = b by simp [extremeOp, xopInt, hmin]]
      exact ⟨.inr rfl, (below_iff ..).2 hge, ahead_refl ..⟩

/-- r is the extreme of the words of a list: of none but NaNs the canonical NaN, else one that is no NaN, at or before each such (R106). -/
def ExtremeOf (least : Bool) (vs : List Word) (r : Word) : Prop :=
  ((∀ w ∈ vs, isNanWord w) → r = nan32) ∧
    ((∃ w ∈ vs, ¬ isNanWord w) → r ∈ vs ∧ ¬ isNanWord r ∧ ∀ w ∈ vs, ¬ isNanWord w → Ahead least r w)

theorem extremeOf_singleton (least : Bool) (v : Word) : ExtremeOf least [v] (if fp32.isNan v.toNat then nan32 else v) := by
  by_cases hv : isNanWord v
  · have hn := (FFmt.isNan_iff ..).2 hv
    simp [ExtremeOf, hv, hn]
  · have hn := (not_isNanWord_iff v).1 hv
    simp [ExtremeOf, hv, hn, ahead_refl]

theorem isNanWord_nan32 : isNanWord nan32 := by unfold isNanWord; decide

/-- One more operand. -/
theorem ExtremeOf.snoc (h : ExtremeOf least pre r) (w : Word) : ExtremeOf least (pre ++ [w]) (xopInt (extremeOp least) r w) := by
  obtain ⟨hboth, hleft, hright⟩ := xopInt_nan least r w
  by_cases hpre : ∀ x ∈ pre, isNanWord x
  · obtain rfl := h.1 hpre
    by_cases hw : isNanWord w
    · rw [hboth isNanWord_nan32 hw]
      refine ⟨fun _ => rfl, fun ⟨x, hx, hn⟩ => absurd ?_ hn⟩
      rcases List.mem_append.1 hx with hx | hx
      · exact hpre x hx
      · rwa [List.mem_singleton.1 hx]
    · rw [hleft isNanWord_nan32 hw]
      refine ⟨fun hall => absurd (hall w (by simp)) hw, fun _ => ⟨by simp, hw, fun x hx hn => ?_⟩⟩
      rcases List.mem_append.1 hx with hx | hx
      · exact absurd (hpre x hx) hn
      · rw [List.mem_singleton.1 hx]
        exact ahead_refl ..
  · obtain ⟨hmem, hr, hahead⟩ := h.2 (by simpa using hpre)
    refine ⟨fun hall => absurd (fun x hx => hall x (List.mem_append_left _ hx)) hpre, fun _ => ?_⟩
    by_cases hw : isNanWord w
    · rw [hright hr hw]
      refine ⟨List.mem_append_left _ hmem, hr, fun x hx hn => ?_⟩
      rcases List.mem_append.1 hx with hx | hx
      · exact hahead x hx hn
      · exact absurd (by rwa [List.mem_singleton.1 hx]) hn
    · obtain ⟨hor, hra, hwa⟩ := xopInt_ahead least hr hw
      refine ⟨?_, ?_, fun x hx hn => ?_⟩
      · rcases hor with he | he <;> rw [he] <;> simp [hmem]
      · rcases hor with he | he <;> rw [he] <;> assumption
      · rcases List.mem_append.1 hx with hx | hx
        · exact ahead_trans hra (hahead x hx hn)
        · rwa [List.mem_singleton.1 hx]

theorem ExtremeOf.foldl (h : ExtremeOf least pre r) : ExtremeOf least (pre ++ vs) (vs.foldl (xopInt (extremeOp least)) r) := by
  induction vs generalizing pre r with
  | nil => simpa using h
  | cons w vs ih => simpa using ih (h.snoc w)

end Extreme

/-! ### The integer operators -/

/-- A fold from its first operand is the fold from an identity. -/
theorem foldl_of_identity {f : Word → Word → Word} {i v : Word} (vs : List Word) (h : f i v = v) : (v :: vs).foldl f i = vs.foldl f v := by
  rw [List.foldl_cons, h]

theorem foldl_add_eq (vs : List Word) (v : Word) : vs.foldl (· + ·) v = BitVec.ofNat 32 (v.toNat + (vs.map BitVec.toNat).sum) := by
  induction vs generalizing v with
  | nil => simp
  | cons w vs ih =>
    rw [List.foldl_cons, ih, List.map_cons, List.sum_cons, ← Nat.add_assoc]
    exact BitVec.eq_of_toNat_eq (by simp)

theorem minS_identity (v : Word) : minS 0x7FFFFFFF v = v := by
  have hv := v.toInt_lt
  have hi : (0x7FFFFFFF : Word).toInt = 2 ^ 31 - 1 := by decide
  rw [minS]
  split
  case isTrue h => exact BitVec.eq_of_toInt_eq (by omega)
  case isFalse => rfl

theorem maxS_identity (v : Word) : maxS 0x80000000 v = v := by
  have hv := v.le_toInt
  have hi : (0x80000000 : Word).toInt = -2 ^ 31 := by decide
  exact if_pos (by omega)

theorem minU_identity (v : Word) : minU 0xFFFFFFFF v = v := by
  have hv := v.isLt
  have hi : (0xFFFFFFFF : Word).toNat = 2 ^ 32 - 1 := by decide
  rw [minU]
  split
  case isTrue h => exact BitVec.eq_of_toNat_eq (by omega)
  case isFalse => rfl

theorem maxU_identity (v : Word) : maxU 0 v = v := if_pos (Nat.zero_le _)

/-- fmin and fmax over operands give an extreme of them, over none their identity. -/
theorem extreme_foldIs (least : Bool) (rm : Rm) (vs : List Word) :
    FoldIs (extremeOp least) rm vs (xopFold (extremeOp least) rm vs) := by
  cases vs with
  | nil => cases least <;> simp [FoldIs, xopFold, xopIdentity, extremeOp]
  | cons v vs =>
    obtain ⟨hnan, hsome⟩ := (extremeOf_singleton least v).foldl (vs := vs)
    have hfold : xopFold (extremeOp least) rm (v :: vs) =
        (vs.foldl (xopInt (extremeOp least)) (if fp32.isNan v.toNat then nan32 else v), 0) := by cases least <;> rfl
    rw [hfold]
    cases least with
    | false => exact ⟨rfl, nofun, fun _ => hnan, hsome⟩
    | true => exact ⟨rfl, nofun, fun _ => hnan, hsome⟩

/-- Each operator makes of its operands what R106 says. -/
theorem xopFold_foldIs (op : XOp) (rm : Rm) (vs : List Word) : FoldIs op rm vs (xopFold op rm vs) := by
  have fold (op : XOp) (f : Word → Word → Word) (hf : xopInt op = f) (h : ∀ v, f (xopIdentity op) v = v)
      (hcons : ∀ v vs, xopFold op rm (v :: vs) = (vs.foldl (xopInt op) v, 0)) :
      xopFold op rm vs = (vs.foldl f (xopIdentity op), 0) := by
    subst hf
    cases vs with
    | nil => cases op <;> rfl
    | cons v vs => rw [hcons, foldl_of_identity vs (h v)]
  cases op with
  | smin => exact fold .smin minS rfl minS_identity fun _ _ => rfl
  | smax => exact fold .smax maxS rfl maxS_identity fun _ _ => rfl
  | umin => exact fold .umin minU rfl minU_identity fun _ _ => rfl
  | umax => exact fold .umax maxU rfl maxU_identity fun _ _ => rfl
  | and => exact fold .and (· &&& ·) rfl (fun _ => BitVec.allOnes_and) fun _ _ => rfl
  | or => exact fold .or (· ||| ·) rfl (fun _ => BitVec.zero_or) fun _ _ => rfl
  | xor => exact fold .xor (· ^^^ ·) rfl (fun _ => BitVec.zero_xor) fun _ _ => rfl
  | add =>
    have hadd := fold .add (· + ·) rfl (fun v => BitVec.zero_add v) fun _ _ => rfl
    rw [foldl_add_eq] at hadd
    simpa [xopIdentity, FoldIs] using hadd
  | fadd =>
    cases vs with
    | nil => simp [FoldIs, xopFold, xopIdentity]
    | cons v vs =>
      simp only [FoldIs, reduceCtorEq, if_false]
      exact fsumVal_sumIs rm ((v :: vs).map rd32)
  | fmin => exact extreme_foldIs true rm vs
  | fmax => exact extreme_foldIs false rm vs

end Sys2Proof.Machine
end

section
/-! Moves, selections, special registers and the cross-lane operations (R30, R79-R82, R105, R106, R194). -/

namespace Sys2Proof.Machine

open Sys2Proof.Says

/-! ### A result delivered, and the thread gone on -/

section Delivery

variable {s : State} {k : Nat} {t t1 : Thread}

/-- A thread's change is its slot written. -/
theorem State.modThread_eq_setThread (f : Thread → Thread) (ht : s.thread? k = some t) : s.modThread k f = s.setThread k (f t) := by
  have hget : mget s.threads k = some t := ht
  simp only [State.modThread, State.setThread, mmod, hget]

/-- A thread that is changed and goes on after its instruction: nothing else changed, and its registers are the changed ones. -/
theorem State.advance_setThread (ht : s.thread? k = some t) (hpc : t1.pc = t.pc) (hreq : t1.haltReq = t.haltReq) :
    OnlyThread s ((s.setThread k t1).advance k) k t ∧ ∃ t', ((s.setThread k t1).advance k).thread? k = some t' ∧ t'.pc = s.pcAfter k ∧
      t'.status = .ready ∧ t'.v = t1.v ∧ t'.f = t1.f ∧ t'.rs = t1.rs ∧ t'.fstat = t1.fstat ∧ t'.trapstat = t1.trapstat ∧
      t'.trapMode = t1.trapMode ∧ t'.clkh = t1.clkh := by
  have h1 : (s.setThread k t1).thread? k = some t1 := mget_mput_same ..
  have hafter : (s.setThread k t1).pcAfter k = s.pcAfter k := by
    simp only [State.pcAfter, h1, ht, hpc]
    rfl
  obtain ⟨hframe, hother, hcores, hbyte⟩ := State.goTo_onlyThread ((s.setThread k t1).pcAfter k) h1
  obtain ⟨t', hthr, hpc', hst, hv, hf, hrs, hfs, hts, htm, hclk, -⟩ := State.goTo_thread ((s.setThread k t1).pcAfter k) h1
  refine ⟨⟨hframe, fun j hj => (hother j hj).trans (State.thread_setThread_other _ t1 hj), fun hr => hcores (hreq.trans hr), hbyte⟩,
    t', hthr, hpc'.trans hafter, hst, hv, hf, hrs, hfs, hts, htm, hclk⟩

theorem Thread.getV_congr {u : Thread} (h : t.v = u.v) (n : Nat) : t.getV n = u.getV n := by simp only [Thread.getV, h]

/-- A result delivered, and the thread gone on (R44, R56, R57). -/
theorem State.deliver_delivered (d : LaneDst) (r : FRes) (ht : s.thread? k = some t) :
    Delivered s ((s.deliver k d r).advance k) k t d r := by
  obtain ⟨hd, hnd, hfs⟩ := t.delivered d r
  obtain ⟨hf, hrs, hts, htm, hclk, hreq, hpc⟩ := t.setD_orStat_kept d r
  rw [State.deliver, State.modThread_eq_setThread _ ht]
  obtain ⟨honly, t', hthr, hpc', hst, hv, hf', hrs', hfs', hts', htm', hclk'⟩ := State.advance_setThread ht hpc hreq
  exact ⟨honly, t', hthr, fun n hn => (Thread.getV_congr hv _).trans (hd n hn), fun n hn => (Thread.getV_congr hv _).trans (hnd n hn),
    hfs'.trans hfs, hpc', hst, hf'.trans hf, hrs'.trans hrs, hts'.trans hts, htm'.trans htm, hclk'.trans hclk⟩

theorem Thread.anyBad_of_append {ds rs : List Nat} (h : t.anyBad (ds ++ rs) = false) : t.anyBad rs = false := by
  rw [Thread.anyBad, List.any_append, Bool.or_eq_false_iff] at h
  exact h.2

/-- A lane instruction whose thread may execute it runs its body. -/
theorem laneFrame_lane {ds rs : List Nat} (body : Nat → Thread → Res) (h : Lane s k t (ds ++ rs)) :
    laneFrame s ds rs body = .next (State.laneFinish k (body k t)) := by
  obtain ⟨hcur, ht, hb, hg⟩ := h
  exact laneFrame_runs body hcur ht hb (Thread.anyBad_of_append hg)

/-- Registers in error are the same once the last thread has arrived. -/
theorem sound_met {ks ds rs : List Nat} (h : Sound s ks (ds ++ rs)) :
    ∀ j ∈ ks, ∀ u, (met s k t).thread? j = some u → u.anyBad rs = false := by
  intro j hj u hu
  unfold met at hu
  split at hu
  · exact Thread.anyBad_of_append (h j hj u hu)
  · by_cases hjk : j = k
    · subst hjk
      rw [State.arrive, State.thread_modThread, Option.map_eq_some_iff] at hu
      obtain ⟨u0, hu0, rfl⟩ := hu
      exact Thread.anyBad_of_append (h j hj u0 hu0)
    · rw [State.arrive, State.thread_modThread_other _ _ hjk] at hu
      exact Thread.anyBad_of_append (h j hj u hu)

/-- A band operation that delivers a result to each thread of its meeting (R60, R105). -/
theorem bandLaneFrame_delivers {d : LaneDst} {rs : List Nat} {F : State → List Nat → Nat → FRes} (h : Lane s k t (LaneDst.regs d ++ rs)) :
    let out := bandLaneFrame s (LaneDst.regs d) rs fun s ks => .ok (s.deliverAll d (ks.map fun j => (j, F s ks j)))
    (t.trapMode = false → s.inPm k = false → out = .next (s.advance k)) ∧
    ∀ ks, MeetsAs s k t ks → Sound s ks (LaneDst.regs d ++ rs) →
      out = .next (bandResult ks k t.trapMode d (F (met s k t) ks) (met s k t)) := by
  obtain ⟨hcur, ht, hb, -⟩ := h
  intro out
  have hout : out = .next (rendezvous s k _) := bandLaneFrame_runs _ hcur ht hb
  refine ⟨fun hm hp => ?_, fun ks hmeet hsound => ?_⟩
  · rw [hout, rendezvous_outside _ ht hm hp]
  · rw [hout, rendezvous_meets _ ht hmeet, unlessBad_good _ (sound_met hsound)]
    simp only [Res.piped, State.bandFinish, State.deliverAll, List.foldl_map, bandResult]

end Delivery

/-- What a lane computation computes in each thread (R25, R56, R57, R60). -/
theorem computes_of_laneCompute {i : Instr} {g : State → Out} {rs : List Nat} {rd : Reading} {d : LaneDst} {a : LaneSrc} {x : Xl}
    {f : State → Nat → Word → FRes} (hi : ∀ s, exec i s = g s) (hg : ∀ s, g s = laneCompute s (LaneDst.regs d) rs rd d a x f) :
    Computes i (LaneDst.regs d ++ rs) rd d a x f := by
  intro s k t h
  rw [hi, hg]
  refine ⟨?_, fun hx => ?_⟩
  · rintro rfl
    exact ⟨_, laneFrame_lane _ h, State.deliver_delivered d _ h.2.1⟩
  · have hband : laneCompute s (LaneDst.regs d) rs rd d a x f = bandLaneFrame s (LaneDst.regs d) rs fun s ks =>
        .ok (s.deliverAll d (ks.map fun j => (j, f s j (s.laneSrc (xlThread ks x j) rd a)))) := by
      cases x with
      | none => exact absurd rfl hx
      | _ => rfl
    rw [hband]
    exact bandLaneFrame_delivers h

/-! ### Special registers -/

section Rdsp

variable {s : State} {k : Nat} {t : Thread}

theorem exec_rdsp (d : LaneDst) (i : Fin 19) (h : Lane s k t (LaneDst.regs d)) :
    exec (.rdsp d i) s = .next ((s.setThread k ((s.rdspVal k i.val t).2.setD d (s.rdspVal k i.val t).1)).advance k) :=
  laneFrame_lane (rs := []) _ (by rwa [List.append_nil])

/-- A result without conditions leaves FSTAT. -/
theorem Thread.setD_orStat_zero (t : Thread) (d : LaneDst) (w : Word) : (t.setD d w).orStat 0 = t.setD d w := by
  simp [Thread.orStat]

/-- RDSP of a register that reading does not change (R82). -/
theorem rdsp_delivered {d : LaneDst} {i : Fin 19} {w : Word} (h : Lane s k t (LaneDst.regs d)) (hw : s.rdspVal k i.val t = (w, t)) :
    ∃ u, exec (.rdsp d i) s = .next u ∧ Delivered s u k t d (w, 0) := by
  refine ⟨_, exec_rdsp d i h, ?_⟩
  have hdel := State.deliver_delivered d (w, 0) h.2.1
  rw [State.deliver, State.modThread_eq_setThread _ h.2.1, Thread.setD_orStat_zero] at hdel
  rwa [hw]

theorem State.rdspVal_plain {i : Nat} (hi : i ∉ [0, 1, 12, 13, 16, 17]) :
    s.rdspVal k i t = (s.spValue (.band (bandOfThread k)) i, t) := by
  simp only [List.mem_cons, List.not_mem_nil, or_false, not_or] at hi
  obtain ⟨h0, h1, h12, h13, h16, h17⟩ := hi
  simp only [State.rdspVal]

/-- A destination written without conditions (R57). -/
theorem Thread.setD_spec (t : Thread) (d : LaneDst) (w : Word) :
    (∀ n, d = .v n → (t.setD d w).getV n.val = w) ∧ (∀ n, d ≠ .v n → (t.setD d w).getV n.val = t.getV n.val) ∧
      (t.setD d w).fstat = t.fstat ∧ (t.setD d w).clkh = t.clkh ∧ (t.setD d w).pc = t.pc ∧ (t.setD d w).haltReq = t.haltReq := by
  obtain ⟨hd, hnd, hfs⟩ := t.delivered d (w, 0)
  obtain ⟨-, -, -, -, hclk, hreq, hpc⟩ := t.setD_orStat_kept d (w, 0)
  rw [Thread.setD_orStat_zero] at *
  exact ⟨hd, hnd, by simpa using hfs, hclk, hpc, hreq⟩

/-- RDSP of SP.CLK latches the high half (R82). -/
theorem rdsp_clk (d : LaneDst) (h : Lane s k t (LaneDst.regs d)) :
    ∃ u, exec (.rdsp d 12) s = .next u ∧ ∃ t', u.thread? k = some t' ∧ (∀ n, d = .v n → t'.getV n.val = BitVec.ofNat 32 s.clk) ∧
      t'.clkh = BitVec.ofNat 32 (s.clk / 2 ^ 32) ∧ t'.pc = s.pcAfter k := by
  have hval : s.rdspVal k (12 : Fin 19).val t = (BitVec.ofNat 32 s.clk, { t with clkh := BitVec.ofNat 32 (s.clk / 2 ^ 32) }) := by
    have hclk : s.spValue (.band (bandOfThread k)) 12 = BitVec.ofNat 32 s.clk := by simp [State.spValue, BitVec.ofNat, Fin.ofNat]
    rw [← hclk]
    rfl
  have hexec := exec_rdsp d 12 h
  rw [hval] at hexec
  obtain ⟨hd, -, -, hlatch, hpc, hreq⟩ :=
    { t with clkh := BitVec.ofNat 32 (s.clk / 2 ^ 32) : Thread }.setD_spec d (BitVec.ofNat 32 s.clk)
  obtain ⟨-, t', hthr, hpc', -, hv, -, -, -, -, -, hclk'⟩ := State.advance_setThread h.2.1 hpc hreq
  exact ⟨_, hexec, t', hthr, fun n hn => (Thread.getV_congr hv _).trans (hd n hn), hclk'.trans hlatch, hpc'⟩

/-- RDSP.clr returns FSTAT and clears it (R82). -/
theorem rdspClr_clears (d : LaneDst) (h : Lane s k t (LaneDst.regs d)) :
    ∃ u, exec (.rdspClr d) s = .next u ∧ OnlyThread s u k t ∧ ∃ t', u.thread? k = some t' ∧ t'.fstat = 0 ∧
      (∀ n, d = .v n → t'.getV n.val = t.fstat) ∧ (∀ n, d ≠ .v n → t'.getV n.val = t.getV n.val) ∧ t'.pc = s.pcAfter k := by
  have hexec : exec (.rdspClr d) s = .next ((s.setThread k ({ t with fstat := 0 }.setD d t.fstat)).advance k) :=
    laneFrame_lane (rs := []) _ (by rwa [List.append_nil])
  obtain ⟨hd, hnd, hfs, -, hpc, hreq⟩ := { t with fstat := 0 : Thread }.setD_spec d t.fstat
  obtain ⟨honly, t', hthr, hpc', -, hv, -, -, hfs', -⟩ := State.advance_setThread h.2.1 hpc hreq
  exact ⟨_, hexec, honly, t', hthr, hfs'.trans hfs, fun n hn => (Thread.getV_congr hv _).trans (hd n hn),
    fun n hn => (Thread.getV_congr hv _).trans (hnd n hn), hpc'⟩

end Rdsp

/-- What the special registers of a band read, in a block and in none (R30, R194). -/
theorem State.spValue_band {s : State} {b : Nat} {x : Band} (hx : s.band? b = some x) :
    let sp (i : Nat) : Word := s.spValue (.band b) i
    let n (m : Nat) : Word := BitVec.ofNat 32 m
    sp 5 = n x.nblk ∧ sp 6 = n x.role ∧ sp 7 = n (coreOfBand b % 96) ∧ sp 8 = n (coreOfBand b / 96) ∧ sp 9 = n s.pkg.toNat ∧
    sp 10 = n x.node ∧ sp 11 = n x.inst ∧ sp 15 = n (gradeCode (s.taint x.task)) ∧ sp 18 = n x.budget ∧
    (∀ k y, x.block = some k → s.block? k = some y → sp 2 = n x.pos ∧ sp 4 = n y.blockId ∧ sp 14 = y.spRecall ∧
      sp 3 = n (mkeys s.bands fun _ z => z.block == some k).length) ∧
    (x.block = none → sp 2 = 0 ∧ sp 3 = 1 ∧ sp 4 = 0xFFFFFFFF ∧ sp 14 = 0) := by
  refine ⟨?_, ?_, rfl, rfl, rfl, ?_, ?_, ?_, ?_, fun k y hk hy => ⟨?_, ?_, ?_, ?_⟩, fun hk => ⟨?_, ?_, ?_, ?_⟩⟩ <;>
    simp only [State.spValue, State.partyBlock, State.partyTask, State.blockOfBand, State.nband, State.bandsOf, Option.bind_some, Option.map_some,
      Option.getD_some, Option.isSome_some, if_true, Option.isSome_none, Bool.false_eq_true, if_false, Option.bind_none, Option.map_none,
      Option.getD_none, *]
  rfl

/-! ### Cross-lane operations -/

section CrossLane

variable {s : State} {k : Nat} {t : Thread}

/-- A band operation whose results `is` describes. -/
theorem delivers_of_results {i : Instr} {g : State → Out} {d : LaneDst} {rs : List Nat} {F : State → List Nat → Nat → FRes}
    {is : List Nat → Nat → FRes → Prop} (hi : ∀ s, exec i s = g s)
    (hg : ∀ s, g s = bandLaneFrame s (LaneDst.regs d) rs fun s ks => .ok (s.deliverAll d (ks.map fun j => (j, F s ks j))))
    (his : ∀ ks, ∀ j ∈ ks, is ks j (F (met s k t) ks j)) (h : Lane s k t (LaneDst.regs d ++ rs)) :
    (t.trapMode = false → s.inPm k = false → exec i s = .next (s.advance k)) ∧
    ∀ ks, MeetsAs s k t ks → Sound s ks (LaneDst.regs d ++ rs) →
      ∃ f, exec i s = .next (bandResult ks k t.trapMode d f (met s k t)) ∧ ∀ j ∈ ks, is ks j (f j) := by
  rw [hi, hg]
  obtain ⟨hout, hin⟩ := bandLaneFrame_delivers (F := F) h
  exact ⟨hout, fun ks hmeet hsound => ⟨_, hin ks hmeet hsound, his ks⟩⟩

/-- XSHF reads the A of the thread that each thread's own B names (R105). -/
theorem xshf_delivers (d : LaneDst) (a b : LaneSrc) (h : Lane s k t (LaneDst.regs d ++ read2 a b)) :
    (t.trapMode = false → s.inPm k = false → exec (.xshf d a b) s = .next (s.advance k)) ∧
    ∀ ks, MeetsAs s k t ks → Sound s ks (LaneDst.regs d ++ read2 a b) →
      ∃ f, exec (.xshf d a b) s = .next (bandResult ks k t.trapMode d f (met s k t)) ∧ ∀ j ∈ ks,
        let l := ((met s k t).laneSrc j .int b).toNat
        let o := threadOf (bandOfThread j) l
        f j = ((met s k t).laneSrc (if l < 32 ∧ o ∈ ks then o else j) .int a, 0) := by
  refine delivers_of_results (g := execXshf d a b) (is := fun ks j r => r = ((met s k t).laneSrc
    (if ((met s k t).laneSrc j .int b).toNat < 32 ∧ threadOf (bandOfThread j) ((met s k t).laneSrc j .int b).toNat ∈ ks then
      threadOf (bandOfThread j) ((met s k t).laneSrc j .int b).toNat else j) .int a, 0)) (fun _ => rfl) (fun s => by rw [execXshf])
    (fun ks j _ => ?_) h
  simp only [Bool.and_eq_true, decide_eq_true_eq, List.contains_iff_mem, Nat.lt_succ_iff]

/-- XBAL sets the bit of each lane whose A is not 0 (R105). -/
theorem xbal_delivers (d : LaneDst) (a : LaneSrc) (h : Lane s k t (LaneDst.regs d ++ LaneSrc.regs a)) :
    (t.trapMode = false → s.inPm k = false → exec (.xbal d a) s = .next (s.advance k)) ∧
    ∀ ks, MeetsAs s k t ks → Sound s ks (LaneDst.regs d ++ LaneSrc.regs a) →
      ∃ f, exec (.xbal d a) s = .next (bandResult ks k t.trapMode d f (met s k t)) ∧ ∀ j ∈ ks,
        f j = (BitVec.ofNat 32 (ks.map fun j => if (met s k t).laneSrc j .int a ≠ 0 then 2 ^ laneOfThread j else 0).sum, 0) := by
  refine delivers_of_results (g := execXbal d a) (is := fun ks _ r => r = (BitVec.ofNat 32
    (ks.map fun j => if (met s k t).laneSrc j .int a ≠ 0 then 2 ^ laneOfThread j else 0).sum, 0)) (fun _ => rfl)
    (fun s => by rw [execXbal]) (fun ks j _ => ?_) h
  simp only [bne_iff_ne, List.sum_eq_foldl, List.foldl_map]

end CrossLane

/-- Settles O6: moves and selections are lane computations, RDSP reads what the table of special registers gives, and the cross-lane operations
fold the operands of the meeting, fadd by one rounding of the exact sum. -/
theorem moveSelectCrossLaneResults : Obligations.MoveSelectCrossLaneResults := by
  refine ⟨?_, fun s b x hx => State.spValue_band hx, ?_⟩
  · intro d a b c x imm na
    have hsel : na ++ LaneSrc.regs b ++ LaneSrc.regs c = LaneDst.regs d ++ read3 a b c := by simp [na, read3, read2]
    refine ⟨computes_of_laneCompute (g := execMov d a x) (fun _ => rfl) fun _ => by rw [execMov], fun s k t h => ?_, ?_, fun s k t h => ?_⟩
    · exact ⟨_, laneFrame_lane (rs := []) _ (by rwa [List.append_nil]), State.deliver_delivered d _ h.2.1⟩
    · rw [hsel]
      refine computes_of_laneCompute (g := execSel d a x b c) (fun _ => rfl) fun s => ?_
      rw [execSel]
      simp only [bne_iff_ne, ite_not]
    · exact ⟨rdsp_delivered h rfl, rdsp_delivered h rfl, rdsp_delivered h rfl, rdsp_delivered h rfl, rdsp_delivered h rfl,
        fun i hi => rdsp_delivered h (State.rdspVal_plain hi), rdsp_clk d h, rdspClr_clears d h⟩
  · intro d a b op rm exc s k t na m all A
    have hA (ks : List Nat) : (ks.map fun j => m.laneSrc j (xopReading op) a) = ks.map A := by cases op <;> rfl
    have hshf : na ++ LaneSrc.regs b = LaneDst.regs d ++ read2 a b := List.append_assoc ..
    refine ⟨?_, xbal_delivers d a, ?_, ?_⟩
    · rw [hshf]
      exact xshf_delivers d a b
    · refine delivers_of_results (g := execXred op rm d a) (fun _ => rfl) (fun s => by rw [execXred]) fun ks j _ => ?_
      rw [← hA]
      exact xopFold_foldIs op rm _
    · refine delivers_of_results (g := execXscn op rm exc d a) (fun _ => rfl) (fun s => by rw [execXscn]) fun ks j _ => ?_
      rw [← hA]
      exact xopFold_foldIs op rm _

end Sys2Proof.Machine
end

section
/-! The promotion of a block's exact sum (R50-R53, R158). -/

namespace Sys2Proof.Machine

/-- A sign and a magnitude as a number. -/
def signedMag (z : Bool × Nat) : Int := if z.1 then -(z.2 : Int) else z.2

theorem signedMag_mul (a w : Bool × Nat) :
    (if (a.1 ^^ w.1) then -((a.2 * w.2 : Nat) : Int) else ((a.2 * w.2 : Nat) : Int)) = signedMag a * signedMag w := by
  obtain ⟨s, m⟩ := a
  obtain ⟨u, n⟩ := w
  cases s <;> cases u <;> simp [signedMag]

/-- The sum of a block is the sum of its signed products (R52). -/
theorem blockSum_eq (a w : List (Bool × Nat)) : blockSum a w = ((a.zip w).map fun z => signedMag z.1 * signedMag z.2).sum := by
  simp only [blockSum, signedMag_mul, List.sum_eq_foldl, List.foldl_map]

/-- The sign and the magnitude of an integer. -/
theorem signedMag_natAbs (x : Int) : signedMag (decide (x < 0), x.natAbs) = x := by
  simp only [signedMag, decide_eq_true_eq]
  split <;> omega

/-- The two's complement reading of n bits is that of a bit vector of n bits. -/
theorem sextNat_toNat {n : Nat} (hn : 0 < n) (b : BitVec n) : sextNat n b.toNat = b.toInt := by
  obtain ⟨k, rfl⟩ := Nat.exists_eq_succ_of_ne_zero hn.ne'
  have hb := b.isLt
  have hhalf : b.toNat < 2 ^ (k + 1 - 1) ↔ 2 * b.toNat < 2 ^ (k + 1) := by
    rw [Nat.add_sub_cancel, pow_succ]
    omega
  have hmod : (b.toNat : Int) % 2 ^ (k + 1) = b.toNat := Int.emod_eq_of_lt (by omega) (by exact_mod_cast hb)
  simp only [sextNat, Nat.succ_eq_add_one, Nat.mod_eq_of_lt hb, hhalf, hmod, BitVec.toInt_eq_toNat_cond]
  push_cast
  rfl

/-- One block is promoted: its sum rounded once, times the scales where an operand is FP8, or a NaN, added to the element (R53). -/
theorem promote_eq (acc : Word) (x y : ABlock) (sa sw : Word) (fp8 : Bool) :
    let total : Int := ((x.mags.zip y.mags).map fun z => signedMag z.1 * signedMag z.2).sum
    let v := rne32 (.fin (decide (total < 0)) total.natAbs (x.exp + y.exp))
    promote acc x y sa sw fp8 = addRne acc (if (x.nf || y.nf || (rd32 sa).isNan || (rd32 sw).isNan) = true then nan32
      else if fp8 = true then mulRne v (mulRne sa sw) else v) := by
  rw [← blockSum_eq]
  rfl

/-- Settles O29: the sum of a block is that of its signed products, and the rest is R53's order of cases. -/
theorem blockPromotion : Obligations.BlockPromotion := by
  intro acc sa sw x y fp8 sgn total v bad
  have hbad : bad ↔ (x.nf || y.nf || (rd32 sa).isNan || (rd32 sw).isNan) = true := by
    simp only [bad, Bool.or_eq_true, or_assoc]
  have hp (f : Bool) := promote_eq acc x y sa sw f
  refine ⟨fun h => ?_, fun h => ?_, fun bs w sx => ⟨?_, rfl, rfl, ?_⟩⟩
  · rw [hp, if_pos (hbad.1 h)]
    rfl
  · rw [hp, hp, if_neg (mt hbad.2 h), if_neg Bool.false_ne_true, if_neg (mt hbad.2 h), if_pos rfl]
    exact ⟨rfl, rfl⟩
  · simp only [alignBlock, List.map_map]
    refine List.map_congr_left fun j _ => ?_
    rw [← sextNat_toNat (by decide) (bs.getD j 0)]
    exact signedMag_natAbs _
  · rintro rfl
    rfl

end Sys2Proof.Machine
end

section
/-! Completions of engine commands (R146-R148, R158, R161, R163). -/

namespace Sys2Proof.Machine

open Sys2Proof.Says

/-! ### What a release waits for -/

/-- R148: what a release waits for, item by item. -/
theorem State.relLeft_iff (s : State) (id : Nat) (c : Cmd) : s.relLeft id c = true ↔
    (∃ i ∈ c.relAfter, ∃ o, mget s.ops i = some o ∧ o.done = false) ∨
    ∃ m ∈ c.members, (∃ j t, (j, t) ∈ s.tasks ∧ ∃ x ∈ t.leaving, x.from m.2 = true ∧ x.tag.seq < id) ∨
      ∃ j o, (j, o) ∈ s.ops ∧ o.egress = true ∧ o.uid = m.2 ∧ o.seq < id ∧ o.done = false := by
  simp only [State.relLeft, State.opsLeft, State.leavingBefore, many, Bool.or_eq_true, Bool.and_eq_true, List.any_eq_true, Option.any_eq_true,
    Bool.not_eq_true', beq_iff_eq, decide_eq_true_eq, Prod.exists, and_assoc]

/-! ### What a matrix command does when it runs -/

/-- The units that a part of a command, or the whole of it, has still to perform (R163). -/
def Cmd.unitsLeft (c : Cmd) (part : Option (Nat × Nat)) (total : Nat) : List Nat := c.rest (unitsOf part total).1 (unitsOf part total).2

section Matrix

variable {s : State} {id : Nat} {c : Cmd} {part : Option (Nat × Nat)} {f : Fate}

theorem State.runMatrix_accz {row0 n : Nat} (hk : c.kind = .accz row0 n) :
    let arr := s.arrays c.block c.core
    let js := c.unitsLeft part (n * (256 * arr.length))
    s.runMatrix id c part .performed = .done ((s.setAccElems arr row0 (js.map fun e => (e, 0))).gotUnits id js) := by
  simp only [State.runMatrix, hk]
  rfl

theorem State.runMatrix_accld {h : Bool} {va row0 n : Nat} {t : State} {m : Table Byte} (hk : c.kind = .accld h va row0 n) :
    let arr := s.arrays c.block c.core
    let w := if h then 2 else 4
    let js := c.unitsLeft part (n * (256 * arr.length))
    Fetches s id c (js.flatMap fun e => (List.range w).map fun i => (w * e + i, va + w * e + i)) t m →
      s.runMatrix id c part .performed = .done ((t.setAccElems arr row0 (js.map fun e =>
        (e, loadElem h ((List.range w).map fun i => sget 0 m (w * e + i))))).gotUnits id js) := by
  intro arr w js hf
  simp only [State.runMatrix, hk]
  exact (if_pos rfl).trans (hf _)

theorem State.runMatrix_mxld {fmt : MFmt} {p : Fin 2} {va b0 nb : Nat} {t : State} {m : Table Byte} (hk : c.kind = .mxld fmt p va b0 nb) :
    let arr := s.arrays c.block c.core
    let size := nb * imageBytes fmt (256 * arr.length)
    let lo := (unitsOf part size).1
    Fetches (s.reformat arr p fmt) id c ((List.range (unitsOf part size).2).map fun i => (lo + i, va + lo + i)) t m →
      s.runMatrix id c part .performed =
        .done (if part.isSome then t.latch id m else t.runMxld arr fmt p b0 nb ((List.range size).map (sget 0 m))) := by
  intro arr size lo hf
  simp only [State.runMatrix, hk]
  refine (if_neg nofun).trans ((hf _).trans ?_)
  cases part <;> rfl

/-- MXMM reads bytes of its tile and scales, and with the last of them has its effect; it stops at a line that no code corrects. -/
theorem State.runMatrix_mxmm {fmt : MFmt} {u v row0 ofs : Nat} {p : Fin 2} {sw : List Word} {asc : Option Nat}
    (hk : c.kind = .mxmm fmt u v row0 ofs p sw asc) :
    let arr := s.arrays c.block c.core
    let total := mxmmBytes fmt v asc
    let at_ (j : Nat) : Nat := c.core * 2097152 + mxmmAt fmt v ofs asc j
    let need := (c.unitsLeft part total).filter fun j => (mget c.latched j).isNone
    let m := need.foldl (fun m j => mput m j (s.byte (at_ j))) c.latched
    ((∃ j ∈ need, s.homeBad (at_ j) = true) → s.runMatrix id c part .performed = .stop s ⟨5, 12, 0⟩) ∧
    ((∀ j ∈ need, s.homeBad (at_ j) = false) → s.runMatrix id c part .performed =
      .done (if part.isSome then s.latch id m
        else (s.runMxmm arr fmt v row0 p sw asc ((List.range total).map (sget 0 m))).logParity c.core arr p v)) := by
  intro arr total at_ need m
  have hrun : s.runMatrix id c part .performed = if need.any (fun j => s.homeBad (at_ j)) = true then .stop s ⟨5, 12, 0⟩
      else if part.isSome = true then .done (s.latch id m)
      else .done ((s.runMxmm arr fmt v row0 p sw asc ((List.range total).map (sget 0 m))).logParity c.core arr p v) := by
    simp only [State.runMatrix, hk]
    rfl
  refine ⟨fun h => ?_, fun h => ?_⟩
  · rw [hrun, if_pos (List.any_eq_true.2 h)]
  · have hno : ¬ need.any (fun j => s.homeBad (at_ j)) = true := by simpa using h
    rw [hrun, if_neg hno]
    cases part <;> rfl

theorem State.runMatrix_accmv {form : MvForm} {va row0 n : Nat} {u : State} {lost : Bool} (hk : c.kind = .accmv form va row0 n)
    (hform : form ≠ .add) :
    let arr := s.arrays c.block c.core
    let total := n * (256 * arr.length)
    s.cmdWrite id c (s.moveOut arr form va row0 (c.unitsLeft part total)) (fun l => s.moveOut arr form va row0 (lineElems form va total l))
        false f (fun u _ _ => u) = .go u lost →
      s.runMatrix id c part f = .done u := by
  intro arr total hw
  cases form with
  | add => exact absurd rfl hform
  | st | bf =>
    simp only [Cmd.unitsLeft, arr, total] at hw
    simp only [State.runMatrix, hk, hw]

theorem State.runMatrix_accmvAdd {va row0 n : Nat} (hk : c.kind = .accmv .add va row0 n) :
    let arr := s.arrays c.block c.core
    let rows := unitsOf (part.map fun x => (x.1 / (256 * arr.length), x.2 / (256 * arr.length))) n
    s.runMatrix id c part f = s.addRows id c arr va row0 f ((List.range rows.2).map (rows.1 + ·)) := by
  simp only [State.runMatrix, hk]

/-! ### ENGINE_COMMAND_COMPLETE -/

/-- What follows a matrix command's effect: with the last of it the command leaves its engine (R146, R163). -/
def State.partDone (id : Nat) (c : Cmd) (part : Option (Nat × Nat)) (u : State) : State :=
  (if part.isNone then u.dropCmd id c else u).settle.pumpSaves

/-- May the event have an effect: the command runs, and the last of a release waits for nothing (R147, R148)? -/
def State.mayComplete (s : State) (id : Nat) (c : Cmd) (part : Option (Nat × Nat)) : Prop :=
  s.cmdRuns id c = true ∧ (part = none → c.rel = true → s.relLeft id c = false)

theorem State.mayComplete_iff : s.mayComplete id c part ↔ (!s.cmdRuns id c || (part.isNone && c.rel && s.relLeft id c)) = false := by
  simp [State.mayComplete]

theorem exec_engineCommandComplete_waits (hc : mget s.cmds id = some c) (h : ¬ s.mayComplete id c part) :
    exec (.engineCommandComplete id (part, f)) s = .next s.pumpSaves := by
  rw [State.mayComplete_iff, Bool.not_eq_false] at h
  change Host.Outcome.next (s.engineCompleted id part f).pumpSaves = _
  simp only [State.engineCompleted, hc, h, if_true]

section Runs

variable (hc : mget s.cmds id = some c) (hr : s.mayComplete id c part)
include hc hr

theorem exec_engineCommandComplete_copy {kind : CopyKind} {ws : List Word} {dst ix : Nat} {co : List Int} {cnt : Option Nat}
    (hk : c.kind = .copy kind ws dst co ix cnt) :
    exec (.engineCommandComplete id (part, f)) s =
      .next (if (part.isNone && c.gotten == (lrecOf ws).total) = true then s.finishCmd id c else s).pumpSaves := by
  change Host.Outcome.next (s.engineCompleted id part f).pumpSaves = _
  simp only [State.engineCompleted, hc, State.mayComplete_iff.1 hr, Bool.false_eq_true, if_false, hk]

/-- A matrix command that may run is attempted, once an acquire has dropped the read-only cache (R228). -/
theorem exec_engineCommandComplete_matrix (hk : c.kind.engine = .mx) :
    exec (.engineCommandComplete id (part, f)) s = .next (State.pumpSaves
      (State.cmdApply id c (fun t => if part.isNone then t.finishCmd id c else t.settle)
        ((if c.acq then s.dropRoc c.core else s).runMatrix id c part f))) := by
  change Host.Outcome.next (s.engineCompleted id part f).pumpSaves = _
  simp only [State.engineCompleted, hc, State.mayComplete_iff.1 hr, Bool.false_eq_true, if_false]
  cases h : c.kind with
  | copy => simp only [h, CmdKind.engine, reduceCtorEq] at hk
  | _ => rfl

theorem exec_engineCommandComplete_done {u : State} (hk : c.kind.engine = .mx)
    (hu : (if c.acq then s.dropRoc c.core else s).runMatrix id c part f = .done u) :
    exec (.engineCommandComplete id (part, f)) s = .next (State.partDone id c part u) := by
  rw [exec_engineCommandComplete_matrix hc hr hk, hu]
  cases part <;> rfl

end Runs

/-- Dropping the read-only cache leaves the blocks. -/
theorem State.arrays_acquired (b k : Nat) : (if c.acq then s.dropRoc c.core else s).arrays b k = s.arrays b k := by
  split <;> rfl

theorem Cmd.unitsLeft_eq (c : Cmd) (part : Option (Nat × Nat)) (total : Nat) : c.unitsLeft part total = match part with
    | none => c.rest 0 total
    | some (lo, n) => c.rest lo (min n (total - lo)) := by
  cases part <;> rfl

end Matrix

/-! ### Planes (R49) -/

/-- A table restricted by its keys reads as before at a key that is kept, and as if empty at one that is not. -/
theorem mget_filter_key {α : Type} (m : Table α) (p : Nat → Bool) (k : Nat) :
    mget (m.filter fun x => p x.1) k = if p k then mget m k else none := by
  induction m with
  | nil => simp
  | cons x m ih =>
    obtain ⟨j, a⟩ := x
    by_cases hj : j = k
    · subst hj
      cases hp : p j <;> simp [hp, mget_cons, ih]
    · cases hp : p j <;> simp [hp, mget_cons, ih, hj]

theorem sget_filter_key {α : Type} (d : α) (m : Table α) (p : Nat → Bool) (k : Nat) :
    sget d (m.filter fun x => p x.1) k = if p k then sget d m k else d := by
  rw [sget, mget_filter_key]
  split <;> rfl

/-- A cell's and a block's key tell their plane. -/
theorem cellKey_plane {q b r col : Nat} (hb : b < 8) (hr : r < 32) (hcol : col < 256) : ((256 * q + 32 * b + r) * 256 + col) / 65536 = q := by
  omega

theorem blockKey_plane {q b col : Nat} (hb : b < 8) (hcol : col < 256) : ((8 * q + b) * 256 + col) / 2048 = q := by omega

/-- A plane of a new format reads as zeros, the other as before (R49). -/
theorem Engine.getBlock_reformat (e : Engine) (p q : Fin 2) (fmt : MFmt) {b col : Nat} (hb : b < 8) (hcol : col < 256) :
    (e.reformat p fmt).getBlock q b col = if q = p then ABlock.zeros false else e.getBlock q b col := by
  have hcell (r : Nat) (hr : r ∈ List.range 32) := cellKey_plane (q := q.val) hb (List.mem_range.1 hr) hcol
  have hblock := blockKey_plane (q := q.val) hb hcol
  have hread : (e.reformat p fmt).getBlock q b col =
      ⟨(List.range 32).map fun r =>
        let x := if q.val != p.val then sget 0 e.cells ((256 * q.val + 32 * b + r) * 256 + col) else 0
        (bitAt x 11, x % 2048),
        if q.val != p.val then sget 0 e.ew ((8 * q.val + b) * 256 + col) else 0,
        if q.val != p.val then sget false e.nf ((8 * q.val + b) * 256 + col) else false⟩ := by
    simp only [Engine.getBlock, Engine.reformat, ABlock.mk.injEq]
    refine ⟨List.map_congr_left fun r hr => ?_, ?_, ?_⟩
    · rw [sget_filter_key 0 e.cells (fun k => k / 65536 != p.val), hcell r hr]
    · rw [sget_filter_key 0 e.ew (fun k => k / 2048 != p.val), hblock]
    · rw [sget_filter_key false e.nf (fun k => k / 2048 != p.val), hblock]
  rw [hread]
  by_cases hq : q = p
  · subst hq
    simp only [bne_self_eq_false, Bool.false_eq_true, if_false, if_true]
    rfl
  · have hv : (q.val != p.val) = true := bne_iff_ne.2 fun h => hq (Fin.ext h)
    simp only [hv, if_true, if_neg hq]
    rfl

theorem Engine.reformat_fmt (e : Engine) (p q : Fin 2) (fmt : MFmt) : (e.reformat p fmt).fmt[q] = if q = p then fmt else e.fmt[q] := by
  simp only [Engine.reformat, Fin.getElem_fin, Vector.getElem_set, Fin.ext_iff, eq_comm]

/-! ### Elements of a move (R161) -/

/-- Engines changed one after another: each that is named once has its own change, and no other is changed. -/
theorem State.foldl_modEngine_other (g : Nat → Engine → Engine) (xs : List (Nat × Nat)) (s : State) {c : Nat} (hc : c ∉ xs.map Prod.snd) :
    (xs.foldl (fun s x => s.modEngine x.2 (g x.1)) s).engine c = s.engine c := by
  induction xs generalizing s with
  | nil => rfl
  | cons x xs ih =>
    rw [List.map_cons, List.mem_cons, not_or] at hc
    rw [List.foldl_cons, ih _ hc.2]
    exact State.engine_setEngine_other s _ hc.1

theorem State.foldl_modEngine_named (g : Nat → Engine → Engine) {xs : List (Nat × Nat)} {s : State} (hr : Rising s.engines)
    (hn : (xs.map Prod.snd).Nodup) {x : Nat × Nat} (hx : x ∈ xs) :
    (xs.foldl (fun s x => s.modEngine x.2 (g x.1)) s).engine x.2 = g x.1 (s.engine x.2) := by
  induction xs generalizing s with
  | nil => cases hx
  | cons y xs ih =>
    rw [List.map_cons, List.nodup_cons] at hn
    rw [List.foldl_cons]
    rcases List.mem_cons.1 hx with rfl | hx
    · rw [State.foldl_modEngine_other g xs _ hn.1]
      exact State.engine_setEngine s _ _ hr
    · have hne : x.2 ≠ y.2 := fun h => hn.1 (h ▸ List.mem_map_of_mem hx)
      rw [ih (rising_sput _ _ _ hr) hn.2 hx]
      exact congrArg _ (State.engine_setEngine_other s _ hne)

/-- What writing elements of a move does to array i of it (R161). -/
def Engine.setElems (cols row0 : Nat) (xs : List (Nat × Word)) (i : Nat) (e : Engine) : Engine :=
  { e with acc := (xs.filter fun y => y.1 % cols / 256 == i).foldl (fun m y => sput 0 m (256 * (row0 + y.1 / cols) + y.1 % 256) y.2) e.acc }

theorem State.setAccElems_eq (s : State) (arr : List Nat) (row0 : Nat) (xs : List (Nat × Word)) : s.setAccElems arr row0 xs =
    ((List.range arr.length).zip arr).foldl (fun s x => s.modEngine x.2 (Engine.setElems (256 * arr.length) row0 xs x.1)) s := rfl

/-- The engine of an array of a move, once one element has been written (R161). -/
theorem State.engine_setAccElems {s : State} {arr : List Nat} (row0 e : Nat) (w : Word) (hn : arr.Nodup) (hr : Rising s.engines) {i : Nat}
    (hi : i < arr.length) :
    (s.setAccElems arr row0 [(e, w)]).engine arr[i] =
      if e % (256 * arr.length) / 256 = i then
        { s.engine arr[i] with acc := sput 0 (s.engine arr[i]).acc (256 * (row0 + e / (256 * arr.length)) + e % 256) w }
      else s.engine arr[i] := by
  have hsnd : ((List.range arr.length).zip arr).map Prod.snd = arr := List.map_snd_zip (by simp)
  have hmem : (i, arr[i]) ∈ (List.range arr.length).zip arr := by
    rw [List.mem_iff_getElem]
    exact ⟨i, by simpa using hi, by simp⟩
  rw [State.setAccElems_eq, State.foldl_modEngine_named _ hr (hsnd.symm ▸ hn) hmem, Engine.setElems]
  by_cases he : e % (256 * arr.length) / 256 = i <;> simp [he]

/-- Two elements of a move lie at one place only if they are the same (R161). -/
theorem moveElem_inj {e e' k row0 : Nat} (hj : e % (256 * k) / 256 = e' % (256 * k) / 256)
    (hkey : 256 * (row0 + e / (256 * k)) + e % 256 = 256 * (row0 + e' / (256 * k)) + e' % 256) : e = e' := by
  have hmod (x : Nat) : x % (256 * k) % 256 = x % 256 := Nat.mod_mod_of_dvd x (Nat.dvd_mul_right ..)
  have hm := Nat.div_add_mod (e % (256 * k)) 256
  have hm' := Nat.div_add_mod (e' % (256 * k)) 256
  have hd := Nat.div_add_mod e (256 * k)
  have hd' := Nat.div_add_mod e' (256 * k)
  rw [hmod, hj] at hm
  rw [hmod] at hm'
  have hq : e / (256 * k) = e' / (256 * k) := by omega
  rw [hq] at hd
  omega

/-- An element written is read back, and every other of the move as before (R161). -/
theorem State.accElem_setAccElems {s : State} {arr : List Nat} (row0 e e' : Nat) (w : Word) (hn : arr.Nodup) (h0 : arr ≠ [])
    (hr : Rising s.engines) (hacc : ∀ c, Rising (s.engine c).acc) :
    (s.setAccElems arr row0 [(e, w)]).accElem arr row0 e' = if e' = e then w else s.accElem arr row0 e' := by
  have hlen : 0 < arr.length := List.length_pos_iff.2 h0
  have hi : e' % (256 * arr.length) / 256 < arr.length := by
    rw [Nat.div_lt_iff_lt_mul (by decide), Nat.mul_comm]
    exact Nat.mod_lt _ (by omega)
  simp only [State.accElem, List.getD_eq_getElem _ _ hi, State.engine_setAccElems row0 e w hn hr hi]
  by_cases hee : e' = e
  · subst hee
    rw [if_pos rfl, if_pos rfl]
    exact sget_sput_same 0 _ w (hacc _)
  · rw [if_neg hee]
    split
    case isTrue hj => exact sget_sput_other _ 0 w fun hkey => hee (moveElem_inj hj hkey.symm).symm
    case isFalse => rfl

/-- A number's bytes in little-endian order read back as it (R36). -/
theorem leNat_leBytes (n x : Nat) (hx : x < 256 ^ n) : leNat (leBytes n x) = x := by
  induction n generalizing x with
  | zero => simp [leBytes, leNat] at *; omega
  | succ n ih =>
    have hdiv : x / 256 < 256 ^ n := by
      rw [pow_succ] at hx
      omega
    simp only [leBytes, leNat, ih _ hdiv, BitVec.toNat_ofNat]
    omega

/-- Two FP32 words in memory are added as one sum rounded to nearest even (R161). -/
theorem addWords_word (x y : Nat) (hx : x < 2 ^ 32) (hy : y < 2 ^ 32) :
    addWords (leBytes 4 x) (leBytes 4 y) = leBytes 4 (addRne (BitVec.ofNat 32 x) (BitVec.ofNat 32 y)).toNat := by
  have hx' := leNat_leBytes 4 x hx
  have hy' := leNat_leBytes 4 y hy
  simp only [leBytes] at hx' hy'
  simp only [leBytes, addWords, hx', hy', addRne, rd32, BitVec.toNat_ofNat, Nat.mod_eq_of_lt hx, Nat.mod_eq_of_lt hy, List.append_nil]

/-- A write of a command to ungraded memory of this package lands there (R149, R161). -/
theorem State.cmdPlaced_home {s : State} {id va h : Nat} {c : Cmd} {a : Acc} {data : List Byte} {add : Bool} {f : Fate}
    (hh : a.loc.home = some h) (hg : a.graded = false) (hr : s.refusedAt c.core c.part a.loc = false) :
    s.cmdPlaced id c va a data add f = .go (s.writeHome h (if add then addWords (s.bytes h data.length) data else data)) false := by
  simp only [State.cmdPlaced, hr, hh, hg, Bool.false_eq_true, if_false]

/-- Settles O30: a matrix command's completion is the attempt to run it, kind by kind, and a copy's is judged by the bytes landed. -/
theorem engineCommandsComplete : Obligations.EngineCommandsComplete := by
  refine ⟨State.relLeft_iff, ?_, fun e p q fmt b col hb hcol _ _ _ => ?_, fun s arr row0 e e' w => State.accElem_setAccElems row0 e e' w,
    fun x w hx => ?_, fun s id c va h a data add f => State.cmdPlaced_home⟩
  · intro s id c part hc runs arr cols s1 run fin units
    have harr : s1.arrays c.block c.core = arr := State.arrays_acquired _ _
    have hunits (total : Nat) : c.unitsLeft part total = units total := c.unitsLeft_eq part total
    refine ⟨fun f h => exec_engineCommandComplete_waits hc h, fun h => ?_⟩
    have hdone {f : Fate} {u : State} (hk : c.kind.engine = .mx) (hu : s1.runMatrix id c part f = .done u) : run f = fin u :=
      exec_engineCommandComplete_done hc h hk hu
    refine ⟨?_, ?_, ?_, ?_, ?_, ?_, ?_⟩
    · intro row0 n hk
      have hu := State.runMatrix_accz (s := s1) (id := id) (part := part) hk
      simp only [harr, hunits] at hu
      exact hdone (hk ▸ rfl) hu
    · intro fmt u v row0 ofs p sw asc hk total at_ need m
      obtain ⟨hstop, hgo⟩ := State.runMatrix_mxmm (s := s1) (id := id) (part := part) hk
      rw [harr, hunits] at hgo
      rw [hunits] at hstop
      refine ⟨fun hbad => ?_, fun hok => ⟨fun hp => hdone (hk ▸ rfl) ?_, fun hp => hdone (hk ▸ rfl) ?_⟩⟩
      · refine (exec_engineCommandComplete_matrix hc h (hk ▸ rfl)).trans ?_
        rw [hstop hbad]
        rfl
      · rw [hgo hok, if_pos (Option.isSome_iff_ne_none.2 hp)]
      · rw [hgo hok, hp]
        rfl
    · intro fmt p va b0 nb t m hk size lo s2 hf
      have hu := State.runMatrix_mxld (s := s1) (id := id) (c := c) (part := part) (t := t) (m := m) hk
      rw [harr] at hu
      refine ⟨fun hp => hdone (hk ▸ rfl) ?_, fun hp => hdone (hk ▸ rfl) ?_⟩
      · rw [hu hf, if_pos (Option.isSome_iff_ne_none.2 hp)]
      · rw [hu hf, hp]
        rfl
    · intro b va row0 n t m hk w js hf
      have hu := State.runMatrix_accld (s := s1) (id := id) (c := c) (part := part) (t := t) (m := m) hk
      simp only [harr, hunits] at hu
      exact hdone (hk ▸ rfl) (hu hf)
    · intro form va row0 n f u lost hk hform hw
      have hu := State.runMatrix_accmv (s := s1) (id := id) (part := part) (f := f) (u := u) (lost := lost) hk hform
      simp only [harr, hunits] at hu
      exact hdone (hk ▸ rfl) (hu hw)
    · intro va row0 n f u hk lo k hw
      have hu := State.runMatrix_accmvAdd (s := s1) (id := id) (part := part) (f := f) hk
      rw [harr] at hu
      exact hdone (hk ▸ rfl) (hu.trans hw)
    · intro kind ws dst co ix cnt f hk
      have hrun := exec_engineCommandComplete_copy (f := f) hc h hk
      refine ⟨fun hp hg => ?_, fun hno => ?_⟩
      · subst hp
        exact hrun.trans (by rw [hg, beq_self_eq_true, Bool.and_true, Option.isNone_none, if_pos rfl]; rfl)
      · have hcond : (part.isNone && c.gotten == (lrecOf ws).total) = false := by
          rw [Bool.and_eq_false_iff, beq_eq_false_iff_ne]
          exact hno.imp_left fun hp => by simpa using Option.isSome_iff_ne_none.2 hp
        rw [hcond] at hrun
        exact hrun
  · have hget (q : Fin 2) := e.getBlock_reformat p q fmt hb hcol
    refine ⟨by rw [Engine.reformat_fmt, if_pos rfl], fun hq => ⟨by rw [Engine.reformat_fmt, if_neg hq], ?_⟩, ?_, rfl⟩
    · rw [hget, if_neg hq]
    · rw [hget, if_pos rfl]
      rfl
  · refine ⟨?_, rfl, rfl, rfl, fun hx' => ?_, ?_⟩
    · exact congrArg (BitVec.ofNat 32) (leNat_leBytes 4 x hx)
    · have hshift : BitVec.ofNat 32 (leNat (leBytes 2 x)) <<< (16 : Nat) = BitVec.ofNat 32 (x * 2 ^ 16) := by
        rw [leNat_leBytes 2 x hx']
        exact BitVec.eq_of_toNat_eq (by simp [Nat.shiftLeft_eq])
      simp only [loadElem, if_true, hshift, canonWide]
      rfl
    · have hw := addWords_word x w.toNat hx w.isLt
      rwa [BitVec.ofNat_toNat, BitVec.setWidth_eq] at hw

end Sys2Proof.Machine
end

section
/-! Values delivered in a format (R37, R45), and results as register values. -/

namespace Sys2Proof.Machine

open Sys2Proof.Says

/-! ### The formats of R37 -/

theorem formats_standard : ∀ F ∈ [fp32, fp16, bf16, fe5m2, fe4m3, fe2m1], F.Standard := by
  have h (F : FFmt) (hd : (decide (1 ≤ F.mb) && decide (2 ^ F.mb ≤ F.maxFin) && decide (F.maxFin < 2 ^ (F.eb + F.mb)) &&
      decide (F.kind = .ieee → F.maxFin + 1 = (2 ^ F.eb - 1) * 2 ^ F.mb) && decide (F.kind = .e4m3 → F.maxFin < 0x7F)) = true) : F.Standard := by
    simp only [Bool.and_eq_true, decide_eq_true_eq] at hd
    obtain ⟨⟨⟨⟨h1, h2⟩, h3⟩, h4⟩, h5⟩ := hd
    exact ⟨h1, h2, h3, h4, h5⟩
  intro F hF
  simp only [List.mem_cons, List.not_mem_nil, or_false] at hF
  rcases hF with rfl | rfl | rfl | rfl | rfl | rfl <;> exact h _ (by decide)

/-- Each packed format is 16 bits wide and has infinities (R59). -/
theorem pfmt_spec (fmt : PFmt) : (pfmt fmt).Standard ∧ (pfmt fmt).kind = .ieee ∧ (pfmt fmt).eb + (pfmt fmt).mb + 1 = 16 ∧
    (pfmt fmt).nan < 2 ^ 16 := by
  cases fmt with
  | f16 => exact ⟨formats_standard fp16 (by simp), rfl, rfl, by decide⟩
  | bf16 => exact ⟨formats_standard bf16 (by simp), rfl, rfl, by decide⟩

/-! ### What a delivery gives -/

section Values

variable {F : FFmt} {rm : Rm} {s : Bool} {m : Nat} {e : Int} {v : FVal}

theorem FFmt.withSign_zero (F : FFmt) (s : Bool) : F.withSign s 0 = zeroOf F s := by
  cases s <;> simp [FFmt.withSign, zeroOf, boolNat]

theorem FFmt.Standard.withSign_infCode (hF : F.Standard) (hk : F.kind = .ieee) (s : Bool) : F.withSign s F.infCode = infOf F s := by
  rw [FFmt.withSign, FFmt.infCode, hF.ieee hk, infOf]
  cases s <;> simp [boolNat]

theorem real_fin (s : Bool) (m : Nat) (e : Int) : real (.fin s m e) = (if s then -1 else 1) * ((m : ℝ) * 2 ^ e) := mul_assoc ..

theorem abs_real_fin (s : Bool) (m : Nat) (e : Int) : |real (.fin s m e)| = m * 2 ^ e := by
  have h : (0 : ℝ) ≤ m * 2 ^ e := by positivity
  rw [real_fin]
  cases s <;> simp [abs_of_nonneg h]

theorem real_fin_eq_zero_iff (s : Bool) (m : Nat) (e : Int) : real (.fin s m e) = 0 ↔ m = 0 := by
  rw [← abs_eq_zero, abs_real_fin, mul_eq_zero_iff_right (by positivity), Nat.cast_eq_zero]

theorem real_fin_neg_iff (s : Bool) (hm : m ≠ 0) (e : Int) : real (.fin s m e) < 0 ↔ s = true := by
  have h : (0 : ℝ) < m * 2 ^ e := by
    have : (0 : ℝ) < m := by exact_mod_cast Nat.pos_of_ne_zero hm
    positivity
  rw [real_fin]
  cases s
  · simpa using h.le
  · simpa using h

/-- A rounding of the magnitude of x under x's sign delivers x. -/
theorem delivers_of_roundsOnce {x : ℝ} {z : Bool} {r : Nat × Word} (hs : if x = 0 then s = z else (x < 0 ↔ s = true))
    (h : RoundsOnce F rm s |x| r) : Delivers F rm z x r := by
  by_cases hx : x = 0
  · rw [if_pos hx] at hs
    rw [Delivers, if_pos hx, ← hs]
    exact h
  · rw [if_neg hx] at hs
    simpa only [Delivers, hx, if_false, hs, Bool.decide_eq_true] using h

/-- A finite value is rounded once; an exact zero keeps its sign (R41, R42, R45). -/
theorem FFmt.Standard.round_delivers (hF : F.Standard) (rm : Rm) (s : Bool) (m : Nat) (e : Int) :
    Delivers F rm s (real (.fin s m e)) (F.round rm s m e false) := by
  have h := hF.round_roundsOnce (m := m) (sticky := false) (d := 0) rm s e le_rfl one_pos (by simp) nofun
  rw [add_zero, ← abs_real_fin s] at h
  refine delivers_of_roundsOnce ?_ h
  split
  case isTrue => rfl
  case isFalse hx => exact real_fin_neg_iff s (mt (real_fin_eq_zero_iff s m e).2 hx) e

/-- A delivery is the conversion of R45. -/
theorem FFmt.Standard.deliver_convertsF (hF : F.Standard) (rm : Rm) (v : FVal) : ConvertsF F rm v (F.deliver rm v) := by
  cases v with
  | nan => cases hk : F.kind <;> simp [ConvertsF, FFmt.deliver, hk, fNV]
  | inf s =>
    by_cases hk : F.kind = .ieee
    · simp only [ConvertsF, FFmt.deliver, hk, if_true, hF.withSign_infCode hk]
    · have htop := hF.hasMag false (le_refl F.maxFin)
      rw [FFmt.withSign, boolNat, if_neg Bool.false_ne_true, Nat.zero_mul, Nat.add_zero] at htop
      simp only [ConvertsF, FFmt.deliver, hk, if_false]
      exact ⟨_, htop, hF.hasMag s le_rfl, rfl⟩
  | fin s m e => exact hF.round_delivers rm s m e

/-- What is delivered has the format's width. -/
theorem FFmt.Standard.deliver_lt (hF : F.Standard) (hn : F.nan < 2 ^ (F.eb + F.mb + 1)) (rm : Rm) (v : FVal) :
    (F.deliver rm v).1 < 2 ^ (F.eb + F.mb + 1) := by
  have h := hF.deliver_convertsF rm v
  cases v with
  | nan =>
    rw [ConvertsF] at h
    rw [h]
    split
    · exact Nat.two_pow_pos _
    · exact hn
  | inf s =>
    rw [ConvertsF] at h
    split at h
    · rw [h]
      exact infOf_lt F s
    · obtain ⟨top, -, hmag, -⟩ := h
      exact hmag.1
  | fin s m e => exact roundsOnce_lt h

end Values

/-! ### Register values -/

section Registers

variable {F : FFmt} {rm : Rm} {v : FVal}

theorem FFmt.Standard.deliverW_pat (hF : F.Standard) (hn : F.nan < 2 ^ (F.eb + F.mb + 1)) (hw : F.eb + F.mb + 1 ≤ 32) (rm : Rm) (v : FVal) :
    ((F.deliverW rm v).1.toNat, (F.deliverW rm v).2) = F.deliver rm v := by
  have hlt : (F.deliver rm v).1 < 2 ^ 32 := (hF.deliver_lt hn rm v).trans_le (Nat.pow_le_pow_right (by decide) hw)
  rw [FFmt.deliverW, BitVec.toNat_ofNat, Nat.mod_eq_of_lt hlt]

theorem fin32_pat (rm : Rm) (x : FEx) : ((fin32 rm x).1.toNat, (fin32 rm x).2) = fp32.finish rm x := by
  have hlt : (fp32.finish rm x).1 < 2 ^ 32 := fp32_standard.deliver_lt (by decide) rm x.1
  rw [fin32, BitVec.toNat_ofNat, Nat.mod_eq_of_lt hlt]

/-- Element i of a pair (R36). -/
theorem half_eq (w : Word) (i : Nat) : half w i = w.toNat / 2 ^ (16 * i) % 2 ^ 16 := by
  rw [half, bits, show 16 * i + 15 + 1 - 16 * i = 16 by omega]

/-- Both halves computed, each of 16 bits. -/
theorem perHalf_eq {f : Nat → Nat × Word} (h : ∀ i, (f i).1 < 2 ^ 16) :
    perHalf f = (BitVec.ofNat 32 ((f 0).1 + (f 1).1 * 2 ^ 16), (f 0).2 ||| (f 1).2) := by
  simp only [perHalf, ofHalves, Nat.mod_eq_of_lt (h _)]

/-- Both halves computed are what the result is said to be, if each is. -/
theorem perHalf_both {f : Nat → Nat × Word} {is : Nat → Nat × Word → Prop} (h : ∀ i, (f i).1 < 2 ^ 16) (his : ∀ i, is i (f i)) :
    ∃ lo hi : Nat × Word, is 0 lo ∧ is 1 hi ∧ perHalf f = (BitVec.ofNat 32 (lo.1 + hi.1 * 2 ^ 16), lo.2 ||| hi.2) :=
  ⟨f 0, f 1, his 0, his 1, perHalf_eq h⟩

theorem pfmt_deliver_lt (fmt : PFmt) (rm : Rm) (v : FVal) : ((pfmt fmt).deliver rm v).1 < 2 ^ 16 := by
  obtain ⟨hF, -, hw, hn⟩ := pfmt_spec fmt
  have h := hF.deliver_lt (hw.symm ▸ hn) rm v
  rwa [hw] at h

end Registers

/-- A lane computation whose results `is` describes. -/
theorem computesSo_of_laneCompute {i : Instr} {g : State → Out} {rs : List Nat} {rd : Reading} {d : LaneDst} {a : LaneSrc} {x : Xl}
    {f : State → Nat → Word → FRes} {is : State → Nat → Word → FRes → Prop} (hi : ∀ s, exec i s = g s)
    (hg : ∀ s, g s = laneCompute s (LaneDst.regs d) rs rd d a x f) (his : ∀ s k v, is s k v (f s k v)) :
    ComputesSo i (LaneDst.regs d ++ rs) rd d a x is := ⟨f, computes_of_laneCompute hi hg, his⟩

end Sys2Proof.Machine
end

section
/-! Conversions into integers and E8M0, the readings of CVT, and scales (R38, R45, R46, R74, R77). -/

namespace Sys2Proof.Machine

open Sys2Proof.Says

/-! ### Integers -/

section Integers

variable {rm : Rm} {s : Bool} {t : ℝ} {n : Nat}

/-- Rounding to an integer, in the terms of R23. -/
theorem IntRounds.roundsInt (h : IntRounds rm s t n) : RoundsInt rm s t n := by
  have down (hd : (n : ℝ) ≤ t ∧ t < n + 1) : (n : ℝ) ≤ t ∧ ∀ z : ℝ, (∃ c : Nat, z = c) → z ≤ t → z ≤ n := by
    refine ⟨hd.1, ?_⟩
    rintro _ ⟨c, rfl⟩ hc
    exact_mod_cast Nat.lt_succ_iff.1 (by exact_mod_cast hc.trans_lt hd.2)
  have up (hd : t ≤ n ∧ (n : ℝ) < t + 1) : t ≤ n ∧ ∀ z : ℝ, (∃ c : Nat, z = c) → t ≤ z → (n : ℝ) ≤ z := by
    refine ⟨hd.1, ?_⟩
    rintro _ ⟨c, rfl⟩ hc
    exact_mod_cast Nat.lt_succ_iff.1 (by exact_mod_cast hd.2.trans_le (add_le_add_left hc 1))
  refine ⟨⟨n, rfl⟩, ?_⟩
  cases rm with
  | nearest =>
    refine ⟨?_, ?_⟩
    · rintro _ ⟨c, rfl⟩
      exact h.nearest_le c
    · rintro ⟨_, ⟨c, rfl⟩, hne, he⟩
      exact ⟨n, rfl, h.even_of_tie (Nat.cast_injective.ne_iff.1 hne) he⟩
  | zero => exact down h
  | down =>
    cases s with
    | false => exact down h
    | true => exact up h
  | up =>
    cases s with
    | false => exact up h
    | true => exact down h

/-- `roundInt` rounds the magnitude m * 2^e to an integer, and says whether a fraction was dropped. -/
theorem roundInt_intRounds (rm : Rm) (s : Bool) (m : Nat) (e : Int) :
    IntRounds rm s (m * 2 ^ e) (roundInt rm s m e).1 ∧ ((roundInt rm s m e).2 = false ↔ (m : ℝ) * 2 ^ e = (roundInt rm s m e).1) := by
  have h := roundAt_intRounds (rm := rm) (s := s) (m := m) (e := e) (q := 0) (sticky := false) (d := 0) le_rfl one_pos (by simp) nofun
  simpa only [add_zero, zpow_zero, div_one, roundInt] using h

/-- A conversion into an integer is R45's. -/
theorem toIntFmt_convertsI {lo hi : Int} (hlh : lo ≤ hi) (rm : Rm) (v : FVal) : ConvertsI lo hi rm v (toIntFmt lo hi rm v) := by
  cases v with
  | nan => rfl
  | inf s => rfl
  | fin s m e =>
    obtain ⟨hround, hexact⟩ := roundInt_intRounds rm s m e
    rw [ConvertsI, abs_real_fin]
    refine ⟨_, hround.roundsInt, ?_⟩
    have hreal : (((if s then -((roundInt rm s m e).1 : Int) else (roundInt rm s m e).1 : Int) : ℝ) = real (.fin s m e)) ↔
        (roundInt rm s m e).2 = false := by
      rw [hexact, real_fin]
      cases s <;> simp [eq_comm]
    simp only [toIntFmt, hreal]
    generalize (if s then -((roundInt rm s m e).1 : Int) else (roundInt rm s m e).1 : Int) = x
    refine ⟨fun h => if_pos h, fun h => ?_, fun hl hh => ?_⟩
    · rw [if_neg (by omega), if_pos h]
      rfl
    · rw [if_neg (by omega), if_neg (by omega)]
      cases (roundInt rm s m e).2 <;> rfl

end Integers

/-! ### E8M0 (R38, R46) -/

section E8m0

variable {rm : Rm} {t : ℝ} {n : Nat}

/-- No power of two lies between 2^q and its double. -/
theorem pow_apart (q j : ℤ) : (2 : ℝ) ^ j ≤ 2 ^ q ∨ 2 * (2 : ℝ) ^ q ≤ 2 ^ j := by
  rcases lt_or_ge q j with h | h
  · right
    rw [mul_comm, ← zpow_add_one₀ two_ne_zero]
    exact zpow_le_zpow_right₀ one_le_two h
  · exact .inl (zpow_le_zpow_right₀ one_le_two h)

/-- What rounds down to 1 of [1, 2) rounds to the power of two below it (R46). -/
theorem roundsTo_pow_one (h : IntRounds rm false t 1) (h1 : 1 ≤ t) (h2 : t < 2) (q : ℤ) :
    RoundsTo (fun y => ∃ k : ℤ, y = (2 : ℝ) ^ k) (fun y => t * 2 ^ q < y) rm false (t * 2 ^ q) (2 ^ q) := by
  have hpos : (0 : ℝ) < 2 ^ q := by positivity
  have hlo : (2 : ℝ) ^ q ≤ t * 2 ^ q := le_mul_of_one_le_left hpos.le h1
  have hhi : t * (2 : ℝ) ^ q < 2 * 2 ^ q := mul_lt_mul_of_pos_right h2 hpos
  have down : (2 : ℝ) ^ q ≤ t * 2 ^ q ∧ ∀ z : ℝ, (∃ k : ℤ, z = 2 ^ k) → z ≤ t * 2 ^ q → z ≤ 2 ^ q := by
    refine ⟨hlo, ?_⟩
    rintro _ ⟨j, rfl⟩ hz
    exact (pow_apart q j).resolve_right fun hge => absurd hz (not_le.2 (hhi.trans_le hge))
  refine ⟨⟨q, rfl⟩, ?_⟩
  cases rm with
  | nearest =>
    obtain ⟨hle, heven⟩ := h
    have hlt : |t - (1 : Nat)| < 1 / 2 := lt_of_le_of_ne hle fun he => absurd (heven he) (by decide)
    have hmid : t * (2 : ℝ) ^ q < 3 / 2 * 2 ^ q := by
      rw [Nat.cast_one] at hlt
      exact mul_lt_mul_of_pos_right (by linarith [(abs_lt.1 hlt).2]) hpos
    have hfar (j : ℤ) : t * (2 : ℝ) ^ q - 2 ^ q ≤ |t * 2 ^ q - 2 ^ j| ∧ (|t * (2 : ℝ) ^ q - 2 ^ j| = t * 2 ^ q - 2 ^ q → (2 : ℝ) ^ j = 2 ^ q) := by
      rcases pow_apart q j with hj | hj
      · rw [abs_of_nonneg (by linarith)]
        exact ⟨by linarith, fun he => by linarith⟩
      · rw [abs_of_nonpos (by linarith)]
        exact ⟨by linarith, fun he => by linarith⟩
    rw [abs_of_nonneg (sub_nonneg.2 hlo)]
    refine ⟨?_, ?_⟩
    · rintro _ ⟨j, rfl⟩
      exact (hfar j).1
    · rintro ⟨_, ⟨j, rfl⟩, hne, he⟩
      exact absurd ((hfar j).2 he) hne
  | zero => exact down
  | down => exact down
  | up =>
    have ht : t = 1 := le_antisymm (by exact_mod_cast h.1) h1
    subst ht
    rw [one_mul]
    exact ⟨le_rfl, fun _ _ hz => hz⟩

/-- What rounds up to 2 of [1, 2) rounds to the power of two above it, also from the middle (R46). -/
theorem roundsTo_pow_two (h : IntRounds rm false t 2) (h1 : 1 ≤ t) (h2 : t < 2) (q : ℤ) :
    RoundsTo (fun y => ∃ k : ℤ, y = (2 : ℝ) ^ k) (fun y => t * 2 ^ q < y) rm false (t * 2 ^ q) (2 ^ (q + 1)) := by
  have hpos : (0 : ℝ) < 2 ^ q := by positivity
  have hlo : (2 : ℝ) ^ q ≤ t * 2 ^ q := le_mul_of_one_le_left hpos.le h1
  have hhi : t * (2 : ℝ) ^ q < 2 * 2 ^ q := mul_lt_mul_of_pos_right h2 hpos
  have no (hle : ((2 : Nat) : ℝ) ≤ t) : False := absurd (by exact_mod_cast hle) (not_le.2 h2)
  refine ⟨⟨q + 1, rfl⟩, ?_⟩
  rw [zpow_add_one₀ two_ne_zero, mul_comm _ (2 : ℝ)]
  cases rm with
  | nearest =>
    obtain ⟨hle, -⟩ := h
    have hmid : 3 / 2 * (2 : ℝ) ^ q ≤ t * 2 ^ q := by
      rw [Nat.cast_ofNat] at hle
      exact mul_le_mul_of_nonneg_right (by linarith [(abs_le.1 hle).1]) hpos.le
    rw [abs_of_nonpos (sub_nonpos.2 hhi.le)]
    refine ⟨?_, fun _ => hhi⟩
    rintro _ ⟨j, rfl⟩
    rcases pow_apart q j with hj | hj
    · rw [abs_of_nonneg (by linarith)]
      linarith
    · rw [abs_of_nonpos (by linarith)]
      linarith
  | zero => exact (no h.1).elim
  | down => exact (no h.1).elim
  | up =>
    have hgt : (2 : ℝ) ^ q < t * 2 ^ q := by
      have h1t := h.2
      rw [Nat.cast_ofNat] at h1t
      exact lt_mul_of_one_lt_left hpos (by linarith)
    refine ⟨hhi.le, ?_⟩
    rintro _ ⟨j, rfl⟩ hz
    exact (pow_apart q j).resolve_left fun hle => absurd hgt (not_lt.2 (hz.trans hle))

/-- The code of a power of two, saturated at the ends of E8M0 (R46). -/
theorem e8m0Code_spec (k : ℤ) : let r : FRes := if k < -127 then (0, fSAT) else if 127 < k then (0xFE, fSAT) else (BitVec.ofInt 32 (k + 127), 0)
    (k < -127 → r = (0, 0x20)) ∧ (127 < k → r = (0xFE, 0x20)) ∧ (-127 ≤ k → k ≤ 127 → r = (BitVec.ofInt 32 (k + 127), 0)) := by
  refine ⟨fun h => if_pos h, fun h => ?_, fun hl hh => ?_⟩
  · rw [if_neg (by omega), if_pos h]
    rfl
  · rw [if_neg (by omega), if_neg (by omega)]

/-- A conversion into E8M0 is R46's. -/
theorem toE8m0_convertsE8m0 (rm : Rm) (v : FVal) : ConvertsE8m0 rm v (toE8m0 rm v) := by
  refine ⟨fun h => ?_, ?_⟩
  · cases v with
    | nan => rfl
    | inf s => rfl
    | fin s m e =>
      have hsm : (s || m == 0) = true := by
        rcases h with h | h | h
        · exact absurd rfl (h s m e)
        · rw [show s = true from h, Bool.true_or]
        · rw [show (m == 0) = true from h, Bool.or_true]
      simp only [toE8m0, hsm, if_true]
      rfl
  · rintro m e rfl hm
    obtain ⟨j, hj, hlo, hhi⟩ := bitLen_bounds hm
    have hq : e + bitLen m - 1 = e + j := by rw [hj]; push_cast; ring
    obtain ⟨hr, -⟩ := roundAt_intRounds (rm := rm) (s := false) (m := m) (e := e) (q := e + j) (sticky := false) (d := 0) le_rfl one_pos
      (by simp) nofun
    have hpos : (0 : ℝ) < 2 ^ j := by positivity
    have ht : ((m : ℝ) + 0) * 2 ^ e / 2 ^ (e + (j : ℤ)) = m / 2 ^ j := by
      rw [add_zero, zpow_add₀ two_ne_zero, zpow_natCast]
      field_simp
    rw [ht] at hr
    have hx : real (.fin false m e) = (m : ℝ) / 2 ^ j * 2 ^ (e + (j : ℤ)) := by
      rw [real_fin, zpow_add₀ two_ne_zero, zpow_natCast]
      field_simp
      simp
    have h1 : 1 ≤ (m : ℝ) / 2 ^ j := by
      rw [one_le_div hpos]
      exact_mod_cast hlo
    have h2 : (m : ℝ) / 2 ^ j < 2 := by
      rw [div_lt_iff₀ hpos, ← pow_succ']
      exact_mod_cast hhi
    have hm0 : (false || m == 0) = false := by simpa using hm
    simp only [toE8m0, hm0, Bool.false_eq_true, if_false, hq, hx]
    generalize (roundAt rm false m e false (e + j)).1 = r at hr ⊢
    have hr1 : 1 ≤ r := hr.le_of_le (by exact_mod_cast h1)
    have hr2 : r ≤ 2 := hr.le_of_ge (by exact_mod_cast h2.le)
    obtain rfl | rfl : r = 1 ∨ r = 2 := by omega
    · refine ⟨e + j, roundsTo_pow_one hr h1 h2 _, ?_⟩
      simpa using e8m0Code_spec (e + j)
    · refine ⟨e + j + 1, roundsTo_pow_two hr h1 h2 _, ?_⟩
      simpa using e8m0Code_spec (e + j + 1)

theorem rdE8m0_spec (w : Nat) : (w % 2 ^ 8 = 255 → rdE8m0 w = .nan) ∧ (w % 2 ^ 8 ≠ 255 → real (rdE8m0 w) = (2 : ℝ) ^ ((w % 2 ^ 8 : Nat) - 127 : ℤ)) := by
  refine ⟨fun h => ?_, fun h => ?_⟩
  · rw [rdE8m0, if_pos (by simpa using h)]
  · rw [rdE8m0, if_neg (by simpa using h), real_fin]
    simp

end E8m0

/-! ### The types of CVT (R74) -/

section Types

variable {rm : Rm}

theorem real_ofIntVal (x : Int) : real (ofIntVal x) = x := by
  rw [ofIntVal, real_fin, zpow_zero, mul_one, Nat.cast_natAbs, Int.cast_abs]
  rcases lt_or_ge x 0 with h | h
  · have hx : (x : ℝ) < 0 := Int.cast_lt_zero.2 h
    simp [h, abs_of_neg hx]
  · have hx : (0 : ℝ) ≤ x := Int.cast_nonneg h
    simp [not_lt.2 h, abs_of_nonneg hx]

theorem sextNat_setWidth (n : Nat) (hn : 0 < n) (w : Word) : sextNat n w.toNat = (w.setWidth n).toInt := by
  rw [← sextNat_toNat hn, BitVec.toNat_setWidth]
  simp only [sextNat, Nat.mod_mod, Int.natCast_mod, Int.natCast_pow, Nat.cast_ofNat, Int.emod_emod]

/-- A float target receives R45's conversion. -/
theorem deliverW_convertsF {F : FFmt} (hF : F ∈ [fp32, fp16, bf16, fe5m2, fe4m3, fe2m1]) (rm : Rm) (v : FVal) :
    ConvertsF F rm v ((F.deliverW rm v).1.toNat, (F.deliverW rm v).2) := by
  have hstd := formats_standard F hF
  have hwidth : F.nan < 2 ^ (F.eb + F.mb + 1) ∧ F.eb + F.mb + 1 ≤ 32 := by
    simp only [List.mem_cons, List.not_mem_nil, or_false] at hF
    rcases hF with rfl | rfl | rfl | rfl | rfl | rfl <;> decide
  rw [hstd.deliverW_pat hwidth.1 hwidth.2]
  exact hstd.deliver_convertsF rm v

/-- Each type receives its conversion (R45, R46). -/
theorem NumType.deliver_converts (t : NumType) (rm : Rm) (v : FVal) : Converts t rm v (NumType.deliver t rm v) := by
  cases t with
  | f32 | f16 | bf16 | e4m3 | e5m2 | e2m1 => refine deliverW_convertsF ?_ rm v; simp
  | e8m0 => exact toE8m0_convertsE8m0 rm v
  | s8 | s16 | s32 | u8 | u16 | u32 => refine toIntFmt_convertsI ?_ rm v; decide

/-- The type of CVT that an element of PCVT4 has. -/
def T8.type : T8 → NumType
  | .e4m3 => .e4m3
  | .e5m2 => .e5m2
  | .s8 => .s8

theorem T8.deliver_eq (t : T8) (rm : Rm) (v : FVal) : T8.deliver t rm v = NumType.deliver (T8.type t) rm v := by cases t <;> rfl

theorem T8.read_eq (t : T8) {b : Nat} (hb : b < 2 ^ 8) : T8.read t b = NumType.read (T8.type t) (BitVec.ofNat 32 b) := by
  have hmod : (BitVec.ofNat 32 b).toNat = b := Nat.mod_eq_of_lt (by omega)
  cases t with
  | e4m3 | e5m2 => simp only [T8.read, T8.type, NumType.read, hmod, Nat.mod_eq_of_lt hb]
  | s8 => simp only [T8.read, T8.type, NumType.read, hmod]

/-! ### Scales (R77) -/

/-- A value times 2^k, or under the scale 0xFF a NaN. -/
theorem scale_scaled (x : Nat) (k : ℤ) (v : FVal) : Scaled x k v (if x == 255 then .nan else v.scale k) := by
  unfold Scaled
  by_cases hx : x = 255
  · simp [hx]
  · have hb : ¬ (x == 255) = true := by simpa using hx
    rw [if_neg hx, if_neg hb]
    cases v with
    | nan => rfl
    | inf s => rfl
    | fin s m e =>
      refine ⟨m, e + k, rfl, ?_⟩
      rw [FVal.scale, real_fin, real_fin, zpow_add₀ two_ne_zero]
      ring

theorem overScale_scaled (v : FVal) (x : Nat) : Scaled x (127 - (x : ℤ)) v (v.overScale x) := scale_scaled x _ v

theorem underScale_scaled (v : FVal) (x : Nat) : Scaled x ((x : ℤ) - 127) v (v.underScale x) := scale_scaled x _ v

end Types

/-! ### Elements packed into a register (R36, R44) -/

theorem digits_lt {a b p q : Nat} (ha : a < p) (hb : b < q) : a + b * p < q * p :=
  calc a + b * p < p + b * p := Nat.add_lt_add_right ha _
    _ = (b + 1) * p := by ring
    _ ≤ q * p := Nat.mul_le_mul_right p hb

/-- Packed elements take n bits each, the first the lowest. -/
theorem packElems_cons {n : Nat} (r : FRes) (rs : List FRes) (hlt : (packElems n rs).1.toNat < 2 ^ (n * rs.length))
    (h : n * (rs.length + 1) ≤ 32) :
    (packElems n (r :: rs)).1.toNat = r.1.toNat % 2 ^ n + (packElems n rs).1.toNat * 2 ^ n := by
  have hr := Nat.mod_lt r.1.toNat (Nat.two_pow_pos n)
  refine Nat.mod_eq_of_lt (lt_of_lt_of_le (digits_lt hr hlt) ?_)
  rw [← pow_add, ← Nat.mul_succ]
  exact Nat.pow_le_pow_right (by decide) h

theorem packElems_lt {n : Nat} (rs : List FRes) (h : n * rs.length ≤ 32) : (packElems n rs).1.toNat < 2 ^ (n * rs.length) := by
  induction rs with
  | nil => simp [packElems]
  | cons r rs ih =>
    have hlt := ih ((Nat.mul_le_mul_left n (Nat.le_succ _)).trans h)
    rw [packElems_cons r rs hlt h, List.length_cons, Nat.mul_succ, pow_add]
    exact digits_lt (Nat.mod_lt _ (Nat.two_pow_pos n)) hlt

/-- Element i of packed results (R36). -/
theorem packElems_getElem {n : Nat} (rs : List FRes) (h : n * rs.length ≤ 32) {i : Nat} (hi : i < rs.length) :
    (packElems n rs).1.toNat / 2 ^ (n * i) % 2 ^ n = rs[i].1.toNat % 2 ^ n := by
  induction rs generalizing i with
  | nil => cases hi
  | cons r rs ih =>
    have hr := Nat.mod_lt r.1.toNat (Nat.two_pow_pos n)
    have hlen : n * rs.length ≤ 32 := (Nat.mul_le_mul_left n (Nat.le_succ _)).trans h
    rw [packElems_cons r rs (packElems_lt rs hlen) h]
    cases i with
    | zero => simp
    | succ i =>
      rw [Nat.mul_succ, Nat.add_comm (n * i), pow_add, ← Nat.div_div_eq_div_mul, Nat.add_mul_div_right _ _ (Nat.two_pow_pos n),
        Nat.div_eq_of_lt hr, Nat.zero_add]
      exact ih hlen (by simpa using hi)

theorem packElems_flags (n : Nat) (rs : List FRes) : (packElems n rs).2 = rs.foldr (fun r fl => r.2 ||| fl) 0 := by
  induction rs with
  | nil => rfl
  | cons r rs ih => simp only [packElems, List.foldr_cons] at ih ⊢; rw [ih]

end Sys2Proof.Machine
end

section
/-! Roundings of what the target has (R41), and CVT, the packs and the unpacks (R74, R76-R78). -/

namespace Sys2Proof.Machine

open Sys2Proof.Says

/-! ### What needs no rounding -/

section Exact

variable {F : FFmt} {rm : Rm} {s : Bool} {x y : ℝ} {r : Nat × Word}

/-- What lies on the grid rounds to itself. -/
theorem roundsTo_of_grid {G E : ℝ → Prop} (hx : G x) (h : RoundsTo G E rm s x y) : y = x := by
  obtain ⟨hy, h⟩ := h
  have down (hd : y ≤ x ∧ ∀ z, G z → z ≤ x → z ≤ y) : y = x := le_antisymm hd.1 (hd.2 x hx le_rfl)
  have up (hd : x ≤ y ∧ ∀ z, G z → x ≤ z → y ≤ z) : y = x := le_antisymm (hd.2 x hx le_rfl) hd.1
  cases rm with
  | nearest =>
    have hle := h.1 x hx
    rw [sub_self, abs_zero] at hle
    exact (sub_eq_zero.1 (abs_eq_zero.1 (le_antisymm hle (abs_nonneg _)))).symm
  | zero => exact down h
  | down =>
    cases s with
    | false => exact down h
    | true => exact up h
  | up =>
    cases s with
    | false => exact up h
    | true => exact down h

/-- A magnitude of the format that does not overflow is delivered as it is, without a condition. -/
theorem roundsOnce_exact (h : RoundsOnce F rm s x r) (hx : OnGrid F true x) (htop : ∀ top, HasMag F false F.maxFin top → x ≤ top) :
    HasMag F s r.1 x ∧ r.2 = 0 := by
  obtain ⟨y, u, top, hy, hu, hmax, -, hfin⟩ := h
  obtain ⟨n, q, hn, -, hxq⟩ := id hx
  obtain rfl := roundsTo_of_grid hx hy
  obtain rfl := roundsTo_of_grid (G := OnGrid F false) ⟨n, q, hn, nofun, hxq⟩ hu
  obtain ⟨hmag, hflags⟩ := hfin (htop top hmax)
  exact ⟨hmag, by simpa using hflags⟩

/-- The largest finite FP32 magnitude. -/
theorem fp32_top {top : ℝ} (h : HasMag fp32 false fp32.maxFin top) : top = (2 ^ 24 - 1) * 2 ^ (104 : ℤ) := by
  obtain ⟨-, m, e, hr, rfl⟩ := h
  have hread : fp32.read fp32.maxFin = .fin false (2 ^ 24 - 1) 104 := by decide
  rw [hread] at hr
  cases hr
  rw [real_fin]
  norm_num

/-- A magnitude of at most 24 bits at an exponent of FP32 is one of FP32. -/
theorem roundsOnce_exact32 {m : Nat} {e : ℤ} (h : RoundsOnce fp32 rm s (m * 2 ^ e) r) (hm : m < 2 ^ 24) (hlo : -149 ≤ e)
    (hhi : (m : ℝ) * 2 ^ e ≤ (2 ^ 24 - 1) * 2 ^ (104 : ℤ)) : HasMag fp32 s r.1 (m * 2 ^ e) ∧ r.2 = 0 :=
  roundsOnce_exact h ⟨m, e, hm, fun _ => hlo, rfl⟩ fun _ ht => hhi.trans_eq (fp32_top ht).symm

/-- The significand and the exponent of a finite pattern of a format that has infinities (R37). -/
theorem FFmt.read_fin_bounds {w m : Nat} {e : ℤ} (hk : F.kind = .ieee) (he : 2 ≤ F.eb) (h : F.read w = .fin s m e) :
    m < 2 ^ (F.mb + 1) ∧ F.qmin ≤ e ∧ e ≤ F.qmin + 2 ^ F.eb - 3 := by
  have hfour : 2 ^ 2 ≤ 2 ^ F.eb := Nat.pow_le_pow_right (by decide) he
  have hmod := Nat.mod_lt (F.magOf w) (Nat.two_pow_pos F.mb)
  have hcast : ((2 ^ F.eb : Nat) : ℤ) = 2 ^ F.eb := by push_cast; rfl
  by_cases hn : F.isNan w = true
  · rw [(FFmt.isNan_iff F w).1 hn] at h
    cases h
  by_cases hi : F.isInf w = true
  · rw [FFmt.read_infinite (eq_false_of_ne_true hn) hi] at h
    cases h
  have hmag : F.magOf w < (2 ^ F.eb - 1) * 2 ^ F.mb := by
    simp only [FFmt.isNan, FFmt.isInf, hk, decide_eq_true_eq, beq_iff_eq] at hn hi
    omega
  have hexp : F.magOf w / 2 ^ F.mb < 2 ^ F.eb - 1 := (Nat.div_lt_iff_lt_mul (Nat.two_pow_pos _)).2 hmag
  rw [pow_succ]
  simp only [FFmt.read, hn, hi, if_false, beq_iff_eq, Bool.false_eq_true] at h
  generalize F.magOf w / 2 ^ F.mb = q at *
  generalize F.magOf w % 2 ^ F.mb = r at *
  split at h <;> cases h <;> omega

/-- A magnitude of m below M at an exponent up to E is at most M * 2^E. -/
theorem mag_le {m M : Nat} {e E : ℤ} (hm : m ≤ M) (he : e ≤ E) : (m : ℝ) * 2 ^ e ≤ M * 2 ^ E :=
  mul_le_mul (by exact_mod_cast hm) (zpow_le_zpow_right₀ one_le_two he) (by positivity) (Nat.cast_nonneg _)

/-- A 16-bit format's value is widened to FP32 without a condition (R76). -/
theorem widen_flags (fmt : PFmt) (w : Nat) : (fp32.deliver .nearest ((pfmt fmt).read w)).2 = 0 := by
  cases h : (pfmt fmt).read w with
  | nan => rfl
  | inf s => rfl
  | fin s m e =>
    have hround := fp32_standard.round_roundsOnce (m := m) (sticky := false) (d := 0) .nearest s e le_rfl one_pos (by simp) nofun
    rw [add_zero] at hround
    cases fmt with
    | f16 =>
      obtain ⟨hm, hlo, hhi⟩ := FFmt.read_fin_bounds (F := fp16) rfl (by decide) h
      have hm' : m < 2 ^ 11 := hm
      have hlo' : -24 ≤ e := hlo
      have hhi' : e ≤ 5 := hhi
      refine (roundsOnce_exact32 hround (by omega) (by omega) ((mag_le hm'.le hhi').trans ?_)).2
      norm_num
    | bf16 =>
      obtain ⟨hm, hlo, hhi⟩ := FFmt.read_fin_bounds (F := bf16) rfl (by decide) h
      have hm' : m < 2 ^ 8 := hm
      have hlo' : -133 ≤ e := hlo
      have hhi' : e ≤ 120 := hhi.trans (by norm_num [bf16, FFmt.qmin])
      refine (roundsOnce_exact32 hround (by omega) (by omega) ((mag_le (Nat.le_sub_one_of_lt hm') hhi').trans ?_)).2
      norm_num

end Exact

/-! ### CVT, the packs and the unpacks -/

/-- A field of n bits (R6, R36). -/
theorem bits_field (w n i : Nat) (hn : 0 < n) : bits w (n * i + (n - 1)) (n * i) = w / 2 ^ (n * i) % 2 ^ n := by
  rw [bits, show n * i + (n - 1) + 1 - n * i = n by omega]

/-- PCVT4 packs four elements of 8 bits. -/
theorem packElems_four (r0 r1 r2 r3 : FRes) : packElems 8 [r0, r1, r2, r3] =
    (BitVec.ofNat 32 (r0.1.toNat % 2 ^ 8 + r1.1.toNat % 2 ^ 8 * 2 ^ 8 + r2.1.toNat % 2 ^ 8 * 2 ^ 16 + r3.1.toNat % 2 ^ 8 * 2 ^ 24),
      r0.2 ||| (r1.2 ||| (r2.2 ||| r3.2))) := by
  refine Prod.ext (BitVec.eq_of_toNat_eq ?_) ?_
  · simp only [packElems, List.foldr_cons, List.foldr_nil, BitVec.toNat_ofNat]
    omega
  · rw [packElems_flags]
    exact congrArg (r0.2 ||| ·) (congrArg (r1.2 ||| ·) (congrArg (r2.2 ||| ·) BitVec.or_zero))

/-- Each E2M1 element is 4 bits wide. -/
theorem fe2m1_deliverW_lt (rm : Rm) (v : FVal) : (fe2m1.deliverW rm v).1.toNat < 2 ^ 4 := by
  have hstd := formats_standard fe2m1 (by simp)
  have hpat := congrArg Prod.fst (hstd.deliverW_pat (by decide) (by decide) rm v)
  have hlt := hstd.deliver_lt (by decide) rm v
  rw [← hpat] at hlt
  exact hlt

/-- The readings of CVT (R74). -/
theorem NumType.read_spec (w : Word) : NumType.read .f32 w = fp32.read w.toNat ∧ NumType.read .f16 w = fp16.read (w.toNat % 2 ^ 16) ∧
    NumType.read .bf16 w = bf16.read (w.toNat % 2 ^ 16) ∧ NumType.read .e4m3 w = fe4m3.read (w.toNat % 2 ^ 8) ∧
    NumType.read .e5m2 w = fe5m2.read (w.toNat % 2 ^ 8) ∧ NumType.read .e2m1 w = fe2m1.read (w.toNat % 2 ^ 4) ∧
    (w.toNat % 2 ^ 8 = 255 → NumType.read .e8m0 w = .nan) ∧
    (w.toNat % 2 ^ 8 ≠ 255 → real (NumType.read .e8m0 w) = (2 : ℝ) ^ ((w.toNat % 2 ^ 8 : ℤ) - 127)) ∧
    real (NumType.read .s8 w) = ((w.setWidth 8).toInt : ℝ) ∧ real (NumType.read .s16 w) = ((w.setWidth 16).toInt : ℝ) ∧
    real (NumType.read .s32 w) = (w.toInt : ℝ) ∧ real (NumType.read .u8 w) = ((w.toNat % 2 ^ 8 : Nat) : ℝ) ∧
    real (NumType.read .u16 w) = ((w.toNat % 2 ^ 16 : Nat) : ℝ) ∧ real (NumType.read .u32 w) = (w.toNat : ℝ) := by
  obtain ⟨hnan, hpow⟩ := rdE8m0_spec w.toNat
  refine ⟨rfl, rfl, rfl, rfl, rfl, rfl, hnan, fun h => ?_, ?_, ?_, real_ofIntVal _, ?_, ?_, ?_⟩
  · exact (hpow h).trans (by push_cast; rfl)
  · exact (real_ofIntVal _).trans (by rw [sextNat_setWidth 8 (by decide)])
  · exact (real_ofIntVal _).trans (by rw [sextNat_setWidth 16 (by decide)])
  · exact (real_ofIntVal _).trans (Int.cast_natCast _)
  · exact (real_ofIntVal _).trans (Int.cast_natCast _)
  · exact (real_ofIntVal _).trans (Int.cast_natCast _)

/-- Both halves delivered in a packed format. -/
theorem perHalf_deliver (fmt : PFmt) (rm : Rm) {g : Nat → FVal} {is : Nat → Nat × Word → Prop} (h : ∀ i, is i ((pfmt fmt).deliver rm (g i))) :
    ∃ lo hi : Nat × Word, is 0 lo ∧ is 1 hi ∧
      perHalf (fun i => (pfmt fmt).deliver rm (g i)) = (BitVec.ofNat 32 (lo.1 + hi.1 * 2 ^ 16), lo.2 ||| hi.2) :=
  perHalf_both (fun i => pfmt_deliver_lt fmt rm (g i)) h

theorem pfmt_convertsF (fmt : PFmt) (rm : Rm) (v : FVal) : ConvertsF (pfmt fmt) rm v ((pfmt fmt).deliver rm v) :=
  (pfmt_spec fmt).1.deliver_convertsF rm v

/-- The bytes of PCVT4's sources, and the nibbles of PCVT8's, as the fields they are. -/
theorem T8.read_bits (t : T8) (w : Word) (e : Nat) :
    T8.read t (bits w.toNat (8 * e + 7) (8 * e)) = NumType.read (T8.type t) (BitVec.ofNat 32 (w.toNat / 2 ^ (8 * e) % 2 ^ 8)) := by
  rw [bits_field w.toNat 8 e (by decide)]
  exact T8.read_eq t (Nat.mod_lt _ (by decide))

/-- Element i of PCVT8's pack: half i of the run that begins at vN, over its scale (R78). -/
def fp4Elem (fmt : PFmt) (rm : Rm) (t : Thread) (n x i : Nat) : FRes :=
  fe2m1.deliverW rm (((pfmt fmt).read (half (t.getV (n + i / 2)) (i % 2))).overScale x)

theorem exec_pcvt8_pack {d : LaneDst} {c : LaneSrc} {fmt : PFmt} {rm : Rm} {n : Fin 157} {s : State} {k : Nat} {t : Thread}
    (h : Lane s k t (LaneDst.regs d ++ [n.val, n.val + 1, n.val + 2, n.val + 3] ++ LaneSrc.regs c)) :
    exec (.pcvt8 (.pack fmt rm n) d c) s = .next ((s.deliver k d
      (packElems 4 ((List.range 8).map (fp4Elem fmt rm t n.val ((s.laneSrc k .f32 c).toNat % 256))))).advance k) := by
  have hrun : [n.val, n.val + 1, n.val + 2, n.val + 3] = runFrom 4 [n.val] := by simp [runFrom, List.range_succ, Nat.add_comm]
  rw [List.append_assoc, hrun] at h
  exact laneFrame_lane _ h

/-- Eight elements of E2M1 side by side. -/
theorem packElems_fp4 (fmt : PFmt) (rm : Rm) (t : Thread) (n x : Nat) :
    let r := packElems 4 ((List.range 8).map (fp4Elem fmt rm t n x))
    (∀ i, i < 8 → r.1.toNat / 2 ^ (4 * i) % 2 ^ 4 = (fp4Elem fmt rm t n x i).1.toNat) ∧
      r.2 = (List.range 8).foldr (fun i fl => (fp4Elem fmt rm t n x i).2 ||| fl) 0 := by
  refine ⟨fun i hi => ?_, ?_⟩
  · rw [packElems_getElem _ (by simp) (by simpa using hi), List.getElem_map, List.getElem_range]
    exact Nat.mod_eq_of_lt (fe2m1_deliverW_lt rm _)
  · rw [packElems_flags, List.foldr_map]

/-- Settles O5: each conversion delivers what R45 and R46 say, after or before its scale, and packs put their elements side by side. -/
theorem conversionResults : Obligations.ConversionResults := by
  intro d a b c x rm fmt na F el part both type sc shrunk grown
  have hb : na ++ LaneSrc.regs b = LaneDst.regs d ++ read2 a b := List.append_assoc ..
  have hc : na ++ LaneSrc.regs c = LaneDst.regs d ++ read2 a c := List.append_assoc ..
  have hbc : na ++ LaneSrc.regs b ++ LaneSrc.regs c = LaneDst.regs d ++ read3 a b c := by simp [na, read3, read2]
  have htype (t8 : T8) : type t8 = T8.type t8 := by cases t8 <;> rfl
  have hshrunk (t : NumType) (s : State) (k : Nat) (v : FVal) : shrunk t s k v (NumType.deliver t rm (v.overScale (sc s k))) :=
    ⟨_, overScale_scaled v _, NumType.deliver_converts t rm _⟩
  have hgrown (s : State) (k : Nat) (v : FVal) : grown s k v (F.deliver rm (v.underScale (sc s k))) :=
    ⟨_, underScale_scaled v _, pfmt_convertsF fmt rm _⟩
  refine ⟨NumType.read_spec, fun dt st => ?_, ?_, fun hi => ?_, fun t8 => ?_, fun t8 hi => ?_, fun n s k t h => ?_, fun q => ?_⟩
  · exact computesSo_of_laneCompute (g := execCvt dt st rm d a x) (fun _ => rfl) (fun s => by rw [execCvt])
      fun _ _ v => NumType.deliver_converts dt rm _
  · rw [hb]
    refine computesSo_of_laneCompute (g := execPcvt2 (.pack fmt rm b) d a x) (fun _ => rfl) (fun s => by rw [execPcvt2]) fun s k v => ?_
    refine perHalf_deliver fmt rm (g := fun i => rd32 (if (i == 0) = true then v else s.laneSrc k .f32 b))
      (is := fun i => ConvertsF F rm (if i = 0 then rd32 v else rd32 (s.laneSrc k .f32 b))) fun i => ?_
    have hsrc : rd32 (if (i == 0) = true then v else s.laneSrc k .f32 b) = if i = 0 then rd32 v else rd32 (s.laneSrc k .f32 b) := by
      simp only [beq_iff_eq, apply_ite rd32]
    rw [hsrc]
    exact pfmt_convertsF fmt rm _
  · refine computesSo_of_laneCompute (g := execPcvt2 (.unpack fmt hi) d a x) (fun _ => rfl) (fun s => by rw [execPcvt2]) fun s k v => ?_
    have hel : half v (boolNat hi) = el v (if hi then 1 else 0) := half_eq v _
    rw [hel]
    exact ⟨deliverW_convertsF (by simp) _ _, widen_flags fmt _⟩
  · rw [hbc]
    refine computesSo_of_laneCompute (g := execPcvt4 (.pack t8 fmt rm b) d a x c) (fun _ => rfl) (fun s => by rw [execPcvt4]) fun s k v => ?_
    have hpart (w : Word) : part 8 w 0 = w.toNat % 2 ^ 8 := by simp [part]
    have hel (w : Word) (i : Nat) : half w i = el w i := half_eq w i
    simp only [htype, hpart, hel, List.map_cons, List.map_nil, T8.deliver_eq, packElems_four]
    exact ⟨_, _, _, _, hshrunk _ s k _, hshrunk _ s k _, hshrunk _ s k _, hshrunk _ s k _, rfl⟩
  · rw [hc]
    refine computesSo_of_laneCompute (g := execPcvt4 (.unpack t8 fmt hi rm) d a x c) (fun _ => rfl) (fun s => by rw [execPcvt4]) fun s k v => ?_
    refine perHalf_deliver fmt rm
      (g := fun j => (T8.read t8 (bits v.toNat (8 * (2 * boolNat hi + j) + 7) (8 * (2 * boolNat hi + j)))).underScale (sc s k))
      (is := fun j => grown s k (NumType.read (type t8) (BitVec.ofNat 32 (part 8 v (j + if hi then 2 else 0))))) fun j => ?_
    have hj : 2 * boolNat hi + j = j + if hi then 2 else 0 := by cases hi <;> simp [boolNat, Nat.add_comm]
    simp only [T8.read_bits, hj, htype]
    exact hgrown s k _
  · refine ⟨_, _, exec_pcvt8_pack h, State.deliver_delivered d _ h.2.1, fp4Elem fmt rm t n.val (sc s k), fun i _ => ?_, packElems_fp4 fmt rm t n.val _⟩
    have hel : half (t.getV (n.val + i / 2)) (i % 2) = el (t.getV (n.val + i / 2)) (i % 2) := half_eq ..
    rw [fp4Elem, hel]
    exact hshrunk .e2m1 s k _
  · rw [hc]
    refine computesSo_of_laneCompute (g := execPcvt8 (.unpack fmt q rm a x) d c) (fun _ => rfl) (fun s => by rw [execPcvt8]) fun s k v => ?_
    refine perHalf_deliver fmt rm (g := fun j => (fe2m1.read (bits v.toNat (4 * (2 * q.val + j) + 3) (4 * (2 * q.val + j)))).underScale (sc s k))
      (is := fun j => grown s k (fe2m1.read (part 4 v (2 * q.val + j)))) fun j => ?_
    rw [bits_field v.toNat 4 _ (by decide)]
    exact hgrown s k _

end Sys2Proof.Machine
end

section
/-! The values of patterns (R37), and exact sums and products rounded once (R41-R43, R66, R67, R72, R73). -/

namespace Sys2Proof.Machine

open Sys2Proof.Says

/-! ### Patterns -/

section Patterns

variable {F : FFmt} {w : Nat}

/-- The exponent and fraction fields of a pattern's magnitude. -/
theorem FFmt.magOf_fields (F : FFmt) (w : Nat) : F.magOf w / 2 ^ F.mb = w / 2 ^ F.mb % 2 ^ F.eb ∧ F.magOf w % 2 ^ F.mb = w % 2 ^ F.mb := by
  rw [FFmt.magOf, Nat.add_comm, pow_add]
  exact ⟨Nat.mod_mul_right_div_self .., Nat.mod_mul_right_mod ..⟩

/-- A magnitude reaches the code of all exponent bits only in them. -/
theorem code_cases {a p e m : Nat} (hm : m < p) (he : e ≤ a) :
    (a * p < e * p + m ↔ e = a ∧ m ≠ 0) ∧ (e * p + m = a * p ↔ e = a ∧ m = 0) := by
  rcases he.lt_or_eq with h | rfl
  · have := Nat.mul_le_mul_right p h
    rw [Nat.succ_mul] at this
    omega
  · omega

/-- NaNs and infinities are told by their fields (R37). -/
theorem FFmt.special_iff (F : FFmt) (h43 : F.kind = .e4m3 → F.eb = 4 ∧ F.mb = 3) (w : Nat) :
    let e := w / 2 ^ F.mb % 2 ^ F.eb
    let m := w % 2 ^ F.mb
    (F.isNan w = true ↔ (F.kind = .ieee ∧ e = 2 ^ F.eb - 1 ∧ m ≠ 0) ∨ (F.kind = .e4m3 ∧ e = 15 ∧ m = 7)) ∧
      (F.isInf w = true ↔ F.kind = .ieee ∧ e = 2 ^ F.eb - 1 ∧ m = 0) := by
  intro e m
  have hmag : F.magOf w = e * 2 ^ F.mb + m := by
    obtain ⟨he, hm⟩ := F.magOf_fields w
    rw [← Nat.div_add_mod' (F.magOf w) (2 ^ F.mb), he, hm]
  have hm : m < 2 ^ F.mb := Nat.mod_lt _ (Nat.two_pow_pos _)
  have he : e ≤ 2 ^ F.eb - 1 := Nat.le_sub_one_of_lt (Nat.mod_lt _ (Nat.two_pow_pos _))
  obtain ⟨hover, heq⟩ := code_cases hm he
  rw [FFmt.isNan, FFmt.isInf, hmag]
  cases hk : F.kind with
  | ieee => simp [hover, heq]
  | e4m3 =>
    obtain ⟨heb, hmb⟩ := h43 hk
    rw [hmb] at hm ⊢
    simp
    omega
  | e2m1 => simp

/-- A pattern has the value of R37. -/
theorem FFmt.read_patternValue (h43 : F.kind = .e4m3 → F.eb = 4 ∧ F.mb = 3) (hw : w < 2 ^ (F.eb + F.mb + 1)) : PatternValue F w := by
  have hsign : decide (2 ^ (F.eb + F.mb) ≤ w) = F.signOf w := by
    rw [Bool.eq_iff_iff, decide_eq_true_eq, signOf_iff hw]
  obtain ⟨hnan, hinf⟩ := F.special_iff h43 w
  obtain ⟨he, hm⟩ := F.magOf_fields w
  rw [PatternValue, hsign, ← hnan, ← hinf]
  refine ⟨fun h => (FFmt.isNan_iff F w).1 h, fun h => ?_, fun hn hi => ?_⟩
  · refine FFmt.read_infinite (eq_false_of_ne_true fun hn => ?_) h
    rcases hnan.1 hn with ⟨-, -, hm0⟩ | ⟨hk, -⟩
    · exact hm0 (hinf.1 h).2.2
    · rw [(hinf.1 h).1] at hk
      cases hk
  · have hpow : (2 : ℝ) ^ F.qmin = 2 ^ (1 - (F.bias : ℤ)) / 2 ^ F.mb := by
      rw [FFmt.qmin, zpow_sub₀ two_ne_zero, zpow_natCast]
    simp only [FFmt.read, hn, hi, he, hm, beq_iff_eq]
    by_cases h0 : w / 2 ^ F.mb % 2 ^ F.eb = 0
    · refine ⟨_, _, if_pos h0, ?_⟩
      rw [if_pos h0, real_fin, if_neg Bool.false_ne_true, one_mul, hpow]
      ring
    · refine ⟨_, _, if_neg h0, ?_⟩
      rw [if_neg h0, real_fin, if_neg Bool.false_ne_true, one_mul, add_sub_right_comm, sub_eq_add_neg F.qmin, add_assoc, zpow_add₀ two_ne_zero,
        hpow, show ((w / 2 ^ F.mb % 2 ^ F.eb : Nat) : ℤ) - F.bias = 1 - (F.bias : ℤ) + (-1 + (w / 2 ^ F.mb % 2 ^ F.eb : Nat)) by ring,
        zpow_add₀ two_ne_zero (1 - (F.bias : ℤ))]
      push_cast
      field_simp
      ring

end Patterns

/-! ### Exact sums -/

/-- Infinities of both signs are among the terms (R43). -/
def Clash (ts : List FVal) : Prop := FVal.inf true ∈ ts ∧ FVal.inf false ∈ ts

/-- x is the exact sum of the terms with the condition it raised, before it is rounded (R43, R67). -/
structure ExactSum (rm : Rm) (ts : List FVal) (x : FEx) : Prop where
  clash : Clash ts → x = (.nan, fNV)
  nan : ¬ Clash ts → FVal.nan ∈ ts → x = (.nan, 0)
  inf : ∀ s, ¬ Clash ts → FVal.nan ∉ ts → FVal.inf s ∈ ts → x = (.inf s, 0)
  fin : FVal.nan ∉ ts → (∀ s, FVal.inf s ∉ ts) → ∃ s m e, x = (.fin s m e, 0) ∧ real (.fin s m e) = (ts.map real).sum ∧
    ((ts.map real).sum = 0 → s = (ts.all FVal.sign || (ts.any FVal.sign && rm == .down)))

section Sums

variable {F : FFmt} {rm : Rm} {ts : List FVal} {x : FEx}

theorem FFmt.finish_nan (hk : F.kind = .ieee) (rm : Rm) (fl : Word) : F.finish rm (.nan, fl) = (F.nan, fl) := by
  simp only [FFmt.finish, FFmt.deliver, hk]
  exact Prod.ext rfl BitVec.zero_or

theorem FFmt.Standard.finish_inf (hF : F.Standard) (hk : F.kind = .ieee) (rm : Rm) (s : Bool) (fl : Word) :
    F.finish rm (.inf s, fl) = (infOf F s, fl) := by
  simp only [FFmt.finish, FFmt.deliver, hk, hF.withSign_infCode hk]
  exact Prod.ext rfl BitVec.zero_or

theorem FFmt.finish_fin (F : FFmt) (rm : Rm) (s : Bool) (m : Nat) (e : Int) : F.finish rm (.fin s m e, 0) = F.round rm s m e false :=
  Prod.ext rfl BitVec.or_zero

/-- An exact sum rounded once is the sum of R67. -/
theorem ExactSum.sumIs (h : ExactSum rm ts x) (hF : F.Standard) (hk : F.kind = .ieee) : SumIs F rm ts (F.finish rm x) := by
  refine ⟨fun hc => ?_, fun hc hn => ?_, fun s hc hn hi => ?_, fun hn hi => ?_⟩
  · rw [h.clash hc]
    exact FFmt.finish_nan hk rm fNV
  · rw [h.nan hc hn]
    exact FFmt.finish_nan hk rm 0
  · rw [h.inf s hc hn hi]
    exact hF.finish_inf hk rm s 0
  · obtain ⟨s, m, e, rfl, hsum, hs⟩ := h.fin hn hi
    rw [FFmt.finish_fin, ← hsum]
    rw [← hsum, real_fin_eq_zero_iff] at hs
    have hround := hF.round_delivers rm s m e
    by_cases hm : m = 0
    · rwa [← hs hm]
    · have hne := mt (real_fin_eq_zero_iff s m e).1 hm
      simpa only [Delivers, hne, if_false] using hround

/-- The sum of two values is exact (R67). -/
theorem faddEx_fin (rm : Rm) (s u : Bool) (m n : Nat) (e g : Int) : ∃ z k q, faddEx rm (.fin s m e) (.fin u n g) = (.fin z k q, 0) ∧
    real (.fin z k q) = real (.fin s m e) + real (.fin u n g) ∧
    (real (.fin s m e) + real (.fin u n g) = 0 → z = ((s && u) || ((s || u) && rm == .down))) := by
  have hpos : (0 : ℝ) < 2 ^ min e g := by positivity
  have hsum : real (.fin s m e) + real (.fin u n g) =
      ((FVal.fin s m e).scaled (min e g) + (FVal.fin u n g).scaled (min e g) : Int) * (2 : ℝ) ^ min e g := by
    rw [FVal.real_eq_scaled ⟨s, m, e, rfl⟩ (min_le_left e g), FVal.real_eq_scaled ⟨u, n, g, rfl⟩ (min_le_right e g), Int.cast_add, add_mul]
  rw [hsum]
  simp only [faddEx]
  generalize (FVal.fin s m e).scaled (min e g) + (FVal.fin u n g).scaled (min e g) = x
  by_cases hx : x = 0
  · subst hx
    refine ⟨_, _, _, if_pos rfl, by simp [real_fin], fun _ => ?_⟩
    cases s <;> cases u <;> rfl
  · refine ⟨_, _, _, if_neg (by simpa using hx), ?_, fun h0 => ?_⟩
    · have hx' := real_ofIntVal x
      rw [ofIntVal, real_fin, zpow_zero, mul_one] at hx'
      rw [real_fin, ← mul_assoc, hx']
    · exact absurd h0 (mul_ne_zero (Int.cast_ne_zero.2 hx) hpos.ne')

theorem faddEx_exactSum (rm : Rm) (a b : FVal) : ExactSum rm [a, b] (faddEx rm a b) := by
  cases a with
  | nan => constructor <;> cases b <;> simp [Clash, faddEx]
  | inf s =>
    cases b with
    | nan => constructor <;> simp [Clash, faddEx]
    | inf u => constructor <;> cases s <;> cases u <;> simp [Clash, faddEx]
    | fin u n g =>
      constructor
      case inf =>
        intro z _ _ hz
        rw [show z = s by simpa using hz]
        rfl
      all_goals simp [Clash]
  | fin s m e =>
    cases b with
    | nan => constructor <;> simp [Clash, faddEx]
    | inf u =>
      constructor
      case inf =>
        intro z _ _ hz
        rw [show z = u by simpa using hz]
        rfl
      all_goals simp [Clash]
    | fin u n g =>
      obtain ⟨z, k, q, hz, hsum, hsign⟩ := faddEx_fin rm s u m n e g
      rw [hz]
      constructor
      case fin => exact fun _ _ => ⟨z, k, q, rfl, by simpa using hsum, by simpa [FVal.sign] using hsign⟩
      all_goals simp [Clash]

/-- One term is its own exact sum. -/
theorem exactSum_one (rm : Rm) (p : FVal) : ExactSum rm [p] (p, 0) := by
  cases p with
  | nan => constructor <;> simp [Clash]
  | inf s =>
    constructor
    case inf =>
      intro z _ _ hz
      rw [show z = s by simpa using hz]
    case clash => cases s <;> simp [Clash]
    all_goals simp [Clash]
  | fin s m e =>
    constructor
    case fin => exact fun _ _ => ⟨s, m, e, rfl, by simp, fun _ => by cases s <;> simp [FVal.sign]⟩
    all_goals simp [Clash]

end Sums

/-! ### Exact products -/

section Products

variable {F : FFmt} {rm : Rm}

theorem mul_fin (s u : Bool) (m n : Nat) (e g : Int) :
    real (.fin (s ^^ u) (m * n) (e + g)) = real (.fin s m e) * real (.fin u n g) := by
  rw [real_fin, real_fin, real_fin, zpow_add₀ two_ne_zero]
  push_cast
  cases s <;> cases u <;> simp <;> ring

/-- 0 times an infinity is invalid; every other product is exact (R43, R67). -/
theorem fmulEx_spec (a b : FVal) :
    (ZeroTimesInf a b → fmulEx a b = (.nan, fNV)) ∧ (¬ ZeroTimesInf a b → Product a b (fmulEx a b).1 ∧ (fmulEx a b).2 = 0) := by
  cases a with
  | nan => cases b <;> simp [ZeroTimesInf, Says.Infinite, FVal.isZero, fmulEx, Product]
  | inf s =>
    cases b with
    | nan => simp [ZeroTimesInf, Says.Infinite, FVal.isZero, fmulEx, Product]
    | inf u => simp [ZeroTimesInf, Says.Infinite, FVal.isZero, fmulEx, Product, FVal.sign]
    | fin u n g => by_cases hn : n = 0 <;> simp [ZeroTimesInf, Says.Infinite, FVal.isZero, fmulEx, Product, FVal.sign, hn]
  | fin s m e =>
    cases b with
    | nan => simp [ZeroTimesInf, Says.Infinite, FVal.isZero, fmulEx, Product]
    | inf u => by_cases hm : m = 0 <;> simp [ZeroTimesInf, Says.Infinite, FVal.isZero, fmulEx, Product, FVal.sign, hm, Bool.xor_comm]
    | fin u n g =>
      have hno : ¬ ZeroTimesInf (.fin s m e) (.fin u n g) := by simp [ZeroTimesInf, Says.Infinite]
      exact ⟨fun h => absurd h hno, fun _ => ⟨⟨by simp, by simp [Says.Infinite], fun _ _ _ _ => ⟨_, _, rfl, mul_fin s u m n e g⟩⟩, rfl⟩⟩

/-- A product rounded once (R66). -/
theorem fmulEx_dotIs (hF : F.Standard) (hk : F.kind = .ieee) (rm : Rm) (a b : FVal) : DotIs F rm [(a, b)] [] (F.finish rm (fmulEx a b)) := by
  obtain ⟨hbad, hgood⟩ := fmulEx_spec a b
  refine ⟨fun h => ?_, fun h => ?_⟩
  · rw [hbad (by simpa using h)]
    exact FFmt.finish_nan hk rm fNV
  · obtain ⟨hprod, hflag⟩ := hgood (by simpa using h)
    refine ⟨[(fmulEx a b).1], .cons hprod .nil, ?_⟩
    have hx : fmulEx a b = ((fmulEx a b).1, 0) := Prod.ext rfl hflag
    rw [hx]
    exact (exactSum_one rm _).sumIs hF hk

/-- A product and a third value summed exactly and rounded once (R66, R67). -/
theorem ffmaEx_dotIs (hF : F.Standard) (hk : F.kind = .ieee) (rm : Rm) (a b c : FVal) :
    DotIs F rm [(a, b)] [c] (F.finish rm (ffmaEx rm a b c)) := by
  obtain ⟨hbad, hgood⟩ := fmulEx_spec a b
  refine ⟨fun h => ?_, fun h => ?_⟩
  · have hx : ffmaEx rm a b c = (.nan, fNV) := by
      rw [ffmaEx, hbad (by simpa using h)]
      rfl
    rw [hx]
    exact FFmt.finish_nan hk rm fNV
  · obtain ⟨hprod, hflag⟩ := hgood (by simpa using h)
    refine ⟨[(fmulEx a b).1], .cons hprod .nil, ?_⟩
    have hx : ffmaEx rm a b c = faddEx rm (fmulEx a b).1 c := Prod.ext rfl (by
      change (fmulEx a b).2 ||| _ = _
      rw [hflag]
      exact BitVec.zero_or)
    rw [hx]
    exact (faddEx_exactSum rm _ c).sumIs hF hk

/-! ### PDOT (R73) -/

section Dot

variable {p q c : FVal}

theorem faddEx_nan_left (rm : Rm) (b : FVal) : faddEx rm .nan b = (.nan, 0) := by cases b <;> rfl

theorem faddEx_nan_right (rm : Rm) (a : FVal) : faddEx rm a .nan = (.nan, 0) := by cases a <;> rfl

/-- An infinity and what is neither a NaN nor the other infinity give the infinity. -/
theorem faddEx_inf (rm : Rm) {s : Bool} {b : FVal} (hn : b ≠ .nan) (hi : b ≠ .inf (!s)) :
    faddEx rm (.inf s) b = (.inf s, 0) ∧ faddEx rm b (.inf s) = (.inf s, 0) := by
  cases b with
  | nan => exact absurd rfl hn
  | inf u =>
    have hu : u = s := by cases s <;> cases u <;> simp_all
    subst hu
    cases u <;> exact ⟨rfl, rfl⟩
  | fin => exact ⟨rfl, rfl⟩

/-- Of three terms one of which is a NaN the sum is a NaN. -/
theorem faddEx_three_nan (rm : Rm) (hn : FVal.nan ∈ [p, q, c]) : (faddEx rm (faddEx rm p q).1 c).1 = .nan := by
  simp only [List.mem_cons, List.not_mem_nil, or_false] at hn
  rcases hn with rfl | rfl | rfl
  · rw [faddEx_nan_left, faddEx_nan_left]
  · rw [faddEx_nan_right, faddEx_nan_left]
  · rw [faddEx_nan_right]

/-- Of three terms without a NaN or a clash, one of which is an infinity, the sum is that infinity. -/
theorem faddEx_three_inf (rm : Rm) {s : Bool} (hc : ¬ Clash [p, q, c]) (hn : FVal.nan ∉ [p, q, c]) (hi : FVal.inf s ∈ [p, q, c]) :
    (faddEx rm (faddEx rm p q).1 c).1 = .inf s := by
  have hother : ∀ b ∈ [p, q, c], b ≠ .nan ∧ b ≠ .inf (!s) := by
    refine fun b hb => ⟨fun h => hn (h ▸ hb), fun h => hc ?_⟩
    subst h
    cases s
    · exact ⟨hb, hi⟩
    · exact ⟨hi, hb⟩
  simp only [List.mem_cons, List.not_mem_nil, or_false, forall_eq_or_imp, forall_eq] at hother hi
  obtain ⟨⟨hpn, hpi⟩, ⟨hqn, hqi⟩, hcn, hci⟩ := hother
  by_cases hpq : FVal.inf s = p ∨ FVal.inf s = q
  · have hx : (faddEx rm p q).1 = .inf s := by
      rcases hpq with rfl | rfl
      · rw [(faddEx_inf rm hqn hqi).1]
      · rw [(faddEx_inf rm hpn hpi).2]
    rw [hx, (faddEx_inf rm hcn hci).1]
  · obtain rfl : FVal.inf s = c := by tauto
    have hfin (b : FVal) (h1 : b ≠ .nan) (h2 : b ≠ .inf (!s)) (h3 : FVal.inf s ≠ b) : ∃ u m e, b = .fin u m e := by
      cases b with
      | nan => exact absurd rfl h1
      | inf u => cases s <;> cases u <;> simp_all
      | fin u m e => exact ⟨u, m, e, rfl⟩
    obtain ⟨u, m, e, rfl⟩ := hfin p hpn hpi (fun h => hpq (.inl h))
    obtain ⟨v, n, g, rfl⟩ := hfin q hqn hqi (fun h => hpq (.inr h))
    obtain ⟨z, k, r, hz, -, -⟩ := faddEx_fin rm u v m n e g
    rw [hz]
    rfl

/-- Of three finite terms the sum is exact. -/
theorem faddEx_three_fin (rm : Rm) (s u v : Bool) (m n o : Nat) (e g h : Int) :
    ∃ z k r, (faddEx rm (faddEx rm (.fin s m e) (.fin u n g)).1 (.fin v o h)).1 = .fin z k r ∧
      real (.fin z k r) = real (.fin s m e) + (real (.fin u n g) + real (.fin v o h)) := by
  obtain ⟨z, k, r, hz, hzr, -⟩ := faddEx_fin rm s u m n e g
  obtain ⟨y, j, i, hy, hyr, -⟩ := faddEx_fin rm z v k o r h
  rw [hz, hy]
  exact ⟨y, j, i, rfl, by rw [hyr, hzr, add_assoc]⟩

/-- The sign of PDOT's exact zero (R73), other sums as they are. -/
def dotSigned (rm : Rm) (p q c t : FVal) : FEx :=
  match p, q, c with
  | .fin s _ _, .fin u _ _, .fin v _ _ => if t.isZero then (.fin (if s == u && u == v then s else rm == .down) 0 0, 0) else (t, 0)
  | _, _, _ => (t, 0)

theorem fdotEx_eq (rm : Rm) (a0 b0 a1 b1 c : FVal) :
    let p := (fmulEx a0 b0).1
    let q := (fmulEx a1 b1).1
    fdotEx rm a0 b0 a1 b1 c =
      if ((fmulEx a0 b0).2 ||| (fmulEx a1 b1).2 != 0) = true then (.nan, fNV)
      else if ([p, q, c].any (·.isInf true) && [p, q, c].any (·.isInf false)) = true then (.nan, fNV)
      else dotSigned rm p q c (faddEx rm (faddEx rm p q).1 c).1 := rfl

theorem dotSigned_special (rm : Rm) (t : FVal) (h : FVal.nan ∈ [p, q, c] ∨ ∃ s, FVal.inf s ∈ [p, q, c]) :
    dotSigned rm p q c t = (t, 0) := by
  cases p with
  | fin =>
    cases q with
    | fin =>
      cases c with
      | fin => simp at h
      | _ => rfl
    | _ => rfl
  | _ => rfl

/-- A finite sum of PDOT, with the sign that a zero has. -/
theorem dotSigned_fin (rm : Rm) (s u v z : Bool) (m n o k : Nat) (e g h r : Int) :
    ∃ y j i, dotSigned rm (.fin s m e) (.fin u n g) (.fin v o h) (.fin z k r) = (.fin y j i, 0) ∧ real (.fin y j i) = real (.fin z k r) ∧
      (real (.fin z k r) = 0 → y = ((s && (u && v)) || ((s || (u || v)) && rm == .down))) := by
  simp only [dotSigned, FVal.isZero, beq_iff_eq (a := k), real_fin_eq_zero_iff]
  by_cases hk : k = 0
  · subst hk
    refine ⟨_, _, _, if_pos rfl, by simp [real_fin], fun _ => ?_⟩
    cases s <;> cases u <;> cases v <;> rfl
  · exact ⟨z, k, r, if_neg hk, rfl, fun h => absurd h hk⟩

/-- PDOT's sum of two products and a third term is exact (R73). -/
theorem fdotEx_exactSum (rm : Rm) {a0 b0 a1 b1 : FVal} (c : FVal) (h0 : (fmulEx a0 b0).2 = 0) (h1 : (fmulEx a1 b1).2 = 0) :
    ExactSum rm [(fmulEx a0 b0).1, (fmulEx a1 b1).1, c] (fdotEx rm a0 b0 a1 b1 c) := by
  have hflags : ¬ ((fmulEx a0 b0).2 ||| (fmulEx a1 b1).2 != 0) = true := by
    rw [h0, h1]
    decide
  rw [fdotEx_eq, if_neg hflags]
  generalize (fmulEx a0 b0).1 = p
  generalize (fmulEx a1 b1).1 = q
  have hclash : ([p, q, c].any (·.isInf true) && [p, q, c].any (·.isInf false)) = true ↔ Clash [p, q, c] := by
    rw [Bool.and_eq_true, any_isInf_iff, any_isInf_iff, Clash]
  refine ⟨fun hc => if_pos (hclash.2 hc), fun hc hn => ?_, fun s hc hn hi => ?_, fun hn hi => ?_⟩
  · rw [if_neg (mt hclash.1 hc), dotSigned_special rm _ (.inl hn), faddEx_three_nan rm hn]
  · rw [if_neg (mt hclash.1 hc), dotSigned_special rm _ (.inr ⟨s, hi⟩), faddEx_three_inf rm hc hn hi]
  · have hfin := finite_of_mem hn hi
    obtain ⟨s, m, e, rfl⟩ := hfin p (by simp)
    obtain ⟨u, n, g, rfl⟩ := hfin q (by simp)
    obtain ⟨v, o, h, rfl⟩ := hfin c (by simp)
    obtain ⟨z, k, r, ht, hsum⟩ := faddEx_three_fin rm s u v m n o e g h
    obtain ⟨y, j, i, hy, hyr, hsign⟩ := dotSigned_fin rm s u v z m n o k e g h r
    have hno : ¬ Clash [FVal.fin s m e, .fin u n g, .fin v o h] := fun hc => hi true hc.1
    rw [if_neg (mt hclash.1 hno), ht]
    have hall : (([FVal.fin s m e, .fin u n g, .fin v o h]).map real).sum = real (.fin z k r) := by
      rw [hsum]
      simp
    rw [hall]
    exact ⟨y, j, i, hy, hyr, by simpa [FVal.sign] using hsign⟩

/-- PDOT: two products and an FP32 term, summed exactly and rounded once (R73). -/
theorem fdotEx_dotIs (rm : Rm) (a0 b0 a1 b1 c : FVal) :
    DotIs fp32 rm [(a0, b0), (a1, b1)] [c] (fp32.finish rm (fdotEx rm a0 b0 a1 b1 c)) := by
  obtain ⟨hbad0, hgood0⟩ := fmulEx_spec a0 b0
  obtain ⟨hbad1, hgood1⟩ := fmulEx_spec a1 b1
  refine ⟨fun h => ?_, fun h => ?_⟩
  · have hflag (a b : FVal) : (fmulEx a b).2 = fNV ∨ (fmulEx a b).2 = 0 := by
      obtain ⟨hb, hg⟩ := fmulEx_spec a b
      by_cases hz : ZeroTimesInf a b
      · rw [hb hz]
        exact .inl rfl
      · exact .inr (hg hz).2
    have hflags : ((fmulEx a0 b0).2 ||| (fmulEx a1 b1).2 != 0) = true := by
      simp only [List.mem_cons, List.not_mem_nil, or_false, exists_eq_or_imp, exists_eq_left] at h
      rcases h with h | h
      · rw [hbad0 h]
        rcases hflag a1 b1 with h1 | h1 <;> rw [h1] <;> decide
      · rw [hbad1 h]
        rcases hflag a0 b0 with h1 | h1 <;> rw [h1] <;> decide
    rw [fdotEx_eq, if_pos hflags]
    exact FFmt.finish_nan rfl rm fNV
  · simp only [List.mem_cons, List.not_mem_nil, or_false, forall_eq_or_imp, forall_eq] at h
    obtain ⟨hprod0, hflag0⟩ := hgood0 h.1
    obtain ⟨hprod1, hflag1⟩ := hgood1 h.2
    exact ⟨[_, _], .cons hprod0 (.cons hprod1 .nil), (fdotEx_exactSum rm c hflag0 hflag1).sumIs fp32_standard rfl⟩

end Dot

end Products

end Sys2Proof.Machine
end

section
/-! Reciprocals, roots and FRND (R66, R67, R75). -/

namespace Sys2Proof.Machine

open Sys2Proof.Says

/-! ### Quotients and roots as digits with a rest -/

section Digits

theorem le_bitLen {k n : Nat} (h : 2 ^ k ≤ n) : k + 1 ≤ bitLen n := by
  have hn : n ≠ 0 := fun h0 => absurd (h0 ▸ h) (by simp)
  rw [bitLen, if_neg (by simpa using hn)]
  exact Nat.succ_le_succ ((Nat.le_log2 hn).2 h)

/-- The quotient of a division and what it leaves below 1. -/
theorem div_fraction {a m : Nat} (hm : m ≠ 0) : let d : ℝ := (a % m : Nat) / m
    0 ≤ d ∧ d < 1 ∧ ((a % m != 0) = true ↔ 0 < d) ∧ ((a / m : Nat) + d : ℝ) = a / m := by
  have hpos : (0 : ℝ) < m := by exact_mod_cast Nat.pos_of_ne_zero hm
  refine ⟨by positivity, ?_, ?_, ?_⟩
  · rw [div_lt_one hpos]
    exact_mod_cast Nat.mod_lt a (Nat.pos_of_ne_zero hm)
  · rw [bne_iff_ne, div_pos_iff_of_pos_right hpos, Nat.cast_pos, Nat.pos_iff_ne_zero]
  · have h : (m : ℝ) * (a / m : Nat) + (a % m : Nat) = a := by exact_mod_cast Nat.div_add_mod a m
    field_simp
    linarith

/-- The integer root is the largest whose square is at most the number. -/
theorem isqrt_spec_from (k n r : Nat) (hr : r * r ≤ n) (hn : n < (r + 2 ^ k) * (r + 2 ^ k)) :
    isqrt k n r * isqrt k n r ≤ n ∧ n < (isqrt k n r + 1) * (isqrt k n r + 1) := by
  induction k generalizing r with
  | zero => exact ⟨hr, hn⟩
  | succ k ih =>
    rw [isqrt]
    split
    case isTrue h =>
      refine ih _ h ?_
      rwa [Nat.add_assoc, ← Nat.two_mul, ← pow_succ']
    case isFalse h => exact ih _ hr (not_le.1 h)

theorem isqrt_spec {k n : Nat} (hn : n < 2 ^ k * 2 ^ k) : isqrt k n 0 * isqrt k n 0 ≤ n ∧ n < (isqrt k n 0 + 1) * (isqrt k n 0 + 1) :=
  isqrt_spec_from k n 0 (Nat.zero_le n) (by rwa [Nat.zero_add])

/-- The root of a number and what its whole part leaves below 1. -/
theorem sqrt_fraction {y : ℝ} {q : Nat} (hlo : (q : ℝ) * q ≤ y) (hhi : y < (q + 1) * (q + 1)) :
    0 ≤ √y - q ∧ √y - q < 1 ∧ (0 < √y - q ↔ (q : ℝ) * q ≠ y) := by
  have hq : (0 : ℝ) ≤ q := Nat.cast_nonneg q
  have hy : 0 ≤ y := (mul_self_nonneg _).trans hlo
  refine ⟨sub_nonneg.2 (Real.le_sqrt_of_sq_le (by rwa [sq])), ?_, ?_⟩
  · rw [sub_lt_iff_lt_add', add_comm]
    exact (Real.sqrt_lt' (by positivity)).2 (by rw [sq, add_comm]; linarith)
  · rw [sub_pos, Real.lt_sqrt hq, sq]
    exact ⟨fun h => h.ne, fun h => lt_of_le_of_ne hlo h⟩

/-- A significand and an exponent, made even. -/
theorem even_exponent (m : Nat) (e : Int) : ∃ h : Int, (if (e % 2 == 0) = true then e else e - 1) = 2 * h ∧
    ((if (e % 2 == 0) = true then m else 2 * m : Nat) : ℝ) * 2 ^ (2 * h) = m * 2 ^ e ∧
    m ≤ (if (e % 2 == 0) = true then m else 2 * m) ∧ (if (e % 2 == 0) = true then m else 2 * m) ≤ 2 * m := by
  rcases Int.emod_two_eq_zero_or_one e with he | he
  · have hb : (e % 2 == 0) = true := by rw [he]; rfl
    simp only [hb, if_true]
    exact ⟨e / 2, by omega, by rw [show 2 * (e / 2) = e by omega], le_rfl, by omega⟩
  · have hb : (e % 2 == 0) = false := by rw [he]; rfl
    simp only [hb, Bool.false_eq_true, if_false]
    refine ⟨e / 2, by omega, ?_, by omega, le_rfl⟩
    have h1 : e = 2 * (e / 2) + 1 := by omega
    rw [show (2 : ℝ) ^ e = 2 ^ (2 * (e / 2) + 1) by rw [← h1], zpow_add_one₀ two_ne_zero]
    push_cast
    ring

end Digits

section Roots

variable {rm : Rm} {s : Bool} {m : Nat} {e : Int}

theorem roundsOnce_pat {x : ℝ} {r : Nat × Word} (h : RoundsOnce fp32 rm s x r) : ((BitVec.ofNat 32 r.1).toNat, r.2) = r :=
  Prod.ext (Nat.mod_eq_of_lt (roundsOnce_lt h)) rfl

/-- FRCP delivers the reciprocal (R67). -/
theorem frcpVal_fin (rm : Rm) (s : Bool) (hm : m ≠ 0) (e : Int) :
    Delivers fp32 rm false (1 / real (.fin s m e)) ((frcpVal rm (.fin s m e)).1.toNat, (frcpVal rm (.fin s m e)).2) := by
  obtain ⟨j, hj, hlo, hhi⟩ := bitLen_bounds hm
  obtain ⟨h0, h1, hsticky, hsum⟩ := div_fraction (a := 2 ^ (bitLen m + 32)) hm
  have hbits : fp32.mb + 3 ≤ bitLen (2 ^ (bitLen m + 32) / m) := by
    have hq : 2 ^ 32 ≤ 2 ^ (bitLen m + 32) / m := by
      rw [Nat.le_div_iff_mul_le (Nat.pos_of_ne_zero hm), hj, pow_add, Nat.mul_comm]
      exact Nat.mul_le_mul_right _ hhi.le
    have := le_bitLen hq
    exact le_trans (by decide) this
  have hround := fp32_standard.round_roundsOnce rm s (-((bitLen m + 32 : Nat) : Int) - e) h0 h1 hsticky fun _ => hbits
  have hval : |1 / real (.fin s m e)| = (((2 ^ (bitLen m + 32) / m : Nat) : ℝ) + (2 ^ (bitLen m + 32) % m : Nat) / m) *
      2 ^ (-((bitLen m + 32 : Nat) : Int) - e) := by
    rw [hsum, abs_div, abs_one, abs_real_fin, zpow_sub₀ two_ne_zero, zpow_neg, zpow_natCast]
    have : (m : ℝ) ≠ 0 := by exact_mod_cast hm
    push_cast
    field_simp
  rw [← hval] at hround
  have hm0 : (m == 0) = false := by simpa using hm
  have hne : 1 / real (.fin s m e) ≠ 0 := one_div_ne_zero (mt (real_fin_eq_zero_iff s m e).1 hm)
  simp only [frcpVal, hm0, Bool.false_eq_true, if_false, roundsOnce_pat hround]
  refine delivers_of_roundsOnce ?_ hround
  rw [if_neg hne, one_div, inv_lt_zero]
  exact real_fin_neg_iff s hm e

/-- What a nonnegative number's rounding delivers. -/
theorem delivers_of_nonneg {F : FFmt} {x : ℝ} {r : Nat × Word} (hx : 0 ≤ x) (h : RoundsOnce F rm false x r) : Delivers F rm false x r := by
  rw [← abs_of_nonneg hx] at h
  refine delivers_of_roundsOnce ?_ h
  split
  case isTrue => rfl
  case isFalse => simpa using hx

/-- A root found by `isqrt`, with enough bits for its rest to be told, is rounded once. -/
theorem sqrt_roundsOnce (rm : Rm) {q : Nat} {y : ℝ} {sticky : Bool} (g : Int) (hlo : (q : ℝ) * q ≤ y) (hhi : y < (q + 1) * (q + 1))
    (hs : sticky = true ↔ (q : ℝ) * q ≠ y) (hq : 2 ^ 25 ≤ q) :
    RoundsOnce fp32 rm false (√y * 2 ^ g) (fp32.round rm false q g sticky) := by
  obtain ⟨h0, h1, hd⟩ := sqrt_fraction hlo hhi
  have h := fp32_standard.round_roundsOnce rm false g h0 h1 (hs.trans hd.symm) fun _ => le_bitLen hq
  rwa [add_sub_cancel] at h

/-- The integer root of n has the bits of half of n's. -/
theorem le_isqrt {n q k : Nat} (h : n < (q + 1) * (q + 1)) (hn : 2 ^ k * 2 ^ k ≤ n) : 2 ^ k ≤ q := by
  by_contra hlt
  have := Nat.mul_self_le_mul_self (show q + 1 ≤ 2 ^ k by omega)
  omega

/-- FSQRT of a positive number, its significand and exponent made even. -/
theorem fsqrtVal_eq (rm : Rm) (hm : m ≠ 0) {m1 q : Nat} {e1 : Int} (hm1 : (if (e % 2 == 0) = true then m else 2 * m) = m1)
    (he1 : (if (e % 2 == 0) = true then e else e - 1) = e1) (hq : isqrt 46 (m1 * 2 ^ 64) 0 = q) {r : Nat × Word}
    (hr : fp32.round rm false q (e1 / 2 - 32) (q * q != m1 * 2 ^ 64) = r) : fsqrtVal rm (.fin false m e) = (BitVec.ofNat 32 r.1, r.2) := by
  subst hm1 he1 hq
  obtain ⟨w, fl⟩ := r
  rw [fsqrtVal, if_neg (by simpa using hm), if_neg Bool.false_ne_true]
  extract_lets m1 e1 n q
  rw [show fp32.round rm false q (e1 / 2 - 32) (q * q != n) = (w, fl) from hr]

/-- FRSQ of a positive number, its significand and exponent made even. -/
theorem frsqVal_eq (rm : Rm) (hm : m ≠ 0) {m1 q : Nat} {e1 : Int} (hm1 : (if (e % 2 == 0) = true then m else 2 * m) = m1)
    (he1 : (if (e % 2 == 0) = true then e else e - 1) = e1) (hq : isqrt 65 (2 ^ 128 / m1) 0 = q) {r : Nat × Word}
    (hr : fp32.round rm false q (-64 - e1 / 2) (q * q * m1 != 2 ^ 128) = r) : frsqVal rm (.fin false m e) = (BitVec.ofNat 32 r.1, r.2) := by
  subst hm1 he1 hq
  obtain ⟨w, fl⟩ := r
  rw [frsqVal, if_neg (by simpa using hm), if_neg Bool.false_ne_true]
  extract_lets m1 e1 n q
  rw [show fp32.round rm false q (-64 - e1 / 2) (q * q * m1 != 2 ^ 128) = (w, fl) from hr]

/-- The root of a square of a power of two. -/
theorem sqrt_two_zpow (h : Int) : √((2 : ℝ) ^ (2 * h)) = 2 ^ h := by
  rw [Real.sqrt_eq_iff_mul_self_eq (by positivity) (by positivity), ← zpow_add₀ two_ne_zero, two_mul]

/-- The significand's root, the exponent halved, is FSQRT's. -/
theorem fsqrt_scale (m1 : Nat) (h : Int) : √((m1 * 2 ^ 64 : Nat) : ℝ) * 2 ^ (h - 32) = √(m1 * 2 ^ (2 * h)) := by
  have h64 : ((2 ^ 64 : Nat) : ℝ) = 2 ^ (2 * 32 : Int) := by norm_num
  rw [Nat.cast_mul, Real.sqrt_mul (Nat.cast_nonneg _), Real.sqrt_mul (Nat.cast_nonneg _), h64, sqrt_two_zpow, sqrt_two_zpow, mul_assoc,
    ← zpow_add₀ two_ne_zero, add_sub_cancel]

/-- The reciprocal of the significand's root, the exponent halved, is FRSQ's. -/
theorem frsq_scale {m1 : Nat} (hm : 0 < m1) (h : Int) : √((2 : ℝ) ^ 128 / m1) * 2 ^ (-64 - h) = 1 / √(m1 * 2 ^ (2 * h)) := by
  have h128 : (2 : ℝ) ^ 128 = 2 ^ (2 * 64 : Int) := by norm_num
  have hroot := (Real.sqrt_pos.2 (Nat.cast_pos.2 hm : (0 : ℝ) < m1)).ne'
  rw [h128, Real.sqrt_mul (Nat.cast_nonneg _), Real.sqrt_div (by positivity), sqrt_two_zpow, sqrt_two_zpow, zpow_sub₀ two_ne_zero, zpow_neg]
  field_simp

/-- FSQRT's digits are rounded once. -/
theorem fsqrt_roundsOnce (rm : Rm) {m1 q : Nat} (hm : 0 < m1) (hlo : q * q ≤ m1 * 2 ^ 64) (hhi : m1 * 2 ^ 64 < (q + 1) * (q + 1)) (h : Int) :
    RoundsOnce fp32 rm false √(m1 * 2 ^ (2 * h)) (fp32.round rm false q (h - 32) (q * q != m1 * 2 ^ 64)) := by
  have hq : 2 ^ 25 ≤ q := (by decide : 2 ^ 25 ≤ 2 ^ 32).trans (le_isqrt hhi (by omega))
  rw [← fsqrt_scale]
  exact sqrt_roundsOnce rm (h - 32) (by exact_mod_cast hlo) (by exact_mod_cast hhi)
    (by rw [bne_iff_ne, ← Nat.cast_mul, ne_eq, ne_eq, Nat.cast_inj]) hq

/-- FRSQ's digits are rounded once. -/
theorem frsq_roundsOnce (rm : Rm) {m1 q : Nat} (hm : 0 < m1) (hlt : m1 < 2 ^ 25) (hlo : q * q ≤ 2 ^ 128 / m1)
    (hhi : 2 ^ 128 / m1 < (q + 1) * (q + 1)) (h : Int) :
    RoundsOnce fp32 rm false (1 / √(m1 * 2 ^ (2 * h))) (fp32.round rm false q (-64 - h) (q * q * m1 != 2 ^ 128)) := by
  have hbig : 2 ^ 51 * 2 ^ 51 ≤ 2 ^ 128 / m1 := by
    rw [Nat.le_div_iff_mul_le hm]
    omega
  have hq : 2 ^ 25 ≤ q := (by decide : 2 ^ 25 ≤ 2 ^ 51).trans (le_isqrt hhi hbig)
  have hmR : (0 : ℝ) < m1 := Nat.cast_pos.2 hm
  rw [Nat.le_div_iff_mul_le hm] at hlo
  rw [Nat.div_lt_iff_lt_mul hm] at hhi
  rw [← frsq_scale hm]
  exact sqrt_roundsOnce rm (-64 - h) (by rw [le_div_iff₀ hmR]; exact_mod_cast hlo) (by rw [div_lt_iff₀ hmR]; exact_mod_cast hhi)
    (by rw [bne_iff_ne, ne_eq, ne_eq, eq_div_iff hmR.ne']; exact_mod_cast Iff.rfl) hq

theorem isqrt_fsqrt {m1 : Nat} (hlt : m1 < 2 ^ 25) :
    ∃ q, isqrt 46 (m1 * 2 ^ 64) 0 = q ∧ q * q ≤ m1 * 2 ^ 64 ∧ m1 * 2 ^ 64 < (q + 1) * (q + 1) :=
  ⟨_, rfl, isqrt_spec (by omega)⟩

theorem isqrt_frsq (m1 : Nat) : ∃ q, isqrt 65 (2 ^ 128 / m1) 0 = q ∧ q * q ≤ 2 ^ 128 / m1 ∧ 2 ^ 128 / m1 < (q + 1) * (q + 1) :=
  ⟨_, rfl, isqrt_spec ((Nat.div_le_self _ _).trans_lt (by decide))⟩

/-- FSQRT delivers the root (R67). -/
theorem fsqrtVal_fin (rm : Rm) (hm : m ≠ 0) (hlt : m < 2 ^ 24) (e : Int) :
    Delivers fp32 rm false √(real (.fin false m e)) ((fsqrtVal rm (.fin false m e)).1.toNat, (fsqrtVal rm (.fin false m e)).2) := by
  obtain ⟨h, he1, hval, hle, hge⟩ := even_exponent m e
  obtain ⟨m1, hm1⟩ : ∃ m1, (if (e % 2 == 0) = true then m else 2 * m) = m1 := ⟨_, rfl⟩
  rw [hm1] at hval hle hge
  obtain ⟨q, hq, hlo, hhi⟩ := isqrt_fsqrt (m1 := m1) (by omega)
  have hround := fsqrt_roundsOnce rm (by omega) hlo hhi h
  rw [real_fin, if_neg Bool.false_ne_true, one_mul, ← hval, fsqrtVal_eq rm hm hm1 he1 hq rfl, show 2 * h / 2 - 32 = h - 32 by omega,
    roundsOnce_pat hround]
  exact delivers_of_nonneg (Real.sqrt_nonneg _) hround

/-- FRSQ delivers the reciprocal of the root (R67). -/
theorem frsqVal_fin (rm : Rm) (hm : m ≠ 0) (hlt : m < 2 ^ 24) (e : Int) :
    Delivers fp32 rm false (1 / √(real (.fin false m e))) ((frsqVal rm (.fin false m e)).1.toNat, (frsqVal rm (.fin false m e)).2) := by
  obtain ⟨h, he1, hval, hle, hge⟩ := even_exponent m e
  obtain ⟨m1, hm1⟩ : ∃ m1, (if (e % 2 == 0) = true then m else 2 * m) = m1 := ⟨_, rfl⟩
  rw [hm1] at hval hle hge
  obtain ⟨q, hq, hlo, hhi⟩ := isqrt_frsq m1
  have hround := frsq_roundsOnce rm (by omega) (by omega) hlo hhi h
  rw [real_fin, if_neg Bool.false_ne_true, one_mul, ← hval, frsqVal_eq rm hm hm1 he1 hq rfl, show 2 * h / 2 = h by omega,
    roundsOnce_pat hround]
  exact delivers_of_nonneg (by positivity) hround

/-- FRND's integer is one of FP32 (R75). -/
theorem frnd_hasMag (rm : Rm) (s : Bool) (hm : m < 2 ^ 24) (hlo : -149 ≤ e) (hhi : e ≤ 104) :
    HasMag fp32 s (BitVec.ofNat 32 (fp32.round .nearest s (roundInt rm s m e).1 0 false).1).toNat (roundInt rm s m e).1 := by
  have hround := fp32_standard.round_roundsOnce (m := (roundInt rm s m e).1) (sticky := false) (d := 0) .nearest s 0 le_rfl one_pos (by simp) nofun
  rw [add_zero, zpow_zero, mul_one] at hround
  rw [show (BitVec.ofNat 32 (fp32.round .nearest s (roundInt rm s m e).1 0 false).1).toNat = _ from congrArg Prod.fst (roundsOnce_pat hround)]
  obtain ⟨hint, -⟩ := roundInt_intRounds rm s m e
  rcases lt_or_ge e 0 with he | he
  · have hn : (roundInt rm s m e).1 ≤ 2 ^ 23 := by
      refine hint.le_of_ge ((mag_le hm.le (Int.le_sub_one_of_lt he)).trans ?_)
      norm_num
    have h := roundsOnce_exact32 (m := (roundInt rm s m e).1) (e := 0) (by simpa using hround) (by omega) (by omega)
      ((mag_le hn (by omega : (0 : ℤ) ≤ 104)).trans (by norm_num))
    simpa using h.1
  · have hn : ((roundInt rm s m e).1 : ℝ) = m * 2 ^ e := by
      obtain ⟨k, rfl⟩ := Int.eq_ofNat_of_zero_le he
      simp [roundInt, roundAt]
    rw [hn] at hround ⊢
    exact (roundsOnce_exact32 hround hm hlo ((mag_le (Nat.le_sub_one_of_lt hm) hhi).trans (by norm_num))).1

end Roots

end Sys2Proof.Machine
end

section
/-! FP32 and packed arithmetic (R66, R67, R72, R73, R75). -/

namespace Sys2Proof.Machine

open Sys2Proof.Says

/-! ### The lesser and the greater of two patterns -/

section Extremes

variable {F : FFmt} {v w : Nat}

theorem FFmt.fmin_of_nan (hn : F.read v = .nan ∨ F.read w = .nan) : F.fmin v w = F.fmax v w ∧
    (F.read v = .nan → F.read w = .nan → F.fmax v w = F.nan) ∧ (F.read v = .nan → F.read w ≠ .nan → F.fmax v w = w) ∧
      (F.read v ≠ .nan → F.read w = .nan → F.fmax v w = v) := by
  simp only [← FFmt.isNan_iff, ne_eq] at hn ⊢
  cases hv : F.isNan v <;> cases hw : F.isNan w <;> simp [FFmt.fmin, FFmt.fmax, hv, hw] at hn ⊢

/-- FMIN and FMAX give the lesser and the greater pattern, and pass over a NaN (R68). -/
theorem FFmt.Standard.fmin_lesserIs (hF : F.Standard) (hv : v < 2 ^ (F.eb + F.mb + 1)) (hw : w < 2 ^ (F.eb + F.mb + 1)) :
    LesserIs F true v w (F.fmin v w) ∧ LesserIs F false v w (F.fmax v w) := by
  by_cases hn : F.read v = .nan ∨ F.read w = .nan
  · obtain ⟨hmin, hboth, hleft, hright⟩ := FFmt.fmin_of_nan hn
    have hno : ¬ F.read v = .nan → ¬ F.read w = .nan → ∀ p : Prop, p := fun h1 h2 _ => (hn.elim h1 h2).elim
    rw [hmin]
    exact ⟨⟨hboth, hleft, hright, fun h1 h2 => hno h1 h2 _⟩, hboth, hleft, hright, fun h1 h2 => hno h1 h2 _⟩
  · obtain ⟨hnv, hnw⟩ := not_or.1 hn
    obtain ⟨hmin, hmax⟩ := hF.fmin_key (Bool.eq_false_iff.2 (mt (F.isNan_iff v).1 hnv)) (Bool.eq_false_iff.2 (mt (F.isNan_iff w).1 hnw)) hv hw
    rw [hmin, hmax]
    refine ⟨⟨fun h => absurd h hnv, fun h => absurd h hnv, fun _ h => absurd h hnw, fun _ _ => ?_⟩,
      fun h => absurd h hnv, fun h => absurd h hnv, fun _ h => absurd h hnw, fun _ _ => ?_⟩ <;>
    · simp only [below_iff, if_true, Bool.false_eq_true, if_false]
      split
      case isTrue hle => simp [hle]
      case isFalse hle => simp [(not_le.1 hle).le]

theorem FFmt.fmin_lt {n : Nat} (hn : F.nan < n) (hv : v < n) (hw : w < n) : F.fmin v w < n ∧ F.fmax v w < n := by
  rw [FFmt.fmin, FFmt.fmax]
  constructor <;> (repeat' split) <;> assumption

end Extremes

/-! ### The special operands of reciprocals and roots -/

section Specials

theorem nan32_pat (fl : Word) : (nan32.toNat, fl) = (fp32.nan, fl) := rfl

theorem fin32_inf (rm : Rm) (s : Bool) (fl : Word) : ((fin32 rm (.inf s, fl)).1.toNat, (fin32 rm (.inf s, fl)).2) = (infOf fp32 s, fl) := by
  rw [fin32_pat, fp32_standard.finish_inf rfl]

theorem fin32_zero (rm : Rm) (s : Bool) : ((fin32 rm (.fin s 0 0, 0)).1.toNat, (fin32 rm (.fin s 0 0, 0)).2) = (zeroOf fp32 s, 0) := by
  rw [fin32_pat, FFmt.finish_fin, ← FFmt.withSign_zero]
  rfl

/-- The significand and the exponent of a finite FP32 value. -/
theorem rd32_fin_bounds {w : Word} {s : Bool} {m : Nat} {e : Int} (h : rd32 w = .fin s m e) : m < 2 ^ 24 ∧ -149 ≤ e ∧ e ≤ 104 := by
  obtain ⟨hm, hlo, hhi⟩ := FFmt.read_fin_bounds rfl (by decide) h
  exact ⟨hm, hlo, hhi.trans (by norm_num [fp32, FFmt.qmin])⟩

end Specials

section Packed

variable {fmt : PFmt}

theorem pfmt_sumIs (fmt : PFmt) (rm : Rm) (a b : FVal) : SumIs (pfmt fmt) rm [a, b] ((pfmt fmt).finish rm (faddEx rm a b)) := by
  obtain ⟨hF, hk, -⟩ := pfmt_spec fmt
  exact (faddEx_exactSum rm a b).sumIs hF hk

theorem pfmt_fmin_lt (fmt : PFmt) {v w : Nat} (hv : v < 2 ^ 16) (hw : w < 2 ^ 16) :
    (pfmt fmt).fmin v w < 2 ^ 16 ∧ (pfmt fmt).fmax v w < 2 ^ 16 := by
  obtain ⟨-, -, -, hn⟩ := pfmt_spec fmt
  exact FFmt.fmin_lt hn hv hw

theorem pfmt_lesserIs (fmt : PFmt) {v w : Nat} (hv : v < 2 ^ 16) (hw : w < 2 ^ 16) :
    LesserIs (pfmt fmt) true v w ((pfmt fmt).fmin v w) ∧ LesserIs (pfmt fmt) false v w ((pfmt fmt).fmax v w) := by
  obtain ⟨hF, -, hbits, -⟩ := pfmt_spec fmt
  exact hF.fmin_lesserIs (hbits.symm ▸ hv) (hbits.symm ▸ hw)

/-- Element i of a pair, as R36 places it. -/
abbrev element (w : Word) (i : Nat) : Nat := w.toNat / 2 ^ (16 * i) % 2 ^ 16

theorem half_eq_element : half = element := funext fun w => funext fun i => half_eq w i

theorem element_lt (w : Word) (i : Nat) : element w i < 2 ^ 16 := Nat.mod_lt _ (by decide)

/-- A packed operation whose elements `is` describes, each of 16 bits. -/
theorem computesSo_of_packed2 {i : Instr} {f : Nat → Nat → Nat × Word} {d : LaneDst} {a b : LaneSrc} {x : Xl}
    {is : Nat → Nat → Nat × Word → Prop} (hi : ∀ s, exec i s = packed2 fmt f d a x b s)
    (hf : ∀ p q, p < 2 ^ 16 → q < 2 ^ 16 → (f p q).1 < 2 ^ 16 ∧ is p q (f p q)) :
    ComputesSo i (LaneDst.regs d ++ read2 a b) (.packed fmt) d a x fun s k v r =>
      ∃ lo hi : Nat × Word, is (element v 0) (element (s.laneSrc k (.packed fmt) b) 0) lo ∧
        is (element v 1) (element (s.laneSrc k (.packed fmt) b) 1) hi ∧ r = (BitVec.ofNat 32 (lo.1 + hi.1 * 2 ^ 16), lo.2 ||| hi.2) := by
  refine computesSo_of_laneCompute hi (fun s => by rw [packed2]) fun s k v => ?_
  simp only [half_eq_element]
  have h (j : Nat) := hf _ _ (element_lt v j) (element_lt (s.laneSrc k (.packed fmt) b) j)
  exact perHalf_both (is := fun j => is (element v j) (element (s.laneSrc k (.packed fmt) b) j)) (fun j => (h j).1) fun j => (h j).2

end Packed

/-- Settles O4: the exact results of the float members, rounded once; roots and reciprocals by digits and a rest; packed halves each on its own. -/
theorem floatAndPackedResults : Obligations.FloatAndPackedResults := by
  refine ⟨⟨fun F hF w hw => FFmt.read_patternValue ?_ hw, fun d a b c x rm => ?_⟩, fun fmt rm d a b c x => ?_⟩
  · intro hk
    simp only [List.mem_cons, List.not_mem_nil, or_false] at hF
    rcases hF with rfl | rfl | rfl | rfl | rfl | rfl
    case inr.inr.inr.inr.inl => exact ⟨rfl, rfl⟩
    all_goals cases hk
  · intro na nb B C pat one
    have hb : nb = LaneDst.regs d ++ read2 a b := List.append_assoc ..
    have hbc : nb ++ LaneSrc.regs c = LaneDst.regs d ++ read3 a b c := by simp [nb, na, read3, read2]
    have hpat (x : FEx) : pat (fin32 rm x) = fp32.finish rm x := fin32_pat rm x
    rw [hbc, hb]
    refine ⟨?_, ?_, ?_, ?_, ?_, ?_, ?_, fun fn => ?_, ?_⟩
    · refine computesSo_of_laneCompute (g := execFadd rm d a x b) (fun _ => rfl) (fun s => by rw [execFadd]) fun s k v => ?_
      rw [hpat]
      exact (faddEx_exactSum rm _ _).sumIs fp32_standard rfl
    · refine computesSo_of_laneCompute (g := execFsub rm d a x b) (fun _ => rfl) (fun s => by rw [execFsub]) fun s k v => ?_
      rw [hpat]
      exact (faddEx_exactSum rm _ _).sumIs fp32_standard rfl
    · refine computesSo_of_laneCompute (g := execFmul rm d a x b) (fun _ => rfl) (fun s => by rw [execFmul]) fun s k v => ?_
      rw [hpat]
      exact fmulEx_dotIs fp32_standard rfl rm _ _
    · refine computesSo_of_laneCompute (g := execFfma rm d a x b c) (fun _ => rfl) (fun s => by rw [execFfma]) fun s k v => ?_
      rw [hpat]
      exact ffmaEx_dotIs fp32_standard rfl rm _ _ _
    · refine computesSo_of_laneCompute (g := execFrcp rm d a x) (fun _ => rfl) (fun s => by rw [execFrcp, floatUnary]) fun s k v => ?_
      cases h : rd32 v with
      | nan => exact nan32_pat 0
      | inf s => exact fin32_zero rm s
      | fin s m e =>
        cases m with
        | zero => exact fin32_inf rm s fDZ
        | succ m => exact frcpVal_fin rm s m.succ_ne_zero e
    · refine computesSo_of_laneCompute (g := execFrsq rm d a x) (fun _ => rfl) (fun s => by rw [execFrsq, floatUnary]) fun s k v => ?_
      cases h : rd32 v with
      | nan => exact nan32_pat 0
      | inf s =>
        cases s with
        | false => exact fin32_zero rm false
        | true => exact nan32_pat fNV
      | fin s m e =>
        obtain ⟨hm, -⟩ := rd32_fin_bounds h
        cases m with
        | zero => cases s <;> exact fin32_inf rm _ fDZ
        | succ m =>
          cases s with
          | false => exact frsqVal_fin rm m.succ_ne_zero hm e
          | true => exact nan32_pat fNV
    · refine computesSo_of_laneCompute (g := execFsqrt rm d a x) (fun _ => rfl) (fun s => by rw [execFsqrt, floatUnary]) fun s k v => ?_
      cases h : rd32 v with
      | nan => exact nan32_pat 0
      | inf s =>
        cases s with
        | false => exact fin32_inf rm false 0
        | true => exact nan32_pat fNV
      | fin s m e =>
        obtain ⟨hm, -⟩ := rd32_fin_bounds h
        cases m with
        | zero => cases s <;> exact fin32_zero rm _
        | succ m =>
          cases s with
          | false => exact fsqrtVal_fin rm m.succ_ne_zero hm e
          | true => exact nan32_pat fNV
    · exact computes_of_laneCompute (g := execFtrn fn rm d a x) (fun _ => rfl) (fun s => by rw [execFtrn, floatUnary])
    · refine computesSo_of_laneCompute (g := execFrnd rm d a x) (fun _ => rfl) (fun s => by rw [execFrnd]) fun s k v => ?_
      rw [frndVal]
      cases h : rd32 v with
      | nan => exact nan32_pat 0
      | inf s => rfl
      | fin s m e =>
        obtain ⟨hm, hlo, hhi⟩ := rd32_fin_bounds h
        refine ⟨rfl, (roundInt rm s m e).1, ?_, frnd_hasMag rm s hm hlo hhi⟩
        have hint := (roundInt_intRounds rm s m e).1.roundsInt
        rwa [real_fin, if_neg Bool.false_ne_true, one_mul]
  · intro nb F el val both B C
    obtain ⟨hF, hk, -⟩ := pfmt_spec fmt
    have hb : nb = LaneDst.regs d ++ read2 a b := List.append_assoc ..
    have hbc : nb ++ LaneSrc.regs c = LaneDst.regs d ++ read3 a b c := by simp [nb, read3, read2]
    rw [hbc, hb]
    refine ⟨?_, ?_, ?_, ?_, ?_, ?_⟩
    · exact computesSo_of_packed2 (f := fun p q => F.finish rm (faddEx rm (F.read p) (F.read q)))
        (is := fun p q => SumIs F rm [F.read p, F.read q]) (fun _ => rfl) fun p q _ _ => ⟨pfmt_deliver_lt fmt rm _, pfmt_sumIs fmt rm _ _⟩
    · exact computesSo_of_packed2 (f := fun p q => F.finish rm (fmulEx (F.read p) (F.read q)))
        (is := fun p q => DotIs F rm [(F.read p, F.read q)] []) (fun _ => rfl) fun p q _ _ =>
          ⟨pfmt_deliver_lt fmt rm _, fmulEx_dotIs hF hk rm _ _⟩
    · refine computesSo_of_laneCompute (g := execPfma fmt rm d a x b c) (fun _ => rfl) (fun s => by rw [execPfma]) fun s k v => ?_
      simp only [half_eq_element]
      exact perHalf_both (is := fun i => DotIs F rm [(val v i, val (B s k) i)] [val (C s k) i]) (fun _ => pfmt_deliver_lt fmt rm _)
        fun _ => ffmaEx_dotIs hF hk rm _ _ _
    · exact computesSo_of_packed2 (f := fun p q => (F.fmin p q, 0)) (is := fun p q r => LesserIs F true p q r.1 ∧ r.2 = 0)
        (fun _ => rfl) fun p q hp hq => ⟨(pfmt_fmin_lt fmt hp hq).1, (pfmt_lesserIs fmt hp hq).1, rfl⟩
    · exact computesSo_of_packed2 (f := fun p q => (F.fmax p q, 0)) (is := fun p q r => LesserIs F false p q r.1 ∧ r.2 = 0)
        (fun _ => rfl) fun p q hp hq => ⟨(pfmt_fmin_lt fmt hp hq).2, (pfmt_lesserIs fmt hp hq).2, rfl⟩
    · refine computesSo_of_laneCompute (g := execPdot fmt rm d a x b c) (fun _ => rfl) (fun s => by rw [execPdot]) fun s k v => ?_
      simp only [half_eq_element]
      rw [fin32_pat]
      exact fdotEx_dotIs rm _ _ _ _ _

end Sys2Proof.Machine
end

section
/-! The integer and logic instructions (R61-R65): values, field checks of their words, and their results. -/

namespace Sys2Proof.Machine

open Sys2Proof.Says

/-! ### Fields that must be 0 (R22) -/

section Rejects

variable {op : Nat} {w w2 : Nat}

theorem zero_of_ne {n : Nat} (h : n ≠ 0) : zero n = .error .unusedField := if_neg h

theorem lane2_rejects (f : LaneDst → LaneSrc → Instr) (h : fB w ≠ 0) : (lane2 f w).isOk = false := by
  rw [lane2, zero_of_ne h]
  rfl

/-- What a form-S instruction asks first of its own fields decides, whatever the shared checks say. -/
theorem laneS_noC_rejects (f : LaneDst → LaneSrc → Xl → Dec Instr) (h : fC w2 ≠ 0) :
    (laneS w w2 fun d a x => do noC w2; f d a x).isOk = false := by
  have hno (d a x) : (do noC w2; f d a x) = .error .unusedField := by
    rw [noC, zero_of_ne h]
    rfl
  simp only [hno, laneS]
  cases zero (fAB w2) with
  | error => rfl
  | ok =>
    cases dLaneDst (fD w) with
    | error => rfl
    | ok =>
      simp only [Dec.ok_bind]
      cases dXl w2 (dLaneSrc (fA w)) <;> rfl

theorem isOk_map {ε α β : Type} (f : α → β) (x : Except ε α) : (x.map f).isOk = x.isOk := by cases x <;> rfl

/-- The fields of a word whose top byte is a lane opcode. -/
theorem laneWord_fields (hop : op < 128) (h : w / 2 ^ 24 = op) : fSet w = 0 ∧ fOp w = op := by
  simp only [fSet, fOp, bits]
  omega

theorem rejectsB_of_lane2 (f : LaneDst → LaneSrc → Instr) (hop : op < 128) (ht : ∀ w, fSet w = 0 → fOp w = op → twoWord w = false)
    (hd : ∀ w, fOp w = op → decodeLane w 0 = lane2 f w) : RejectsB op := by
  intro w ws hw hb
  obtain ⟨hset, hfop⟩ := laneWord_fields hop hw
  rw [decode.eq_def]
  simp only [ht _ hset hfop, Bool.false_eq_true, if_false, isOk_map, decodeDevice, hset, if_true, hd _ hfop]
  exact lane2_rejects f (by simpa [fB, bits] using hb)

theorem rejectsC_of_laneS (f : Nat → Nat → LaneDst → LaneSrc → Xl → Dec Instr) (hop : op < 128)
    (ht : ∀ w, fSet w = 0 → fOp w = op → twoWord w = true)
    (hd : ∀ w w2, fOp w = op → decodeLane w w2 = laneS w w2 fun d a x => do noC w2; f w w2 d a x) : RejectsC op := by
  intro w w2 ws hw hc
  obtain ⟨hset, hfop⟩ := laneWord_fields hop hw
  rw [decode.eq_def]
  simp only [ht _ hset hfop, if_true, isOk_map, decodeDevice, hset, hd _ _ hfop]
  exact laneS_noC_rejects (f w.toNat w2.toNat) (by simpa [fC, bits] using hc)

end Rejects

/-! ### Values -/

theorem add_eq_ofNat (v w : Word) : v + w = BitVec.ofNat 32 (v.toNat + w.toNat) := BitVec.eq_of_toNat_eq (by simp)

theorem mul_eq_ofNat (v w : Word) : v * w = BitVec.ofNat 32 (v.toNat * w.toNat) := BitVec.eq_of_toNat_eq (by simp)

theorem sub_eq_ofInt (v w : Word) : v - w = BitVec.ofInt 32 (v.toNat - w.toNat) := by
  apply BitVec.eq_of_toNat_eq
  rw [BitVec.toNat_sub, BitVec.toNat_ofInt]
  omega

theorem countZeros_eq (v : Word) : countZeros v = BitVec.ofNat 32 (if v = 0 then 32 else 31 - v.toNat.log2) := by
  rw [countZeros, bitLen]
  by_cases hv : v = 0
  · simp [hv]
  · have hne : v.toNat ≠ 0 := fun h => hv (BitVec.eq_of_toNat_eq (by simpa using h))
    simp only [beq_iff_eq, hne, hv, if_false]
    congr 1
    omega

/-! ### One-word instructions (R62) -/

section OneWord

variable {i : Instr} {d : LaneDst} {a b : LaneSrc}

/-- What a lane computation without a cross-lane modifier computes in its thread (R56, R57). -/
theorem computesAlone_of_laneCompute {g : State → Out} {rs : List Nat} {rd : Reading} {f : State → Nat → Word → FRes}
    (hi : ∀ s, exec i s = g s) (hg : ∀ s, g s = laneCompute s (LaneDst.regs d) rs rd d a .none f) :
    ComputesAlone i (LaneDst.regs d ++ rs) rd d a f := fun s k t hl => (computes_of_laneCompute hi hg s k t hl).1 rfl

theorem intBinary_computes {f g : Word → Word → Word} (hi : ∀ s, exec i s = intBinary f d a b s) (hfg : ∀ v w, f v w = g v w) :
    ComputesAlone i (LaneDst.regs d ++ LaneSrc.regs a ++ LaneSrc.regs b) .int d a fun s k v => (g v (s.laneSrc k .int b), 0) := by
  obtain rfl : f = g := funext₂ hfg
  rw [List.append_assoc]
  exact computesAlone_of_laneCompute (rs := read2 a b) hi fun s => by rw [intBinary]

theorem intUnary_computes {f g : Word → Word} (hi : ∀ s, exec i s = intUnary f d a s) (hfg : ∀ v, f v = g v) :
    ComputesAlone i (LaneDst.regs d ++ LaneSrc.regs a) .int d a fun _ _ v => (g v, 0) := by
  obtain rfl : f = g := funext hfg
  exact computesAlone_of_laneCompute hi fun s => by rw [intUnary]

end OneWord

/-- Settles O1: each member is one function of its operands, in the lane frame; POPC and CLZ reject a B. -/
theorem integerResults : Obligations.IntegerResults := by
  refine ⟨fun d a b => ⟨?_, ?_, ?_, ?_, ?_, ?_, ?_, ?_, ?_⟩,
    rejectsB_of_lane2 .popc (by decide) (fun w hs ho => by simp [twoWord, hs, ho]) (fun w ho => by simp only [decodeLane, ho]),
    rejectsB_of_lane2 .clz (by decide) (fun w hs ho => by simp [twoWord, hs, ho]) (fun w ho => by simp only [decodeLane, ho]),
    fun d a b => ⟨?_, ?_, ?_, ?_, ?_, ?_, ?_, ?_, ?_⟩⟩
  · exact intBinary_computes (fun _ => rfl) add_eq_ofNat
  · exact intBinary_computes (fun _ => rfl) sub_eq_ofInt
  · exact intBinary_computes (fun _ => rfl) mul_eq_ofNat
  · exact intBinary_computes (f := mulHigh) (fun _ => rfl) fun _ _ => rfl
  · exact intBinary_computes (f := mulHighU) (fun _ => rfl) fun _ _ => rfl
  · exact intBinary_computes (f := minS) (fun _ => rfl) fun _ _ => rfl
  · exact intBinary_computes (f := maxS) (fun _ => rfl) fun _ _ => rfl
  · exact intBinary_computes (f := minU) (fun _ => rfl) fun _ _ => rfl
  · exact intBinary_computes (f := maxU) (fun _ => rfl) fun _ _ => rfl
  · exact intBinary_computes (fun _ => rfl) fun _ _ => rfl
  · exact intBinary_computes (fun _ => rfl) fun _ _ => rfl
  · exact intBinary_computes (fun _ => rfl) fun _ _ => rfl
  · exact intBinary_computes (f := fun x y => x &&& ~~~y) (fun _ => rfl) fun _ _ => rfl
  · exact intBinary_computes (fun _ => rfl) shiftL_eq
  · exact intBinary_computes (fun _ => rfl) shiftR_eq
  · exact intBinary_computes (fun _ => rfl) shiftA_eq
  · exact intUnary_computes (fun _ => rfl) countOnes_eq
  · exact intUnary_computes (fun _ => rfl) countZeros_eq

end Sys2Proof.Machine
end

section
/-! IMAD, the bit fields and ICMP (R63-R65). -/

namespace Sys2Proof.Machine

open Sys2Proof.Says

/-! ### Values -/

theorem clampSat_eq {lo hi : Int} (h : lo ≤ hi) (x : Int) :
    clampSat lo hi x = (BitVec.ofInt 32 (max lo (min hi x)), if x < lo ∨ hi < x then 0x20 else 0) := by
  rw [clampSat]
  rcases lt_or_ge x lo with hlo | hlo
  · simp [hlo, min_eq_right (hlo.le.trans h), max_eq_left hlo.le, fSAT]
  · rcases lt_or_ge hi x with hhi | hhi
    · simp [not_lt.2 hlo, hhi, min_eq_left hhi.le, max_eq_right h, fSAT]
    · simp [not_lt.2 hlo, not_lt.2 hhi, min_eq_right hhi, max_eq_right hlo]

/-- Offset and width of a field (R64). -/
theorem fieldOf_eq (c : Word) : fieldOf c = (c.toNat % 256, min (c.toNat / 256 % 256) 32) := by simp [fieldOf, bits]

/-- BFE's field, extended from its top bit by sign or zero (R64). -/
theorem bfeVal_eq (sgn : Bool) (v c : Word) :
    let o := c.toNat % 256
    let w := min (c.toNat / 256 % 256) 32
    let f : Int := (if sgn then v.toInt else v.toNat) / 2 ^ o % 2 ^ w
    bfeVal sgn v c = if w = 0 then 0 else if sgn ∧ 2 ^ (w - 1) ≤ f then BitVec.ofInt 32 (f - 2 ^ w) else BitVec.ofInt 32 f := by
  intro o w f
  have hpos : (0 : Int) < 2 ^ w := by positivity
  have hf0 : 0 ≤ f := Int.emod_nonneg _ hpos.ne'
  have hfw : f < 2 ^ w := Int.emod_lt_of_pos _ hpos
  have hmod : f.toNat % 2 ^ w = f.toNat := Nat.mod_eq_of_lt (by zify; rwa [Int.toNat_of_nonneg hf0])
  have hcast : (f.toNat : Int) = f := Int.toNat_of_nonneg hf0
  have hhalf : f.toNat < 2 ^ (w - 1) ↔ f < 2 ^ (w - 1) := by zify; rw [hcast]
  have hval : bfeVal sgn v c = if w = 0 then 0 else if sgn then BitVec.ofInt 32 (sextNat w f.toNat) else BitVec.ofNat 32 f.toNat := by
    simp only [bfeVal, fieldOf_eq, beq_iff_eq, f, o, w]
  rw [hval]
  cases sgn with
  | false => simp only [Bool.false_eq_true, if_false, false_and, ← BitVec.ofInt_natCast, hcast]
  | true =>
    simp only [if_true, true_and, sextNat, hmod, hhalf]
    push_cast
    rw [Int.emod_eq_of_lt (by omega) (by rwa [hcast]), hcast]
    rcases lt_or_ge f (2 ^ (w - 1)) with hlt | hge
    · rw [if_pos hlt, if_neg (not_le.2 hlt)]
    · rw [if_neg (not_lt.2 hge), if_pos hge]

theorem bfiVal_eq (v b c : Word) :
    let o := c.toNat % 256
    let w := min (c.toNat / 256 % 256) 32
    let m := BitVec.ofNat 32 ((2 ^ w - 1) * 2 ^ o)
    bfiVal v b c = (v &&& ~~~m) ||| (BitVec.ofNat 32 (b.toNat * 2 ^ o) &&& m) := by simp only [bfiVal, fieldOf_eq]

theorem imadVal_wrap (v b c : Word) : imadVal .wrap v b c = (BitVec.ofNat 32 (v.toNat * b.toNat + c.toNat), 0) := by
  rw [imadVal, BitVec.ofNat_add, BitVec.ofNat_toNat, BitVec.setWidth_eq, ← mul_eq_ofNat]

/-- What a lane computation computes, in other words for its result. -/
theorem computes_of_laneCompute_eq {i : Instr} {g : State → Out} {rs : List Nat} {rd : Reading} {d : LaneDst} {a : LaneSrc} {x : Xl}
    {f f' : State → Nat → Word → FRes} (hi : ∀ s, exec i s = g s) (hg : ∀ s, g s = laneCompute s (LaneDst.regs d) rs rd d a x f)
    (hf : ∀ s k v, f s k v = f' s k v) : Computes i (LaneDst.regs d ++ rs) rd d a x f' := by
  obtain rfl : f = f' := funext fun s => funext fun k => funext fun v => hf s k v
  exact computes_of_laneCompute hi hg

/-- Settles O2: IMAD's exact sum wrapped or clamped, the field of R64, and ICMP's comparison; BFE and ICMP reject a C. -/
theorem multiplyAddFieldCompareResults : Obligations.MultiplyAddFieldCompareResults := by
  refine ⟨rejectsC_of_laneS _ (by decide) (fun w hs ho => by simp [twoWord, hs, ho]) (fun w w2 ho => by simp only [decodeLane, ho]; rfl),
    rejectsC_of_laneS _ (by decide) (fun w hs ho => by simp [twoWord, hs, ho]) (fun w w2 ho => by simp only [decodeLane, ho]; rfl),
    fun d a b c x => ?_⟩
  intro ns clamped
  have hb : ns = LaneDst.regs d ++ read2 a b := List.append_assoc ..
  have hbc : ns ++ LaneSrc.regs c = LaneDst.regs d ++ read3 a b c := by simp [ns, read3, read2]
  have imad {sat : Sat} {f : State → Nat → Word → FRes} (hf : ∀ s k v, imadVal sat v (s.laneSrc k .int b) (s.laneSrc k .int c) = f s k v) :
      Computes (.imad sat d a x b c) (LaneDst.regs d ++ read3 a b c) .int d a x f :=
    computes_of_laneCompute_eq (g := execImad sat d a x b c) (fun _ => rfl) (fun s => by rw [execImad]) hf
  have hclamp {lo hi : Int} (h : lo ≤ hi) (t : Int) : clampSat lo hi t = clamped lo hi t := clampSat_eq h t
  rw [hbc, hb]
  refine ⟨imad fun s k v => imadVal_wrap .., imad fun s k v => hclamp (by decide) _, imad fun s k v => ?_, fun sgn => ?_, ?_, fun cc u => ?_⟩
  · rw [← hclamp (by decide), ← Nat.cast_mul, ← Nat.cast_add]
    rfl
  · exact computes_of_laneCompute_eq (g := execBfe sgn d a x b) (fun _ => rfl) (fun s => by rw [execBfe])
      fun s k v => congrArg (·, 0) (bfeVal_eq sgn v _)
  · exact computes_of_laneCompute_eq (g := execBfi d a x b c) (fun _ => rfl) (fun s => by rw [execBfi])
      fun s k v => congrArg (·, 0) (bfiVal_eq v _ _)
  · refine computes_of_laneCompute_eq (g := execIcmp cc u d a x b) (fun _ => rfl) (fun s => by rw [execIcmp]) fun s k v => ?_
    cases cc <;> simp [icmpVal, boolWord]

end Sys2Proof.Machine
end

section
/-! The order, sign and class of FP32 patterns (R68-R70). -/

namespace Sys2Proof.Machine

open Sys2Proof.Says

/-! ### The order of magnitudes with their signs -/

/-- The magnitude of a code, below 0 where the code is given as a negative number. -/
noncomputable def FFmt.signedCode (F : FFmt) (i : Int) : ℝ := if i < 0 then -F.codeMag i.natAbs else F.codeMag i.natAbs

theorem FFmt.signedCode_strictMono (F : FFmt) : StrictMono F.signedCode := by
  intro i j hij
  rw [FFmt.signedCode, FFmt.signedCode]
  rcases lt_or_ge i 0 with hi | hi <;> rcases lt_or_ge j 0 with hj | hj
  · rw [if_pos hi, if_pos hj, neg_lt_neg_iff]
    exact F.codeMag_strictMono (by omega)
  · rw [if_pos hi, if_neg (not_lt.2 hj)]
    have hpos : 0 < F.codeMag i.natAbs := F.codeMag_zero ▸ F.codeMag_strictMono (by omega)
    exact (neg_neg_of_pos hpos).trans_le (F.codeMag_nonneg _)
  · omega
  · rw [if_neg (not_lt.2 hi), if_neg (not_lt.2 hj)]
    exact F.codeMag_strictMono (by omega)

theorem FFmt.signedCode_natCast (F : FFmt) (n : Nat) : F.signedCode n = F.codeMag n := if_neg (by omega)

theorem FFmt.signedCode_neg (F : FFmt) (n : Nat) : F.signedCode (-(n : Int)) = -F.codeMag n := by
  cases n with
  | zero => simp [FFmt.signedCode, FFmt.codeMag_zero]
  | succ n => exact if_pos (by omega)

/-! ### FP32 patterns -/

/-- The magnitude bits, the sign bit, the NaN test and the rank of an FP32 pattern (R37, R68). -/
abbrev magW (w : Word) : Nat := w.toNat % 2 ^ 31
abbrev negW (w : Word) : Bool := decide (2 ^ 31 ≤ w.toNat)
abbrev nanW (w : Word) : Bool := decide (0x7F800000 < magW w)
abbrev rankW (w : Word) : Int := if negW w then -(magW w : Int) else magW w

/-- v is the lesser of two patterns, -0 below +0 (R68). -/
abbrev belowW (v w : Word) : Prop := rankW v < rankW w ∨ (rankW v = rankW w ∧ (negW v ∨ ¬ negW w))

section Patterns

variable {v w : Word}

theorem fp32_isNan (w : Word) : fp32.isNan w.toNat = nanW w := rfl

theorem fp32_isInf (w : Word) : fp32.isInf w.toNat = (magW w == 0x7F800000) := rfl

theorem fp32_signOf (w : Word) : fp32.signOf w.toNat = negW w := by
  rw [Bool.eq_iff_iff, decide_eq_true_iff]
  exact signOf_iff w.isLt

theorem rd32_isNan (w : Word) : (rd32 w).isNan = nanW w := by
  rw [← fp32_isNan, Bool.eq_iff_iff, fp32.isNan_iff, rd32]
  cases fp32.read w.toNat <;> simp [FVal.isNan]

theorem fp32_signed (w : Word) : fp32.signed w.toNat = fp32.signedCode (rankW w) := by
  rw [FFmt.signed, fp32_signOf, rankW, show fp32.magOf w.toNat = magW w from rfl]
  cases negW w with
  | false => exact (one_mul _).trans (fp32.signedCode_natCast _).symm
  | true => exact (neg_one_mul _).trans (fp32.signedCode_neg _).symm

/-- Patterns that are no NaN compare as their ranks (R68, R69). -/
theorem rd32_cmp (hv : nanW v = false) (hw : nanW w = false) :
    ((rd32 v).cmp (rd32 w) < 0 ↔ rankW v < rankW w) ∧ ((rd32 v).cmp (rd32 w) = 0 ↔ rankW v = rankW w) := by
  have h := FFmt.cmp_read fp32_standard (v := v.toNat) (w := w.toNat) hv hw
  rwa [fp32_signed, fp32_signed, fp32.signedCode_strictMono.lt_iff_lt, fp32.signedCode_strictMono.injective.eq_iff] at h

theorem rd32_leMin (hv : nanW v = false) (hw : nanW w = false) : (rd32 v).leMin (rd32 w) = true ↔ belowW v w := by
  obtain ⟨hlt, heq⟩ := rd32_cmp hv hw
  have hsv : (rd32 v).sign = negW v := (fp32.sign_read (w := v.toNat) hv).trans (fp32_signOf v)
  have hsw : (rd32 w).sign = negW w := (fp32.sign_read (w := w.toNat) hw).trans (fp32_signOf w)
  simp [FVal.leMin, hsv, hsw, hlt, heq, belowW]

/-- FMIN passes over a NaN, and of two numbers gives the lesser (R68). -/
theorem fmin_patterns (v w : Word) : let r := BitVec.ofNat 32 (fp32.fmin v.toNat w.toNat)
    (nanW v → nanW w → r = 0x7FC00000) ∧ (nanW v → ¬ nanW w → r = w) ∧ (¬ nanW v → nanW w → r = v) ∧
      (¬ nanW v → ¬ nanW w → (belowW v w → r = v) ∧ (¬ belowW v w → r = w)) := by
  rw [FFmt.fmin, fp32_isNan, fp32_isNan]
  cases hv : nanW v <;> cases hw : nanW w
  case false.false =>
    have hle := rd32_leMin hv hw
    rw [rd32, rd32] at hle
    by_cases hb : belowW v w <;> simp [hle, hb]
  all_goals simp [fp32]

/-- FMAX passes over a NaN, and of two numbers gives the greater (R68). -/
theorem fmax_patterns (v w : Word) : let r := BitVec.ofNat 32 (fp32.fmax v.toNat w.toNat)
    (nanW v → nanW w → r = 0x7FC00000) ∧ (nanW v → ¬ nanW w → r = w) ∧ (¬ nanW v → nanW w → r = v) ∧
      (¬ nanW v → ¬ nanW w → (belowW v w → r = w) ∧ (¬ belowW v w → r = v)) := by
  rw [FFmt.fmax, fp32_isNan, fp32_isNan]
  cases hv : nanW v <;> cases hw : nanW w
  case false.false =>
    have hle := rd32_leMin hv hw
    rw [rd32, rd32] at hle
    by_cases hb : belowW v w <;> simp [hle, hb]
  all_goals simp [fp32]

theorem fabs_eq (v : Word) : v &&& 0x7FFFFFFF = BitVec.ofNat 32 (magW v) := by
  apply BitVec.eq_of_toNat_eq
  have hand : v.toNat &&& 0x7FFFFFFF = magW v := Nat.and_two_pow_sub_one_eq_mod v.toNat 31
  have hlt : magW v < 2 ^ 31 := Nat.mod_lt _ (by decide)
  rw [BitVec.toNat_and, BitVec.toNat_ofNat, Nat.mod_eq_of_lt (by omega)]
  exact hand

/-- The top bit of a word turns where the half of its range is added. -/
theorem fneg_eq (v : Word) : v ^^^ 0x80000000 = v + 0x80000000 := by
  apply BitVec.eq_of_toNat_eq
  have hlo : (v.toNat ^^^ 0x80000000) % 2 ^ 31 = v.toNat % 2 ^ 31 := by rw [Nat.xor_mod_two_pow]; exact Nat.xor_zero _
  have hhi : (v.toNat ^^^ 0x80000000) / 2 ^ 31 = v.toNat / 2 ^ 31 ^^^ 1 := Nat.xor_div_two_pow
  have hv := v.isLt
  have hxor : v.toNat / 2 ^ 31 ^^^ 1 = 1 - v.toNat / 2 ^ 31 := by
    obtain h | h : v.toNat / 2 ^ 31 = 0 ∨ v.toNat / 2 ^ 31 = 1 := by omega
    · rw [h, Nat.zero_xor]
    · rw [h, Nat.xor_self]
  rw [BitVec.toNat_xor, BitVec.toNat_add]
  change v.toNat ^^^ 0x80000000 = (v.toNat + 0x80000000) % 2 ^ 32
  omega

/-- FCMP compares ranks, and finds a NaN unordered (R69). -/
theorem fcmpVal_eq (cc : FCond) (v w : Word) : let un := nanW v || nanW w
    let r := fcmpVal cc (rd32 v) (rd32 w)
    (boolWord r.1, r.2) = match cc with
      | .eq => (if !un && rankW v = rankW w then 1 else 0, 0)
      | .ne => (if !un && rankW v = rankW w then 0 else 1, 0)
      | .lt => (if !un && rankW v < rankW w then 1 else 0, if un then 1 else 0)
      | .le => (if !un && rankW v ≤ rankW w then 1 else 0, if un then 1 else 0)
      | .gt => (if !un && rankW w < rankW v then 1 else 0, if un then 1 else 0)
      | .ge => (if !un && rankW w ≤ rankW v then 1 else 0, if un then 1 else 0)
      | .un => (if un then 1 else 0, 0)
      | .ord => (if un then 0 else 1, 0) := by
  intro un r
  have hnan : ((rd32 v).isNan || (rd32 w).isNan) = un := by rw [rd32_isNan, rd32_isNan]
  have hcmp (hun : un = false) : let c := (rd32 v).cmp (rd32 w)
      (c = 0 ↔ rankW v = rankW w) ∧ (c < 0 ↔ rankW v < rankW w) ∧ (c ≤ 0 ↔ rankW v ≤ rankW w) ∧ (0 < c ↔ rankW w < rankW v) ∧
        (0 ≤ c ↔ rankW w ≤ rankW v) := by
    obtain ⟨hv, hw⟩ := Bool.or_eq_false_iff.1 hun
    obtain ⟨hlt, heq⟩ := rd32_cmp hv hw
    omega
  cases hun : un with
  | true => cases cc <;> simp [r, fcmpVal, hnan, hun, boolWord, flagIf, fNV]
  | false =>
    obtain ⟨heq, hlt, hle, hgt, hge⟩ := hcmp hun
    cases cc <;> simp [r, fcmpVal, hnan, hun, boolWord, flagIf, heq, hlt, hle, hgt, hge]

/-- The value of an FP32 pattern, by its magnitude bits (R37). -/
theorem rd32_eq (v : Word) : rd32 v =
    if nanW v then .nan
    else if magW v = 0x7F800000 then .inf (negW v)
    else if magW v < 2 ^ 23 then .fin (negW v) (magW v) (-149)
    else .fin (negW v) (magW v % 2 ^ 23 + 2 ^ 23) (-149 + (magW v / 2 ^ 23 : Nat) - 1) := by
  have hmag : fp32.magOf v.toNat = magW v := rfl
  have hsub : magW v / 2 ^ 23 = 0 ↔ magW v < 2 ^ 23 := by omega
  rw [rd32, FFmt.read, fp32_isNan, fp32_isInf, fp32_signOf, hmag]
  simp only [show fp32.mb = 23 from rfl, show fp32.qmin = -149 from rfl, beq_iff_eq, hsub]
  split
  · rfl
  · split
    · rfl
    · split
      case isTrue h => rw [Nat.mod_eq_of_lt h]
      case isFalse h => rfl

/-- FCLASS tells the class of a pattern by its magnitude and its sign (R70). -/
theorem fclassVal_eq (v : Word) : fclassVal v =
    if nanW v then 0x100
    else if magW v = 0x7F800000 then (if negW v then 0x1 else 0x80)
    else if 0x00800000 ≤ magW v then (if negW v then 0x2 else 0x40)
    else if magW v = 0 then (if negW v then 0x8 else 0x10)
    else if negW v then 0x4 else 0x20 := by
  rw [fclassVal, rd32_eq]
  by_cases hn : nanW v
  · simp only [hn, if_true]
  by_cases hi : magW v = 0x7F800000
  · simp only [hn, hi, if_true]
    rfl
  rw [if_neg hn, if_neg hn, if_neg hi, if_neg hi]
  rcases lt_or_ge (magW v) (2 ^ 23) with hlt | hge
  · rw [if_pos hlt, if_neg (show ¬ 0x00800000 ≤ magW v from not_le.2 hlt)]
    simp only [beq_iff_eq, hlt, if_true]
  · have hm : ¬ magW v % 2 ^ 23 + 2 ^ 23 < 2 ^ 23 := by omega
    have h0 : magW v % 2 ^ 23 + 2 ^ 23 ≠ 0 := by omega
    rw [if_neg (not_lt.2 hge), if_pos (show 0x00800000 ≤ magW v from hge)]
    simp only [beq_iff_eq, hm, h0, if_false]

end Patterns

/-- Settles O3: minima and maxima by rank, signs by their bit, comparisons by rank, the class by magnitude; the words reject a field that must be 0. -/
theorem floatOrderSignClassResults : Obligations.FloatOrderSignClassResults := by
  refine ⟨rejectsB_of_lane2 .fabs (by decide) (fun w hs ho => by simp [twoWord, hs, ho]) (fun w ho => by simp only [decodeLane, ho]),
    rejectsB_of_lane2 .fneg (by decide) (fun w hs ho => by simp [twoWord, hs, ho]) (fun w ho => by simp only [decodeLane, ho]),
    rejectsB_of_lane2 .fclass (by decide) (fun w hs ho => by simp [twoWord, hs, ho]) (fun w ho => by simp only [decodeLane, ho]),
    rejectsC_of_laneS _ (by decide) (fun w hs ho => by simp [twoWord, hs, ho]) (fun w w2 ho => by simp only [decodeLane, ho]; rfl),
    fun d a b x => ?_⟩
  intro na nb B
  have hb : nb = LaneDst.regs d ++ read2 a b := List.append_assoc ..
  rw [hb]
  refine ⟨⟨_, ?_, fmin_patterns⟩, ⟨_, ?_, fmax_patterns⟩, ?_, ?_, fun cc => ?_, ?_⟩
  · exact computesAlone_of_laneCompute (g := execFmin d a b) (fun _ => rfl) fun s => by rw [execFmin]
  · exact computesAlone_of_laneCompute (g := execFmax d a b) (fun _ => rfl) fun s => by rw [execFmax]
  · simp only [← fabs_eq]
    exact computesAlone_of_laneCompute (g := execFabs d a) (fun _ => rfl) fun s => by rw [execFabs]
  · simp only [← fneg_eq]
    exact computesAlone_of_laneCompute (g := execFneg d a) (fun _ => rfl) fun s => by rw [execFneg]
  · exact computes_of_laneCompute_eq (g := execFcmp cc d a x b) (fun _ => rfl) (fun s => by rw [execFcmp]) fun s k v => fcmpVal_eq cc v _
  · simp only [← fclassVal_eq]
    exact computesAlone_of_laneCompute (g := execFclass d a) (fun _ => rfl) fun s => by rw [execFclass]

end Sys2Proof.Machine
end


section
/-! One rounding of a real number that is known to be near a computed one (R41): the bits a rounding looks at, the cells between the points
at which a rounding turns, and a number near none of them. -/

namespace Sys2Proof.Machine

open Sys2Proof.Says

/-! ### Low bits that only make a number inexact -/

theorem bitLen_eq {n j : Nat} (hlo : 2 ^ j ≤ n) (hhi : n < 2 ^ (j + 1)) : bitLen n = j + 1 := by
  have hn : n ≠ 0 := (Nat.two_pow_pos j |>.trans_le hlo).ne'
  rw [bitLen, if_neg (by simpa using hn), (Nat.log2_eq_iff hn).2 ⟨hlo, hhi⟩]

theorem bitLen_div {m k : Nat} (hm : m / 2 ^ k ≠ 0) : bitLen m = bitLen (m / 2 ^ k) + k := by
  obtain ⟨j, hj, hlo, hhi⟩ := bitLen_bounds hm
  rw [hj, Nat.add_right_comm]
  refine bitLen_eq ?_ ?_
  · rw [pow_add]
    exact (Nat.le_div_iff_mul_le (Nat.two_pow_pos k)).1 hlo
  · rw [Nat.add_right_comm, pow_add]
    exact (Nat.div_lt_iff_lt_mul (Nat.two_pow_pos k)).1 hhi

/-- The k lowest bits, below the half of what is cut off, count only as a rest. -/
theorem roundAt_coarsen {rm : Rm} {s : Bool} {m k : Nat} {e q : Int} {sticky : Bool} (hq : e + k < q) :
    roundAt rm s m e sticky q = roundAt rm s (m / 2 ^ k) (e + k) (sticky || decide (m % 2 ^ k ≠ 0)) q := by
  obtain ⟨j, hj⟩ : ∃ j : Nat, q = e + k + (j + 1 : Nat) := ⟨(q - (e + k)).toNat - 1, by omega⟩
  have hfine : (q - e).toNat = k + (j + 1) := by omega
  have hcoarse : (q - (e + k)).toNat = j + 1 := by omega
  have hmod (i : Nat) : m % 2 ^ (k + i) = m % 2 ^ k + 2 ^ k * (m / 2 ^ k % 2 ^ i) := by rw [pow_add, Nat.mod_mul]
  have hquot : m / 2 ^ (k + (j + 1)) = m / 2 ^ k / 2 ^ (j + 1) := by rw [pow_add, Nat.div_div_eq_div_mul]
  have hhalf : 2 ^ (k + j) ≤ m % 2 ^ (k + (j + 1)) ↔ 2 ^ j ≤ m / 2 ^ k % 2 ^ (j + 1) := by
    rw [pow_add, mul_comm, ← Nat.le_div_iff_mul_le (Nat.two_pow_pos k), pow_add (n := j + 1), Nat.mod_mul_right_div_self]
  have hrest : m % 2 ^ (k + (j + 1)) % 2 ^ (k + j) ≠ 0 ↔ m % 2 ^ k ≠ 0 ∨ m / 2 ^ k % 2 ^ (j + 1) % 2 ^ j ≠ 0 := by
    rw [Nat.mod_mod_of_dvd _ (Nat.pow_dvd_pow 2 (by omega)), Nat.mod_mod_of_dvd _ (Nat.pow_dvd_pow 2 (by omega)), hmod]
    have := Nat.two_pow_pos k
    rw [Ne, Nat.add_eq_zero_iff, Nat.mul_eq_zero, or_iff_right this.ne']
    tauto
  simp only [roundAt, if_neg (show ¬ q ≤ e by omega), if_neg (show ¬ q ≤ e + k by omega), hfine, hcoarse, hquot,
    show k + (j + 1) - 1 = k + j by omega, Nat.add_sub_cancel, hhalf, hrest, Bool.decide_or, Bool.or_assoc]

/-- So do the bits below the two that follow a format's own. -/
theorem FFmt.round_coarsen (F : FFmt) (rm : Rm) (s : Bool) (e : Int) (sticky : Bool) {m k : Nat} (hm : F.mb + 2 ≤ bitLen (m / 2 ^ k)) :
    F.round rm s m e sticky = F.round rm s (m / 2 ^ k) (e + k) (sticky || decide (m % 2 ^ k ≠ 0)) := by
  have hne : m / 2 ^ k ≠ 0 := fun h => by simp [h, bitLen] at hm
  have hm0 : m ≠ 0 := fun h => hne (by rw [h, Nat.zero_div])
  have hqu : F.quantum (m / 2 ^ k) (e + k) = F.quantum m e := by
    rw [FFmt.quantum, FFmt.quantum, bitLen_div hne]
    push_cast
    ring
  have hlt : e + k < F.quantum m e := by
    rw [← hqu, FFmt.quantum]
    omega
  rw [F.round_nonzero rm s e sticky hm0, F.round_nonzero rm s (e + k) _ hne, hqu, roundAt_coarsen hlt,
    roundAt_coarsen (hlt.trans_le (le_max_left _ F.qmin))]

/-! ### Cells -/

section Cells

variable {F : FFmt} {rm : Rm} {s : Bool} {x : ℝ} {m : Nat} {q : ℤ}

/-- A number strictly between neighbours of mb + 2 bits is rounded as the lower one with something beyond it. -/
theorem FFmt.Standard.roundsOnce_of_cell (hF : F.Standard) (hm : F.mb + 2 ≤ bitLen m) (hlo : m * (2 : ℝ) ^ q < x)
    (hhi : x < (m + 1) * (2 : ℝ) ^ q) : RoundsOnce F rm s x (F.round rm s m q true) := by
  have hpos : (0 : ℝ) < 2 ^ q := by positivity
  have hd0 : 0 < x / 2 ^ q - m := sub_pos.2 ((lt_div_iff₀ hpos).2 hlo)
  have hd1 : x / 2 ^ q - m < 1 := by linarith [(div_lt_iff₀ hpos).2 hhi]
  obtain ⟨b, d, hb, hx, h0, h1, hbd⟩ : ∃ (b : Nat) (d : ℝ), b < 2 ∧ 2 * (x / 2 ^ q - m) = b + d ∧ 0 ≤ d ∧ d < 1 ∧ (b ≠ 0 ∨ 0 < d) := by
    rcases lt_or_ge (x / 2 ^ q - m) (1 / 2) with h | h
    · exact ⟨0, 2 * (x / 2 ^ q - m), by decide, by simp, by linarith, by linarith, .inr (by linarith)⟩
    · exact ⟨1, 2 * (x / 2 ^ q - m) - 1, by decide, by push_cast; ring, by linarith, by linarith, .inl one_ne_zero⟩
  have hdiv : (2 * m + b) / 2 ^ 1 = m := by omega
  have hbits : F.mb + 3 ≤ bitLen (2 * m + b) := by
    rw [bitLen_div (k := 1) (by rw [hdiv]; rintro rfl; simp [bitLen] at hm), hdiv]
    omega
  have hval : (((2 * m + b : Nat) : ℝ) + d) * 2 ^ (q - 1) = x := by
    rw [zpow_sub_one₀ two_ne_zero]
    have : ((2 * m + b : Nat) : ℝ) + d = 2 * (x / 2 ^ q) := by
      push_cast
      linarith
    rw [this]
    field_simp
  have hround := hF.round_roundsOnce (sticky := decide (0 < d)) rm s (q - 1) h0 h1 decide_eq_true_iff fun _ => hbits
  rw [hval, F.round_coarsen rm s (q - 1) _ (k := 1) (by rwa [hdiv]), hdiv] at hround
  have hst : (decide (0 < d) || decide ((2 * m + b) % 2 ^ 1 ≠ 0)) = true := by
    rw [Bool.or_eq_true, decide_eq_true_iff, decide_eq_true_iff]
    exact hbd.symm.imp_right fun h => by omega
  rwa [hst, Nat.cast_one, sub_add_cancel] at hround

end Cells

/-! ### Numbers near a computed one -/

/-- A number is far, relative to ε, from every point of 25 bits: those are the points at which a rounding to FP32 turns. -/
def FarFromTurns (ε y : ℝ) : Prop := ∀ n q : ℤ, n.natAbs < 2 ^ 25 → ε < |y - n * (2 : ℝ) ^ q|

theorem FarFromTurns.le {ε y : ℝ} (h : FarFromTurns ε y) {n : Nat} (hn : n ≤ 2 ^ 25) (q : ℤ) : ε < |y - n * (2 : ℝ) ^ q| := by
  rcases hn.lt_or_eq with hlt | rfl
  · exact_mod_cast h n q hlt
  · have := h 1 (q + 25) (by decide)
    rw [zpow_add₀ two_ne_zero] at this
    push_cast at this ⊢
    convert this using 3
    norm_num
    ring

theorem FarFromTurns.neg {ε y : ℝ} (h : FarFromTurns ε y) : FarFromTurns ε (-y) := by
  intro n q hn
  have := h (-n) q (by rwa [Int.natAbs_neg])
  rw [← abs_neg]
  push_cast at this ⊢
  convert this using 2
  ring

theorem FarFromTurns.abs {ε y : ℝ} (h : FarFromTurns ε y) : FarFromTurns ε |y| := by
  rcases abs_choice y with hy | hy <;> rw [hy]
  exacts [h, h.neg]

/-- A number that a computed one is near, and that no turning point is near, is rounded as the computed one. -/
theorem roundsOnce_of_near {rm : Rm} {s : Bool} {x ε : ℝ} {m : Nat} {e : ℤ} (hm : 2 ^ 24 ≤ m) (hnear : |x - m * (2 : ℝ) ^ e| ≤ ε)
    (hfar : FarFromTurns ε x) : RoundsOnce fp32 rm s x (fp32.round rm s m e true) := by
  obtain ⟨k, hk⟩ : ∃ k, bitLen m = 25 + k := ⟨bitLen m - 25, by have := le_bitLen hm; omega⟩
  obtain ⟨j, hj, hlo, hhi⟩ := bitLen_bounds (m := m) (by omega)
  obtain rfl : j = 24 + k := by omega
  have hc0 : 2 ^ 24 ≤ m / 2 ^ k := (Nat.le_div_iff_mul_le (Nat.two_pow_pos k)).2 (by rwa [← pow_add])
  have hc1 : m / 2 ^ k < 2 ^ 25 := (Nat.div_lt_iff_lt_mul (Nat.two_pow_pos k)).2 (by rwa [← pow_add, show 25 + k = 24 + k + 1 by omega])
  have hround := fp32.round_coarsen rm s e true (m := m) (k := k) (le_bitLen hc0)
  rw [Bool.true_or] at hround
  have hbelow : ((m / 2 ^ k : Nat) : ℝ) * 2 ^ (e + k) ≤ m * 2 ^ e := by
    rw [zpow_add₀ two_ne_zero, zpow_natCast, mul_comm ((2 : ℝ) ^ e), ← mul_assoc]
    exact mul_le_mul_of_nonneg_right (by exact_mod_cast Nat.div_mul_le_self m (2 ^ k)) (by positivity)
  have habove : m * (2 : ℝ) ^ e ≤ ((m / 2 ^ k : Nat) + 1) * 2 ^ (e + k) := by
    rw [zpow_add₀ two_ne_zero, zpow_natCast, mul_comm ((2 : ℝ) ^ e), ← mul_assoc]
    exact mul_le_mul_of_nonneg_right (by exact_mod_cast (Nat.lt_div_mul_add (Nat.two_pow_pos k)).le.trans_eq (by ring)) (by positivity)
  obtain ⟨hnl, hnr⟩ := abs_le.1 hnear
  rw [hround]
  refine fp32_standard.roundsOnce_of_cell (le_bitLen hc0) ?_ ?_
  · by_contra hle
    have hturn := hfar.le hc1.le (e + k)
    rw [abs_of_nonpos (by linarith)] at hturn
    linarith
  · by_contra hge
    have hturn := hfar.le (n := m / 2 ^ k + 1) hc1 (e + k)
    push_cast at hturn hge
    rw [abs_of_nonneg (by linarith)] at hturn
    linarith

end Sys2Proof.Machine
end

section
/-! Series summed in fixed point (R71): what each division may lose, and what the sum of all terms is then near to. -/

namespace Sys2Proof.Machine

open Sys2Proof.Says

/-! ### Divisions and sums -/

/-- 1 in fixed point, as a real number. -/
noncomputable def fxUnit : ℝ := 2 ^ 256

theorem fxOne_cast : ((fxOne : Nat) : ℝ) = fxUnit := by
  rw [fxOne, fxP, fxUnit, Nat.cast_pow, Nat.cast_ofNat]

theorem fxUnit_pos : 0 < fxUnit := by unfold fxUnit; positivity

/-- A division rounded down loses less than one. -/
theorem abs_intDiv_sub_le (a : Int) {b : Nat} (hb : 0 < b) : |((a / (b : Int) : Int) : ℝ) - a / b| ≤ 1 := by
  have hpos : (0 : ℝ) < b := by exact_mod_cast hb
  have hsplit : ((b : ℝ)) * (a / (b : Int) : Int) + (a % (b : Int) : Int) = a := by exact_mod_cast Int.mul_ediv_add_emod a b
  have hlo : (0 : ℝ) ≤ (a % (b : Int) : Int) := by exact_mod_cast Int.emod_nonneg a (by omega)
  have hhi : ((a % (b : Int) : Int) : ℝ) < b := by exact_mod_cast Int.emod_lt_of_pos a (by omega)
  have hq : ((a / (b : Int) : Int) : ℝ) - a / b = -((a % (b : Int) : Int) / b) := by
    rw [← hsplit]
    field_simp
    ring
  rw [hq, abs_neg, abs_of_nonneg (div_nonneg hlo hpos.le), div_le_one hpos]
  exact hhi.le

theorem abs_natDiv_sub_le (a : Nat) {b : Nat} (hb : 0 < b) : |((a / b : Nat) : ℝ) - a / b| ≤ 1 := by
  have := abs_intDiv_sub_le a hb
  push_cast at this
  exact_mod_cast this

/-- A product in fixed point is that of the factors, but for what is rounded down. -/
theorem abs_fxMul_sub_le (a b : Nat) : |(fxMul a b : ℝ) - a * b / fxUnit| ≤ 1 := by
  have := abs_natDiv_sub_le (a * b) (b := fxOne) (by decide)
  rwa [fxOne_cast, Nat.cast_mul] at this

/-- A sum of n terms, each made from the one before and each near to that of a real series, is near to the sum of that series' terms. -/
theorem abs_sum_sub_le {τ : Type} {S : ℕ → ℕ → τ → ℝ} {next : ℕ → τ → τ} {term : ℕ → τ → ℝ} (h0 : ∀ j t, S 0 j t = 0)
    (h1 : ∀ n j t, S (n + 1) j t = term j t + S n (j + 1) (next j t)) {near : ℕ → τ → Prop} {a : ℕ → ℝ} {δ : ℝ}
    (hnext : ∀ j t, near j t → near (j + 1) (next j t)) (hterm : ∀ j t, near j t → |term j t - a j| ≤ δ) (n j : ℕ) (t : τ) (ht : near j t) :
    |S n j t - ∑ i ∈ Finset.range n, a (j + i)| ≤ δ * n := by
  induction n generalizing j t with
  | zero => simp [h0]
  | succ n ih =>
    have hrest := ih (j + 1) (next j t) (hnext j t ht)
    have hhead := hterm j t ht
    rw [h1, Finset.sum_range_succ', show (∑ i ∈ Finset.range n, a (j + (i + 1))) = ∑ i ∈ Finset.range n, a (j + 1 + i) from
      Finset.sum_congr rfl fun i _ => by rw [Nat.add_right_comm, Nat.add_assoc]]
    calc _ = |(term j t - a j) + (S n (j + 1) (next j t) - ∑ i ∈ Finset.range n, a (j + 1 + i))| := by congr 1; ring_nf
      _ ≤ δ + δ * n := (abs_add_le _ _).trans (add_le_add hhead hrest)
      _ = δ * (n + 1 : ℕ) := by push_cast; ring

/-- Where each term is at most three quarters of the one before, the terms left out come to at most four times the first of them. -/
theorem abs_tail_le {a : ℕ → ℝ} {S : ℝ} (h : HasSum a S) (n : ℕ) (hr : ∀ j, |a (j + 1)| ≤ 3 / 4 * |a j|) :
    |∑ i ∈ Finset.range n, a i - S| ≤ 4 * |a n| := by
  have hgeo : HasSum (fun j => |a n| * (3 / 4 : ℝ) ^ j) (|a n| * (1 - 3 / 4)⁻¹) :=
    (hasSum_geometric_of_lt_one (by norm_num) (by norm_num)).mul_left _
  have hbound (j : ℕ) : |a (j + n)| ≤ |a n| * (3 / 4) ^ j := by
    induction j with
    | zero => simp
    | succ j ih =>
      calc |a (j + 1 + n)| = |a (j + n + 1)| := by rw [Nat.add_right_comm]
        _ ≤ 3 / 4 * (|a n| * (3 / 4) ^ j) := (hr _).trans (mul_le_mul_of_nonneg_left ih (by norm_num))
        _ = |a n| * (3 / 4) ^ (j + 1) := by ring
  have htail := ((hasSum_nat_add_iff' n).2 h).norm_le_of_bounded hgeo hbound
  rw [abs_sub_comm]
  refine htail.trans_eq ?_
  norm_num
  ring

/-- What is near to a term is, multiplied, near to the next. -/
theorem abs_mul_sub_le {t a c u ε δ : ℝ} (h : |t - a| ≤ ε) (hu : |u - t * c| ≤ δ) (hc : |c| ≤ 3 / 4) (hε : ε * (3 / 4) + δ ≤ ε) :
    |u - a * c| ≤ ε := by
  have hmul : |(t - a) * c| ≤ ε * (3 / 4) := by
    rw [abs_mul]
    exact mul_le_mul h hc (abs_nonneg _) ((abs_nonneg _).trans h)
  calc |u - a * c| = |(u - t * c) + (t - a) * c| := by congr 1; ring
    _ ≤ δ + ε * (3 / 4) := (abs_add_le _ _).trans (add_le_add hu hmul)
    _ ≤ ε := by linarith

/-! ### The exponential series -/

theorem expSeries_term (x t : Nat) (j : ℕ) : |((fxMul t x / (j + 1) : Nat) : ℝ) - t * (x / fxUnit / (j + 1))| ≤ 2 := by
  have h1 := abs_natDiv_sub_le (fxMul t x) (b := j + 1) (Nat.succ_pos j)
  have h2 := abs_fxMul_sub_le t x
  have hj : (1 : ℝ) ≤ ((j + 1 : ℕ) : ℝ) := by exact_mod_cast Nat.succ_pos j
  have h3 : |(fxMul t x : ℝ) / (j + 1 : ℕ) - t * x / fxUnit / (j + 1 : ℕ)| ≤ 1 := by
    rw [← sub_div, abs_div, abs_of_pos (zero_lt_one.trans_le hj)]
    exact (div_le_one (zero_lt_one.trans_le hj)).2 (h2.trans hj)
  calc _ = |(((fxMul t x / (j + 1) : Nat) : ℝ) - fxMul t x / (j + 1 : ℕ)) + ((fxMul t x : ℝ) / (j + 1 : ℕ) - t * x / fxUnit / (j + 1 : ℕ))| := by
        congr 1
        push_cast
        ring
    _ ≤ 1 + 1 := (abs_add_le _ _).trans (add_le_add h1 h3)
    _ = 2 := by norm_num

/-- The terms of the exponential series, in units of the last place. -/
noncomputable def expTerm (X : ℝ) (j : ℕ) : ℝ := fxUnit * (X ^ j / j.factorial)

theorem expTerm_succ (X : ℝ) (j : ℕ) : expTerm X (j + 1) = expTerm X j * (X / (j + 1)) := by
  rw [expTerm, expTerm, pow_succ, Nat.factorial_succ]
  push_cast
  field_simp

theorem hasSum_expTerm (X : ℝ) : HasSum (expTerm X) (fxUnit * Real.exp X) := by
  rw [Real.exp_eq_exp_ℝ]
  exact (NormedSpace.expSeries_div_hasSum_exp X).mul_left fxUnit

theorem expTerm_last {X : ℝ} (h0 : 0 ≤ X) (h1 : X ≤ 1) : 4 * |expTerm X 64| ≤ 1 := by
  have hpow : X ^ 64 / (64).factorial ≤ 1 / (64).factorial := div_le_div_of_nonneg_right (pow_le_one₀ h0 h1) (Nat.cast_nonneg _)
  rw [expTerm, abs_of_nonneg (mul_nonneg fxUnit_pos.le (div_nonneg (pow_nonneg h0 64) (Nat.cast_nonneg _)))]
  calc _ ≤ 4 * (fxUnit * (1 / (64).factorial)) :=
        mul_le_mul_of_nonneg_left (mul_le_mul_of_nonneg_left hpow fxUnit_pos.le) (by norm_num)
    _ ≤ 1 := by norm_num [fxUnit, Nat.factorial]

/-- Up to 3/4 the exponential series gives e^x to within 2^10 units of the last place. -/
theorem expSeries_near {x : Nat} (hx : x / fxUnit ≤ 3 / 4) : |(expSeries x 64 0 fxOne : ℝ) - fxUnit * Real.exp (x / fxUnit)| ≤ 2 ^ 10 := by
  have hX : 0 ≤ x / fxUnit := div_nonneg (Nat.cast_nonneg x) fxUnit_pos.le
  have hterm (j t : ℕ) := expSeries_term x t j
  generalize x / fxUnit = X at *
  have hc (j : ℕ) : |X / (j + 1)| ≤ 3 / 4 := by
    have : (1 : ℝ) ≤ j + 1 := by linarith [Nat.cast_nonneg (α := ℝ) j]
    rw [abs_of_nonneg (by positivity)]
    exact (div_le_self hX this).trans hx
  have hsum := abs_sum_sub_le (S := fun n j t => (expSeries x n j t : ℝ)) (next := fun j t => fxMul t x / (j + 1)) (term := fun _ t => (t : ℝ))
    (near := fun j t => |(t : ℝ) - expTerm X j| ≤ 8) (a := expTerm X) (δ := 8) (fun _ _ => by simp [expSeries])
    (fun n j t => by simp [expSeries]) (fun j t h => by rw [expTerm_succ]; exact abs_mul_sub_le h (hterm j t) (hc j) (by norm_num))
    (fun _ _ h => h) 64 0 fxOne (by simp [expTerm, fxOne_cast])
  have htail := abs_tail_le (hasSum_expTerm X) 64 fun j => by
    rw [expTerm_succ, abs_mul, mul_comm]
    exact mul_le_mul_of_nonneg_right (hc j) (abs_nonneg _)
  simp only [Nat.zero_add] at hsum
  calc _ ≤ _ := abs_sub_le _ (∑ i ∈ Finset.range 64, expTerm X i) _
    _ ≤ 8 * (64 : ℕ) + 1 := add_le_add hsum (htail.trans (expTerm_last hX (hx.trans (by norm_num))))
    _ ≤ 2 ^ 10 := by norm_num

/-! ### The series of sine and cosine -/

/-- Every second term of the exponential series from the k-th on, with signs that alternate. -/
noncomputable def altTerm (X : ℝ) (k j : ℕ) : ℝ := fxUnit * ((-1) ^ j * X ^ (k + 2 * j) / (k + 2 * j).factorial)

theorem altTerm_succ (X : ℝ) (k j : ℕ) :
    altTerm X k (j + 1) = altTerm X k j * -(X ^ 2 / (((k + 2 * j + 1) * (k + 2 * j + 2) : ℕ) : ℝ)) := by
  rw [altTerm, altTerm, show k + 2 * (j + 1) = k + 2 * j + 1 + 1 by ring, Nat.factorial_succ, Nat.factorial_succ]
  push_cast
  field_simp
  ring

theorem hasSum_altTerm_cos (X : ℝ) : HasSum (altTerm X 0) (fxUnit * Real.cos X) := by
  show HasSum (fun j => altTerm X 0 j) _
  simpa only [altTerm, Nat.zero_add] using (Real.hasSum_cos X).mul_left fxUnit

theorem hasSum_altTerm_sin (X : ℝ) : HasSum (altTerm X 1) (fxUnit * Real.sin X) := by
  show HasSum (fun j => altTerm X 1 j) _
  simpa only [altTerm, Nat.add_comm 1] using (Real.hasSum_sin X).mul_left fxUnit

theorem abs_altTerm (X : ℝ) (k j : ℕ) : |altTerm X k j| = fxUnit * (|X| ^ (k + 2 * j) / (k + 2 * j).factorial) := by
  rw [altTerm, abs_mul, abs_div, abs_mul, abs_pow, abs_pow, abs_neg, abs_one, one_pow, one_mul, abs_of_pos fxUnit_pos, Nat.abs_cast]

/-- Each term of the alternating series that the model makes from the one before (R71). -/
def altNext (x k : Nat) (t : Int) : Int := -(t * (fxMul x x : Nat) / (fxOne : Nat) / (((k + 1) * (k + 2) : Nat) : Int))

theorem altNext_near (x k : Nat) {t : Int} (ht : |(t : ℝ)| ≤ 2 * fxUnit) :
    |(altNext x k t : ℝ) - t * -((x / fxUnit) ^ 2 / (((k + 1) * (k + 2) : ℕ) : ℝ))| ≤ 4 := by
  have hP := fxUnit_pos
  have hc : 0 < (k + 1) * (k + 2) := by positivity
  rw [altNext]
  generalize (k + 1) * (k + 2) = c at *
  have hc1 : (1 : ℝ) ≤ c := by exact_mod_cast hc
  have hsq : |(t : ℝ) * (fxMul x x : Nat) / fxUnit - t * (x / fxUnit) ^ 2| ≤ 2 := by
    have hsplit : (t : ℝ) * (fxMul x x : Nat) / fxUnit - t * (x / fxUnit) ^ 2 = t / fxUnit * ((fxMul x x : Nat) - x * x / fxUnit) := by
      field_simp
    have ht2 : |(t : ℝ) / fxUnit| ≤ 2 := by rwa [abs_div, abs_of_pos hP, div_le_iff₀ hP]
    rw [hsplit, abs_mul]
    exact (mul_le_mul ht2 (abs_fxMul_sub_le x x) (abs_nonneg _) (by norm_num)).trans_eq (mul_one 2)
  have h1 := abs_intDiv_sub_le (t * (fxMul x x : Nat)) (b := fxOne) (by decide)
  rw [fxOne_cast, Int.cast_mul, Int.cast_natCast] at h1
  generalize t * ((fxMul x x : Nat) : Int) / ((fxOne : Nat) : Int) = u at *
  have h2 := abs_intDiv_sub_le u hc
  have h3 : |(u : ℝ) - t * (x / fxUnit) ^ 2| ≤ 3 := (abs_sub_le _ _ _).trans ((add_le_add h1 hsq).trans_eq (by norm_num))
  have h4 : |(u : ℝ) / c - t * (x / fxUnit) ^ 2 / c| ≤ 3 := by
    rw [← sub_div, abs_div, abs_of_pos (zero_lt_one.trans_le hc1)]
    exact (div_le_self (abs_nonneg _) hc1).trans h3
  have hneg : ((-(u / (c : Int)) : Int) : ℝ) - t * -((x / fxUnit) ^ 2 / c) = -((u / (c : Int) : Int) - t * (x / fxUnit) ^ 2 / c) := by
    rw [Int.cast_neg]
    ring
  rw [hneg, abs_neg]
  exact (abs_sub_le _ _ _).trans ((add_le_add h2 h4).trans_eq (by norm_num))

theorem altTerm_last {X : ℝ} (h0 : 0 ≤ X) (h1 : X ≤ 8 / 5) {k : ℕ} (hk : k < 2) : 4 * |altTerm X k 40| ≤ 1 := by
  have hpow : X ^ (k + 80) / (k + 80).factorial ≤ 2 ^ 81 / (80).factorial := by
    have hX : X ^ (k + 80) ≤ 2 ^ (k + 80) := pow_le_pow_left₀ h0 (h1.trans (by norm_num)) _
    exact div_le_div₀ (by positivity) (hX.trans (pow_le_pow_right₀ one_le_two (by omega))) (by positivity)
      (by exact_mod_cast Nat.factorial_le (by omega))
  rw [abs_altTerm, abs_of_nonneg h0]
  calc _ ≤ 4 * (fxUnit * (2 ^ 81 / (80).factorial)) := mul_le_mul_of_nonneg_left (mul_le_mul_of_nonneg_left hpow fxUnit_pos.le) (by norm_num)
    _ ≤ 1 := by norm_num [fxUnit, Nat.factorial]

/-- The alternating series gives the sum of its terms to within 2^10 units of the last place. -/
theorem altSeries_near {x k : Nat} {t : Int} {S : ℝ} (hx : x / fxUnit ≤ 8 / 5) (hk : k < 2)
    (hr : (x / fxUnit) ^ 2 ≤ 3 / 4 * ((k + 1) * (k + 2) : ℕ)) (ht : t = altTerm (x / fxUnit) k 0) (hS : HasSum (altTerm (x / fxUnit) k) S) :
    |(altSeries (fxMul x x) 40 k t : ℝ) - S| ≤ 2 ^ 10 := by
  have hX : 0 ≤ x / fxUnit := div_nonneg (Nat.cast_nonneg x) fxUnit_pos.le
  have hterm (k : ℕ) {t : Int} (ht : |(t : ℝ)| ≤ 2 * fxUnit) := altNext_near x k ht
  generalize x / fxUnit = X at *
  have hc (j : ℕ) : |-(X ^ 2 / (((k + 2 * j + 1) * (k + 2 * j + 2) : ℕ) : ℝ))| ≤ 3 / 4 := by
    rw [abs_neg, abs_of_nonneg (by positivity), div_le_iff₀ (by positivity)]
    exact hr.trans (mul_le_mul_of_nonneg_left (by exact_mod_cast Nat.mul_le_mul (by omega) (by omega)) (by norm_num))
  have hstep (j : ℕ) : |altTerm X k (j + 1)| ≤ 3 / 4 * |altTerm X k j| := by
    rw [altTerm_succ, abs_mul, mul_comm]
    exact mul_le_mul_of_nonneg_right (hc j) (abs_nonneg _)
  have hsize (j : ℕ) : |altTerm X k j| ≤ 8 / 5 * fxUnit := by
    induction j with
    | zero =>
      have hfirst : |X| ^ k / k.factorial ≤ 8 / 5 := by
        rw [abs_of_nonneg hX]
        interval_cases k <;> norm_num [hx]
      rw [abs_altTerm, mul_comm]
      exact mul_le_mul_of_nonneg_right hfirst fxUnit_pos.le
    | succ j ih => exact (hstep j).trans (by linarith [abs_nonneg (altTerm X k j)])
  have hnear (j : ℕ) {t : Int} (h : |(t : ℝ) - altTerm X k j| ≤ 16) : |(t : ℝ)| ≤ 2 * fxUnit := by
    have hbig : (40 : ℝ) ≤ fxUnit := by norm_num [fxUnit]
    have := (abs_add_le ((t : ℝ) - altTerm X k j) (altTerm X k j)).trans (add_le_add h (hsize j))
    rw [sub_add_cancel] at this
    linarith
  have hsum := abs_sum_sub_le (S := fun n j t => (altSeries (fxMul x x) n (k + 2 * j) t : ℝ)) (next := fun j t => altNext x (k + 2 * j) t)
    (term := fun _ t => (t : ℝ)) (near := fun j t => |(t : ℝ) - altTerm X k j| ≤ 16) (a := altTerm X k) (δ := 16)
    (fun _ _ => by simp [altSeries]) (fun n j t => by simp [altSeries, altNext, mul_add, add_assoc]) (fun j t h => by
      rw [altTerm_succ]
      exact abs_mul_sub_le h (hterm _ (hnear j h)) (hc j) (by norm_num))
    (fun _ _ h => h) 40 0 t (by simp [ht])
  have htail := abs_tail_le hS 40 hstep
  simp only [Nat.zero_add, Nat.mul_zero, Nat.add_zero] at hsum
  calc _ ≤ _ := abs_sub_le _ (∑ i ∈ Finset.range 40, altTerm X k i) _
    _ ≤ 16 * (40 : ℕ) + 1 := add_le_add hsum (htail.trans (altTerm_last hX hx hk))
    _ ≤ 2 ^ 10 := by norm_num

end Sys2Proof.Machine
end

section
/-! The constants and the functions of FTRN in fixed point, each near to its exact value (R71). -/

namespace Sys2Proof.Machine

open Sys2Proof.Says

/-! ### ln 2 -/

theorem div_fxUnit_le {x : Nat} {c : ℝ} (h : x ≤ c * fxUnit) : x / fxUnit ≤ c := (div_le_iff₀ fxUnit_pos).2 h

theorem lt_log_two_of_series {x : Nat} (hx : x / fxUnit ≤ 3 / 4) (h : expSeries x 64 0 fxOne + 2 ^ 10 < 2 * fxOne) :
    x / fxUnit < Real.log 2 := by
  have hnear := abs_le.1 (expSeries_near hx)
  have hlt : (expSeries x 64 0 fxOne : ℝ) + 2 ^ 10 < 2 * fxUnit := by
    rw [← fxOne_cast]
    exact_mod_cast h
  rw [Real.lt_log_iff_exp_lt two_pos]
  exact lt_of_mul_lt_mul_left (by linarith) fxUnit_pos.le

theorem log_two_lt_of_series {x : Nat} (hx : x / fxUnit ≤ 3 / 4) (h : 2 * fxOne + 2 ^ 10 < expSeries x 64 0 fxOne) :
    Real.log 2 < x / fxUnit := by
  have hnear := abs_le.1 (expSeries_near hx)
  have hlt : 2 * fxUnit + 2 ^ 10 < (expSeries x 64 0 fxOne : ℝ) := by
    rw [← fxOne_cast]
    exact_mod_cast h
  rw [Real.log_lt_iff_lt_exp two_pos]
  exact lt_of_mul_lt_mul_left (by linarith) fxUnit_pos.le

/-- The model's ln 2: e to a little less lies below 2, and e to a little more above. -/
theorem fxLn2_near : |(fxLn2 : ℝ) - fxUnit * Real.log 2| ≤ 2 ^ 12 := by
  have hlo := lt_log_two_of_series (x := fxLn2 - 2 ^ 12) (div_fxUnit_le (by norm_num [fxLn2, fxUnit])) (by decide)
  have hhi := log_two_lt_of_series (x := fxLn2 + 2 ^ 12) (div_fxUnit_le (by norm_num [fxLn2, fxUnit])) (by decide)
  rw [div_lt_iff₀ fxUnit_pos, Nat.cast_sub (by decide)] at hlo
  rw [lt_div_iff₀ fxUnit_pos] at hhi
  push_cast at hlo hhi
  exact abs_le.2 ⟨by linarith, by linarith⟩

/-! ### Sine, cosine and pi -/

/-- The sine series (R71). -/
theorem sinSeries_near {x : Nat} (hx : x / fxUnit ≤ 8 / 5) :
    |(altSeries (fxMul x x) 40 1 x : ℝ) - fxUnit * Real.sin (x / fxUnit)| ≤ 2 ^ 10 := by
  have hX : 0 ≤ x / fxUnit := div_nonneg (Nat.cast_nonneg x) fxUnit_pos.le
  refine altSeries_near hx (by decide) ?_ ?_ (hasSum_altTerm_sin _)
  · calc (x / fxUnit) ^ 2 ≤ (8 / 5) ^ 2 := pow_le_pow_left₀ hX hx 2
      _ ≤ _ := by norm_num
  · have := fxUnit_pos
    simp [altTerm]
    field_simp

/-- The cosine series (R71). -/
theorem cosSeries_near {x : Nat} (hx : x / fxUnit ≤ 4 / 5) :
    |(altSeries (fxMul x x) 40 0 fxOne : ℝ) - fxUnit * Real.cos (x / fxUnit)| ≤ 2 ^ 10 := by
  have hX : 0 ≤ x / fxUnit := div_nonneg (Nat.cast_nonneg x) fxUnit_pos.le
  refine altSeries_near (hx.trans (by norm_num)) (by decide) ?_ ?_ (hasSum_altTerm_cos _)
  · calc (x / fxUnit) ^ 2 ≤ (4 / 5) ^ 2 := pow_le_pow_left₀ hX hx 2
      _ ≤ _ := by norm_num
  · simp [altTerm, fxOne_cast]

theorem lt_pi_div_six_of_series {x : Nat} (hx : x / fxUnit ≤ 1) (h : 2 * altSeries (fxMul x x) 40 1 x + 2 ^ 11 < fxOne) :
    x / fxUnit < Real.pi / 6 := by
  have hpi := Real.pi_gt_three
  have hnear := abs_le.1 (sinSeries_near (hx.trans (by norm_num)))
  have hlt : 2 * (altSeries (fxMul x x) 40 1 x : ℝ) + 2 ^ 11 < fxUnit := by
    rw [← fxOne_cast]
    exact_mod_cast h
  by_contra hge
  have hsin := Real.sin_le_sin_of_le_of_le_pi_div_two (by linarith) (by linarith) (not_lt.1 hge)
  rw [Real.sin_pi_div_six] at hsin
  have := mul_le_mul_of_nonneg_left hsin fxUnit_pos.le
  linarith

theorem pi_div_six_lt_of_series {x : Nat} (hx : x / fxUnit ≤ 1) (h : (fxOne : Int) + 2 ^ 11 < 2 * altSeries (fxMul x x) 40 1 x) :
    Real.pi / 6 < x / fxUnit := by
  have hpi := Real.pi_gt_three
  have hnn : 0 ≤ x / fxUnit := div_nonneg (Nat.cast_nonneg x) fxUnit_pos.le
  have hnear := abs_le.1 (sinSeries_near (hx.trans (by norm_num)))
  have hlt : fxUnit + 2 ^ 11 < 2 * (altSeries (fxMul x x) 40 1 x : ℝ) := by
    rw [← fxOne_cast]
    exact_mod_cast h
  by_contra hge
  have hsin := Real.sin_le_sin_of_le_of_le_pi_div_two (by linarith) (by linarith) (not_lt.1 hge)
  rw [Real.sin_pi_div_six] at hsin
  have := mul_le_mul_of_nonneg_left hsin fxUnit_pos.le
  linarith

/-- The model's pi: the sine of a little less than a sixth of it lies below 1/2, and of a little more above. -/
theorem fxPi_near : |(fxPi : ℝ) - fxUnit * Real.pi| ≤ 2 ^ 15 := by
  have hlo := lt_pi_div_six_of_series (x := fxPi / 6 - 2 ^ 12) (div_fxUnit_le (by norm_num [fxPi, fxUnit])) (by decide)
  have hhi := pi_div_six_lt_of_series (x := fxPi / 6 + 2 ^ 12) (div_fxUnit_le (by norm_num [fxPi, fxUnit])) (by decide)
  have hsixth := abs_le.1 (abs_natDiv_sub_le fxPi (b := 6) (by decide))
  rw [div_lt_iff₀ fxUnit_pos, Nat.cast_sub (by decide)] at hlo
  rw [lt_div_iff₀ fxUnit_pos] at hhi
  push_cast at hlo hhi hsixth
  exact abs_le.2 ⟨by linarith, by linarith⟩

/-! ### What multiplication by a constant gives -/

/-- A fraction times what is near to c is near to the fraction times c. -/
theorem fxMul_near {r C : Nat} {c δ : ℝ} (hr : (r : ℝ) / fxUnit ≤ 1) (hC : |(C : ℝ) - fxUnit * c| ≤ δ) :
    |(fxMul r C : ℝ) - r * c| ≤ 1 + δ := by
  have hP := fxUnit_pos
  have hmul : |(r : ℝ) * C / fxUnit - r * c| ≤ δ := by
    have hsplit : (r : ℝ) * C / fxUnit - r * c = r / fxUnit * (C - fxUnit * c) := by field_simp
    rw [hsplit, abs_mul, abs_of_nonneg (div_nonneg (Nat.cast_nonneg r) hP.le)]
    exact (mul_le_mul hr hC (abs_nonneg _) zero_le_one).trans_eq (one_mul δ)
  exact (abs_sub_le _ _ _).trans (add_le_add (abs_fxMul_sub_le r C) hmul)

theorem fraction_le_one {r : Nat} (hr : r ≤ fxOne) : (r : ℝ) / fxUnit ≤ 1 := by
  rw [div_le_one fxUnit_pos, ← fxOne_cast]
  exact_mod_cast hr

theorem fxMul_div_near {r C : Nat} {c δ : ℝ} (hr : r ≤ fxOne) (hC : |(C : ℝ) - fxUnit * c| ≤ δ) :
    |(fxMul r C : ℝ) / fxUnit - c * (r / fxUnit)| ≤ (1 + δ) / fxUnit := by
  rw [← mul_div_assoc, ← sub_div, abs_div, abs_of_pos fxUnit_pos, mul_comm c]
  exact div_le_div_of_nonneg_right (fxMul_near (fraction_le_one hr) hC) fxUnit_pos.le

/-! ### 2^f -/

theorem abs_exp_sub_exp_le {a b : ℝ} (ha : a ≤ 1) (hb : b ≤ 1) : |Real.exp a - Real.exp b| ≤ 3 * |a - b| := by
  have hlt : Real.exp 1 < 3 := Real.exp_one_lt_d9.trans (by norm_num)
  have side {p q : ℝ} (hp : p ≤ 1) (hqp : q ≤ p) : Real.exp p - Real.exp q ≤ 3 * (p - q) := by
    have hq : Real.exp q = Real.exp p * Real.exp (q - p) := by rw [← Real.exp_add]; ring_nf
    have h1 := mul_le_mul_of_nonneg_left (Real.add_one_le_exp (q - p)) (Real.exp_pos p).le
    have h3 := mul_le_mul_of_nonneg_right ((Real.exp_le_exp.2 hp).trans hlt.le) (sub_nonneg.2 hqp)
    rw [hq]
    linarith
  rcases le_total a b with h | h
  · rw [abs_of_nonpos (sub_nonpos.2 (Real.exp_le_exp.2 h)), abs_of_nonpos (sub_nonpos.2 h), neg_sub, neg_sub]
    exact side hb h
  · rw [abs_of_nonneg (sub_nonneg.2 (Real.exp_le_exp.2 h)), abs_of_nonneg (sub_nonneg.2 h)]
    exact side ha h

theorem fxExp2_near {f : Nat} (hf : f ≤ fxOne) : |(fxExp2 f : ℝ) - fxUnit * 2 ^ ((f : ℝ) / fxUnit)| ≤ 2 ^ 16 := by
  have hP := fxUnit_pos
  have hf1 := fraction_le_one hf
  have hlog := Real.log_two_lt_d9
  have hlog0 : 0 < Real.log 2 := Real.log_pos one_lt_two
  have hx := fxMul_div_near hf fxLn2_near
  have hu : Real.log 2 * (f / fxUnit) ≤ Real.log 2 := mul_le_of_le_one_right hlog0.le hf1
  have hsmall : (1 + 2 ^ 12) / fxUnit ≤ (1 / 100 : ℝ) := by norm_num [fxUnit]
  have hX : (fxMul f fxLn2 : ℝ) / fxUnit ≤ 3 / 4 := by linarith [(abs_le.1 hx).2]
  have hexp := (abs_exp_sub_exp_le (hX.trans (by norm_num)) (hu.trans (by linarith))).trans (mul_le_mul_of_nonneg_left hx (by norm_num))
  have hmul : |fxUnit * Real.exp ((fxMul f fxLn2 : ℝ) / fxUnit) - fxUnit * Real.exp (Real.log 2 * (f / fxUnit))| ≤ 3 * (1 + 2 ^ 12) := by
    rw [← mul_sub, abs_mul, abs_of_pos hP, mul_comm, ← le_div_iff₀ hP]
    exact hexp.trans_eq (by ring)
  rw [Real.rpow_def_of_pos two_pos, fxExp2]
  exact (abs_sub_le _ _ _).trans ((add_le_add (expSeries_near hX) hmul).trans (by norm_num))

/-! ### sin(pi r) and cos(pi r) -/

theorem abs_toNat_sub_le (z : Int) {w : ℝ} (hw : 0 ≤ w) : |(z.toNat : ℝ) - w| ≤ |z - w| := by
  rcases le_total 0 z with h | h
  · rw [show (z.toNat : ℝ) = z by exact_mod_cast Int.toNat_of_nonneg h]
  · have hz : (z : ℝ) ≤ 0 := by exact_mod_cast h
    rw [Int.toNat_of_nonpos h, abs_sub_comm, abs_sub_comm (z : ℝ), abs_of_nonneg (by simpa using hw), abs_of_nonneg (by linarith)]
    simpa using hz

/-- The model's pi r: where it lies, and what a function that nowhere rises or falls faster than its argument makes of it. -/
theorem fxMul_pi_near {r : Nat} (hr : r ≤ fxOne) : (fxMul r fxPi : ℝ) / fxUnit ≤ Real.pi * (r / fxUnit) + 1 / 100 ∧
    ∀ f : ℝ → ℝ, (∀ x y, |f x - f y| ≤ |x - y|) →
      |fxUnit * f ((fxMul r fxPi : ℝ) / fxUnit) - fxUnit * f (Real.pi * (r / fxUnit))| ≤ 1 + 2 ^ 15 := by
  have hx := fxMul_div_near hr fxPi_near
  have hsmall : (1 + 2 ^ 15) / fxUnit ≤ (1 / 100 : ℝ) := by norm_num [fxUnit]
  refine ⟨by linarith [(abs_le.1 hx).2], fun f hf => ?_⟩
  rw [← mul_sub, abs_mul, abs_of_pos fxUnit_pos, mul_comm, ← le_div_iff₀ fxUnit_pos]
  exact (hf _ _).trans hx

/-- A k-th part of 1 or less, times pi. -/
theorem pi_mul_le {r k : Nat} (hk : 0 < k) (hr : k * r ≤ fxOne) : 0 ≤ Real.pi * (r / fxUnit) ∧ Real.pi * (r / fxUnit) ≤ Real.pi / k := by
  have hk' : (0 : ℝ) < k := by exact_mod_cast hk
  have hle : (r : ℝ) / fxUnit ≤ 1 / k := div_fxUnit_le (by
    rw [one_div, inv_mul_eq_div, le_div_iff₀ hk', ← fxOne_cast, mul_comm]
    exact_mod_cast hr)
  exact ⟨mul_nonneg Real.pi_pos.le (div_nonneg (Nat.cast_nonneg r) fxUnit_pos.le),
    (mul_le_mul_of_nonneg_left hle Real.pi_pos.le).trans_eq (mul_one_div _ _)⟩

theorem fxSinPi_near {r : Nat} (hr : 2 * r ≤ fxOne) : |(fxSinPi r : ℝ) - fxUnit * Real.sin (Real.pi * (r / fxUnit))| ≤ 2 ^ 16 := by
  have hpi := Real.pi_lt_d2
  have hpos := Real.pi_pos
  obtain ⟨hlo, hhi⟩ := pi_mul_le (by decide) hr
  obtain ⟨hX, hlip⟩ := fxMul_pi_near (r := r) (by omega)
  push_cast at hhi
  refine (abs_toNat_sub_le _ (mul_nonneg fxUnit_pos.le (Real.sin_nonneg_of_nonneg_of_le_pi hlo (by linarith)))).trans ?_
  exact (abs_sub_le _ _ _).trans ((add_le_add (sinSeries_near (by linarith)) (hlip _ Real.abs_sin_sub_sin_le)).trans (by norm_num))

theorem fxCosPi_near {r : Nat} (hr : 4 * r ≤ fxOne) : |(fxCosPi r : ℝ) - fxUnit * Real.cos (Real.pi * (r / fxUnit))| ≤ 2 ^ 16 := by
  have hpi := Real.pi_lt_d2
  have hpos := Real.pi_pos
  obtain ⟨hlo, hhi⟩ := pi_mul_le (by decide) hr
  obtain ⟨hX, hlip⟩ := fxMul_pi_near (r := r) (by omega)
  push_cast at hhi
  refine (abs_toNat_sub_le _ (mul_nonneg fxUnit_pos.le (Real.cos_nonneg_of_neg_pi_div_two_le_of_le (by linarith) (by linarith)))).trans ?_
  exact (abs_sub_le _ _ _).trans ((add_le_add (cosSeries_near (by linarith)) (hlip _ Real.abs_cos_sub_cos_le)).trans (by norm_num))

/-! ### log2 -/

/-- The terms of the series of the inverse hyperbolic tangent. -/
noncomputable def atanhTerm (Z : ℝ) (j : ℕ) : ℝ := fxUnit * Z ^ (2 * j + 1) / (2 * j + 1 : ℕ)

theorem hasSum_atanhTerm {Z : ℝ} (hZ : |Z| < 1) : HasSum (atanhTerm Z) (fxUnit * (Real.log (1 + Z) - Real.log (1 - Z)) / 2) := by
  have h := (Real.hasSum_log_sub_log_of_abs_lt_one hZ).mul_left (fxUnit / 2)
  rw [div_mul_eq_mul_div] at h
  rwa [show (fun j : ℕ => fxUnit / 2 * (2 * (1 / (2 * (j : ℝ) + 1)) * Z ^ (2 * j + 1))) = atanhTerm Z from funext fun j => by
    rw [atanhTerm]
    push_cast
    field_simp] at h

theorem atanhTerm_nonneg {Z : ℝ} (h0 : 0 ≤ Z) (j : ℕ) : 0 ≤ atanhTerm Z j :=
  div_nonneg (mul_nonneg fxUnit_pos.le (pow_nonneg h0 _)) (Nat.cast_nonneg _)

theorem sq_le_ninth {Z : ℝ} (h0 : 0 ≤ Z) (h1 : Z ≤ 1 / 3) : Z ^ 2 ≤ 1 / 9 := (pow_le_pow_left₀ h0 h1 2).trans_eq (by norm_num)

theorem atanhTerm_shrinks {Z : ℝ} (h0 : 0 ≤ Z) (h1 : Z ≤ 1 / 3) (j : ℕ) : |atanhTerm Z (j + 1)| ≤ 3 / 4 * |atanhTerm Z j| := by
  have hnum : fxUnit * Z ^ (2 * (j + 1) + 1) ≤ 3 / 4 * (fxUnit * Z ^ (2 * j + 1)) := by
    have hpow : Z ^ (2 * (j + 1) + 1) = Z ^ (2 * j + 1) * Z ^ 2 := by rw [← pow_add]; ring_nf
    have hsq := mul_le_mul_of_nonneg_left ((sq_le_ninth h0 h1).trans (by norm_num : (1 : ℝ) / 9 ≤ 3 / 4)) (pow_nonneg h0 (2 * j + 1))
    rw [hpow]
    exact (mul_le_mul_of_nonneg_left hsq fxUnit_pos.le).trans_eq (by ring)
  rw [abs_of_nonneg (atanhTerm_nonneg h0 _), abs_of_nonneg (atanhTerm_nonneg h0 _), atanhTerm, atanhTerm, ← mul_div_assoc]
  exact div_le_div₀ (mul_nonneg (by norm_num) (mul_nonneg fxUnit_pos.le (pow_nonneg h0 _))) hnum (by positivity) (by exact_mod_cast (by omega : 2 * j + 1 ≤ 2 * (j + 1) + 1))

theorem atanhTerm_last {Z : ℝ} (h0 : 0 ≤ Z) (h1 : Z ≤ 1 / 3) : 4 * |atanhTerm Z 90| ≤ 1 := by
  have hpow : Z ^ (2 * 90 + 1) ≤ (1 / 3) ^ (2 * 90 + 1) := pow_le_pow_left₀ h0 h1 _
  rw [abs_of_nonneg (atanhTerm_nonneg h0 _), atanhTerm]
  calc _ ≤ 4 * (fxUnit * (1 / 3) ^ (2 * 90 + 1) / (2 * 90 + 1 : ℕ)) := mul_le_mul_of_nonneg_left
        (div_le_div_of_nonneg_right (mul_le_mul_of_nonneg_left hpow fxUnit_pos.le) (Nat.cast_nonneg _)) (by norm_num)
    _ ≤ 1 := by norm_num [fxUnit]

/-- A number near to p and the square of one near to Z, multiplied in fixed point. -/
theorem atanhPower_near {z t : Nat} {Z p : ℝ} (h0 : 0 ≤ Z) (h1 : Z ≤ 1 / 3) (hz : |(z : ℝ) - fxUnit * Z| ≤ 1) (hp : p ≤ 1 / 3)
    (ht : |(t : ℝ) - fxUnit * p| ≤ 16) : |(fxMul t (fxMul z z) : ℝ) - fxUnit * p * Z ^ 2| ≤ 16 := by
  have hP := fxUnit_pos
  have hbig : (100 : ℝ) ≤ fxUnit := by norm_num [fxUnit]
  have hz1 : (z : ℝ) / fxUnit ≤ 1 := by
    rw [div_le_one hP]
    linarith [(abs_le.1 hz).2, mul_le_mul_of_nonneg_left h1 hP.le]
  have ht1 : (t : ℝ) / fxUnit ≤ 1 := by
    rw [div_le_one hP]
    linarith [(abs_le.1 ht).2, mul_le_mul_of_nonneg_left hp hP.le]
  have hsq : |(fxMul z z : ℝ) - fxUnit * Z ^ 2| ≤ 3 := by
    have hz2 : |z * Z - fxUnit * Z ^ 2| ≤ 1 := by
      rw [show z * Z - fxUnit * Z ^ 2 = (z - fxUnit * Z) * Z by ring, abs_mul, abs_of_nonneg h0]
      exact mul_le_one₀ hz h0 (h1.trans (by norm_num))
    exact (abs_sub_le _ _ _).trans ((add_le_add (fxMul_near hz1 hz) hz2).trans_eq (by norm_num))
  exact abs_mul_sub_le ht (fxMul_near ht1 hsq) (by rw [abs_of_nonneg (sq_nonneg Z)]; linarith [sq_le_ninth h0 h1]) (by norm_num)

/-- The series gives the inverse hyperbolic tangent of Z to within 2^11 units of the last place. -/
theorem atanhSeries_near {z : Nat} {Z : ℝ} (h0 : 0 ≤ Z) (h1 : Z ≤ 1 / 3) (hz : |(z : ℝ) - fxUnit * Z| ≤ 1) :
    |(atanhSeries (fxMul z z) 90 1 z : ℝ) - fxUnit * (Real.log (1 + Z) - Real.log (1 - Z)) / 2| ≤ 2 ^ 11 := by
  have hpow (j : ℕ) : Z ^ (2 * j + 1) ≤ 1 / 3 := (pow_le_of_le_one h0 (h1.trans (by norm_num)) (Nat.succ_ne_zero _)).trans h1
  have hterm (j t : ℕ) (ht : |(t : ℝ) - fxUnit * Z ^ (2 * j + 1)| ≤ 16) : |((t / (2 * j + 1) : Nat) : ℝ) - atanhTerm Z j| ≤ 17 := by
    have hk : (1 : ℝ) ≤ (2 * j + 1 : ℕ) := by exact_mod_cast Nat.succ_pos _
    have hdiv : |(t : ℝ) / (2 * j + 1 : ℕ) - atanhTerm Z j| ≤ 16 := by
      rw [atanhTerm, ← sub_div, abs_div, abs_of_pos (zero_lt_one.trans_le hk)]
      exact (div_le_self (abs_nonneg _) hk).trans ht
    exact (abs_sub_le _ _ _).trans ((add_le_add (abs_natDiv_sub_le t (Nat.succ_pos _)) hdiv).trans_eq (by norm_num))
  have hsum := abs_sum_sub_le (S := fun n j t => (atanhSeries (fxMul z z) n (2 * j + 1) t : ℝ)) (next := fun _ t => fxMul t (fxMul z z))
    (term := fun j t => ((t / (2 * j + 1) : Nat) : ℝ)) (near := fun j t => |(t : ℝ) - fxUnit * Z ^ (2 * j + 1)| ≤ 16) (a := atanhTerm Z) (δ := 17)
    (fun _ _ => by simp [atanhSeries]) (fun n j t => by rw [atanhSeries]; push_cast; rfl) (fun j t h => by
      have := atanhPower_near h0 h1 hz (hpow j) h
      rwa [mul_assoc, ← pow_add] at this)
    hterm 90 0 z (by simpa using hz.trans (by norm_num))
  have htail := abs_tail_le (hasSum_atanhTerm (by rw [abs_of_nonneg h0]; linarith)) 90 (atanhTerm_shrinks h0 h1)
  simp only [Nat.zero_add, Nat.mul_zero] at hsum
  calc _ ≤ _ := abs_sub_le _ (∑ i ∈ Finset.range 90, atanhTerm Z i) _
    _ ≤ 17 * (90 : ℕ) + 1 := add_le_add hsum (htail.trans (atanhTerm_last h0 h1))
    _ ≤ 2 ^ 11 := by norm_num

/-- Twice what is near to half a logarithm, divided by the model's ln 2. -/
theorem ratio_near {A l : ℝ} (hA : |A - fxUnit * l / 2| ≤ 2 ^ 11) (h0 : 0 ≤ l) (h1 : l ≤ Real.log 2) :
    |2 * A * fxUnit / fxLn2 - fxUnit * (l / Real.log 2)| ≤ 2 ^ 14 := by
  have hP := fxUnit_pos
  have hlog : 0 < Real.log 2 := Real.log_pos one_lt_two
  have hL : fxUnit ≤ 2 * fxLn2 := by norm_num [fxUnit, fxLn2]
  have hL0 : (0 : ℝ) < fxLn2 := by linarith
  have hsplit : 2 * A * fxUnit / fxLn2 - fxUnit * (l / Real.log 2) =
      fxUnit / fxLn2 * (2 * (A - fxUnit * l / 2) - l / Real.log 2 * (fxLn2 - fxUnit * Real.log 2)) := by
    field_simp
    ring
  have hl0 : 0 ≤ l / Real.log 2 := div_nonneg h0 hlog.le
  have hl1 : l / Real.log 2 ≤ 1 := (div_le_one hlog).2 h1
  have hfirst : |2 * (A - fxUnit * l / 2)| ≤ 2 ^ 12 := by
    rw [abs_mul, abs_of_pos two_pos]
    linarith
  have hsecond : |l / Real.log 2 * (fxLn2 - fxUnit * Real.log 2)| ≤ 2 ^ 12 := by
    rw [abs_mul, abs_of_nonneg hl0]
    exact (mul_le_mul hl1 fxLn2_near (abs_nonneg _) zero_le_one).trans_eq (one_mul _)
  rw [hsplit, abs_mul, abs_of_pos (div_pos hP hL0)]
  calc _ ≤ 2 * (2 ^ 12 + 2 ^ 12 : ℝ) := mul_le_mul ((div_le_iff₀ hL0).2 hL) ((abs_sub _ _).trans (add_le_add hfirst hsecond)) (abs_nonneg _) two_pos.le
    _ ≤ 2 ^ 14 := by norm_num

theorem fxLog2_near {x : Nat} (hlo : fxOne ≤ x) (hhi : x ≤ 2 * fxOne) : |(fxLog2 x : ℝ) - fxUnit * Real.logb 2 (x / fxUnit)| ≤ 2 ^ 16 := by
  have hP := fxUnit_pos
  have hxlo : fxUnit ≤ x := by rw [← fxOne_cast]; exact_mod_cast hlo
  have hxhi : (x : ℝ) ≤ 2 * fxUnit := by rw [← fxOne_cast]; exact_mod_cast hhi
  have hx : 0 < (x : ℝ) := hP.trans_le hxlo
  have hsum : 0 < (x : ℝ) + fxUnit := add_pos hx hP
  let Z : ℝ := (x - fxUnit) / (x + fxUnit)
  have hZ0 : 0 ≤ Z := div_nonneg (by linarith) hsum.le
  have hZ1 : Z ≤ 1 / 3 := by rw [div_le_iff₀ hsum]; linarith
  have hz : |(((x - fxOne) * fxOne / (x + fxOne) : Nat) : ℝ) - fxUnit * Z| ≤ 1 := by
    have := abs_natDiv_sub_le ((x - fxOne) * fxOne) (b := x + fxOne) (Nat.add_pos_right x (by decide))
    rw [Nat.cast_mul, Nat.cast_sub hlo, Nat.cast_add, fxOne_cast] at this
    rwa [show fxUnit * Z = ((x : ℝ) - fxUnit) * fxUnit / (x + fxUnit) by simp only [Z]; ring]
  have hlogs : Real.log (1 + Z) - Real.log (1 - Z) = Real.log (x / fxUnit) := by
    have h1 : 1 + Z = 2 * x / (x + fxUnit) := by simp only [Z]; field_simp; ring
    have h2 : 1 - Z = 2 * fxUnit / (x + fxUnit) := by simp only [Z]; field_simp; ring
    rw [h1, h2, ← Real.log_div (by positivity) (by positivity)]
    congr 1
    field_simp
  have hA := atanhSeries_near hZ0 hZ1 hz
  rw [hlogs] at hA
  rw [fxLog2]
  generalize (x - fxOne) * fxOne / (x + fxOne) = z at *
  generalize atanhSeries (fxMul z z) 90 1 z = A at *
  have hdiv := abs_natDiv_sub_le (2 * A * fxOne) (b := fxLn2) (by decide)
  rw [Nat.cast_mul, Nat.cast_mul, Nat.cast_ofNat, fxOne_cast] at hdiv
  have hratio := ratio_near hA (Real.log_nonneg ((one_le_div hP).2 hxlo)) (Real.log_le_log (div_pos hx hP) ((div_le_iff₀ hP).2 hxhi))
  rw [← Real.log_div_log]
  exact (abs_sub_le _ _ _).trans ((add_le_add hdiv hratio).trans (by norm_num))

end Sys2Proof.Machine
end

section
/-! What FTRN delivers of a real result: beyond the exponent range, where it is exact, where it is near a computed number (R41, R42, R45, R71). -/

namespace Sys2Proof.Machine

open Sys2Proof.Says

/-! ### Beyond the exponent range -/

section Range

variable {rm : Rm} {s : Bool} {m : Nat} {e : Int} {sticky : Bool} {d x : ℝ}

/-- Every positive number has bits enough for its rounding. -/
theorem exists_rounded (hx : 0 < x) : ∃ m sticky d, ∃ e : ℤ, Rounded fp32 m sticky d ∧ (m + d) * (2 : ℝ) ^ e = x := by
  obtain ⟨t, g, ht, rfl⟩ : ∃ (t : ℝ) (g : ℤ), 2 ^ 30 ≤ t ∧ t * 2 ^ g = x := by
    have hlog : (2 : ℝ) ^ Int.log 2 x ≤ x := by exact_mod_cast Int.zpow_log_le_self one_lt_two hx
    have hpos : (0 : ℝ) < 2 ^ (Int.log 2 x - 30) := by positivity
    refine ⟨x / 2 ^ (Int.log 2 x - 30), Int.log 2 x - 30, ?_, div_mul_cancel₀ x hpos.ne'⟩
    rw [le_div_iff₀ hpos, ← zpow_natCast, ← zpow_add₀ two_ne_zero]
    exact (congrArg ((2 : ℝ) ^ ·) (by push_cast; omega)).trans_le hlog
  have hfloor : 2 ^ 30 ≤ ⌊t⌋₊ := Nat.le_floor (by exact_mod_cast ht)
  have hle := Nat.floor_le (le_trans (by norm_num) ht)
  have hlt := Nat.lt_floor_add_one t
  refine ⟨⌊t⌋₊, decide (0 < t - ⌊t⌋₊), t - ⌊t⌋₊, g, ⟨sub_nonneg.2 hle, by linarith, decide_eq_true_iff, fun _ => ?_, by omega⟩, ?_⟩
  · exact le_trans (by decide) (le_bitLen hfloor)
  · rw [add_sub_cancel]

theorem Rounded.round_huge (h : Rounded fp32 m sticky d) (hq : 106 ≤ fp32.quantum m e) : fp32.round rm s m e sticky = fp32.overflow rm s := by
  rw [fp32.round_nonzero rm s e sticky h.nonzero, if_pos]
  have h0 : (0 : Int) ≤ (roundAt rm s m e sticky (fp32.quantum m e)).1 := Int.natCast_nonneg _
  simp only [fp32, FFmt.qmin] at *
  omega

/-- A number of at least 2^200 overflows. -/
theorem roundsOnce_huge (hx : (2 : ℝ) ^ (200 : ℤ) ≤ x) : RoundsOnce fp32 rm s x (fp32.overflow rm s) := by
  obtain ⟨m, sticky, d, e, h, rfl⟩ := exists_rounded (lt_of_lt_of_le (by positivity) hx)
  rw [← h.round_huge (rm := rm) (s := s) (e := e)]
  · exact h.roundsOnce fp32_standard rm s e
  · have := (fp32.quantum_bounds e h.nonzero h.nonneg h.below).2
    rw [div_le_iff₀ (by positivity), ← zpow_natCast, ← zpow_add₀ two_ne_zero] at this
    have := (zpow_le_zpow_iff_right₀ (one_lt_two (α := ℝ))).1 (hx.trans this)
    simp only [fp32] at *
    push_cast at this
    omega

/-- Where the whole number lies below the half of the smallest quantum, it is a rest alone. -/
theorem roundAt_rest {q : Int} (hm : m ≠ 0) (hq : e + bitLen m + 2 ≤ q) : roundAt rm s m e sticky q = (boolNat (roundsUp rm s false false true), true) := by
  obtain ⟨j, hj, -, hhi⟩ := bitLen_bounds hm
  obtain ⟨k, hk⟩ : ∃ k : Nat, (q - e).toNat = k + 1 := ⟨(q - e).toNat - 1, by omega⟩
  have hlt : m < 2 ^ k := hhi.trans_le (Nat.pow_le_pow_right (by decide) (by omega))
  have hlt' : m < 2 ^ (k + 1) := hlt.trans (Nat.pow_lt_pow_right (by decide) (Nat.lt_succ_self k))
  simp only [roundAt, if_neg (show ¬ q ≤ e by omega), hk, Nat.add_sub_cancel, Nat.div_eq_of_lt hlt', Nat.mod_eq_of_lt hlt', Nat.mod_eq_of_lt hlt,
    not_le.2 hlt, hm, decide_false, ne_eq, not_false_eq_true, decide_true, Bool.or_true, Nat.zero_mod, Nat.zero_add]
  rfl

theorem Rounded.round_tiny (h : Rounded fp32 m sticky d) (hq : fp32.quantum m e ≤ -175) :
    fp32.round rm s m e sticky = (fp32.withSign s (boolNat (roundsUp rm s false false true)), fNX ||| fUF) := by
  have hmin : fp32.qmin = -149 := by decide
  have hqu : e + bitLen m = fp32.quantum m e + 24 := by simp only [FFmt.quantum, fp32]; omega
  have hru := (h.roundAt_bounds rm s e).2
  have hpow : (2 : Nat) ^ (fp32.mb + 1) < 2 ^ (fp32.mb + (fp32.qmin - fp32.quantum m e).toNat) := Nat.pow_lt_pow_right (by decide) (by omega)
  rw [fp32.round_nonzero rm s e sticky h.nonzero, if_neg (by omega), max_eq_right (by omega), min_eq_left (by omega), sub_self, sub_self,
    roundAt_rest h.nonzero (by omega)]
  have hlt : (roundAt rm s m e sticky (fp32.quantum m e)).1 < 2 ^ (fp32.mb + (fp32.qmin - fp32.quantum m e).toNat) := hru.trans_lt hpow
  simp only [Int.toNat_zero, pow_zero, mul_one, zero_mul, add_zero, hlt, show fp32.quantum m e < fp32.qmin by omega, decide_true, Bool.and_true,
    flagIf, if_true]

/-- A number of at most 2^-200 is rounded to zero or to the smallest magnitude. -/
theorem roundsOnce_tiny (h0 : 0 < x) (hx : x ≤ (2 : ℝ) ^ (-200 : ℤ)) :
    RoundsOnce fp32 rm s x (fp32.withSign s (boolNat (roundsUp rm s false false true)), fNX ||| fUF) := by
  obtain ⟨m, sticky, d, e, h, rfl⟩ := exists_rounded h0
  rw [← h.round_tiny (e := e)]
  · exact h.roundsOnce fp32_standard rm s e
  · have := (fp32.quantum_bounds e h.nonzero h.nonneg h.below).1
    rw [le_div_iff₀ (by positivity), ← zpow_natCast, ← zpow_add₀ two_ne_zero] at this
    have := (zpow_le_zpow_iff_right₀ (one_lt_two (α := ℝ))).1 (this.trans hx)
    simp only [fp32] at *
    push_cast at this
    omega

end Range

/-! ### Functions at dyadic arguments -/

/-- A power of 2 to a dyadic exponent is itself dyadic only where the exponent is an integer. -/
theorem int_of_two_rpow_dyadic {w : ℝ} {p k n q : ℤ} (hw : w = p * (2 : ℝ) ^ k) (h : (2 : ℝ) ^ w = n * (2 : ℝ) ^ q) : ∃ i : ℤ, w = i := by
  have hpow : (2 : ℝ) ^ (w - q) = n := by
    rw [Real.rpow_sub_intCast two_ne_zero, h]
    exact mul_div_cancel_right₀ _ (by positivity)
  have hn : 0 < n := by
    have : (0 : ℝ) < 2 ^ (w - q) := Real.rpow_pos_of_pos two_pos _
    rw [hpow] at this
    exact_mod_cast this
  lift n to ℕ using hn.le
  -- the 2^j-th power of the integer n is a power of 2 to an integer
  obtain ⟨j, a, ha⟩ : ∃ (j : ℕ) (a : ℤ), (w - q) * 2 ^ j = a := by
    refine ⟨k.natAbs, p * 2 ^ (k + k.natAbs).toNat - q * 2 ^ k.natAbs, ?_⟩
    have hk : (2 : ℝ) ^ k * 2 ^ k.natAbs = 2 ^ (k + k.natAbs).toNat := by
      rw [← zpow_natCast, ← zpow_add₀ two_ne_zero, ← zpow_natCast, Int.toNat_of_nonneg (by omega)]
    rw [hw, sub_mul, mul_assoc, hk]
    push_cast
    rfl
  have hint : ((n : ℝ)) ^ 2 ^ j = 2 ^ a := by
    rw [← Real.rpow_intCast, ← ha, Real.rpow_mul two_pos.le, hpow]
    exact_mod_cast (Real.rpow_natCast (n : ℝ) (2 ^ j)).symm
  have ha0 : 0 ≤ a := by
    have h1 : (1 : ℝ) ≤ (n : ℝ) ^ 2 ^ j := one_le_pow₀ (by exact_mod_cast hn)
    rw [hint] at h1
    exact (one_le_zpow_iff_right₀ one_lt_two).1 h1
  lift a to ℕ using ha0
  have hnat : n ^ 2 ^ j = 2 ^ a := by exact_mod_cast hint
  obtain ⟨b, -, rfl⟩ := (Nat.dvd_prime_pow Nat.prime_two).1 (hnat ▸ dvd_pow_self n (Nat.two_pow_pos j).ne')
  refine ⟨b + q, ?_⟩
  have hb : (2 : ℝ) ^ (w - q) = 2 ^ (b : ℝ) := by rw [hpow, Real.rpow_natCast]; norm_cast
  have := (Real.rpow_right_inj two_pos (by norm_num)).1 hb
  push_cast
  linarith

/-- The cosine of a dyadic part of pi is dyadic only at multiples of a half of pi (Niven). -/
theorem int_of_cos_dyadic {p n q : ℤ} {d : ℕ} (h : Real.cos (Real.pi * (p / 2 ^ d)) = n * (2 : ℝ) ^ q) : ∃ i : ℤ, 2 * ((p : ℝ) / 2 ^ d) = i := by
  have hrat : ∃ c : ℚ, Real.cos (((p / 2 ^ d : ℚ) : ℝ) * Real.pi) = c := ⟨n * 2 ^ q, by push_cast; rw [mul_comm, h]⟩
  have hfract := niven_fract_angle_div_pi_eq hrat
  have hsplit := Int.floor_add_fract (p / 2 ^ d : ℚ)
  have hpos : (0 : ℚ) < 2 ^ d := by positivity
  -- 3 divides no power of 2, so that the fraction is no third
  have hthird (i : ℤ) (hi : (p / 2 ^ d : ℚ) * 3 = i) : 3 ∣ i := by
    have hz : p * 3 = i * 2 ^ d := by
      have : (p : ℚ) * 3 = i * 2 ^ d := by rw [← hi]; field_simp
      exact_mod_cast this
    have h3 : IsCoprime (3 : ℤ) (2 ^ d) := IsCoprime.pow_right (by norm_num)
    exact h3.dvd_of_dvd_mul_right (hz ▸ dvd_mul_left 3 p)
  have hhalf : ∃ i : ℤ, 2 * (p / 2 ^ d : ℚ) = i := by
    generalize ⌊(p / 2 ^ d : ℚ)⌋ = f at hsplit
    rcases hfract with h0 | h0 | h0 | h0 <;> rw [h0] at hsplit
    · exact ⟨2 * f, by push_cast; linarith⟩
    · exact absurd (hthird (3 * f + 1) (by push_cast; linarith)) (by omega)
    · exact ⟨2 * f + 1, by push_cast; linarith⟩
    · exact absurd (hthird (3 * f + 2) (by push_cast; linarith)) (by omega)
  obtain ⟨i, hi⟩ := hhalf
  exact ⟨i, by exact_mod_cast congrArg (fun c : ℚ => (c : ℝ)) hi⟩

theorem int_of_sin_dyadic {p n q : ℤ} {d : ℕ} (h : Real.sin (Real.pi * (p / 2 ^ d)) = n * (2 : ℝ) ^ q) : ∃ i : ℤ, 2 * ((p : ℝ) / 2 ^ d) = i := by
  have hshift : Real.pi * (((2 * p - 2 ^ d : ℤ) : ℝ) / 2 ^ (d + 1)) = Real.pi * (p / 2 ^ d) - Real.pi / 2 := by
    push_cast
    rw [pow_succ]
    field_simp
  have hcos := int_of_cos_dyadic (p := 2 * p - 2 ^ d) (d := d + 1) (n := n) (q := q) (by rw [hshift, Real.cos_sub_pi_div_two, h])
  obtain ⟨i, hi⟩ := hcos
  refine ⟨i + 1, ?_⟩
  push_cast at hi ⊢
  rw [← hi]
  field_simp
  ring

/-! ### Deliveries -/

section Deliveries

variable {rm : Rm} {s z : Bool} {y : ℝ} {r : FRes}

/-- What FTRN must deliver of a result y: rounded once where y has 24 bits, a zero with the sign z, and where no turning point is near it (R71). -/
def FunctionDelivers (rm : Rm) (z : Bool) (y : ℝ) (r : FRes) : Prop :=
  ((∃ n q : ℤ, n.natAbs < 2 ^ 24 ∧ y = n * (2 : ℝ) ^ q) → Delivers fp32 rm z y (r.1.toNat, r.2)) ∧
    (FarFromTurns ((2 : ℝ) ^ (-100 : ℤ) * |y|) y → Delivers fp32 rm false y (r.1.toNat, r.2))

/-- A result other than 0 that is rounded once. -/
theorem functionDelivers_of_roundsOnce (hs : s = true ↔ y < 0) (hy : y ≠ 0) (h : RoundsOnce fp32 rm s |y| (r.1.toNat, r.2)) :
    FunctionDelivers rm z y r := by
  have hd (z : Bool) : Delivers fp32 rm z y (r.1.toNat, r.2) := delivers_of_roundsOnce (by rw [if_neg hy, hs]) h
  exact ⟨fun _ => hd z, fun _ => hd false⟩

/-- An exact result: only a zero's sign is asked for, and a zero is a point of its own. -/
theorem functionDelivers_exact (rm : Rm) (s : Bool) (m : Nat) (e : Int) (hz : m = 0 → s = z) :
    FunctionDelivers rm z (real (.fin s m e)) (fin32 rm (.fin s m e, 0)) := by
  have hd : Delivers fp32 rm s (real (.fin s m e)) _ := fp32_standard.round_delivers rm s m e
  rw [← FFmt.finish_fin, ← fin32_pat] at hd
  by_cases hm : m = 0
  · rw [← hz hm]
    exact ⟨fun _ => hd, fun hfar => by simpa [hm, real_fin] using hfar 0 0 (by decide)⟩
  · have hne := mt (real_fin_eq_zero_iff s m e).1 hm
    rw [Delivers, if_neg hne] at hd
    exact functionDelivers_of_roundsOnce (real_fin_neg_iff s hm e).symm hne (by simpa [real_fin_neg_iff s hm e] using hd)

theorem inexact32_roundsOnce {x : ℝ} {m : Nat} {e : Int} (h : RoundsOnce fp32 rm s x (fp32.round rm s m e true)) :
    RoundsOnce fp32 rm s x ((inexact32 rm s m e).1.toNat, (inexact32 rm s m e).2) := by
  rwa [inexact32, roundsOnce_pat h]

/-- A result that is no dyadic number, and near a computed one. -/
theorem functionDelivers_near {m : Nat} {e : Int} (hs : s = true ↔ y < 0) (hm : 2 ^ 24 ≤ m)
    (hnear : |(|y| - m * (2 : ℝ) ^ e)| ≤ (2 : ℝ) ^ (-100 : ℤ) * |y|) (hno : ∀ n q : ℤ, y ≠ n * (2 : ℝ) ^ q) :
    FunctionDelivers rm z y (inexact32 rm s m e) := by
  have hy : y ≠ 0 := fun h => hno 0 0 (by simp [h])
  refine ⟨fun ⟨n, q, _, h⟩ => absurd h (hno n q), fun hfar => ?_⟩
  exact delivers_of_roundsOnce (by rw [if_neg hy, hs]) (inexact32_roundsOnce (roundsOnce_of_near hm hnear hfar.abs))

/-- A result just above 1, and one just below it. -/
theorem nearOne_roundsOnce {x : ℝ} (above : Bool) (h : if above then 1 < x ∧ x < 1 + (2 : ℝ) ^ (-24 : ℤ) else 1 - (2 : ℝ) ^ (-25 : ℤ) < x ∧ x < 1) :
    RoundsOnce fp32 rm s x ((nearOne rm s above).1.toNat, (nearOne rm s above).2) := by
  rw [nearOne]
  apply inexact32_roundsOnce
  cases above with
  | true =>
    obtain ⟨hlo, hhi⟩ := h
    rw [if_pos rfl, fp32.round_coarsen rm s (-64) true (m := 2 ^ 64) (k := 40) (by decide), show (2 ^ 64 / 2 ^ 40 : Nat) = 2 ^ 24 by decide]
    exact fp32_standard.roundsOnce_of_cell (by decide) (by norm_num; exact hlo) (by norm_num at hhi ⊢; linarith)
  | false =>
    obtain ⟨hlo, hhi⟩ := h
    rw [if_neg Bool.false_ne_true, fp32.round_coarsen rm s (-64) true (m := 2 ^ 64 - 1) (k := 39) (by decide),
      show ((2 ^ 64 - 1) / 2 ^ 39 : Nat) = 2 ^ 25 - 1 by decide]
    exact fp32_standard.roundsOnce_of_cell (by decide) (by norm_num at hlo ⊢; linarith) (by norm_num; exact hhi)

end Deliveries

end Sys2Proof.Machine
end

section
/-! FTRN (R71): each function on finite operands, as it must deliver. -/

namespace Sys2Proof.Machine

open Sys2Proof.Says

/-! ### Fixed point and magnitudes -/

/-- A dyadic fraction is exact in fixed point. -/
theorem fraction_fx {n j : Nat} (hj : j ≤ 256) : ((n * fxOne / 2 ^ j : Nat) : ℝ) / fxUnit = n / 2 ^ j := by
  have hone : fxOne = 2 ^ (256 - j) * 2 ^ j := by rw [← pow_add, Nat.sub_add_cancel hj]; rfl
  have hunit : fxUnit = 2 ^ (256 - j) * 2 ^ j := by rw [← fxOne_cast, hone]; push_cast; rfl
  rw [hone, ← mul_assoc, Nat.mul_div_cancel _ (Nat.two_pow_pos j), hunit]
  push_cast
  field_simp

/-- The bits of a significand place its magnitude. -/
theorem mag_bounds {m : Nat} (hm : m ≠ 0) (e : Int) :
    (2 : ℝ) ^ (e + bitLen m - 1) ≤ m * (2 : ℝ) ^ e ∧ m * (2 : ℝ) ^ e < (2 : ℝ) ^ (e + bitLen m) := by
  obtain ⟨j, hj, hlo, hhi⟩ := bitLen_bounds hm
  have hpos : (0 : ℝ) < 2 ^ e := by positivity
  rw [hj, show e + ((j + 1 : Nat) : Int) - 1 = j + e by push_cast; ring, show e + ((j + 1 : Nat) : Int) = (j + 1 : Nat) + e by ring,
    zpow_add₀ two_ne_zero, zpow_add₀ two_ne_zero, zpow_natCast, zpow_natCast]
  exact ⟨mul_le_mul_of_nonneg_right (by exact_mod_cast hlo) hpos.le, mul_lt_mul_of_pos_right (by exact_mod_cast hhi) hpos⟩

theorem bitLen_le {m k : Nat} (hm : m < 2 ^ k) : bitLen m ≤ k := by
  rcases Nat.eq_zero_or_pos m with rfl | h
  · exact Nat.zero_le k
  · obtain ⟨j, hj, hlo, -⟩ := bitLen_bounds h.ne'
    rw [hj]
    exact (Nat.pow_lt_pow_iff_right (by decide)).1 (hlo.trans_lt hm)

section Near

variable {rm : Rm} {s z : Bool} {y g : ℝ} {m : Nat}

/-- What is within 2^16 units of the last place of a number that is not too small has bits enough and is near to it. -/
theorem near_of_units (h : |(m : ℝ) - fxUnit * g| ≤ 2 ^ 16) (hg : (2 : ℝ) ^ (-70 : ℤ) ≤ g) :
    2 ^ 24 ≤ m ∧ |g - m / fxUnit| ≤ (2 : ℝ) ^ (-100 : ℤ) * g := by
  have hP := fxUnit_pos
  have hbig : (2 : ℝ) ^ 24 + 2 ^ 16 ≤ fxUnit * (2 : ℝ) ^ (-70 : ℤ) := by norm_num [fxUnit]
  have hsmall : (2 : ℝ) ^ 16 / fxUnit ≤ (2 : ℝ) ^ (-100 : ℤ) * (2 : ℝ) ^ (-70 : ℤ) := by norm_num [fxUnit]
  have hmul := mul_le_mul_of_nonneg_left hg hP.le
  constructor
  · have : (2 : ℝ) ^ 24 ≤ m := by linarith [(abs_le.1 h).1]
    exact_mod_cast this
  · have hdiv : |g - m / fxUnit| ≤ 2 ^ 16 / fxUnit := by
      rw [show g - m / fxUnit = -((m - fxUnit * g) / fxUnit) by field_simp; ring, abs_neg, abs_div, abs_of_pos hP]
      exact div_le_div_of_nonneg_right h hP.le
    exact hdiv.trans (hsmall.trans (mul_le_mul_of_nonneg_left hg (by positivity)))

theorem mul_zpow_fxP (m : Nat) : (m : ℝ) * (2 : ℝ) ^ (-(fxP : Int)) = m / fxUnit := by
  rw [zpow_neg, zpow_natCast, fxUnit, fxP, div_eq_mul_inv]

/-- A result in fixed point, near to one that is no dyadic number. -/
theorem functionDelivers_fx (hs : s = true ↔ y < 0) (h : |((m : ℝ) - fxUnit * |y|)| ≤ 2 ^ 16) (hy : (2 : ℝ) ^ (-70 : ℤ) ≤ |y|)
    (hno : ∀ n q : ℤ, y ≠ n * (2 : ℝ) ^ q) : FunctionDelivers rm z y (inexact32 rm s m (-(fxP : Int))) := by
  obtain ⟨hm, hnear⟩ := near_of_units h hy
  exact functionDelivers_near hs hm (by rwa [mul_zpow_fxP]) hno

end Near

/-! ### 2^A -/

section Exp2

variable {rm : Rm} {s : Bool} {m : Nat} {e : Int} {v : ℝ}

theorem two_rpow_near_one (h0 : v ≠ 0) (h1 : |v| < (2 : ℝ) ^ (-60 : ℤ)) :
    if 0 < v then 1 < (2 : ℝ) ^ v ∧ (2 : ℝ) ^ v < 1 + (2 : ℝ) ^ (-24 : ℤ) else 1 - (2 : ℝ) ^ (-25 : ℤ) < (2 : ℝ) ^ v ∧ (2 : ℝ) ^ v < 1 := by
  have hlog := Real.log_two_lt_d9
  have hlog0 : 0 < Real.log 2 := Real.log_pos one_lt_two
  have harg : |Real.log 2 * v| ≤ |v| := by
    rw [abs_mul, abs_of_pos hlog0]
    exact mul_le_of_le_one_left (abs_nonneg v) (by linarith)
  have hdist := Real.abs_exp_sub_one_le (harg.trans (h1.le.trans (by norm_num)))
  rw [← Real.rpow_def_of_pos two_pos] at hdist
  obtain ⟨hlo, hhi⟩ := abs_le.1 hdist
  norm_num at h1 ⊢
  rcases lt_or_gt_of_ne h0 with hneg | hpos
  · rw [if_neg hneg.not_gt]
    exact ⟨by linarith, Real.rpow_lt_one_of_one_lt_of_neg one_lt_two hneg⟩
  · rw [if_pos hpos]
    exact ⟨Real.one_lt_rpow one_lt_two hpos, by linarith⟩

theorem trnExp2_tiny (hm : m ≠ 0) (h : e + bitLen m < -60) :
    FunctionDelivers rm false ((2 : ℝ) ^ real (.fin s m e)) (nearOne rm false (!s)) := by
  have hpow : (0 : ℝ) < 2 ^ real (.fin s m e) := Real.rpow_pos_of_pos two_pos _
  have hv : real (.fin s m e) ≠ 0 := mt (real_fin_eq_zero_iff s m e).1 hm
  have hsmall : |real (.fin s m e)| < (2 : ℝ) ^ (-60 : ℤ) := by
    rw [abs_real_fin]
    exact (mag_bounds hm e).2.trans_le (zpow_le_zpow_right₀ one_le_two (by omega))
  have hone := two_rpow_near_one hv hsmall
  refine functionDelivers_of_roundsOnce (s := false) (by simpa using hpow.le) hpow.ne' ?_
  rw [abs_of_pos hpow]
  apply nearOne_roundsOnce
  have hsign := real_fin_neg_iff s hm e
  cases s with
  | false => simpa [lt_of_le_of_ne (not_lt.1 (mt hsign.1 nofun)) hv.symm] using hone
  | true => simpa [(hsign.2 rfl).not_gt] using hone

theorem trnExp2_large (hm : m ≠ 0) (h : 10 < e + bitLen m) :
    FunctionDelivers rm false ((2 : ℝ) ^ real (.fin s m e)) (fin32 rm (.fin false 1 (if s then -(2 ^ 10) else 2 ^ 10), 0)) := by
  have hpow : (0 : ℝ) < 2 ^ real (.fin s m e) := Real.rpow_pos_of_pos two_pos _
  have hbig : (2 : ℝ) ^ (10 : ℤ) ≤ m * 2 ^ e := (zpow_le_zpow_right₀ one_le_two (by omega)).trans (mag_bounds hm e).1
  have hone : Rounded fp32 1 false 0 := ⟨le_rfl, one_pos, by simp, nofun, one_ne_zero⟩
  refine functionDelivers_of_roundsOnce (s := false) (by simpa using hpow.le) hpow.ne' ?_
  rw [abs_of_pos hpow, fin32_pat, FFmt.finish_fin]
  norm_num at hbig
  cases s with
  | false =>
    have hv : (200 : ℤ) ≤ real (.fin false m e) := by
      rw [real_fin, if_neg Bool.false_ne_true]
      push_cast
      linarith
    rw [hone.round_huge (by decide)]
    exact roundsOnce_huge ((Real.rpow_intCast 2 200).symm.trans_le (Real.rpow_le_rpow_of_exponent_le one_le_two hv))
  | true =>
    have hv : real (.fin true m e) ≤ (-200 : ℤ) := by
      rw [real_fin, if_pos rfl]
      push_cast
      linarith
    rw [hone.round_tiny (by decide)]
    exact roundsOnce_tiny hpow ((Real.rpow_le_rpow_of_exponent_le one_le_two hv).trans_eq (Real.rpow_intCast 2 (-200)))

/-- An exponent split into its whole part n and a fraction f of 2^j. -/
theorem rpow_split (N : Int) (j : Nat) : let n := N / 2 ^ j
    let f := (N - n * 2 ^ j).toNat
    f < 2 ^ j ∧ (N : ℝ) / 2 ^ j = n + f / 2 ^ j := by
  intro n f
  have hpos : (0 : Int) < 2 ^ j := by positivity
  have hmod : N - n * 2 ^ j = N % 2 ^ j := by rw [Int.emod_def, mul_comm]
  have hf : (f : Int) = N % 2 ^ j := by rw [← hmod]; exact Int.toNat_of_nonneg (hmod ▸ Int.emod_nonneg N hpos.ne')
  constructor
  · have := Int.emod_lt_of_pos N hpos
    rw [← hf] at this
    exact_mod_cast this
  · have hsum : (N : ℝ) = n * 2 ^ j + f := by
      have : N = n * 2 ^ j + f := by rw [hf, ← hmod]; ring
      exact_mod_cast this
    rw [hsum, add_div, mul_div_cancel_right₀ _ (by positivity)]

/-- 2 to a whole number and a fraction that is not 0. -/
theorem fxExp2_delivers {n : Int} {f j : Nat} (hj : j ≤ 256) (hf0 : f ≠ 0) (hf : f < 2 ^ j) :
    FunctionDelivers rm false ((2 : ℝ) ^ ((n : ℝ) + f / 2 ^ j)) (inexact32 rm false (fxExp2 (f * fxOne / 2 ^ j)) (n - fxP)) := by
  have hfr := fraction_fx (n := f) hj
  have hfr0 : (0 : ℝ) < f / 2 ^ j := div_pos (by exact_mod_cast Nat.pos_of_ne_zero hf0) (by positivity)
  have hfr1 : (f : ℝ) / 2 ^ j < 1 := (div_lt_one (by positivity)).2 (by exact_mod_cast hf)
  have hle : f * fxOne / 2 ^ j ≤ fxOne := Nat.div_le_of_le_mul (Nat.mul_le_mul_right _ hf.le)
  have hsplit : (2 : ℝ) ^ ((n : ℝ) + f / 2 ^ j) = 2 ^ n * 2 ^ ((f : ℝ) / 2 ^ j) := by rw [Real.rpow_add two_pos, Real.rpow_intCast]
  have hpow : (0 : ℝ) < 2 ^ n := by positivity
  have hg : (1 : ℝ) ≤ 2 ^ ((f : ℝ) / 2 ^ j) := Real.one_le_rpow one_le_two hfr0.le
  have hnear := fxExp2_near hle
  rw [hfr] at hnear
  obtain ⟨hm, hrel⟩ := near_of_units hnear (le_trans (by norm_num) hg)
  have hno (a q : ℤ) : (2 : ℝ) ^ ((n : ℝ) + f / 2 ^ j) ≠ a * (2 : ℝ) ^ q := by
    intro h
    obtain ⟨i, hi⟩ := int_of_two_rpow_dyadic (p := n * 2 ^ j + f) (k := -j) (by
      rw [zpow_neg, zpow_natCast]
      push_cast
      field_simp) h
    have hlo : (n : ℝ) < i := by linarith
    have hhi : (i : ℝ) < (n + 1 : ℤ) := by push_cast; linarith
    exact absurd (Int.cast_lt.1 hlo) (not_lt.2 (Int.lt_add_one_iff.1 (Int.cast_lt.1 hhi)))
  refine functionDelivers_near (by simpa using (Real.rpow_pos_of_pos two_pos _).le) hm ?_ hno
  rw [hsplit, abs_of_pos (mul_pos hpow (zero_lt_one.trans_le hg)), sub_eq_add_neg n, zpow_add₀ two_ne_zero, mul_left_comm, mul_zpow_fxP, ← mul_sub,
    abs_mul, abs_of_pos hpow, mul_left_comm]
  exact mul_le_mul_of_nonneg_left hrel hpow.le

theorem trnExp2_fin (rm : Rm) (s : Bool) (hm : m < 2 ^ 24) (e : Int) :
    FunctionDelivers rm false ((2 : ℝ) ^ real (.fin s m e)) (trnExp2 rm (.fin s m e)) := by
  rw [trnExp2]
  by_cases h0 : m = 0
  · have hone : (2 : ℝ) ^ real (.fin s m e) = real (.fin false 1 0) := by rw [h0]; simp [real_fin]
    rw [if_pos (by simpa using h0), hone]
    exact functionDelivers_exact rm false 1 0 nofun
  rw [if_neg (by simpa using h0)]
  by_cases htiny : e + bitLen m < -60
  · rw [if_pos htiny]
    exact trnExp2_tiny h0 htiny
  rw [if_neg htiny]
  by_cases hlarge : 10 < e + bitLen m
  · rw [if_pos hlarge]
    exact trnExp2_large h0 hlarge
  rw [if_neg hlarge]
  have hbits := bitLen_le hm
  have hj : (-(min e 0)).toNat ≤ 256 := by omega
  have hreal : real (.fin s m e) = ((FVal.fin s m e).scaled (min e 0) : ℝ) / 2 ^ (-(min e 0)).toNat := by
    rw [FVal.real_eq_scaled ⟨s, m, e, rfl⟩ (q := min e 0) (min_le_left e 0), div_eq_mul_inv, ← zpow_natCast, ← zpow_neg]
    congr 2
    omega
  rw [hreal]
  generalize (FVal.fin s m e).scaled (min e 0) = N
  generalize (-(min e 0)).toNat = j at *
  obtain ⟨hf, hsplit⟩ := rpow_split N j
  have hd : ((2 : Int) ^ j).toNat = 2 ^ j := by exact_mod_cast Int.toNat_natCast (2 ^ j)
  simp only [hd]
  rw [hsplit]
  generalize (N - N / 2 ^ j * 2 ^ j).toNat = f at *
  generalize N / 2 ^ j = n at *
  by_cases hf0 : f = 0
  · have hint : (2 : ℝ) ^ ((n : ℝ) + f / 2 ^ j) = real (.fin false 1 n) := by simp [hf0, real_fin, Real.rpow_intCast]
    rw [if_pos (by simpa using hf0), hint]
    exact functionDelivers_exact rm false 1 n nofun
  · rw [if_neg (by simpa using hf0)]
    exact fxExp2_delivers hj hf0 hf

end Exp2

end Sys2Proof.Machine
end

section
/-! FTRN (R71): the logarithm, the sine and the cosine on finite operands, and what the instruction delivers. -/

namespace Sys2Proof.Machine

open Sys2Proof.Says

/-! ### log2 A -/

section Log2

variable {rm : Rm} {m : Nat} {e : Int}

/-- A significand with its leading bit put at 1 in fixed point. -/
theorem log2_normal (hm : m ≠ 0) (hb : m < 2 ^ 24) : let x := m * 2 ^ (fxP + 1 - bitLen m)
    fxOne ≤ x ∧ x < 2 * fxOne ∧ (m : ℝ) * (2 : ℝ) ^ e = 2 ^ (e + bitLen m - 1) * (x / fxUnit) ∧
      (x ≠ fxOne → 1 + (2 : ℝ) ^ (-23 : ℤ) ≤ x / fxUnit) ∧ x / fxUnit ≤ 2 - (2 : ℝ) ^ (-23 : ℤ) := by
  intro x
  obtain ⟨j, hj, hlo, hhi⟩ := bitLen_bounds hm
  have hj24 : j ≤ 23 := by have := bitLen_le hb; omega
  obtain ⟨i, hi⟩ : ∃ i, j + i = 23 := ⟨23 - j, by omega⟩
  have hunit : fxUnit = 2 ^ j * 2 ^ (fxP + 1 - bitLen m) := by
    rw [fxUnit, ← pow_add, hj]
    congr 1
    simp only [fxP]
    omega
  have hone : fxOne = 2 ^ j * 2 ^ (fxP + 1 - bitLen m) := by
    have := fxOne_cast.trans hunit
    exact_mod_cast this
  have hquot : (x : ℝ) / fxUnit = m / 2 ^ j := by
    rw [hunit]
    simp only [x]
    push_cast
    field_simp
  have hstep : (2 : ℝ) ^ (-23 : ℤ) * 2 ^ j = ((2 : ℝ) ^ i)⁻¹ := by
    rw [show (-23 : ℤ) = -(j : ℤ) + -(i : ℤ) by omega, zpow_add₀ two_ne_zero, zpow_neg, zpow_neg, zpow_natCast, zpow_natCast]
    field_simp
  have hinv : ((2 : ℝ) ^ i)⁻¹ ≤ 1 := inv_le_one_of_one_le₀ (one_le_pow₀ one_le_two)
  have hpos : (0 : ℝ) < 2 ^ j := by positivity
  refine ⟨?_, ?_, ?_, fun hne => ?_, ?_⟩
  · rw [hone]
    exact Nat.mul_le_mul_right _ hlo
  · rw [hone, ← mul_assoc, mul_comm 2, ← pow_succ]
    exact Nat.mul_lt_mul_of_pos_right hhi (Nat.two_pow_pos _)
  · rw [hquot, hj, show e + ((j + 1 : Nat) : Int) - 1 = e + j by push_cast; ring, zpow_add₀ two_ne_zero, zpow_natCast]
    field_simp
  · have hgt : 2 ^ j + 1 ≤ m := by
      refine lt_of_le_of_ne hlo fun h => hne ?_
      rw [hone, h]
    have : (2 : ℝ) ^ j + 1 ≤ m := by exact_mod_cast hgt
    rw [hquot, le_div_iff₀ hpos, add_mul, one_mul, hstep]
    linarith
  · have : (m : ℝ) + 1 ≤ 2 ^ (j + 1) := by exact_mod_cast hhi
    rw [hquot, div_le_iff₀ hpos, sub_mul, hstep]
    rw [pow_succ] at this
    linarith

/-- Where t is 2^-23 above 1 and below 2, its logarithm is 2^-24 above 0 and below 1. -/
theorem logb_apart {t : ℝ} (hlo : 1 + (2 : ℝ) ^ (-23 : ℤ) ≤ t) (hhi : t ≤ 2 - (2 : ℝ) ^ (-23 : ℤ)) :
    (2 : ℝ) ^ (-24 : ℤ) ≤ Real.logb 2 t ∧ Real.logb 2 t ≤ 1 - (2 : ℝ) ^ (-24 : ℤ) := by
  have hlog := Real.log_two_lt_d9
  have hlog0 : 0 < Real.log 2 := Real.log_pos one_lt_two
  norm_num at hlo hhi ⊢
  have ht : 0 < t := by linarith
  have side {u : ℝ} (hu : 0 < u) (h : 1 / 16777216 ≤ 1 - u⁻¹) : 1 / 16777216 ≤ Real.log u / Real.log 2 := by
    rw [le_div_iff₀ hlog0]
    have := Real.one_sub_inv_le_log_of_pos hu
    nlinarith
  constructor
  · exact side ht (by rw [le_sub_comm, inv_le_comm₀ ht (by norm_num)]; norm_num; linarith)
  · have h2t := side (div_pos two_pos ht) (by rw [inv_div]; linarith)
    rw [Real.log_div two_ne_zero ht.ne', sub_div, div_self hlog0.ne'] at h2t
    rw [← Real.log_div_log]
    linarith

/-- A signed result in fixed point, near to one that is no dyadic number. -/
theorem functionDelivers_units {z : Bool} {v : Int} {y : ℝ} (h : |(v : ℝ) - fxUnit * y| ≤ 2 ^ 16) (hy : (2 : ℝ) ^ (-70 : ℤ) ≤ |y|)
    (hno : ∀ n q : ℤ, y ≠ n * (2 : ℝ) ^ q) : FunctionDelivers rm z y (inexact32 rm (decide (v < 0)) v.natAbs (-(fxP : Int))) := by
  have hP := fxUnit_pos
  have hbig : (2 : ℝ) ^ 16 < fxUnit * |y| := lt_of_lt_of_le (by norm_num [fxUnit]) (mul_le_mul_of_nonneg_left hy hP.le)
  have hsign : v < 0 ↔ y < 0 := by
    obtain ⟨hlo, hhi⟩ := abs_le.1 h
    rw [← Int.cast_lt_zero (R := ℝ)]
    rcases lt_or_ge y 0 with hneg | hpos
    · rw [abs_of_neg hneg] at hbig
      exact iff_of_true (by linarith) hneg
    · rw [abs_of_nonneg hpos] at hbig
      exact iff_of_false (not_lt.2 (by linarith)) (not_lt.2 hpos)
  refine functionDelivers_fx (by rw [decide_eq_true_iff, hsign]) ?_ hy hno
  rw [Nat.cast_natAbs, Int.cast_abs, ← abs_of_pos hP, ← abs_mul]
  exact (abs_abs_sub_abs_le _ _).trans h

/-- A whole number and a fraction that is near neither 0 nor 1 come near no whole number. -/
theorem whole_apart {k : Int} {l : ℝ} (hlo : (2 : ℝ) ^ (-24 : ℤ) ≤ l) (hhi : l ≤ 1 - (2 : ℝ) ^ (-24 : ℤ)) : (2 : ℝ) ^ (-70 : ℤ) ≤ |k + l| := by
  refine le_trans (by norm_num : (2 : ℝ) ^ (-70 : ℤ) ≤ 2 ^ (-24 : ℤ)) ?_
  rcases le_or_gt 0 k with hk | hk
  · have : (0 : ℝ) ≤ k := Int.cast_nonneg hk
    exact (by linarith : (2 : ℝ) ^ (-24 : ℤ) ≤ k + l).trans (le_abs_self _)
  · have : (k : ℝ) ≤ -1 := by exact_mod_cast Int.le_sub_one_of_lt hk
    exact (by linarith : (2 : ℝ) ^ (-24 : ℤ) ≤ -(k + l)).trans (neg_le_abs _)

theorem log2_units {k : Int} {x : Nat} {l : ℝ} (h : |(fxLog2 x : ℝ) - fxUnit * l| ≤ 2 ^ 16) :
    |((k * fxOne + fxLog2 x : Int) : ℝ) - fxUnit * (k + l)| ≤ 2 ^ 16 := by
  convert h using 2
  push_cast
  rw [fxOne_cast]
  ring

theorem trnLog2_fin (rm : Rm) (hm0 : m ≠ 0) (hm : m < 2 ^ 24) (e : Int) :
    FunctionDelivers rm false (Real.logb 2 (real (.fin false m e))) (trnLog2 rm (.fin false m e)) := by
  obtain ⟨hlo, hhi, hval, hgt, hlt⟩ := log2_normal (e := e) hm0 hm
  rw [trnLog2, if_neg (by simpa using hm0), if_neg Bool.false_ne_true, real_fin, if_neg Bool.false_ne_true, one_mul, hval]
  generalize m * 2 ^ (fxP + 1 - bitLen m) = x at *
  generalize e + bitLen m - 1 = k at *
  have hx : (0 : ℝ) < x / fxUnit := div_pos (by exact_mod_cast (by decide : 0 < fxOne).trans_le hlo) fxUnit_pos
  have hy : Real.logb 2 (2 ^ k * (x / fxUnit)) = k + Real.logb 2 (x / fxUnit) := by
    rw [Real.logb_mul (by positivity) hx.ne', ← Real.rpow_intCast, Real.logb_rpow two_pos (by norm_num)]
  by_cases hone : x = fxOne
  · have hint : (k : ℝ) + Real.logb 2 (x / fxUnit) = real (ofIntVal k) := by
      rw [hone, fxOne_cast, div_self fxUnit_pos.ne', Real.logb_one, add_zero, real_ofIntVal]
    rw [hy, hint, if_pos (by simpa using hone)]
    exact functionDelivers_exact rm _ _ _ fun h => by rw [Int.natAbs_eq_zero.1 h]; rfl
  · rw [if_neg (by simpa using hone)]
    obtain ⟨hl0, hl1⟩ := logb_apart (hgt hone) hlt
    have hnear := fxLog2_near hlo hhi.le
    have hno (a q : ℤ) : (k : ℝ) + Real.logb 2 (x / fxUnit) ≠ a * (2 : ℝ) ^ q := by
      intro h
      obtain ⟨i, hi⟩ := int_of_two_rpow_dyadic (w := a * (2 : ℝ) ^ q) (p := a) (k := q) (n := x) (q := k - fxP) rfl (by
        rw [← h, ← hy, Real.rpow_logb two_pos (by norm_num) (by positivity), sub_eq_add_neg, zpow_add₀ two_ne_zero, mul_left_comm, Int.cast_natCast,
          mul_zpow_fxP])
      rw [← h] at hi
      norm_num at hl0 hl1
      have hgt : (k : ℝ) < i := by linarith
      have hlt : (i : ℝ) < (k + 1 : ℤ) := by push_cast; linarith
      exact absurd (Int.cast_lt.1 hgt) (not_lt.2 (Int.lt_add_one_iff.1 (Int.cast_lt.1 hlt)))
    rw [hy]
    exact functionDelivers_units (log2_units hnear) (whole_apart hl0 hl1) hno

end Log2

end Sys2Proof.Machine
end

section
/-! FTRN (R71): sine and cosine, and what the instruction delivers. -/

namespace Sys2Proof.Machine

open Sys2Proof.Says

/-! ### sin(pi r) and cos(pi r) of a reduced fraction -/

section Reduced

variable {rm : Rm} {s z : Bool} {n d : Nat} {g : ℝ}

/-- The sign of a result, as a factor. -/
def signOf (s : Bool) : ℝ := if s then -1 else 1

theorem signOf_pos (hg : 0 < g) (s : Bool) : |signOf s * g| = g ∧ (s = true ↔ signOf s * g < 0) := by
  cases s
  · simp [signOf, abs_of_pos hg, hg.le]
  · simp [signOf, abs_of_pos hg, hg]

theorem signOf_not_dyadic (h : ∀ n q : ℤ, g ≠ n * (2 : ℝ) ^ q) (s : Bool) (n q : ℤ) : signOf s * g ≠ n * (2 : ℝ) ^ q := by
  cases s
  · simpa [signOf] using h n q
  · have := h (-n) q
    push_cast at this
    simpa [signOf, neg_eq_iff_eq_neg] using this

theorem fraction_pos (h0 : 0 < n) : (0 : ℝ) < n / 2 ^ d := div_pos (by exact_mod_cast h0) (by positivity)

theorem fraction_le {k : Nat} (hk : 0 < k) (h : k * n ≤ 2 ^ d) : (n : ℝ) / 2 ^ d ≤ 1 / k := by
  have hk' : (0 : ℝ) < k := by exact_mod_cast hk
  rw [div_le_div_iff₀ (by positivity) hk', one_mul, mul_comm]
  exact_mod_cast h

/-- A fraction between 0 and 1/2 is no multiple of 1/2. -/
theorem not_half_integer (h0 : 0 < n) (h2 : 2 * n < 2 ^ d) : ¬ ∃ i : ℤ, 2 * (((n : ℤ) : ℝ) / 2 ^ d) = i := by
  rintro ⟨i, hi⟩
  have hlt : (2 : ℝ) * n < 2 ^ d := by exact_mod_cast h2
  have hlo : (0 : ℝ) < i := by rw [← hi]; exact mul_pos two_pos (fraction_pos h0)
  have hhi : (i : ℝ) < (1 : ℤ) := by
    rw [← hi, Int.cast_natCast, ← mul_div_assoc, Int.cast_one, div_lt_one (by positivity)]
    exact hlt
  have h1 : 0 < i := by exact_mod_cast hlo
  have h2 : i < 1 := Int.cast_lt.1 hhi
  omega

theorem sin_not_dyadic (h0 : 0 < n) (h2 : 2 * n < 2 ^ d) (a q : ℤ) : Real.sin (Real.pi * (n / 2 ^ d)) ≠ a * (2 : ℝ) ^ q :=
  fun h => not_half_integer h0 h2 (int_of_sin_dyadic (p := n) (n := a) (q := q) (by rw [Int.cast_natCast]; exact h))

theorem cos_not_dyadic (h0 : 0 < n) (h2 : 2 * n < 2 ^ d) (a q : ℤ) : Real.cos (Real.pi * (n / 2 ^ d)) ≠ a * (2 : ℝ) ^ q :=
  fun h => not_half_integer h0 h2 (int_of_cos_dyadic (p := n) (n := a) (q := q) (by rw [Int.cast_natCast]; exact h))

theorem fraction_fx_le {k : Nat} (h : k * n ≤ 2 ^ d) : k * (n * fxOne / 2 ^ d) ≤ fxOne := by
  refine (Nat.mul_div_le_mul_div_assoc ..).trans (Nat.div_le_of_le_mul ?_)
  rw [← mul_assoc]
  exact Nat.mul_le_mul_right _ h

/-- On the first quarter of its period the sine lies above its chord. -/
theorem two_mul_le_sin {r : ℝ} (h0 : 0 ≤ r) (h1 : r ≤ 1 / 2) : 2 * r ≤ Real.sin (Real.pi * r) := by
  have := Real.mul_le_sin (mul_nonneg Real.pi_pos.le h0) (by linarith [mul_le_mul_of_nonneg_left h1 Real.pi_pos.le])
  rwa [← mul_assoc, div_mul_cancel₀ _ Real.pi_pos.ne'] at this

/-- So near to 0 that a sine is its argument. -/
theorem sin_small {r : ℝ} (h0 : 0 < r) (h1 : r ≤ (2 : ℝ) ^ (-61 : ℤ)) :
    |Real.sin (Real.pi * r) - r * (fxPi / fxUnit)| ≤ (2 : ℝ) ^ (-100 : ℤ) * Real.sin (Real.pi * r) := by
  have hpi := Real.pi_lt_d2
  have hpos := Real.pi_pos
  have hx : 0 < Real.pi * r := mul_pos hpos h0
  have hx1 : Real.pi * r ≤ 4 * (2 : ℝ) ^ (-61 : ℤ) := mul_le_mul (by linarith) h1 h0.le (by norm_num)
  have hlo := Real.sin_gt_sub_cube hx
  have hhi := Real.sin_lt hx
  have hchord := two_mul_le_sin h0.le (h1.trans (by norm_num))
  have hcube : (Real.pi * r) ^ 3 / 6 ≤ (2 : ℝ) ^ (-101 : ℤ) * (2 * r) := by
    have hsq : (Real.pi * r) ^ 2 ≤ (4 * (2 : ℝ) ^ (-61 : ℤ)) ^ 2 := pow_le_pow_left₀ hx.le hx1 2
    calc (Real.pi * r) ^ 3 / 6 = (Real.pi * r) ^ 2 * (Real.pi * r) / 6 := by ring
      _ ≤ (4 * (2 : ℝ) ^ (-61 : ℤ)) ^ 2 * (4 * r) / 6 := by
        refine div_le_div_of_nonneg_right (mul_le_mul hsq ?_ hx.le (by positivity)) (by norm_num)
        exact mul_le_mul_of_nonneg_right (by linarith) h0.le
      _ ≤ _ := by norm_num; linarith
  have hconst : |Real.pi * r - r * (fxPi / fxUnit)| ≤ (2 : ℝ) ^ (-101 : ℤ) * (2 * r) := by
    have hP := fxUnit_pos
    have hsmall : (2 : ℝ) ^ 15 / fxUnit ≤ (2 : ℝ) ^ (-100 : ℤ) := by norm_num [fxUnit]
    rw [show Real.pi * r - r * (fxPi / fxUnit) = -(r * ((fxPi - fxUnit * Real.pi) / fxUnit)) by field_simp; ring, abs_neg, abs_mul, abs_div,
      abs_of_pos h0, abs_of_pos hP]
    calc _ ≤ r * (2 : ℝ) ^ (-100 : ℤ) := mul_le_mul_of_nonneg_left ((div_le_div_of_nonneg_right fxPi_near hP.le).trans hsmall) h0.le
      _ = _ := by norm_num; ring
  have hsin : |Real.sin (Real.pi * r) - Real.pi * r| ≤ (2 : ℝ) ^ (-101 : ℤ) * (2 * r) := by
    rw [abs_sub_comm, abs_of_pos (sub_pos.2 hhi)]
    exact (sub_lt_comm.1 hlo).le.trans hcube
  refine (abs_sub_le _ _ _).trans ((add_le_add hsin hconst).trans ?_)
  calc _ = (2 : ℝ) ^ (-100 : ℤ) * (2 * r) := by norm_num; ring
    _ ≤ _ := mul_le_mul_of_nonneg_left hchord (by positivity)

/-- A fraction whose bits end k places or more behind the point, and one whose bits begin before. -/
theorem fraction_small {k : Nat} (h0 : 0 < n) (h : bitLen n + k < d) : (n : ℝ) / 2 ^ d ≤ (2 : ℝ) ^ (-((k : ℤ) + 1)) := by
  have hlt := (mag_bounds h0.ne' (-d)).2
  rw [zpow_neg, zpow_natCast, ← div_eq_mul_inv] at hlt
  exact hlt.le.trans (zpow_le_zpow_right₀ one_le_two (by omega))

theorem fraction_large {k : Nat} (h0 : 0 < n) (h : ¬ bitLen n + k < d) : (2 : ℝ) ^ (-((k : ℤ) + 1)) ≤ (n : ℝ) / 2 ^ d := by
  have hle := (mag_bounds h0.ne' (-d)).1
  rw [zpow_neg (2 : ℝ) (d : ℤ), zpow_natCast, ← div_eq_mul_inv] at hle
  exact (zpow_le_zpow_right₀ one_le_two (by omega)).trans hle

theorem sinPiFrac_delivers (h0 : 0 < n) (h2 : 2 * n ≤ 2 ^ d) (hn : n < 2 ^ 26) :
    FunctionDelivers rm z (signOf s * Real.sin (Real.pi * (n / 2 ^ d))) (sinPiFrac rm s n d) := by
  have hr0 := fraction_pos (d := d) h0
  have hr2 := fraction_le two_pos h2
  push_cast at hr2
  have hchord := two_mul_le_sin hr0.le hr2
  obtain ⟨habs, hsign⟩ := signOf_pos (g := Real.sin (Real.pi * (n / 2 ^ d))) (by linarith) s
  rw [sinPiFrac]
  by_cases hhalf : 2 * n = 2 ^ d
  · have hone : signOf s * Real.sin (Real.pi * (n / 2 ^ d)) = real (.fin s 1 0) := by
      have : (n : ℝ) / 2 ^ d = 1 / 2 := by
        have : (2 : ℝ) * n = 2 ^ d := by exact_mod_cast hhalf
        rw [← this]
        have : (n : ℝ) ≠ 0 := by exact_mod_cast h0.ne'
        field_simp
      rw [this, mul_one_div, Real.sin_pi_div_two, real_fin, signOf]
      simp
    rw [if_pos (by simpa using hhalf), hone]
    exact functionDelivers_exact rm s 1 0 nofun
  have hno := signOf_not_dyadic (sin_not_dyadic h0 (lt_of_le_of_ne h2 hhalf)) s
  rw [if_neg (by simpa using hhalf)]
  by_cases hsmall : bitLen n + 60 < d
  · rw [if_pos hsmall]
    refine functionDelivers_near hsign ?_ ?_ hno
    · exact le_trans (by decide) (Nat.le_mul_of_pos_left fxPi h0)
    · have hval : ((n * fxPi : Nat) : ℝ) * (2 : ℝ) ^ (-(fxP : Int) - d) = n / 2 ^ d * (fxPi / fxUnit) := by
        rw [sub_eq_add_neg, zpow_add₀ two_ne_zero, ← mul_assoc, mul_zpow_fxP, zpow_neg, zpow_natCast]
        push_cast
        field_simp
      rw [habs, hval]
      exact sin_small hr0 (fraction_small h0 hsmall)
  · rw [if_neg hsmall]
    have hd : d ≤ 256 := by have := bitLen_le hn; omega
    have hnear := fxSinPi_near (fraction_fx_le h2)
    rw [fraction_fx hd] at hnear
    refine functionDelivers_fx hsign (by rwa [habs]) ?_ hno
    rw [habs]
    refine le_trans ?_ ((fraction_large h0 hsmall).trans (by linarith))
    norm_num

theorem cosPiFrac_delivers (h0 : 0 < n) (h2 : 2 * n < 2 ^ d) (hn : n < 2 ^ 24) :
    FunctionDelivers rm z (signOf s * Real.cos (Real.pi * (n / 2 ^ d))) (cosPiFrac rm s n d) := by
  rw [cosPiFrac]
  by_cases h4 : 2 ^ d < 4 * n
  · have hcos : Real.cos (Real.pi * (n / 2 ^ d)) = Real.sin (Real.pi * ((2 ^ d - 2 * n : Nat) / 2 ^ (d + 1))) := by
      rw [← Real.sin_pi_div_two_sub, Nat.cast_sub h2.le]
      congr 1
      push_cast
      rw [pow_succ]
      field_simp
    rw [if_pos h4, hcos]
    exact sinPiFrac_delivers (by omega) (by rw [pow_succ]; omega) (by omega)
  rw [if_neg h4]
  have hr0 := fraction_pos (d := d) h0
  have hr4 := fraction_le (k := 4) (by decide) (not_lt.1 h4)
  push_cast at hr4
  have hpos := Real.pi_pos
  have hpi := Real.pi_lt_d2
  have hx0 : 0 < Real.pi * (n / 2 ^ d) := mul_pos hpos hr0
  have hlow := Real.one_sub_sq_div_two_le_cos (x := Real.pi * (n / 2 ^ d))
  have hno := signOf_not_dyadic (cos_not_dyadic h0 h2) s
  have hx1 : Real.pi * (n / 2 ^ d) ≤ 4 / 5 := by
    have := mul_le_mul_of_nonneg_left hr4 hpos.le
    linarith
  have hge : 1 / 2 ≤ Real.cos (Real.pi * (n / 2 ^ d)) := by nlinarith
  obtain ⟨habs, hsign⟩ := signOf_pos (g := Real.cos (Real.pi * (n / 2 ^ d))) (by linarith) s
  by_cases hsmall : bitLen n + 40 < d
  · rw [if_pos hsmall]
    refine functionDelivers_of_roundsOnce hsign (abs_pos.1 (by rw [habs]; linarith)) ?_
    rw [habs]
    refine nearOne_roundsOnce false ⟨?_, ?_⟩
    · have hx : Real.pi * (n / 2 ^ d) ≤ 4 * (2 : ℝ) ^ (-41 : ℤ) := mul_le_mul (by linarith) (fraction_small h0 hsmall) hr0.le (by norm_num)
      have hsq := pow_le_pow_left₀ hx0.le hx 2
      norm_num at hsq ⊢
      linarith
    · have := Real.cos_lt_cos_of_nonneg_of_le_pi_div_two le_rfl (by linarith [Real.pi_gt_three]) hx0
      rwa [Real.cos_zero] at this
  · rw [if_neg hsmall]
    have hd : d ≤ 256 := by have := bitLen_le hn; omega
    have hnear := fxCosPi_near (fraction_fx_le (not_lt.1 h4))
    rw [fraction_fx hd] at hnear
    refine functionDelivers_fx hsign (by rwa [habs]) ?_ hno
    rw [habs]
    exact le_trans (by norm_num) hge

end Reduced

end Sys2Proof.Machine
end

section
/-! FTRN (R71): the reduction of the argument of a sine and a cosine, and what the instruction delivers. -/

namespace Sys2Proof.Machine

open Sys2Proof.Says

variable {rm : Rm} {s : Bool} {m n d r : Nat} {e : Int}

/-! ### The reduction modulo 2 -/

/-- What stays of |A| is below 2, keeps to 24 bits, and differs from |A| by a multiple of 2. -/
theorem mod2_spec (hm : m < 2 ^ 24) (h : mod2 m e = (n, d)) :
    n < 2 * 2 ^ d ∧ n < 2 ^ 24 ∧ ∃ j : ℕ, (m : ℝ) * (2 : ℝ) ^ e = n / 2 ^ d + j * 2 := by
  rw [mod2] at h
  split at h
  · next he =>
    obtain ⟨rfl, rfl⟩ := Prod.mk.inj h
    obtain ⟨k, rfl⟩ := Int.eq_ofNat_of_zero_le he
    have hlt := Nat.mod_lt (m * 2 ^ (min (k : Int) 1).toNat) two_pos
    refine ⟨hlt, hlt.trans (by norm_num), ?_⟩
    have hpar : m * 2 ^ (min (k : Int) 1).toNat % 2 = m * 2 ^ k % 2 := by
      cases k with
      | zero => rfl
      | succ k =>
        rw [show (min ((k + 1 : ℕ) : Int) 1).toNat = 1 by omega, pow_one, pow_succ, ← mul_assoc, Nat.mul_mod_left, Nat.mul_mod_left]
    refine ⟨m * 2 ^ k / 2, ?_⟩
    rw [hpar, pow_zero, div_one]
    exact_mod_cast (Nat.mod_add_div' (m * 2 ^ k) 2).symm
  · next he =>
    obtain ⟨rfl, rfl⟩ := Prod.mk.inj h
    obtain ⟨k, hk⟩ := Int.eq_ofNat_of_zero_le (show 0 ≤ -e by omega)
    obtain rfl : e = -(k : Int) := by omega
    rw [neg_neg, Int.toNat_natCast]
    refine ⟨by rw [← pow_succ']; exact Nat.mod_lt _ (by positivity), (Nat.mod_le _ _).trans_lt hm, m / 2 ^ (k + 1), ?_⟩
    rw [zpow_neg, zpow_natCast, ← div_eq_mul_inv, div_add' _ _ _ (by positivity), div_left_inj' (by positivity), mul_assoc, ← pow_succ']
    exact_mod_cast (Nat.mod_add_div' m (2 ^ (k + 1))).symm

theorem fraction_sub (h : n ≤ 2 ^ d) : ((2 ^ d - n : ℕ) : ℝ) / 2 ^ d = 1 - n / 2 ^ d := by
  rw [Nat.cast_sub h, sub_div]
  push_cast
  rw [div_self (by positivity)]

theorem signOf_xor (s t : Bool) : signOf (s ^^ t) = signOf s * signOf t := by cases s <;> cases t <;> norm_num [signOf]

theorem real_fin_signOf (s : Bool) (m : Nat) (e : Int) : real (.fin s m e) = signOf s * (m * (2 : ℝ) ^ e) := by
  cases s <;> simp [real_fin, signOf]

/-! ### The sine -/

theorem sin_real_fin (s : Bool) (hm : m < 2 ^ 24) (h : mod2 m e = (n, d)) :
    Real.sin (Real.pi * real (.fin s m e)) = signOf s * Real.sin (Real.pi * (n / 2 ^ d)) := by
  obtain ⟨-, -, j, hj⟩ := mod2_spec hm h
  have hturn : Real.sin (Real.pi * (n / 2 ^ d + j * 2)) = Real.sin (Real.pi * (n / 2 ^ d)) := by
    rw [← Real.sin_add_nat_mul_two_pi (Real.pi * (n / 2 ^ d)) j]
    congr 1
    ring
  rw [real_fin_signOf, hj]
  cases s <;> simp only [signOf, if_true, Bool.false_eq_true, if_false, one_mul, neg_one_mul, mul_neg, Real.sin_neg, hturn]

/-- The second half of a turn has the other sign. -/
theorem sin_half_turn (h : n < 2 * 2 ^ d) :
    Real.sin (Real.pi * (n / 2 ^ d)) = signOf (decide (2 ^ d ≤ n)) * Real.sin (Real.pi * ((n % 2 ^ d : ℕ) / 2 ^ d)) := by
  by_cases hn : 2 ^ d ≤ n
  · obtain ⟨r, rfl⟩ := Nat.exists_eq_add_of_le hn
    rw [Nat.add_mod_left, Nat.mod_eq_of_lt (by omega), decide_eq_true hn, signOf, if_pos rfl, neg_one_mul, ← Real.sin_add_pi]
    congr 1
    push_cast
    field_simp
    ring
  · rw [Nat.mod_eq_of_lt (not_le.1 hn), decide_eq_false hn]
    simp [signOf]

/-- Each half of a turn is symmetric about its middle. -/
theorem sin_mirror (h : r ≤ 2 ^ d) : Real.sin (Real.pi * ((min r (2 ^ d - r) : ℕ) / 2 ^ d)) = Real.sin (Real.pi * (r / 2 ^ d)) := by
  rcases min_choice r (2 ^ d - r) with hr | hr
  · rw [hr]
  · rw [hr, fraction_sub h, mul_one_sub, Real.sin_pi_sub]

/-- The sine of an argument that is reduced modulo 2, and to the first quarter of the turn. -/
theorem sin_reduced (s : Bool) (hm : m < 2 ^ 24) (h : mod2 m e = (n, d)) :
    Real.sin (Real.pi * real (.fin s m e)) =
      signOf (s ^^ decide (2 ^ d ≤ n)) * Real.sin (Real.pi * ((min (n % 2 ^ d) (2 ^ d - n % 2 ^ d) : ℕ) / 2 ^ d)) := by
  rw [sin_real_fin s hm h, sin_half_turn (mod2_spec hm h).1, sin_mirror (Nat.mod_lt _ (by positivity)).le, signOf_xor, mul_assoc]

theorem sin_eq_zero_iff_mod (s : Bool) (hm : m < 2 ^ 24) (h : mod2 m e = (n, d)) : Real.sin (Real.pi * real (.fin s m e)) = 0 ↔ n % 2 ^ d = 0 := by
  have hr := Nat.mod_lt n (show 0 < 2 ^ d by positivity)
  rw [sin_reduced s hm h]
  refine ⟨fun h0 => ?_, fun h0 => by simp [h0]⟩
  by_contra hne
  have hpos : 0 < min (n % 2 ^ d) (2 ^ d - n % 2 ^ d) := by omega
  have h2 := fraction_le (d := d) (n := min (n % 2 ^ d) (2 ^ d - n % 2 ^ d)) two_pos (by omega)
  push_cast only [Nat.cast_ofNat] at h2
  have hsin := two_mul_le_sin (fraction_pos hpos).le h2
  have habs := (signOf_pos (lt_of_lt_of_le (mul_pos two_pos (fraction_pos hpos)) hsin) (s ^^ decide (2 ^ d ≤ n))).1
  rw [h0, abs_zero] at habs
  linarith [fraction_pos (d := d) hpos]

theorem trnSinPi_fin (rm : Rm) (s : Bool) (hm : m < 2 ^ 24) (e : Int) :
    FunctionDelivers rm s (Real.sin (Real.pi * real (.fin s m e))) (trnSinPi rm (.fin s m e)) := by
  rcases h : mod2 m e with ⟨n, d⟩
  obtain ⟨-, hn, -⟩ := mod2_spec hm h
  have hr := Nat.mod_lt n (show 0 < 2 ^ d by positivity)
  have hrn := Nat.mod_le n (2 ^ d)
  simp only [trnSinPi, h]
  by_cases h0 : n % 2 ^ d = 0
  · rw [(sin_eq_zero_iff_mod s hm h).2 h0, if_pos (by simpa using h0), show (0 : ℝ) = real (.fin s 0 0) by simp [real_fin]]
    exact functionDelivers_exact rm s 0 0 fun _ => rfl
  · rw [sin_reduced s hm h, if_neg (by simpa using h0)]
    exact sinPiFrac_delivers (by omega) (by omega) (by omega)

/-- Of a whole number the sine is a zero with the operand's sign. -/
theorem trnSinPi_whole (rm : Rm) (hm : m < 2 ^ 24) (hw : ∃ i : ℤ, real (.fin s m e) = i) : trnSinPi rm (.fin s m e) = fin32 rm (.fin s 0 0, 0) := by
  rcases h : mod2 m e with ⟨n, d⟩
  obtain ⟨i, hi⟩ := hw
  have h0 := (sin_eq_zero_iff_mod s hm h).1 (by rw [hi, mul_comm, Real.sin_int_mul_pi])
  simp only [trnSinPi, h]
  exact if_pos (by simpa using h0)

/-! ### The cosine -/

theorem cos_real_fin (s : Bool) (hm : m < 2 ^ 24) (h : mod2 m e = (n, d)) :
    Real.cos (Real.pi * real (.fin s m e)) = Real.cos (Real.pi * (n / 2 ^ d)) := by
  obtain ⟨-, -, j, hj⟩ := mod2_spec hm h
  have hturn : Real.cos (Real.pi * (n / 2 ^ d + j * 2)) = Real.cos (Real.pi * (n / 2 ^ d)) := by
    rw [← Real.cos_add_nat_mul_two_pi (Real.pi * (n / 2 ^ d)) j]
    congr 1
    ring
  rw [real_fin_signOf, hj]
  cases s <;> simp only [signOf, if_true, Bool.false_eq_true, if_false, one_mul, neg_one_mul, mul_neg, Real.cos_neg, hturn]

/-- The cosine is even about half a turn … -/
def cosHalf (n d : Nat) : Nat := if 2 ^ d < n then 2 * 2 ^ d - n else n

theorem cosHalf_le (h : n < 2 * 2 ^ d) (hn : n < 2 ^ 24) : cosHalf n d ≤ 2 ^ d ∧ cosHalf n d < 2 ^ 24 := by
  rw [cosHalf]
  split <;> omega

theorem cos_cosHalf (h : n < 2 * 2 ^ d) : Real.cos (Real.pi * (cosHalf n d / 2 ^ d)) = Real.cos (Real.pi * (n / 2 ^ d)) := by
  rw [cosHalf]
  split
  · rw [← Real.cos_two_pi_sub, Nat.cast_sub h.le]
    congr 1
    push_cast
    field_simp
    ring
  · rfl

/-- … and odd about a quarter of it. -/
def cosQuarter (r d : Nat) : Nat := if 2 ^ d < 2 * r then 2 ^ d - r else r

theorem cosQuarter_le (h : r ≤ 2 ^ d) (hr : r < 2 ^ 24) : 2 * cosQuarter r d ≤ 2 ^ d ∧ cosQuarter r d < 2 ^ 24 := by
  rw [cosQuarter]
  split <;> omega

theorem two_mul_cosQuarter_eq_iff (h : r ≤ 2 ^ d) : 2 * cosQuarter r d = 2 ^ d ↔ 2 * r = 2 ^ d := by
  rw [cosQuarter]
  split <;> omega

theorem cos_cosQuarter (h : r ≤ 2 ^ d) :
    Real.cos (Real.pi * (r / 2 ^ d)) = signOf (decide (2 ^ d < 2 * r)) * Real.cos (Real.pi * (cosQuarter r d / 2 ^ d)) := by
  rw [cosQuarter]
  split
  · next hr => rw [fraction_sub h, mul_one_sub, Real.cos_pi_sub, decide_eq_true hr]; simp [signOf]
  · next hr => rw [decide_eq_false hr]; simp [signOf]

theorem trnCosPi_reduced (rm : Rm) (s : Bool) (h : mod2 m e = (n, d)) :
    trnCosPi rm (.fin s m e) =
      let r := cosHalf n d
      if 2 * r = 2 ^ d then fin32 rm (.fin false 0 0, 0)
      else if cosQuarter r d = 0 then fin32 rm (.fin (decide (2 ^ d < 2 * r)) 1 0, 0)
      else cosPiFrac rm (decide (2 ^ d < 2 * r)) (cosQuarter r d) d := by
  simp only [trnCosPi, h, cosHalf, cosQuarter, beq_iff_eq, decide_eq_true_eq] <;> rfl

/-- The cosine of an argument that is reduced modulo 2, and to the first quarter of the turn. -/
theorem cos_reduced (s : Bool) (hm : m < 2 ^ 24) (h : mod2 m e = (n, d)) :
    Real.cos (Real.pi * real (.fin s m e)) =
      signOf (decide (2 ^ d < 2 * cosHalf n d)) * Real.cos (Real.pi * (cosQuarter (cosHalf n d) d / 2 ^ d)) := by
  obtain ⟨h2, hn, -⟩ := mod2_spec hm h
  rw [cos_real_fin s hm h, ← cos_cosHalf h2, cos_cosQuarter (cosHalf_le h2 hn).1]

theorem cos_eq_zero_iff_half (s : Bool) (hm : m < 2 ^ 24) (h : mod2 m e = (n, d)) :
    Real.cos (Real.pi * real (.fin s m e)) = 0 ↔ 2 * cosHalf n d = 2 ^ d := by
  obtain ⟨h2, hn, -⟩ := mod2_spec hm h
  obtain ⟨hle, hlt⟩ := cosHalf_le h2 hn
  obtain ⟨hq, -⟩ := cosQuarter_le hle hlt
  rw [cos_reduced s hm h, ← two_mul_cosQuarter_eq_iff hle]
  generalize cosQuarter (cosHalf n d) d = q at hq
  have hq0 : (0 : ℝ) ≤ q / 2 ^ d := by positivity
  constructor
  · intro h0
    by_contra hne
    have hlt' : (q : ℝ) / 2 ^ d < 1 / 2 := by
      rw [div_lt_div_iff₀ (by positivity) two_pos, one_mul, mul_comm]
      exact_mod_cast lt_of_le_of_ne hq hne
    have hx := mul_lt_mul_of_pos_left hlt' Real.pi_pos
    have hpos := Real.cos_pos_of_mem_Ioo (x := Real.pi * (q / 2 ^ d)) ⟨by linarith [mul_nonneg Real.pi_pos.le hq0, Real.pi_pos], by linarith⟩
    have habs := (signOf_pos hpos (decide (2 ^ d < 2 * cosHalf n d))).1
    rw [h0, abs_zero] at habs
    exact hpos.ne habs
  · intro heq
    have : (q : ℝ) / 2 ^ d = 1 / 2 := by
      rw [div_eq_div_iff (by positivity) two_ne_zero, one_mul, mul_comm]
      exact_mod_cast heq
    rw [this, mul_one_div, Real.cos_pi_div_two, mul_zero]

theorem trnCosPi_fin (rm : Rm) (s : Bool) (hm : m < 2 ^ 24) (e : Int) :
    FunctionDelivers rm false (Real.cos (Real.pi * real (.fin s m e))) (trnCosPi rm (.fin s m e)) := by
  rcases h : mod2 m e with ⟨n, d⟩
  obtain ⟨h2, hn, -⟩ := mod2_spec hm h
  obtain ⟨hle, hlt⟩ := cosHalf_le h2 hn
  obtain ⟨hq, hq24⟩ := cosQuarter_le hle hlt
  rw [trnCosPi_reduced rm s h]
  dsimp only
  by_cases hhalf : 2 * cosHalf n d = 2 ^ d
  · rw [(cos_eq_zero_iff_half s hm h).2 hhalf, if_pos hhalf, show (0 : ℝ) = real (.fin false 0 0) by simp [real_fin]]
    exact functionDelivers_exact rm false 0 0 fun _ => rfl
  rw [if_neg hhalf, cos_reduced s hm h]
  by_cases h0 : cosQuarter (cosHalf n d) d = 0
  · rw [if_pos h0, h0, Nat.cast_zero, zero_div, mul_zero, Real.cos_zero,
      show signOf (decide (2 ^ d < 2 * cosHalf n d)) * 1 = real (.fin (decide (2 ^ d < 2 * cosHalf n d)) 1 0) by simp [real_fin_signOf]]
    exact functionDelivers_exact rm _ 1 0 nofun
  · rw [if_neg h0]
    exact cosPiFrac_delivers (by omega) (lt_of_le_of_ne hq (mt (two_mul_cosQuarter_eq_iff hle).1 hhalf)) hq24

/-- Half way between two whole numbers the cosine is +0. -/
theorem trnCosPi_half (rm : Rm) (hm : m < 2 ^ 24) (hw : ∃ i : ℤ, real (.fin s m e) = i + 1 / 2) :
    trnCosPi rm (.fin s m e) = fin32 rm (.fin false 0 0, 0) := by
  rcases h : mod2 m e with ⟨n, d⟩
  obtain ⟨i, hi⟩ := hw
  have hzero : Real.cos (Real.pi * real (.fin s m e)) = 0 := Real.cos_eq_zero_iff.2 ⟨i, by rw [hi]; ring⟩
  rw [trnCosPi_reduced rm s h]
  exact if_pos ((cos_eq_zero_iff_half s hm h).1 hzero)

/-! ### The instruction -/

/-- Settles O60: the reduction of each function's argument, its series' distance from the exact value, and the roundings that such a distance keeps. -/
theorem functionResults : Obligations.FunctionResults := by
  intro d a x rm fn pat
  refine computesSo_of_laneCompute (g := execFtrn fn rm d a x) (fun _ => rfl) (fun s => by rw [execFtrn, floatUnary]) fun _ k w => ?_
  cases hv : rd32 w with
  | nan => cases fn <;> exact ⟨fun _ => nan32_pat 0, nofun, nofun⟩
  | inf t =>
    refine ⟨nofun, fun t' ht => ?_, nofun⟩
    obtain rfl := FVal.inf.inj ht
    cases fn with
    | exp2 => cases t; exacts [fin32_inf rm false 0, rfl]
    | log2 => cases t; exacts [fin32_inf rm false 0, nan32_pat fNV]
    | sinpi | cospi => exact nan32_pat fNV
  | fin t m e =>
    obtain ⟨hm, -, -⟩ := rd32_fin_bounds hv
    refine ⟨nofun, nofun, fun t' m' e' heq => ?_⟩
    obtain ⟨rfl, rfl, rfl⟩ := FVal.fin.inj heq
    cases fn with
    | exp2 => exact ⟨nofun, nofun, nofun, nofun, fun _ => trnExp2_fin rm t hm e⟩
    | sinpi =>
      refine ⟨nofun, nofun, fun _ hw => ?_, nofun, fun _ => trnSinPi_fin rm t hm e⟩
      exact (congrArg pat (trnSinPi_whole rm hm hw)).trans (fin32_zero rm t)
    | cospi =>
      refine ⟨nofun, nofun, nofun, fun _ hw => ?_, fun _ => trnCosPi_fin rm t hm e⟩
      exact (congrArg pat (trnCosPi_half rm hm hw)).trans (fin32_zero rm false)
    | log2 =>
      refine ⟨?_, ?_, nofun, nofun, ?_⟩
      · rintro - rfl
        exact fin32_inf rm true fDZ
      · rintro - hm0 rfl
        rw [show ftrnVal .log2 rm (.fin true m e) = (nan32, fNV) by simp [ftrnVal, trnLog2, hm0]]
        exact nan32_pat fNV
      · intro hfin
        obtain ⟨hm0, rfl⟩ := hfin rfl
        exact trnLog2_fin rm hm0 hm e

end Sys2Proof.Machine
end

section
/-! Addresses through the windows, and accesses that are placed and checked (R83, R84, R236, R243, R363). -/

namespace Sys2Proof.Machine

open Sys2Proof.Says

/-! ### Windows -/

section Windows

variable {pkg t : Nat} {w28 w29 w30 : Word}

theorem bits_zero (w hi : Nat) : bits w hi 0 = w % 2 ^ (hi + 1) := by rw [bits, pow_zero, Nat.div_one, Nat.sub_zero]

/-- A field that reaches the top of a number is what stands above its low bits. -/
theorem bits_top {w hi : Nat} (lo : Nat) (hlo : lo ≤ hi) (hw : w < 2 ^ (hi + 1)) : bits w hi lo = w / 2 ^ lo := by
  rw [bits, Nat.mod_eq_of_lt]
  rw [Nat.div_lt_iff_lt_mul (by positivity), ← pow_add]
  rwa [Nat.sub_add_cancel (by omega)]

/-- An address whose top bits are 3 names the slice of a core of the issuer's package, where there is such a core (R83). -/
theorem formVa_slice (ht : t < 2 ^ 32) (h3 : t / 2 ^ 30 = 3) : formVa pkg w28 w29 w30 t =
    if 96 ≤ t / 2 ^ 21 % 2 ^ 7 then .error 1 else .ok (0x00FF000000000000 + pkg * 2 ^ 30 + t % 2 ^ 30) := by
  have hw : bits t 31 30 = 3 := (bits_top 30 (by decide) ht).trans h3
  simp only [formVa, Nat.mod_eq_of_lt ht, hw, beq_self_eq_true, if_true, bits_zero]
  rfl

/-- Any other goes through its window, whose top six bits must be 0; one that falls in slice space must leave 47 to 38 clear (R83, R215). -/
theorem formVa_window {h : Nat} (ht : t < 2 ^ 32) (h3 : t / 2 ^ 30 < 3)
    (hh : (if t / 2 ^ 30 = 0 then w28 else if t / 2 ^ 30 = 1 then w29 else w30).toNat = h) : formVa pkg w28 w29 w30 t =
    if 2 ^ 26 ≤ h then .error 0
    else
      let va := h * 2 ^ 30 + t % 2 ^ 30
      if va / 2 ^ 48 = 0xFF ∧ va / 2 ^ 38 % 2 ^ 10 ≠ 0 then .error 0 else .ok va := by
  have hw : bits t 31 30 = t / 2 ^ 30 := bits_top 30 (by decide) ht
  have hlt : h < 2 ^ 32 := hh ▸ BitVec.isLt _
  simp only [formVa, Nat.mod_eq_of_lt ht, hw, beq_iff_eq, Nat.ne_of_lt h3, if_false, hh, bits_zero]
  have hz : bits h 31 26 = h / 2 ^ 26 := bits_top 26 (by decide) hlt
  by_cases hb : 2 ^ 26 ≤ h
  · have hz' : (bits h 31 26 != 0) = true := by rw [hz, bne_iff_ne]; omega
    rw [if_pos hb, if_pos hz']
  · have hz' : ¬ (bits h 31 26 != 0) = true := by rw [hz, bne_iff_ne]; omega
    rw [if_neg hb, if_neg hz', Nat.mod_eq_of_lt (Nat.not_le.1 hb)]
    have htop : bits (h * 2 ^ 30 + t % 2 ^ 30) 55 48 = (h * 2 ^ 30 + t % 2 ^ 30) / 2 ^ 48 := bits_top 48 (by decide) (by omega)
    have hmid : bits (h * 2 ^ 30 + t % 2 ^ 30) 47 38 = (h * 2 ^ 30 + t % 2 ^ 30) / 2 ^ 38 % 2 ^ 10 := rfl
    simp only [htop, hmid, Bool.and_eq_true, beq_iff_eq, bne_iff_ne]

end Windows

/-- Settles O7, by the two ways in which an address is formed. -/
theorem addressWindows : Obligations.AddressWindows := by
  intro pkg w28 w29 w30 t ht ofs h va
  refine ⟨fun h3 hc => ?_, fun h3 hc => ?_, fun h3 hb => ?_, fun h3 hb hf hc => ?_, fun h3 hb hc => ?_⟩
  · rw [formVa_slice ht h3, if_neg (Nat.not_le.2 hc)]
  · rw [formVa_slice ht h3, if_pos hc]
  · rw [formVa_window ht h3 rfl]
    exact if_pos hb
  · rw [formVa_window (h := h) ht h3 rfl, if_neg (Nat.not_le.2 hb)]
    exact if_pos ⟨hf, hc⟩
  · rw [formVa_window (h := h) ht h3 rfl, if_neg (Nat.not_le.2 hb)]
    exact if_neg fun ⟨hf, hn⟩ => hc.elim (· hf) hn

/-! ### Checked accesses -/

section Access

variable {s s1 : State} {k addr n al kind va : Nat} {use : Use} {host : Bool} {acc : Acc} (go : State → Nat → Acc → Res)

theorem State.laneAccess_misaligned (ha : addr % al ≠ 0) : s.laneAccess k addr n al kind use host go = .trap s cMisaligned := by
  simp only [State.laneAccess, bne_iff_ne, ne_eq, ha, not_false_eq_true, if_true]

theorem State.laneAccess_unformed {e : Nat} (ha : addr % al = 0) (hv : s.bandVa (bandOfThread k) addr = .error e) :
    s.laneAccess k addr n al kind use host go = .trap s (cAccess e) := by
  simp only [State.laneAccess, ha, bne_self_eq_false, Bool.false_eq_true, if_false, hv]

/-- An aligned address that is formed is placed for the access (R84, R236). -/
theorem State.laneAccess_places (ha : addr % al = 0) (hv : s.bandVa (bandOfThread k) addr = .ok va) :
    s.laneAccess k addr n al kind use host go =
      s.placeVa (s.bandSpace (bandOfThread k)) (coreOfThread k) va n kind use host fun s a => go s va a := by
  simp only [State.laneAccess, ha, bne_self_eq_false, Bool.false_eq_true, if_false, hv]

/-- An access that passes every check goes on at its place. -/
theorem State.laneAccess_reaches (h : Reaches s k addr n al kind use host s1 va acc) :
    s.laneAccess k addr n al kind use host go = go s1 va acc := by
  obtain ⟨ha, hv, hp, hu, hbad, hd⟩ := h
  rw [State.laneAccess_places go ha hv, State.placeVa_ok _ hp hu _ hd]
  rwa [Bool.and_eq_false_imp]

variable {sp : Space} {c : Nat} (go : State → Acc → Res)

theorem State.placeVa_parks {r : Nat} (hp : s.place sp c va use host = (.park r, s1)) :
    s.placeVa sp c va n kind use host go = .park s1 va kind r := by
  simp only [State.placeVa, hp]

theorem State.placeVa_fails {e : Nat} (hp : s.place sp c va use host = (.bad e, s1)) :
    s.placeVa sp c va n kind use host go = .trap s1 (cAccess e) := by
  simp only [State.placeVa, hp]

/-- A doorbell takes one kind of store only (R356). -/
theorem State.placeVa_bell (hp : s.place sp c va use host = (.ok acc, s1)) (hu : bellUse acc n kind use = false) :
    s.placeVa sp c va n kind use host go = .trap s1 (cAccess 6) := by
  simp only [State.placeVa, hp, hu, Bool.not_false, if_true]

/-- An access that reads a line which no code corrects fails (R363). -/
theorem State.placeVa_struck (hp : s.place sp c va use host = (.ok acc, s1)) (hu : bellUse acc n kind use = true)
    (hr : use = .read ∨ kind = 2) (hb : s1.accBad acc n = true) : s.placeVa sp c va n kind use host go = .trap s1 (cAccess 12) := by
  have hr' : (use == .read || kind == 2) = true := by simpa using hr
  simp only [State.placeVa, hp, hu, hr', hb, Bool.not_true, Bool.false_eq_true, if_false, Bool.true_or, Bool.and_self, if_true]

/-- Host memory, where the instruction may not reach it, fails first (R84, R236; log 64). -/
theorem State.judgeLeaf_host {e l : Nat} (he : 2 ≤ bits e 53 52) : s.judgeLeaf sp va e l use false = .bad 4 := by
  simp only [State.judgeLeaf, Bool.not_false, Bool.true_and, he, decide_true, if_true]

end Access

/-! ### Instructions that name memory at [A + OFS] -/

section Instructions

variable {s s1 : State} {k addr n al kind va : Nat} {t : Thread} {use : Use} {host : Bool}

theorem Lane.assoc {xs ys zs : List Nat} (h : Lane s k t (xs ++ ys ++ zs)) : Lane s k t (xs ++ (ys ++ zs)) := List.append_assoc xs ys zs ▸ h

/-- Executed in state s by thread k, i is an access to n bytes at addr, followed by what it does with its place (R84). -/
def AccessesAt (i : Instr) (s : State) (k addr n al kind : Nat) (use : Use) (host : Bool) : Prop :=
  ∃ go, exec i s = .next (State.laneFinish k (s.laneAccess k addr n al kind use host go))

/-- What such an instruction does where a check fails: it traps or parks with what the check reports, and nothing is posted (R84, R236). -/
theorem AccessesAt.fails {i : Instr} (h : AccessesAt i s k addr n al kind use host) :
    let sp := s.bandSpace (bandOfThread k)
    (addr % al ≠ 0 → exec i s = .next (s.laneTrap k ⟨4, 0, 0⟩)) ∧
    (∀ e, addr % al = 0 → s.bandVa (bandOfThread k) addr = .error e → exec i s = .next (s.laneTrap k ⟨5, e, 0⟩)) ∧
    ∀ va, addr % al = 0 → s.bandVa (bandOfThread k) addr = .ok va →
      (∀ r s1, s.place sp (coreOfThread k) va use host = (.park r, s1) → exec i s = .next (s1.parkThread k va kind r)) ∧
      (∀ e s1, s.place sp (coreOfThread k) va use host = (.bad e, s1) → exec i s = .next (s1.laneTrap k ⟨5, e, 0⟩)) ∧
      (∀ acc s1, s.place sp (coreOfThread k) va use host = (.ok acc, s1) →
        (bellUse acc n kind use = false → exec i s = .next (s1.laneTrap k ⟨5, 6, 0⟩)) ∧
        (bellUse acc n kind use = true → use = .read ∨ kind = 2 → s1.accBad acc n = true → exec i s = .next (s1.laneTrap k ⟨5, 12, 0⟩))) ∧
      ∀ e l, host = false → 2 ≤ bits e 53 52 → s.judgeLeaf sp va e l use false = .bad 4 := by
  obtain ⟨go, hi⟩ := h
  refine ⟨fun ha => ?_, fun e ha hv => ?_, fun va ha hv => ⟨fun r s1 hp => ?_, fun e s1 hp => ?_, fun acc s1 hp => ⟨fun hu => ?_,
    fun hu hr hb => ?_⟩, fun e l _ he => State.judgeLeaf_host he⟩⟩
  · rw [hi, State.laneAccess_misaligned go ha]; rfl
  · rw [hi, State.laneAccess_unformed go ha hv]; rfl
  · rw [hi, State.laneAccess_places go ha hv, State.placeVa_parks _ hp]; rfl
  · rw [hi, State.laneAccess_places go ha hv, State.placeVa_fails _ hp]; rfl
  · rw [hi, State.laneAccess_places go ha hv, State.placeVa_bell _ hp hu]; rfl
  · rw [hi, State.laneAccess_places go ha hv, State.placeVa_struck _ hp hu hr hb]; rfl

/-- A watch armed on a location for hasp n of the thread's core (R104). -/
def State.armWatch (s : State) (k n : Nat) (l : Loc) : State :=
  let hk := haspKey (coreOfThread k) n
  { s with
    nextId := s.nextId + 1
    watches := mput s.watches s.nextId ⟨coreOfThread k, l.lineNo, hk, s.partOf k, s.instOf k, false⟩ }.setHasp
    hk { s.hasp hk with moncnt := (s.hasp hk).moncnt + 1 }

/-- HMON of a hasp that is held is an access to its address (R104; log 103). -/
theorem exec_hmon_accesses {d : LaneDst} {h : Fin 32} {a : LaneSrc} (ofs : BitVec 22) (hl : Lane s k t (LaneDst.regs d ++ LaneSrc.regs a))
    (hh : s.holdsHasp k h.val = true) :
    exec (.hmon d h a ofs) s = .next (State.laneFinish k (s.laneAccess k (s.laneAddr k a ofs) 1 1 0 .read false fun s1 _ acc =>
      if s1.refusedAt (coreOfThread k) (s1.partOf k) acc.loc then .trap s1 (cAccess 3)
      else if 64 ≤ (mkeys s1.watches fun _ w => w.core == coreOfThread k).length then .ok (s1.modThread k fun t => t.setD d 1)
      else .ok ((s1.armWatch k h.val acc.loc).modThread k fun t => t.setD d 0))) := by
  refine (laneFrame_lane _ hl).trans ?_
  simp only [hh, Bool.not_true, Bool.false_eq_true, if_false]
  rfl

/-- CPA, with a destination that passes its checks and a count that is not 0, is an access to its source (R96; log 104). -/
theorem exec_cpa_accesses {dn : Fin 160} {a b : LaneSrc} {dva : Nat} {dst : Acc} (ab : Ab) (ofs : BitVec 22)
    (hl : Lane s k t (dn.val :: LaneSrc.regs a ++ LaneSrc.regs b)) (hn : n = min (s.laneSrc k .int b).toNat 32) (h0 : n ≠ 0)
    (hd : (t.getV dn.val).toNat % 32 = 0) (hv : s.bandVa (bandOfThread k) (t.getV dn.val).toNat = .ok dva) (hs : isSlice dva = true)
    (hp : s.sliceAcc (s.bandSpace (bandOfThread k)) (coreOfThread k) dva = .ok dst) :
    exec (.cpa ab dn a ofs b) s = .next (State.laneFinish k (s.laneAccess k (s.laneAddr k a ofs) n 32 3 .read false fun s1 va acc =>
      let s2 := s1.countOnce k t acc 1 0
      .ok (s2.issueOp k t ab { s.blankOp k t (.cpa n dst dva) with va := va, n := n, acc := acc }).sendReady)) := by
  refine (laneFrame_reads _ hl).trans ?_
  subst hn
  by_cases ha : s.laneAddr k a ofs % 32 = 0
  · cases hsrc : s.bandVa (bandOfThread k) (s.laneAddr k a ofs) with
    | error e =>
      rw [State.laneAccess_unformed _ ha hsrc]
      simp only [hd, ha, hv, hs, hp, hsrc, bne_self_eq_false, Bool.or_self, Bool.not_true, Bool.false_eq_true, if_false]
    | ok va =>
      rw [State.laneAccess_places _ ha hsrc]
      simp only [hd, ha, hv, hs, hp, hsrc, bne_self_eq_false, Bool.or_self, Bool.not_true, Bool.false_eq_true, if_false, beq_iff_eq, h0]
  · rw [State.laneAccess_misaligned _ ha]
    simp only [bne_iff_ne, ne_eq, ha, not_false_eq_true, Bool.or_eq_true, or_true, if_true]

end Instructions

/-- Settles O10: each instruction is an access followed by its own work, and an access that fails a check reports what failed. -/
theorem failedAccessTrapsOrParks : Obligations.FailedAccessTrapsOrParks := by
  intro i named a ofs n al kind use host pre hi s k t hl hpre
  refine AccessesAt.fails ?_
  rcases hi with ⟨hi, rfl, rfl⟩ | ⟨d, h, rfl, rfl, rfl, rfl, rfl, rfl, rfl, rfl⟩ | ⟨ab, dn, b, rfl, rfl, hn, rfl, rfl, rfl, rfl, rfl⟩
  · rcases hi with ⟨sz, ord, ab, d, rfl, rfl, rfl, rfl, rfl, rfl⟩ | ⟨sz, ab, d, rfl, rfl, rfl, rfl, rfl, rfl⟩ |
      ⟨g, sz, ord, ab, b, rfl, rfl, rfl, rfl, rfl, rfl⟩ | ⟨op, w, ord, ab, d, b, rfl, rfl, rfl, rfl, rfl, rfl⟩ |
      ⟨w, ord, ab, d, b, rfl, rfl, rfl, rfl, rfl, rfl⟩ | ⟨op, w, ord, ab, b, rfl, rfl, rfl, rfl, rfl, rfl⟩ |
      ⟨ab, d, rfl, rfl, rfl, rfl, rfl, rfl⟩ | ⟨g, ab, d, rfl, rfl, rfl, rfl, rfl, rfl⟩
    · exact ⟨_, laneFrame_lane _ hl⟩
    · exact ⟨_, laneFrame_lane _ hl⟩
    · exact ⟨_, laneFrame_reads _ hl⟩
    · exact ⟨_, laneFrame_lane _ (Lane.assoc hl)⟩
    · exact ⟨_, laneFrame_reads _ hl⟩
    · exact ⟨_, laneFrame_reads _ hl⟩
    · exact ⟨_, laneFrame_lane _ hl⟩
    · exact ⟨_, laneFrame_lane _ hl⟩
  · exact ⟨_, exec_hmon_accesses ofs hl hpre⟩
  · obtain ⟨hn', u, dva, dst, hu, hd, hv, hs, hp⟩ := hpre
    obtain rfl : t = u := Option.some.inj (hl.2.1.symm.trans hu)
    exact ⟨_, exec_cpa_accesses ab ofs hl hn' hn hd hv hs hp⟩

end Sys2Proof.Machine
end

section
/-! The instructions that post an operation and go on (R85, R88, R89, R93 to R98, R111, R112). -/

namespace Sys2Proof.Machine

open Sys2Proof.Says

section Posting

variable {s s1 : State} {k va : Nat} {t : Thread} {acc : Acc} {d : LaneDst} {a b : LaneSrc} {ofs : BitVec 22}

/-! ### Loads -/

theorem exec_ld_posts {sz : Sz} (ord : Ord16) (ab : Ab) (hl : Lane s k t (runFrom sz.regs (LaneDst.regs d) ++ LaneSrc.regs a))
    (hr : Reaches s k (s.laneAddr k a ofs) (szBytes sz) (szBytes sz) 0 .read true s1 va acc) :
    let s2 := s1.countOnce k t acc 1 0
    exec (.ld sz ord ab d a ofs) s = .next (posted (s2.issueOp k t ab
      { s2.blankOp k t (.ld sz) with d := d, va := va, acc := acc, n := szBytes sz, ord := ord }) k) := by
  refine (laneFrame_lane _ hl).trans ?_
  rw [State.laneAccess_reaches _ hr, State.laneFinish]
  rfl

theorem exec_ldro_posts {sz : Sz} (ab : Ab) (hl : Lane s k t (runFrom sz.regs (LaneDst.regs d) ++ LaneSrc.regs a))
    (hr : Reaches s k (s.laneAddr k a ofs) (szBytes sz) (szBytes sz) 0 .read true s1 va acc) :
    let s2 := s1.countOnce k t acc 1 0
    exec (.ldro sz ab d a ofs) s = .next (posted (s2.issueOp k t ab
      { s2.blankOp k t (if isSlice va then .ld sz else .ldro sz) with d := d, va := va, acc := acc, n := szBytes sz }) k) := by
  refine (laneFrame_lane _ hl).trans ?_
  rw [State.laneAccess_reaches _ hr, State.laneFinish]
  rfl

/-! ### Atomics -/

/-- An atomic whose access passes its checks is posted where its page is not graded (R93). -/
theorem State.atomic_posts {addr : Nat} {o : Op} (ab : Ab) (hr : Reaches s k addr o.n o.n 2 .write false s1 va acc) (hg : acc.graded = false) :
    let s2 := s1.countOnce k t acc 1 1
    State.laneFinish k (s.atomic k t ab addr o) = posted (s2.issueOp k t ab { o with va := va, acc := acc }) k := by
  rw [State.atomic, State.laneAccess_reaches _ hr]
  simp only [hg, Bool.not_false, if_true]
  rfl

/-- On a graded page of this package it is checked there (R93). -/
theorem State.atomic_holds {addr h : Nat} {o : Op} (ab : Ab) (hr : Reaches s k addr o.n o.n 2 .write false s1 va acc) (hg : acc.graded = true)
    (hh : acc.loc.home = some h) :
    s.atomic k t ab addr o = (s1.countOnce k t acc 1 1).heldAtomic k t h { o with va := va, acc := acc } := by
  rw [State.atomic, State.laneAccess_reaches _ hr]
  simp only [hg, hh, Bool.not_true, Bool.false_eq_true, if_false]

/-- The operand of an atomic as bytes: fadd reads it as FP32, the others as the data of memory (R29, R93). -/
def State.operandBytes (s : State) (k : Nat) (op : AtomOp) (w : Bool) (b : LaneSrc) : List Byte :=
  if op = .fadd then leBytes (atomBytes w) (s.laneSrc k .f32 b).toNat else leBytes (atomBytes w) (s.laneSrc64 k w b)

theorem State.atomData_bytes (op : AtomOp) (w : Bool) : leBytes (atomBytes w) (s.atomData k op w b) = s.operandBytes k op w b := by
  by_cases h : op = .fadd
  · simp only [State.atomData, State.operandBytes, h, beq_self_eq_true, if_true]
  · simp only [State.atomData, State.operandBytes, beq_iff_eq, h, if_false]

theorem exec_atom (op : AtomOp) {w : Bool} (ord : Ord16) (ab : Ab)
    (hl : Lane s k t (runFrom (atomRun w) (LaneDst.regs d) ++ LaneSrc.regs a ++ runFrom (atomRun w) (LaneSrc.regs b))) :
    exec (.atom op w ord ab d a ofs b) s = .next (State.laneFinish k (s.atomic k t ab (s.laneAddr k a ofs) { s.blankOp k t (.atom op w) with
      d := d, n := atomBytes w, data := s.operandBytes k op w b, ord := ord })) := by
  rw [← State.atomData_bytes]
  exact laneFrame_lane _ (Lane.assoc hl)

theorem exec_atomcas {w : Bool} (ord : Ord16) (ab : Ab)
    (hl : Lane s k t (runFrom (atomRun w) (LaneDst.regs d) ++ LaneSrc.regs a ++ runFrom (atomRun w) (LaneSrc.regs b))) :
    exec (.atomcas w ord ab d a ofs b) s = .next (State.laneFinish k (s.atomic k t ab (s.laneAddr k a ofs) { s.blankOp k t (.cas w) with
      d := d, n := atomBytes w, data := leBytes (atomBytes w) (s.laneSrc64 k w b), cmp := leBytes (atomBytes w) (s.casCompare k w d), ord := ord })) :=
  laneFrame_reads _ hl

theorem exec_red (op : AtomOp) {w : Bool} (ord : Ord16) (ab : Ab)
    (hl : Lane s k t (LaneSrc.regs a ++ runFrom (atomRun w) (LaneSrc.regs b))) :
    exec (.red op w ord ab a ofs b) s = .next (State.laneFinish k (s.atomic k t ab (s.laneAddr k a ofs) { s.blankOp k t (.red op w) with
      n := atomBytes w, data := s.operandBytes k op w b, ord := ord })) := by
  rw [← State.atomData_bytes]
  exact laneFrame_reads _ hl

/-- The bytes that an atomic writes over those at h, if it writes (R93). -/
def Op.newBytes (o : Op) (s : State) (h : Nat) : Option (List Byte) :=
  (o.kind.newValue (leNat (s.bytes h o.n)) (leNat o.data) (leNat o.cmp)).map (leBytes o.n)

/-- A graded write that the tumbler lets through goes on once what follows it is done (R92, R294). -/
theorem State.heldWrite_lets {h : Nat} {data : List Byte} {req : Grade} {out : WOut} (written : State → State)
    (hw : s.gradedWrite h data req (some (s.taskOf k)) (s.depthLimit (s.instOf k)) = (out, s1))
    (ho : out ∈ [.wrote, .amended, .confirmed, .same]) : s.heldWrite k h data req written = .ok (written s1).settle := by
  simp only [State.heldWrite, hw]
  rcases ho with _ | ⟨_, _ | ⟨_, _ | ⟨_, _ | ⟨_, ho⟩⟩⟩⟩
  · rfl
  · rfl
  · rfl
  · rfl
  · cases ho

theorem State.heldWrite_final {h : Nat} {data : List Byte} {req : Grade} (written : State → State)
    (hw : s.gradedWrite h data req (some (s.taskOf k)) (s.depthLimit (s.instOf k)) = (.final, s1)) :
    s.heldWrite k h data req written = .trap s1 cFinality := by
  simp only [State.heldWrite, hw]

section Held

variable {h : Nat} {o : Op}

/-- May a graded atomic be done now: performed in its order, no lower lane home held before it, its read in the log (R93, R94, R297)? -/
def AtomicTurn (s : State) (k : Nat) (t : Thread) (h : Nat) (o : Op) (s1 : State) : Prop :=
  s.mayPerform s.nextId { o with ord := s.gradedOrd h ((o.newBytes s h).getD (s.bytes h o.n)) o.ord } = true ∧
    s.lowerHeld k t o.acc.loc = false ∧ s.logRead o.task (h / 64) = some s1

theorem State.heldAtomic_same (ht : AtomicTurn s k t h o s1) (hn : o.newBytes s1 h = none ∨ o.newBytes s1 h = some (s1.bytes h o.n)) :
    s.heldAtomic k t h o = .ok (s1.atomReturn k o (s1.bytes h o.n)).settle := by
  obtain ⟨hm, hlow, hlog⟩ := ht
  simp only [Op.newBytes] at hm hn
  simp only [State.heldAtomic, hm, hlow, hlog, Bool.not_true, Bool.or_self, Bool.false_eq_true, if_false]
  cases hv : o.kind.newValue (leNat (s1.bytes h o.n)) (leNat o.data) (leNat o.cmp) with
  | none => rfl
  | some m =>
    have hsame : leBytes o.n m = s1.bytes h o.n := by simpa [hv] using hn
    simp only [hsame, beq_self_eq_true, if_true]

/-- What it changes is a graded write at FINAL (R93). -/
theorem State.heldAtomic_writes {x : List Byte} {r : Res} (ht : AtomicTurn s k t h o s1) (hn : o.newBytes s1 h = some x)
    (hx : x ≠ s1.bytes h o.n) (hw : s1.heldWrite k h x .final (fun s => s.atomReturn k o (s1.bytes h o.n)) = r)
    (hr : ∀ u, r ≠ .stay u) : s.heldAtomic k t h o = r := by
  obtain ⟨hm, hlow, hlog⟩ := ht
  simp only [Op.newBytes] at hm hn
  obtain ⟨m, hv, rfl⟩ := Option.map_eq_some_iff.1 hn
  simp only [State.heldAtomic, hm, hlow, hlog, hv, Bool.not_true, Bool.or_self, Bool.false_eq_true, if_false, beq_iff_eq, hx, hw]

end Held

/-- What an atomic does on a graded page of this package, new being the value that it writes (R93, R94). -/
theorem exec_atomic_graded {i : Instr} {kind : OpKind} {ab : Ab} {addr n : Nat} {ord : Ord16} {bs cmp : List Byte} {new : Nat → Option Nat}
    (hi : exec i s = .next (State.laneFinish k (s.atomic k t ab addr
      { s.blankOp k t kind with d := d, n := n, data := bs, cmp := cmp, ord := ord })))
    (hr : Reaches s k addr n n 2 .write false s1 va acc) (hnew : ∀ old, kind.newValue old (leNat bs) (leNat cmp) = new old)
    {h : Nat} {s3 : State} (hg : acc.graded = true) (hh : acc.loc.home = some h) :
    let s2 := s1.countOnce k t acc 1 1
    let o := { s.blankOp k t kind with d := d, n := n, data := bs, cmp := cmp, ord := ord, va := va, acc := acc }
    let now (u : State) : Option (List Byte) := (new (leNat (u.bytes h n))).map (leBytes n)
    s2.mayPerform s2.nextId { o with ord := s2.gradedOrd h ((now s2).getD (s2.bytes h n)) ord } = true →
    s2.lowerHeld k t acc.loc = false → s2.logRead o.task (h / 64) = some s3 →
    (now s3 = none ∨ now s3 = some (s3.bytes h n) → exec i s = .next ((s3.atomReturn k o (s3.bytes h n)).settle.advance k)) ∧
    ∀ x out s4, now s3 = some x → x ≠ s3.bytes h n →
      s3.gradedWrite h x .final (some (s3.taskOf k)) (s3.depthLimit (s3.instOf k)) = (out, s4) →
      (out ∈ [.wrote, .amended, .confirmed, .same] → exec i s = .next ((s4.atomReturn k o (s3.bytes h n)).settle.advance k)) ∧
      (out = .final → exec i s = .next (s4.laneTrap k ⟨6, 0, 0⟩)) := by
  intro s2 o now hm hlow hlog
  have hnow (u : State) : o.newBytes u h = now u := congrArg (Option.map (leBytes n)) (hnew _)
  rw [← hnow] at hm
  have hturn : AtomicTurn s2 k t h o s3 := ⟨hm, hlow, hlog⟩
  rw [hi, State.atomic_holds ab hr hg hh]
  refine ⟨fun hn => ?_, fun x out s4 hn hx hw => ⟨fun ho => ?_, fun ho => ?_⟩⟩
  · rw [State.heldAtomic_same hturn (by rwa [hnow]), State.laneFinish]
  · have hlets := State.heldWrite_lets (fun s => s.atomReturn k o (s3.bytes h n)) hw ho
    rw [State.heldAtomic_writes hturn (by rw [hnow, hn]) hx hlets (by simp), State.laneFinish]
  · subst ho
    have hfin := State.heldWrite_final (fun s => s.atomReturn k o (s3.bytes h n)) hw
    rw [State.heldAtomic_writes hturn (by rw [hnow, hn]) hx hfin (by simp), State.laneFinish, cFinality]

end Posting

/-- Settles O9: a load posts its read, and an atomic is posted or, on a graded page, checked there. -/
theorem loadsAndAtomicsPostAndGoOn : Obligations.LoadsAndAtomicsPostAndGoOn := by
  refine ⟨fun sz ord ab d a ofs s k t s1 va acc hl hr => ⟨exec_ld_posts ord ab hl hr, exec_ldro_posts ab hl hr⟩, ?_⟩
  intro op w ord ab d a ofs b s k t s1 va acc m n hr s2 data operand
  have hatom (old : Nat) : OpKind.newValue (.atom op w) old (leNat operand) (leNat []) = some (atomNew op w old (leNat operand)) := rfl
  have hred (old : Nat) : OpKind.newValue (.red op w) old (leNat operand) (leNat []) = some (atomNew op w old (leNat operand)) := rfl
  have hcas (old : Nat) : OpKind.newValue (.cas w) old (leNat data) (leNat (leBytes n (s.casCompare k w d))) =
      if old = leNat (leBytes n (s.casCompare k w d)) then some (leNat data) else none := by
    simp only [OpKind.newValue, beq_iff_eq]
  refine ⟨fun hl hg => ⟨?_, ?_⟩, fun hl hg => ?_, fun hl => ⟨fun h s3 hg hh => ?_, fun h s3 hg hh => ?_⟩, fun hl h s3 hg hh => ?_⟩
  · rw [exec_atom op ord ab hl, State.atomic_posts ab hr hg]
    rfl
  · rw [exec_atomcas ord ab hl, State.atomic_posts ab hr hg]
    rfl
  · rw [exec_red op ord ab hl, State.atomic_posts ab hr hg]
    rfl
  · have hdoes := exec_atomic_graded (exec_atom op ord ab hl (ofs := ofs)) hr hatom hg hh (s3 := s3)
    exact hdoes
  · have hdoes := exec_atomic_graded (exec_atomcas ord ab hl (ofs := ofs)) hr hcas hg hh (s3 := s3)
    exact hdoes
  · have hdoes := exec_atomic_graded (exec_red op ord ab hl (ofs := ofs)) hr hred hg hh (s3 := s3)
    exact hdoes

end Sys2Proof.Machine
end

section
/-! CPA, FENCE, GRD, GCONF, CONT and ENQ post their operations (R95 to R98, R111, R112). -/

namespace Sys2Proof.Machine

open Sys2Proof.Says

section Posting

variable {s s1 : State} {k va : Nat} {t : Thread} {acc : Acc} {d : LaneDst} {a b : LaneSrc} {ofs : BitVec 22}

theorem exec_fence_posts (kind : FenceKind) (scope : Scope) (ab : Ab) (hl : Lane s k t (LaneDst.regs d)) :
    exec (.fence kind scope ab d) s = .next ((s.issueOp k t ab { s.blankOp k t (.fence kind) with d := d }).advance k) :=
  laneFrame_lane _ ((List.append_nil (LaneDst.regs d)).symm ▸ hl)

theorem exec_grd_posts (ab : Ab) (hl : Lane s k t (LaneDst.regs d ++ LaneSrc.regs a))
    (hr : Reaches s k (s.laneAddr k a ofs) 1 1 0 .read false s1 va acc) :
    exec (.grd ab d a ofs) s = .next (posted (s1.issueOp k t ab
      { s1.blankOp k t .grd with d := d, va := va, acc := acc, n := 1 }) k) := by
  refine (laneFrame_lane _ hl).trans ?_
  rw [State.laneAccess_reaches _ hr, State.laneFinish]
  rfl

theorem exec_gconf_posts (g : Grade) (ab : Ab) (hl : Lane s k t (LaneDst.regs d ++ LaneSrc.regs a))
    (hr : Reaches s k (s.laneAddr k a ofs) 1 1 0 .read false s1 va acc) :
    exec (.gconf g ab d a ofs) s = .next (posted (s1.issueOp k t ab
      { s1.blankOp k t (.gconf g) with d := d, va := va, acc := acc, n := 1 }) k) := by
  refine (laneFrame_lane _ hl).trans ?_
  rw [State.laneAccess_reaches _ hr, State.laneFinish]
  rfl

/-- A CPA of no bytes reads nothing: its source is only formed (R96). -/
theorem exec_cpa_none {dn : Fin 160} {dva : Nat} {dst : Acc} (ab : Ab) (hl : Lane s k t (dn.val :: LaneSrc.regs a ++ LaneSrc.regs b))
    (h0 : min (s.laneSrc k .int b).toNat 32 = 0) (hd : (t.getV dn.val).toNat % 32 = 0)
    (hv : s.bandVa (bandOfThread k) (t.getV dn.val).toNat = .ok dva) (hs : isSlice dva = true)
    (hp : s.sliceAcc (s.bandSpace (bandOfThread k)) (coreOfThread k) dva = .ok dst) (ha : s.laneAddr k a ofs % 32 = 0)
    (hsrc : s.bandVa (bandOfThread k) (s.laneAddr k a ofs) = .ok va) :
    exec (.cpa ab dn a ofs b) s = .next ((s.issueOp k t ab
      { s.blankOp k t (.cpa 0 dst dva) with va := va, n := 0, acc := dst }).advance k) := by
  refine (laneFrame_reads _ hl).trans ?_
  simp only [hd, ha, hv, hs, hp, hsrc, h0, bne_self_eq_false, Bool.or_self, Bool.not_true, Bool.false_eq_true, if_false, beq_self_eq_true,
    if_true, State.laneFinish]

/-- A run of registers, lowest first (R86). -/
theorem Thread.run_eq_map (t : Thread) (n c : Nat) : t.run n c = (List.range c).map fun i => t.getV (n + i) := by
  induction c generalizing n with
  | zero => rfl
  | succ c ih =>
    rw [List.range_succ_eq_map, List.map_cons, List.map_map, Thread.run, ih]
    exact congrArg _ (List.map_congr_left fun i _ => by rw [Function.comp_apply, Nat.succ_eq_add_one, Nat.add_assoc, Nat.add_comm 1])

theorem exec_cont_posts {n : Fin 145} (ab : Ab) (hl : Lane s k t (LaneDst.regs d ++ runFrom 16 [n.val])) :
    let b := s.band? (bandOfThread k)
    exec (.cont ab d n) s = .next ((s.issueOp k t ab { s.blankOp k t .cont with
      d := d, words := (List.range 16).map fun i => t.getV (n.val + i), va := (b.map (·.role)).getD 0,
      n := (b.map (·.node)).getD 0 }).advance k) := by
  rw [← Thread.run_eq_map]
  exact laneFrame_lane _ hl

theorem exec_enq_posts {m : Fin 159} (ab : Ab) (hl : Lane s k t (LaneDst.regs d ++ LaneSrc.regs a ++ [m.val, m.val + 1])) :
    exec (.enq ab d a m) s = .next ((s.issueOp k t ab { s.blankOp k t .enq with
      d := d, words := [t.getV m.val, t.getV (m.val + 1)], va := (s.laneSrc k .int a).toNat }).advance k) :=
  laneFrame_lane _ (Lane.assoc hl)

end Posting

/-- Settles O19: each of the six instructions posts its operation, with what it takes at issue. -/
theorem copyFenceGradeContEnqPost : Obligations.CopyFenceGradeContEnqPost := by
  refine ⟨fun ab d dn a ofs b kind scope g s k t => ⟨exec_fence_posts kind scope ab,
    fun s1 va acc hl hr => ⟨exec_grd_posts ab hl hr, exec_gconf_posts g ab hl hr⟩, ?_⟩,
    fun ab d a n m s k t => ⟨exec_cont_posts ab, exec_enq_posts ab⟩⟩
  intro dva dst hl hd hv hs hp
  refine ⟨fun va h0 ha hsrc => exec_cpa_none ab hl h0 hd hv hs hp ha hsrc, fun s1 va acc h0 hr => ?_⟩
  rw [exec_cpa_accesses ab ofs hl rfl h0 hd hv hs hp, State.laneAccess_reaches _ hr, State.laneFinish]
  rfl

end Sys2Proof.Machine
end

section
/-! Stores, and graded writes at the tumbler (R90, R92, R294, R299, R308). -/

namespace Sys2Proof.Machine

open Sys2Proof.Says

/-! ### What a write of memory and of a line's metadata leaves alone -/

/-- Whatever field each step of a fold keeps, the fold keeps. -/
theorem State.foldl_keeps {α β : Type} (g : State → β) {f : State → α → State} (hf : ∀ s x, g (f s x) = g s) (xs : List α) (s : State) :
    g (xs.foldl f s) = g s := by
  induction xs generalizing s with
  | nil => rfl
  | cons x xs ih => exact (ih _).trans (hf s x)

theorem State.settleLine_frame (s : State) (l : Nat) :
    s.settleLine l = { s with mem := (s.settleLine l).mem, pendZero := (s.settleLine l).pendZero } := by
  unfold State.settleLine
  split <;> rfl

/-- A write of memory changes no line's metadata. -/
@[simp] theorem State.writeHome_lines (s : State) (a : Nat) (bs : List Byte) : (s.writeHome a bs).lines = s.lines := by
  refine (State.foldl_keeps State.lines (f := State.touchLine) (fun _ _ => rfl) _ _).trans ?_
  exact State.foldl_keeps State.lines (f := State.settleLine) (fun s l => by rw [State.settleLine_frame]) _ s

@[simp] theorem State.writeHome_line (s : State) (a : Nat) (bs : List Byte) (l : Nat) : (s.writeHome a bs).line l = s.line l := by
  simp only [State.line, State.writeHome_lines]

/-- New metadata of a line changes that line, and sends messages (R291; log 20). -/
theorem State.putLine_frame (s : State) (l : Nat) (m : LineMeta) :
    s.putLine l m = { s.setLine l (LineMeta.settle m) with sent := (s.putLine l m).sent } := by
  have hsend (ps : List Nat) : ∀ s : State, (ps.foldl (fun s p =>
      s.send 4 p { s.blankMsg with addr := lineAddr l, grade := m.grade, mask := 0 }) s) = { s with sent := (ps.foldl (fun s p =>
      s.send 4 p { s.blankMsg with addr := lineAddr l, grade := m.grade, mask := 0 }) s).sent } := by
    induction ps with
    | nil => exact fun _ => rfl
    | cons p ps ih => exact fun s => ih _
  unfold State.putLine
  split
  · rw [hsend]
    rfl
  · rfl

@[simp] theorem State.putLine_mem (s : State) (l : Nat) (m : LineMeta) : (s.putLine l m).mem = s.mem := by rw [State.putLine_frame]; rfl

@[simp] theorem State.putLine_tasks (s : State) (l : Nat) (m : LineMeta) : (s.putLine l m).tasks = s.tasks := by rw [State.putLine_frame]; rfl

theorem State.putLine_lines (s : State) (l : Nat) (m : LineMeta) : (s.putLine l m).lines = sput LineMeta.zero s.lines l (LineMeta.settle m) := by
  rw [State.putLine_frame]
  rfl

theorem State.line_putLine {s : State} (l : Nat) (m : LineMeta) (hr : Rising s.lines) : (s.putLine l m).line l = LineMeta.settle m := by
  rw [State.line, State.putLine_lines]
  exact sget_sput_same _ l _ hr

@[simp] theorem LineMeta.settle_grade (m : LineMeta) : (LineMeta.settle m).grade = m.grade := by
  unfold LineMeta.settle
  split <;> rfl

@[simp] theorem LineMeta.settle_depth (m : LineMeta) : (LineMeta.settle m).depth = m.depth := by
  unfold LineMeta.settle
  split <;> rfl

theorem LineMeta.settle_final {m : LineMeta} (h : m.grade = .final) :
    LineMeta.settle m = { m with cons := false, ovf := false, users := [], remote := [], writer := none, far := none } := by
  simp only [LineMeta.settle, h, beq_self_eq_true, if_true]

theorem LineMeta.settle_below {m : LineMeta} (h : m.grade ≠ .final) : LineMeta.settle m = m := by
  simp only [LineMeta.settle, beq_iff_eq, h, if_false]

/-- A line that has been amended has a depth, so its metadata is listed. -/
theorem State.line_putLine_deep (s : State) (l : Nat) {m : LineMeta} (hm : m.depth ≠ 0) : (s.putLine l m).line l = LineMeta.settle m := by
  have hne : LineMeta.settle m ≠ LineMeta.zero := fun h => hm ((LineMeta.settle_depth m).symm.trans (congrArg LineMeta.depth h))
  simp only [State.line, State.putLine_lines, sget, sput, hne, if_false, mget_mput_same, Option.getD_some]

@[simp] theorem State.logWrite_mem (s : State) (task : Option Nat) (l : Nat) : (s.logWrite task l).mem = s.mem := by
  cases task <;> rfl

@[simp] theorem State.logWrite_line (s : State) (task : Option Nat) (l j : Nat) : (s.logWrite task l).line j = s.line j := by
  cases task <;> rfl

/-- A write below FINAL stands in its task's log (R297). -/
theorem State.logWrite_logs {s : State} {k l : Nat} {t : Task} (ht : s.task? k = some t) :
    ∃ t', (s.logWrite (some k) l).task? k = some t' ∧ l ∈ t'.writes := by
  refine ⟨_, (mget_mmod_same ..).trans (congrArg _ ht), ?_⟩
  dsimp only
  split
  · exact List.contains_iff_mem.1 ‹_›
  · exact List.mem_cons_self

/-! ### Amendments -/

section Amend

variable (s : State) (l a : Nat) (data : List Byte) (g : Grade) (task : Nat)

/-- The state in which an amendment has re-fired the line's other readers and written its data (R294, R299). -/
def State.refired : State :=
  let ks := if (s.line l).ovf then mkeys s.tasks fun _ t => t.reads.contains l else (s.line l).users
  ((ks.filter fun k => k != task).foldl State.refire s).writeHome a data

theorem State.amendLine_eq : s.amendLine l a data g (some task) none =
    let v := s.refired l a data task
    let u := v.putLine l { v.line l with grade := g, depth := (v.line l).depth + 1, writer := writerOf g (some task), far := none }
    if g == .final then u else u.logWrite (some task) l := by
  have hks : s.consumersOf l (some task) =
      (if (s.line l).ovf then mkeys s.tasks fun _ t => t.reads.contains l else (s.line l).users).filter fun k => k != task :=
    List.filter_congr fun k _ => by simp only [bne, Option.some_beq_some]
  rw [State.amendLine, hks]
  rfl

/-- What an amendment leaves of memory and of the line's metadata. -/
theorem State.amendLine_leaves :
    let v := s.refired l a data task
    let u := s.amendLine l a data g (some task) none
    u.mem = v.mem ∧ u.line l = LineMeta.settle { v.line l with
      grade := g, depth := (v.line l).depth + 1, writer := writerOf g (some task), far := none } := by
  rw [State.amendLine_eq]
  dsimp only
  split
  · exact ⟨State.putLine_mem .., State.line_putLine_deep _ _ (Nat.succ_ne_zero _)⟩
  · exact ⟨(State.logWrite_mem ..).trans (State.putLine_mem ..), (State.logWrite_line ..).trans (State.line_putLine_deep _ _ (Nat.succ_ne_zero _))⟩

theorem State.amendLine_logs {g : Grade} (hg : g ≠ .final) {t : Task} (ht : (s.refired l a data task).task? task = some t) :
    ∃ t', (s.amendLine l a data g (some task) none).task? task = some t' ∧ l ∈ t'.writes := by
  rw [State.amendLine_eq]
  simp only [beq_iff_eq, hg, if_false]
  refine State.logWrite_logs (t := t) ?_
  rw [State.task?, State.putLine_tasks]
  exact ht

end Amend

/-! ### The tumbler's check -/

section Check

variable {s : State} {a task limit : Nat} {data : List Byte} {req g : Grade}

/-- A first write of a line (R294). -/
theorem State.gradedWrite_none (hm : (s.line (a / 64)).grade = .none) (hg : gradeMin req (s.taint task) = g)
    (hroom : g = .final ∨ s.logRoom (some task) (a / 64) = true) : s.gradedWrite a data req (some task) limit =
      let u := (s.writeHome a data).putLine (a / 64)
        { s.line (a / 64) with grade := g, depth := 0, writer := writerOf g (some task), far := none }
      (.wrote, if g == .final then u else u.logWrite (some task) (a / 64)) := by
  have hroom' : (g == .final || s.logRoom (some task) (a / 64)) = true := by simpa using hroom
  simp only [State.gradedWrite, hm, Option.map_some, Option.getD_some, hg, hroom', Bool.not_true, Bool.false_and, Bool.false_eq_true, if_false,
    if_true]

theorem State.gradedWrite_final (hm : (s.line (a / 64)).grade = .final) :
    s.gradedWrite a data req (some task) limit = (.final, s) := by
  simp only [State.gradedWrite, hm]

/-- Other data than a line below FINAL holds is a depth fault at the depth limit (R308). -/
theorem State.gradedWrite_depth (hm : (s.line (a / 64)).grade ∈ [Grade.guess, .prov]) (hd : s.bytes a data.length ≠ data)
    (hl : limit ≤ (s.line (a / 64)).depth) : s.gradedWrite a data req (some task) limit = (.depth, s) := by
  have hd' : (s.bytes a data.length != data) = true := bne_iff_ne.2 hd
  rw [List.mem_pair] at hm
  rcases hm with hm | hm <;> simp only [State.gradedWrite, hm, hd', Nat.lt_succ_of_le hl, if_true]

/-- Below it, with room in the write log and no consumer elsewhere, it amends the line (R294). -/
theorem State.gradedWrite_amends (hm : (s.line (a / 64)).grade ∈ [Grade.guess, .prov]) (hd : s.bytes a data.length ≠ data)
    (hl : (s.line (a / 64)).depth < limit) (hg : gradeMin req (s.taint task) = g)
    (hroom : g = .final ∨ s.logRoom (some task) (a / 64) = true) (ha : s.amendOf (a / 64) (some task) none = none)
    (ho : (s.line (a / 64)).others none = []) :
    s.gradedWrite a data req (some task) limit = (.amended, s.amendLine (a / 64) a data g (some task) none) := by
  have hd' : (s.bytes a data.length != data) = true := bne_iff_ne.2 hd
  have hl' : ¬ limit < (s.line (a / 64)).depth + 1 := Nat.not_lt.2 hl
  have hroom' : (g == .final || s.logRoom (some task) (a / 64)) = true := by simpa using hroom
  rw [List.mem_pair] at hm
  rcases hm with hm | hm <;>
    simp only [State.gradedWrite, hm, hd', hl', Option.map_some, Option.getD_some, hg, hroom', ha, ho, List.isEmpty_nil, Bool.not_true,
      Bool.false_and, Bool.false_eq_true, if_false, if_true]

/-- The same data confirms a line of a lower grade, and changes nothing of another (R294). -/
theorem State.gradedWrite_same (hm : (s.line (a / 64)).grade ∈ [Grade.guess, .prov]) (hd : s.bytes a data.length = data)
    (hg : gradeMin req (s.taint task) = g) : s.gradedWrite a data req (some task) limit =
      if gradeCode (s.line (a / 64)).grade < gradeCode g then (.confirmed, s.putLine (a / 64) { s.line (a / 64) with grade := g })
      else (.same, s) := by
  have hd' : (s.bytes a data.length != data) = false := by simpa using hd
  rw [List.mem_pair] at hm
  rcases hm with hm | hm <;> simp only [State.gradedWrite, hm, hd', Option.map_some, Option.getD_some, hg, Bool.false_eq_true, if_false]

end Check

/-! ### ST -/

section Stores

variable {s s1 s3 : State} {k va : Nat} {t : Thread} {acc : Acc} {sz : Sz} {a b : LaneSrc} {ofs : BitVec 22} {g : Grade}

/-- The operation that a store posts, or that the tumbler checks (R90, R92). -/
def State.storeOp (s : State) (k : Nat) (t : Thread) (sz : Sz) (ord : Ord16) (va : Nat) (acc : Acc) (data : List Byte) (req : Grade) : Op :=
  { s.blankOp k t .st with
    va := va, acc := acc, n := szBytes sz, data := data, ord := ord, words := [BitVec.ofNat 32 (gradeCode req)] }

/-- A plain store requests FINAL (R92). -/
def storeGrade (g : Grade) : Grade := if g = .none then .final else g

/-- What a store does at its place. -/
def State.storeAt (s : State) (k : Nat) (t : Thread) (ab : Ab) (acc : Acc) (o : Op) (data : List Byte) (req : Grade) : Res :=
  if !acc.graded then .ok (s.issueOp k t ab o)
  else
    match acc.loc.home with
    | none => s.remoteGraded k t ab o fun s _ => s
    | some h => if !s.mayPerform s.nextId { o with ord := s.gradedOrd h data o.ord } then .stay s else s.heldWrite k h data req fun s => s.sampleHeld o

theorem exec_st_reaches (ord : Ord16) (ab : Ab) (hl : Lane s k t (LaneSrc.regs a ++ runFrom sz.regs (LaneSrc.regs b)))
    (hr : Reaches s k (s.laneAddr k a ofs) (szBytes sz) (szBytes sz) 1 .write true s1 va acc) :
    let s2 := s1.countOnce k t acc 0 1
    let data := s.storeData k sz b
    exec (.st g sz ord ab a ofs b) s =
      .next (State.laneFinish k (s2.storeAt k t ab acc (s2.storeOp k t sz ord va acc data (storeGrade g)) data (storeGrade g))) := by
  have hg : (if g == .none then Grade.final else g) = storeGrade g := by simp only [storeGrade, beq_iff_eq]
  refine (laneFrame_reads _ hl).trans ?_
  rw [State.laneAccess_reaches _ hr, hg]
  rfl

variable {ab : Ab} {o : Op} {data : List Byte} {req : Grade}

theorem State.storeAt_posts (hg : acc.graded = false) : s.storeAt k t ab acc o data req = .ok (s.issueOp k t ab o) := by
  simp only [State.storeAt, hg, Bool.not_false, if_true]

/-- A graded store of another package leaves as a release, and is waited for (R306; log 37). -/
theorem State.storeAt_far (hg : acc.graded = true) (hh : acc.loc.home = none) (ha : s.awaited k t = none) :
    s.storeAt k t ab acc o data req = .stay (s.issueOp k t ab { o with ord := Ord16.withRel o.ord }).sendReady := by
  simp only [State.storeAt, hg, hh, State.remoteGraded, ha, Bool.not_true, Bool.false_eq_true, if_false]

/-- One of this package is checked by the tumbler once it may be performed (R92). -/
theorem State.storeAt_checks {h : Nat} (hg : acc.graded = true) (hh : acc.loc.home = some h)
    (hm : s.mayPerform s.nextId { o with ord := s.gradedOrd h data o.ord } = true) :
    s.storeAt k t ab acc o data req = s.heldWrite k h data req fun s => s.sampleHeld o := by
  simp only [State.storeAt, hg, hh, hm, Bool.not_true, Bool.false_eq_true, if_false]

variable {h : Nat} (written : State → State)

theorem State.heldWrite_waits {out : WOut} (hw : s.gradedWrite h data req (some (s.taskOf k)) (s.depthLimit (s.instOf k)) = (out, s3))
    (ho : out ∈ [.waitLog, .waitAck]) : s.heldWrite k h data req written = .stay s3 := by
  rw [List.mem_pair] at ho
  rcases ho with rfl | rfl <;> simp only [State.heldWrite, hw]

theorem State.heldWrite_lost (hw : s.gradedWrite h data req (some (s.taskOf k)) (s.depthLimit (s.instOf k)) = (.lost, s3)) :
    s.heldWrite k h data req written = .ok (written (s3.modThread k fun t => t.noteFail .lost)) := by
  simp only [State.heldWrite, hw]

theorem State.heldWrite_depth (hw : s.gradedWrite h data req (some (s.taskOf k)) (s.depthLimit (s.instOf k)) = (.depth, s3)) :
    s.heldWrite k h data req written = .stay (s3.depthFault k) := by
  simp only [State.heldWrite, hw]

end Stores

/-- Settles O8: by what a store does at its place, by what the tumbler's check of it leaves, and by what an amendment leaves. -/
theorem storesPostOrAreChecked : Obligations.StoresPostOrAreChecked := by
  refine ⟨?_, ?_, ?_⟩
  · intro g sz ord ab a ofs b s k t s1 va acc hl hr s2 req data o
    have hexec : exec (.st g sz ord ab a ofs b) s =
        .next (State.laneFinish k (s2.storeAt k t ab acc o data req)) :=
      exec_st_reaches ord ab hl hr
    refine ⟨fun hg => ?_, fun hg hh ha => ?_, fun h out s3 hg hh hm hw => ?_⟩
    · rw [hexec, State.storeAt_posts hg]
      rfl
    · rw [hexec, State.storeAt_far hg hh ha]
      rfl
    replace hexec : exec (.st g sz ord ab a ofs b) s =
        .next (State.laneFinish k (s2.heldWrite k h data req fun s => s.sampleHeld o)) :=
      hexec.trans (congrArg _ (congrArg _ (State.storeAt_checks hg hh hm)))
    refine ⟨fun ho => ?_, fun ho => ?_, fun ho => ?_, fun ho => ?_, fun ho => ?_⟩
    · rw [hexec, State.heldWrite_lets _ hw ho]
      rfl
    · rw [hexec, State.heldWrite_waits _ hw ho]
      rfl
    · subst ho
      rw [hexec, State.heldWrite_lost _ hw]
      rfl
    · subst ho
      rw [hexec, State.heldWrite_depth _ hw]
      rfl
    · subst ho
      rw [hexec, State.heldWrite_final _ hw]
      rfl
  · intro s l a data g task ks v u
    obtain ⟨hmem, hline⟩ := s.amendLine_leaves l a data g task
    have hline' : u.line l = _ := hline
    refine ⟨hmem, ?_, ?_, fun hg => ⟨?_, ?_, fun t ht => s.amendLine_logs l a data task hg ht⟩, fun hg => ?_⟩
    · rw [hline', LineMeta.settle_depth]
      rfl
    · rw [hline', LineMeta.settle_grade]
    · rw [hline', LineMeta.settle_below (by exact hg)]
      simp only [writerOf, beq_iff_eq, hg, if_false]
    · rw [hline', LineMeta.settle_below (by exact hg)]
      rfl
    · rw [hline', LineMeta.settle_final (by exact hg)]
      exact ⟨rfl, rfl, rfl⟩
  · intro s a data req task limit hr m g differs room check
    refine ⟨fun hm hroom => ⟨_, State.gradedWrite_none hm rfl hroom, ?_⟩, State.gradedWrite_final, fun hm hd hl => State.gradedWrite_depth hm hd hl,
      fun hm hd hl hroom ha ho => State.gradedWrite_amends hm hd hl rfl hroom ha ho,
      fun hm hd hlt => ⟨_, ((State.gradedWrite_same hm (not_not.1 hd) rfl).trans (if_pos hlt) :), State.putLine_mem .., ?_⟩,
      fun hm hd hle => ?_⟩
    · have hr' : Rising (s.writeHome a data).lines := by rwa [State.writeHome_lines]
      split
      · exact ⟨State.putLine_mem .., by rw [State.line_putLine _ _ hr', LineMeta.settle_grade]⟩
      · exact ⟨(State.logWrite_mem ..).trans (State.putLine_mem ..), by
          rw [State.logWrite_line, State.line_putLine _ _ hr', LineMeta.settle_grade]⟩
    · rw [State.line_putLine _ _ hr, LineMeta.settle_grade]
    · exact (State.gradedWrite_same hm (not_not.1 hd) rfl).trans (if_neg (Nat.not_lt.2 hle))

end Sys2Proof.Machine
end

section
/-! The completions of loads, stores and atomics (R86, R88 to R91, R93, R237, R356, R357, R363). -/

namespace Sys2Proof.Machine

open Sys2Proof.Says

/-- An event of an operation whose time has come does what it says of it. -/
theorem opFrame_due {s : State} {id : Nat} {o : Op} (hd : Due s id o) (body : Op → State) : opFrame s id body = .next (body o) := by
  obtain ⟨ho, hm⟩ := hd
  simp only [opFrame, ho, hm, if_true]

/-! ### The words of a load -/

/-- A number of n bits as the other definition reads it, in two's complement. -/
theorem ofInt_sextNat (n x : Nat) (hn : 0 < n) : BitVec.ofInt 32 (sextNat n x) = (BitVec.ofNat n x).signExtend 32 := by
  have hp : 2 ^ n = 2 * 2 ^ (n - 1) := by rw [← pow_succ', Nat.sub_add_cancel hn]
  rw [BitVec.signExtend, BitVec.toInt, sextNat, BitVec.toNat_ofNat]
  push_cast
  congr 1
  split <;> split <;> omega

/-- Bytes give one word for each four. -/
theorem wordsOfBytes_length (m : Nat) : ∀ bs : List Byte, bs.length = 4 * m → (wordsOfBytes bs).length = m := by
  induction m with
  | zero =>
    intro bs h
    rw [List.length_eq_zero_iff.1 h]
    rfl
  | succ m ih =>
    intro bs h
    match bs, h with
    | _ :: _ :: _ :: _ :: bs, h => exact congrArg (· + 1) (ih bs (by simp only [List.length_cons] at h; omega))

theorem wordsOfBytes_getElem? (m : Nat) : ∀ bs : List Byte, bs.length = 4 * m → ∀ i, i < m →
    (wordsOfBytes bs)[i]? = some (BitVec.ofNat 32 (leNat ((bs.drop (4 * i)).take 4))) := by
  induction m with
  | zero => exact fun _ _ _ hi => absurd hi (Nat.not_lt_zero _)
  | succ m ih =>
    intro bs h i hi
    match bs, h with
    | _ :: _ :: _ :: _ :: bs, h =>
      cases i with
      | zero => rfl
      | succ i => exact ih bs (by simp only [List.length_cons] at h; omega) i (Nat.lt_of_succ_lt_succ hi)

/-! ### Loads -/

section Loads

variable {s s1 s2 : State} {id : Nat} {o : Op}

/-- What a load's data leaves (R88, R89, R230). -/
def State.loaded (s : State) (id : Nat) (o : Op) (sz : Sz) (x : List Byte) : State :=
  let s3 := s.opDeliver o fun t => t.setRunD o.d (loadWords sz x)
  ((if Ord16.isAcq o.ord then s3.dropRoc o.core else s3).opSample o).opDone id o

theorem State.completeLoad_loaded {sz : Sz} {ro : Bool} {bs : List Byte} (hr : s.opRefused o = false) (hb : s.accBad o.acc o.n = false)
    (hv : s.loadValue id o ro = some (bs, s1)) (hlog : s1.opLogRead o = some s2) :
    s.completeLoad id o sz ro =
      let x := if ro then (bs, s2) else s2.opBytes o bs
      x.2.loaded id o sz x.1 := by
  simp only [State.completeLoad, hr, hb, hv, hlog, Bool.false_eq_true, if_false, State.loaded]

theorem exec_loadComplete (hd : Due s id o) {sz : Sz} {ro : Bool} (hk : o.kind = if ro then .ldro sz else .ld sz) :
    exec (.loadComplete id) s = .next (s.completeLoad id o sz ro) := by
  refine (opFrame_due hd _).trans ?_
  cases ro <;> simp only [hk, if_true, Bool.false_eq_true, if_false]

/-- A load of this package reads memory (R88). -/
theorem State.loadValue_home {h : Nat} (hh : o.acc.loc.home = some h) : s.loadValue id o false = some (s.bytes h o.n, s) := by
  simp only [State.loadValue, hh, Bool.false_eq_true, if_false]

/-- Where no item of the thread touches it, a load takes what its port gave (R87). -/
theorem State.opBytes_untouched (h : ∀ y ∈ o.laid ++ s.itemsOf o.uid, y.touches o.uid o.acc.loc o.n = false) (bs : List Byte) :
    s.opBytes o bs = (bs.take o.n, s) := by
  have hany : ((o.laid ++ s.itemsOf o.uid).any fun x => x.touches o.uid o.acc.loc o.n) = false :=
    List.any_eq_false.2 fun y hy => by simp only [h y hy, Bool.false_eq_true, not_false_eq_true]
  simp only [State.opBytes, hany, Bool.false_eq_true, if_false]

/-- Is an operation a load, a value-returning atomic, GRD or GCONF (R237; log 101)? -/
def OpKind.returns (k : OpKind) : Prop :=
  (∃ sz, k = .ld sz ∨ k = .ldro sz) ∨ (∃ op w, k = .atom op w) ∨ (∃ w, k = .cas w) ∨ k = .grd ∨ ∃ g, k = .gconf g

theorem exec_loadRefusedOrLost (hd : Due s id o) (hk : o.kind.returns) (lost : Bool) :
    exec (.loadRefusedOrLost id lost) s = .next (s.refuseRead id o lost) := by
  refine (opFrame_due hd _).trans ?_
  obtain ⟨sz, h | h⟩ | ⟨op, w, h⟩ | ⟨w, h⟩ | h | ⟨g, h⟩ := hk <;> simp only [h]

/-- A read that is refused or lost is deferred to the thread's next clause boundary (R237). -/
theorem State.refuseRead_due {lost : Bool} (hth : o.heldThere = false) (hdue : if lost then s.mayLose o = true else s.refusalDue o = true) :
    s.refuseRead id o lost = s.opFailRead id o (if lost then 9 else 8) := by
  cases lost <;> simp only [Bool.false_eq_true, if_false, if_true] at hdue <;>
    simp only [State.refuseRead, hdue, hth, Bool.false_eq_true, if_false, if_true, Bool.not_true]

end Loads

/-- Settles O11: the words by size, a load's completion, and a refused or lost read. -/
theorem loadsComplete : Obligations.LoadsComplete := by
  refine ⟨fun sz bs hlen => ⟨fun h => ?_, fun h => ?_, fun h => ?_, fun h => ?_⟩, fun s id o hd => ⟨?_, fun lost hk hth hdue => ?_⟩⟩
  · rw [List.mem_pair] at h
    rcases h with rfl | rfl <;> rfl
  · subst h
    exact congrArg (· :: []) (ofInt_sextNat 8 (leNat bs) (by decide))
  · subst h
    exact congrArg (· :: []) (ofInt_sextNat 16 (leNat bs) (by decide))
  · have h4 : szBytes sz = 4 * (szBytes sz / 4) ∧ loadWords sz bs = wordsOfBytes bs := by
      simp only [List.mem_cons, List.not_mem_nil, or_false] at h
      rcases h with rfl | rfl | rfl <;> exact ⟨rfl, rfl⟩
    rw [h4.2]
    exact ⟨wordsOfBytes_length _ _ (hlen.trans h4.1), wordsOfBytes_getElem? _ _ (hlen.trans h4.1)⟩
  · intro sz bs s1 s2 ro hk hr hb hv hlog x s3 s4
    refine ⟨?_, fun h hro hh => ?_, fun h => State.opBytes_untouched h bs⟩
    · rw [exec_loadComplete hd hk, State.completeLoad_loaded hr hb hv hlog]
      rfl
    · subst hro
      rw [State.loadValue_home hh, Option.some_inj, Prod.mk.injEq] at hv
      exact ⟨hv.1.symm, hv.2.symm⟩
  · intro s1
    rw [exec_loadRefusedOrLost hd hk, State.refuseRead_due hth hdue]
    cases lost <;> rfl

/-! ### Stores and atomics -/

section Writes

variable {s : State} {id : Nat} {o : Op}

theorem exec_storeComplete (hd : Due s id o) (hk : o.kind = .st ∨ ∃ op w, o.kind = .red op w) (fate : Fate) :
    exec (.storeComplete id fate) s = .next (s.completeStore id o fate) := by
  refine (opFrame_due hd _).trans ?_
  obtain h | ⟨op, w, h⟩ := hk <;> simp only [h]

theorem exec_atomicComplete (hd : Due s id o) (hk : o.kind.atomic = true) (hdone : o.done = false) :
    exec (.atomicComplete id) s = .next (s.completeAtomic id o) := by
  refine (opFrame_due hd _).trans ?_
  simp only [hk, hdone, Bool.not_false, Bool.and_true, if_true]

/-- A thread's store is performed, or enters the egress hold buffer where it has room (R90, R91). -/
theorem State.completeStore_performs (hk : o.kind = .st) (hf : s.fateOk o .performed = true) (hc : o.core ≠ feCore) (hth : o.heldThere = false)
    (hfull : s.holdFull o = false) : s.completeStore id o .performed = (s.performOp id o).opDone id o := by
  have hc' : (o.core == feCore) = false := beq_eq_false_iff_ne.2 hc
  simp only [State.completeStore, hk, hf, hc', hth, hfull, beq_self_eq_true, Bool.not_true, Bool.not_false, Bool.and_self, Bool.false_and,
    Bool.false_eq_true, if_false, if_true]

/-- One that is refused or lost fails (R91). -/
theorem State.completeStore_fails {fate : Fate} (hne : fate ≠ .performed) (hf : s.fateOk o fate = true) (hc : o.core ≠ feCore)
    (hth : o.heldThere = false) : s.completeStore id o fate = s.opFailWrite id o fate := by
  have hc' : (o.core == feCore) = false := beq_eq_false_iff_ne.2 hc
  cases fate with
  | performed => exact absurd rfl hne
  | refused | lost => simp only [State.completeStore, hf, hc', hth, Bool.not_true, Bool.false_and, Bool.false_eq_true, if_false]

/-- The failure of a write is counted in its thread's NFAIL (R91). -/
theorem State.opFailWrite_counts (he : o.egress = false) (fate : Fate) :
    s.opFailWrite id o fate =
      let s1 := s.opDeliver o (Thread.noteFail · fate)
      (if fate = .lost then s1 else s1.opSample o).opDone id o := by
  simp only [State.opFailWrite, he, beq_iff_eq, Bool.false_eq_true, if_false]

/-- What an atomic leaves of the memory at its address (R93). -/
def State.atomAt (s : State) (o : Op) (h : Nat) : State :=
  match o.kind.newValue (leNat (s.bytes h o.n)) (leNat o.data) (leNat o.cmp) with
  | some m => s.writeHome h (leBytes o.n m)
  | none => s

variable (hv : o.void = false) (hth : o.heldThere = false) (hr : s.opRefused o = false)

include hv hth hr

/-- An atomic or RED on a line that an error has struck since the issue fails (R363). -/
theorem State.completeAtomic_struck (hb : s.accBad o.acc o.n = true) : s.completeAtomic id o =
    if o.kind.isRed then s.opFailWrite id o .refused else s.opFailRead id o 12 := by
  simp only [State.completeAtomic, hv, hth, hr, hb, Bool.false_and, Bool.or_self, Bool.true_and, Bool.false_eq_true, if_false, if_true]

/-- A RED to an off-chip destination of a task below FINAL enters the egress hold buffer (R91, R304). -/
theorem State.completeAtomic_held {op : AtomOp} {w : Bool} (hb : s.accBad o.acc o.n = false) (hk : o.kind = .red op w) (hs : o.sent = false)
    (hh : s.heldBack o = true) (hroom : s.holdRoom o.inst (dieOfCore o.core) o.data.length = true) : s.completeAtomic id o =
    (s.holdItem o.task (.red o.thread o.uid o.acc op w o.data o.va o.part [] (o.holdTag id))).opDone id o := by
  simp only [State.completeAtomic, State.holdFull, hv, hth, hr, hb, hk, hs, hh, hroom, OpKind.isRed, Bool.false_and, Bool.or_self, Bool.and_self,
    Bool.not_true, Bool.not_false, Bool.and_false, Bool.false_eq_true, if_false, if_true]

/-- At its port an atomic reads and writes in one step (R93). -/
theorem State.completeAtomic_performs {h : Nat} (hb : s.accBad o.acc o.n = false) (hn : (o.kind.isRed && !o.sent && s.heldBack o) = false)
    (hh : o.acc.loc.home = some h) :
    s.completeAtomic id o = (((s.atomAt o h).atomDeliver o (s.bytes h o.n)).opSample o).opDone id o := by
  simp only [State.completeAtomic, hv, hth, hr, hb, hn, hh, Bool.false_and, Bool.or_self, Bool.false_eq_true, if_false]
  rfl

end Writes

/-! ### A store at its port -/

section Ports

variable {s : State} {a : Acc} {data : List Byte} {part : Nat} {ord : Ord16}

theorem State.performStore_home {h : Nat} (hh : a.loc.home = some h) : s.performStore a data part ord = s.writeHome h data := by
  have hr (pk va g) : a.loc ≠ .remote pk va g := fun e => by simp [e, Loc.home] at hh
  have hb (pa) : a.loc ≠ .bell pa := fun e => by simp [e, Loc.home] at hh
  unfold State.performStore
  split
  next e => exact absurd e (hr _ _ _)
  next e => exact absurd e (hb _)
  next => rw [hh]

theorem State.performStore_remote {pk va : Nat} {g} (hl : a.loc = .remote pk va g) : s.performStore a data part ord =
    s.send 2 pk { s.blankMsg with addr := BitVec.ofNat 56 va, part := Fin.ofNat 64 part, n := data.length, data := data, ord := ord } := by
  simp only [State.performStore, hl]

theorem State.performStore_bell {pa : Nat} (hl : a.loc = .bell pa) :
    s.performStore a data part ord = s.roceDoorbell ((pa - Config.doorbellBase) / 65536) (leNat data) := by
  simp only [State.performStore, hl]

end Ports

/-! ### The atomic operators -/

/-- A number of n bits in two's complement. -/
theorem sextNat_of_lt {n x : Nat} (hx : x < 2 ^ n) : sextNat n x = if x < 2 ^ (n - 1) then (x : Int) else x - 2 ^ n := by
  have h : ((x % 2 ^ n : Nat) : Int) = x := by rw [Nat.mod_eq_of_lt hx]
  push_cast at h
  simp only [sextNat, Nat.mod_eq_of_lt hx, h]

theorem sextNat_inj {n x y : Nat} (hx : x < 2 ^ n) (hy : y < 2 ^ n) (h : sextNat n x = sextNat n y) : x = y := by
  have hx' : (x : Int) < 2 ^ n := by exact_mod_cast hx
  have hy' : (y : Int) < 2 ^ n := by exact_mod_cast hy
  rw [sextNat_of_lt hx, sextNat_of_lt hy] at h
  split at h <;> split at h <;> omega

/-- The signed minimum and maximum (R93). -/
theorem atomNew_signed {w : Bool} {m b : Nat} (hm : m < 2 ^ (if w then 64 else 32)) (hb : b < 2 ^ (if w then 64 else 32)) :
    let sg := sextNat (if w then 64 else 32)
    atomNew .smin w m b = (if sg m ≤ sg b then m else b) ∧ atomNew .smax w m b = (if sg m ≤ sg b then b else m) := by
  dsimp only
  simp only [atomNew, decide_eq_true_eq]
  rcases lt_trichotomy (sextNat (if w then 64 else 32) m) (sextNat (if w then 64 else 32) b) with h | h | h
  · simp only [h, h.le, if_true, and_self]
  · obtain rfl := sextNat_inj hm hb h
    simp only [ite_self, and_self]
  · simp only [h.not_gt, h.not_ge, if_false, and_self]

/-- Settles O12: by what a store's and an atomic's completion leave, by a store's three ports, and operator by operator. -/
theorem storesAndAtomicsComplete : Obligations.StoresAndAtomicsComplete := by
  refine ⟨fun s id o hd hv hth he hc => ⟨?_, ?_, ?_, ?_, ?_, ?_⟩, fun s a data part ord => ⟨fun h => State.performStore_home, fun pk va g hl => ?_,
    fun pa => State.performStore_bell⟩, ?_⟩
  · intro hk hf hb
    have hfull : s.holdFull o = false := by simp only [State.holdFull, hb, Bool.and_false, Bool.false_and]
    rw [exec_storeComplete hd (.inl hk), State.completeStore_performs hk hf hc hth hfull]
    simp only [State.performOp, hv, hb, Bool.false_eq_true, if_false]
  · intro hk hf hb hroom
    have hfull : s.holdFull o = false := by simp only [State.holdFull, hroom, Bool.not_true, Bool.and_false]
    rw [exec_storeComplete hd (.inl hk), State.completeStore_performs hk hf hc hth hfull]
    simp only [State.performOp, Op.holdTag, hv, hb, Bool.false_eq_true, if_false, if_true]
  · intro op w hk hdone hr hb hs hh hroom
    rw [exec_atomicComplete hd (by rw [hk]; rfl) hdone, State.completeAtomic_held hv hth hr hb hk hs hh hroom]
    rfl
  · intro hk hdone hr hb
    rw [exec_atomicComplete hd hk hdone, State.completeAtomic_struck hv hth hr hb]
    cases hred : o.kind.isRed
    · rfl
    · rw [if_pos rfl, State.opFailWrite_counts he]
      rfl
  · intro fate hne hk hf
    rw [exec_storeComplete hd hk, State.completeStore_fails hne hf hc hth, State.opFailWrite_counts he]
  · intro h hk hdone hr hb hn hh
    rw [exec_atomicComplete hd hk hdone, State.completeAtomic_performs hv hth hr hb hn hh]
    rfl
  · exact State.performStore_remote hl
  · intro w m b n hm hb sg
    have hsg (x : Nat) (hx : x < 2 ^ n) : sextNat n x = sg x := sextNat_of_lt hx
    obtain ⟨hmin, hmax⟩ := atomNew_signed hm hb
    rw [show sextNat (if w then 64 else 32) m = sg m from hsg m hm, show sextNat (if w then 64 else 32) b = sg b from hsg b hb] at hmin hmax
    refine ⟨rfl, hmin, hmax, rfl, rfl, rfl, rfl, rfl, rfl, fun c => ?_, fun op => ⟨rfl, rfl⟩⟩
    simp only [OpKind.newValue, beq_iff_eq]

end Sys2Proof.Machine
end

section
/-! Tables and folds: the keys that satisfy a predicate, and one entry of a table after a fold over keys. -/

namespace Sys2Proof.Machine

section Tables

variable {α : Type} {m : Table α}

/-- In a table with rising keys an entry is what its key reads as. -/
theorem mem_iff_mget (h : Rising m) {k : Nat} {a : α} : (k, a) ∈ m ↔ mget m k = some a := by
  induction m with
  | nil => simp [mget]
  | cons q m ih =>
    obtain ⟨j, b⟩ := q
    obtain ⟨hlt, hm⟩ := h
    rw [List.mem_cons, Prod.mk.injEq, mget_cons]
    by_cases hjk : j = k
    · subst hjk
      have hno : (j, a) ∉ m := fun hp => absurd (hlt _ hp) (Nat.lt_irrefl _)
      simp only [hno, or_false, true_and, if_true, Option.some_inj, eq_comm]
    · simp only [hjk, Ne.symm hjk, false_and, false_or, if_false, ih hm]

theorem mem_mkeys (h : Rising m) {p : Nat → α → Bool} {k : Nat} : k ∈ mkeys m p ↔ ∃ a, mget m k = some a ∧ p k a = true := by
  simp only [mkeys, List.mem_map, List.mem_filter]
  constructor
  · rintro ⟨⟨j, a⟩, ⟨hm, hp⟩, rfl⟩
    exact ⟨a, (mem_iff_mget h).1 hm, hp⟩
  · rintro ⟨a, ha, hp⟩
    exact ⟨(k, a), ⟨(mem_iff_mget h).2 ha, hp⟩, rfl⟩

theorem nodup_keys (h : Rising m) : (m.map (·.1)).Nodup := by
  induction m with
  | nil => exact List.nodup_nil
  | cons q m ih =>
    obtain ⟨hlt, hm⟩ := h
    refine List.nodup_cons.2 ⟨fun hq => ?_, ih hm⟩
    obtain ⟨r, hr, hrq⟩ := List.mem_map.1 hq
    exact absurd (hlt r hr) (by rw [hrq]; exact Nat.lt_irrefl _)

theorem nodup_mkeys (h : Rising m) (p : Nat → α → Bool) : (mkeys m p).Nodup := nodup_keys (rising_filter _ h)

theorem mget_mmap (m : Table α) (f : Nat → α → α) (k : Nat) : mget (mmap m f) k = (mget m k).map (f k) := by
  induction m with
  | nil => rfl
  | cons q m ih =>
    obtain ⟨j, b⟩ := q
    change mget ((j, f j b) :: mmap m f) k = _
    rw [mget_cons, mget_cons, ih]
    split
    · subst_vars
      rfl
    · rfl

theorem rising_mmap (h : Rising m) (f : Nat → α → α) : Rising (mmap m f) := by
  induction m with
  | nil => exact h
  | cons q m ih =>
    obtain ⟨hlt, hm⟩ := h
    refine ⟨fun r hr => ?_, ih hm⟩
    obtain ⟨r', hr', rfl⟩ := List.mem_map.1 hr
    exact hlt r' hr'

theorem rising_mmod (h : Rising m) (k : Nat) (f : α → α) : Rising (mmod m k f) := by
  unfold mmod
  split
  · exact rising_mput _ _ h
  · exact h

end Tables

/-- Where each step of a fold over threads changes only its own thread, one that is not named is as before. -/
theorem State.foldl_thread_other {f : State → Nat → State} (hf : ∀ s k j, j ≠ k → (f s k).thread? j = s.thread? j) {ks : List Nat} {j : Nat}
    (hj : j ∉ ks) (s : State) : (ks.foldl f s).thread? j = s.thread? j := by
  induction ks generalizing s with
  | nil => rfl
  | cons k ks ih =>
    rw [List.mem_cons, not_or] at hj
    exact (ih hj.2 _).trans (hf s k j hj.1)

/-- And one that is named is as its own step leaves it, from a state in which it is as before. -/
theorem State.foldl_thread_named {f : State → Nat → State} (hf : ∀ s k j, j ≠ k → (f s k).thread? j = s.thread? j) {ks : List Nat} (hn : ks.Nodup)
    {j : Nat} (hj : j ∈ ks) (s : State) : ∃ s', s'.thread? j = s.thread? j ∧ (ks.foldl f s).thread? j = (f s' j).thread? j := by
  induction ks generalizing s with
  | nil => exact absurd hj List.not_mem_nil
  | cons k ks ih =>
    obtain ⟨hk, hn⟩ := List.nodup_cons.1 hn
    by_cases hjk : j = k
    · subst hjk
      exact ⟨s, rfl, State.foldl_thread_other hf hk _⟩
    · obtain ⟨s', hs', hfold⟩ := ih hn ((List.mem_cons.1 hj).resolve_left hjk) (f s k)
      exact ⟨s', hs'.trans (hf s k j hjk), hfold⟩

end Sys2Proof.Machine
end

section
/-! What goes on when a phase has completed or a hasp is invalidated (R101, R102, R136, R143). -/

namespace Sys2Proof.Machine

/-! ### The status word -/

/-- R101, in integers. -/
theorem phaseDone_iff (cur : BitVec 16) (p : Nat) : phaseDone cur p = true ↔ ((cur.toNat : Int) - p - 1) % 2 ^ 16 < 2 ^ 15 := by
  have hcur := cur.isLt
  have hone : (1 : BitVec 16).toNat = 1 := rfl
  simp only [phaseDone, hone, decide_eq_true_eq, BitVec.toNat_sub, BitVec.toNat_ofNat]
  omega

theorem haspStatus_toNat (a b c : Bool) (p : BitVec 16) :
    (haspStatus a b c p).toNat = boolNat a * 2 ^ 31 + boolNat b * 2 ^ 30 + boolNat c * 2 ^ 29 + p.toNat := by
  have hp := p.isLt
  rw [haspStatus, BitVec.toNat_ofNat]
  refine Nat.mod_eq_of_lt ?_
  cases a <;> cases b <;> cases c <;> simp only [boolNat, if_true, Bool.false_eq_true, if_false] <;> omega

/-- The fields of the status word (R101). -/
theorem haspStatus_fields (a b c : Bool) (p : BitVec 16) :
    let w := haspStatus a b c p
    w.toNat % 2 ^ 16 = p.toNat ∧ w.toNat / 2 ^ 16 % 2 ^ 13 = 0 ∧ w.getLsbD 31 = a ∧ w.getLsbD 30 = b ∧ w.getLsbD 29 = c := by
  have hp := p.isLt
  have hbit (i : Nat) : (haspStatus a b c p).getLsbD i = decide ((haspStatus a b c p).toNat / 2 ^ i % 2 = 1) :=
    Nat.testBit_eq_decide_div_mod_eq
  dsimp only
  rw [hbit, hbit, hbit, haspStatus_toNat]
  cases a <;> cases b <;> cases c <;> simp only [boolNat, if_true, Bool.false_eq_true, if_false, decide_eq_true_eq, decide_eq_false_iff_not] <;> omega

/-- The status word of a hasp that is judged (R101, R103). -/
theorem Hasp.testStatus_eq (h : Hasp) (p : Nat) :
    h.testStatus p = haspStatus (h.valid && phaseDone h.phase p && h.spur.contains (p % 2 ^ 16)) (!h.valid) (h.valid && phaseDone h.phase p) h.phase := by
  unfold Hasp.testStatus
  cases h.valid <;> cases phaseDone h.phase p <;> rfl

/-! ### A thread that is woken -/

section Wake

variable {s : State} {k : Nat} {t : Thread}

theorem State.readied_frame (s : State) (k : Nat) : s.readied k = { s with threads := (s.readied k).threads, cores := (s.readied k).cores } := by
  unfold State.readied
  rw [State.settleHalt_frame]
  rfl

theorem State.readied_thread_other (s : State) {k j : Nat} (h : j ≠ k) : (s.readied k).thread? j = s.thread? j := by
  rw [State.readied, State.settleHalt_thread_other _ h, State.thread_modThread_other _ _ h]

theorem State.readied_thread (h : s.thread? k = some t) :
    ∃ t', (s.readied k).thread? k = some t' ∧ t'.pc = t.pc ∧ t'.status = .ready ∧ t'.v = t.v := by
  have h1 : (s.modThread k fun t => { t with status := .ready, readyAt := s.clk, clauses := 0 }).thread? k =
      some { t with status := .ready, readyAt := s.clk, clauses := 0 } := by rw [State.thread_modThread, h, Option.map_some]
  rcases State.settleHalt_thread h1 with h2 | h2 <;> exact ⟨_, h2, rfl, rfl, rfl⟩

/-- A wake changes the thread table, and a core. -/
theorem State.wake_frame (s : State) (k : Nat) (st : Word) (acq : Bool) :
    s.wake k st acq = { s with threads := (s.wake k st acq).threads, cores := (s.wake k st acq).cores } := by
  unfold State.wake
  split
  · split
    · cases acq <;> simp only [Bool.false_eq_true, if_false, if_true] <;> rw [State.readied_frame] <;> rfl
    · rfl
  · rfl

theorem State.wake_thread_other (s : State) {k j : Nat} (st : Word) (acq : Bool) (h : j ≠ k) : (s.wake k st acq).thread? j = s.thread? j := by
  unfold State.wake
  split
  · split
    · cases acq <;> exact (State.readied_thread_other _ h).trans (State.thread_setThread_other _ _ h)
    · rfl
  · rfl

/-- A waiting thread goes on with the status in its destination (R102). -/
theorem State.wake_thread (ht : s.thread? k = some t) {n p : Nat} {d : LaneDst} {nxt : Addr} (hst : t.status = .hwait n p d nxt) (st : Word)
    (acq : Bool) : ∃ t', (s.wake k st acq).thread? k = some t' ∧ t'.pc = nxt ∧ t'.status = .ready ∧ t'.v = (t.setD d st).v := by
  obtain ⟨t', h1, hpc, hr, hv⟩ :=
    State.readied_thread (s.thread_setThread k { t.setD d st with status := .ready, pc := nxt, bpSkip := false })
  refine ⟨t', ?_, hpc, hr, hv⟩
  simp only [State.wake, ht, hst]
  cases acq <;> exact h1

/-- Such a thread's registers: the status in its destination, the others as before. -/
theorem Thread.woken_regs {t' : Thread} {d : LaneDst} {st : Word} (hv : t'.v = (t.setD d st).v) :
    (∀ m, d = .v m → t'.getV m.val = st) ∧ ∀ m : Fin 160, d ≠ .v m → t'.getV m.val = t.getV m.val := by
  obtain ⟨hd, hnd, -⟩ := t.setD_spec d st
  exact ⟨fun m hm => (Thread.getV_congr hv _).trans (hd m hm), fun m hm => (Thread.getV_congr hv _).trans (hnd m hm)⟩

end Wake

/-! ### The threads that wait on a phase that has completed -/

section WakeDone

variable {s : State} {c n : Nat}

/-- Does a thread wait on a phase of hasp n that has completed? -/
def Hasp.wakes (h : Hasp) (n : Nat) (t : Thread) : Bool :=
  match t.status with
  | .hwait m p _ _ => m == n && phaseDone h.phase p
  | _ => false

/-- What wakeDone does to one thread. -/
def State.wakeFrom (h : Hasp) (s : State) (k : Nat) : State :=
  match (s.thread? k).map (fun t => t.status) with
  | some (TStatus.hwait _ p _ _) => s.wake k (h.doneStatus p) true
  | _ => s

theorem State.wakeFrom_frame (h : Hasp) (s : State) (k : Nat) :
    s.wakeFrom h k = { s with threads := (s.wakeFrom h k).threads, cores := (s.wakeFrom h k).cores } := by
  unfold State.wakeFrom
  split
  · exact State.wake_frame ..
  · rfl

theorem State.wakeFrom_thread_other (h : Hasp) (s : State) (k j : Nat) (hj : j ≠ k) : (s.wakeFrom h k).thread? j = s.thread? j := by
  unfold State.wakeFrom
  split
  · exact State.wake_thread_other _ _ _ hj
  · rfl

theorem State.wakeDone_eq (s : State) (c n : Nat) :
    s.wakeDone c n = (mkeys s.threads fun k t => coreOfThread k == c && (s.hasp (haspKey c n)).wakes n t).foldl
      (State.wakeFrom (s.hasp (haspKey c n))) s := rfl

theorem State.wakeDone_hasps (s : State) (c n : Nat) : (s.wakeDone c n).hasps = s.hasps := by
  rw [State.wakeDone_eq]
  exact State.foldl_keeps State.hasps (f := State.wakeFrom _) (fun s k => by rw [State.wakeFrom_frame]) _ s

theorem State.wakeDone_strands (s : State) (c n : Nat) : (s.wakeDone c n).strands = s.strands := by
  rw [State.wakeDone_eq]
  exact State.foldl_keeps State.strands (f := State.wakeFrom _) (fun s k => by rw [State.wakeFrom_frame]) _ s

/-- Is thread k, resident as t, among those that wakeDone lets go on? -/
theorem mem_wakeDone {k : Nat} {t : Thread} (hr : Rising s.threads) (ht : s.thread? k = some t) (h : Hasp) :
    (k ∈ mkeys s.threads fun k t => coreOfThread k == c && h.wakes n t) ↔ coreOfThread k = c ∧ h.wakes n t = true := by
  rw [mem_mkeys hr, show mget s.threads k = some t from ht]
  simp only [Option.some_inj, exists_eq_left', Bool.and_eq_true, beq_iff_eq]

variable {k p : Nat} {t : Thread} {d : LaneDst} {nxt : Addr}

/-- A thread that waits on a completed phase goes on with the phase's status (R102, R136). -/
theorem State.wakeDone_wakes (hr : Rising s.threads) (ht : s.thread? k = some t) (hc : coreOfThread k = c) (hst : t.status = .hwait n p d nxt)
    (hp : phaseDone (s.hasp (haspKey c n)).phase p = true) : ∃ t', (s.wakeDone c n).thread? k = some t' ∧ t'.pc = nxt ∧ t'.status = .ready ∧
      (∀ m, d = .v m → t'.getV m.val = (s.hasp (haspKey c n)).doneStatus p) ∧ ∀ m : Fin 160, d ≠ .v m → t'.getV m.val = t.getV m.val := by
  have hw : (s.hasp (haspKey c n)).wakes n t = true := by simp only [Hasp.wakes, hst, hp, beq_self_eq_true, Bool.and_self]
  obtain ⟨s', hs', hfold⟩ := State.foldl_thread_named (State.wakeFrom_thread_other _) (nodup_mkeys hr _) ((mem_wakeDone hr ht _).2 ⟨hc, hw⟩) s
  obtain ⟨t', ht', hpc, hrd, hv⟩ := State.wake_thread (hs'.trans ht) hst ((s.hasp (haspKey c n)).doneStatus p) true
  have hfrom : s'.wakeFrom (s.hasp (haspKey c n)) k = s'.wake k ((s.hasp (haspKey c n)).doneStatus p) true := by
    simp only [State.wakeFrom, hs', ht, Option.map_some, hst]
  exact ⟨t', by rw [State.wakeDone_eq, hfold, hfrom, ht'], hpc, hrd, Thread.woken_regs hv⟩

/-- Every other thread is as before. -/
theorem State.wakeDone_other (hr : Rising s.threads) (ht : s.thread? k = some t)
    (hn : coreOfThread k ≠ c ∨ ∀ p d nxt, t.status = .hwait n p d nxt → phaseDone (s.hasp (haspKey c n)).phase p = false) :
    (s.wakeDone c n).thread? k = some t := by
  rw [State.wakeDone_eq, State.foldl_thread_other (State.wakeFrom_thread_other _) _, ht]
  rw [mem_wakeDone hr ht, not_and]
  intro hc
  have hn' := hn.resolve_left (not_not.2 hc)
  unfold Hasp.wakes
  split
  next m p d nxt hst =>
    by_cases hm : m = n
    · subst hm
      simp only [hn' p d nxt hst, Bool.and_false, Bool.false_eq_true, not_false_eq_true]
    · simp only [beq_eq_false_iff_ne.2 hm, Bool.false_and, Bool.false_eq_true, not_false_eq_true]
  next => exact Bool.false_ne_true

end WakeDone

end Sys2Proof.Machine
end

section
/-! The lane hasp instructions (R99 to R104). -/

namespace Sys2Proof.Machine

open Sys2Proof.Says

section LaneHasps

variable {s : State} {k : Nat} {t : Thread} {h : Fin 32} {d : LaneDst} {b : LaneSrc}

/-! ### A result given to the executing thread -/

/-- A word is given to a lane destination of thread k. -/
def State.give (s : State) (k : Nat) (d : LaneDst) (w : Word) : State := s.modThread k fun t => t.setD d w

/-- A thread that has been given a word, with or without an acquire, stands after its instruction with it. -/
theorem State.give_goes (ht : s.thread? k = some t) (d : LaneDst) (w : Word) {u : State} (hu : u = s.give k d w ∨ u = (s.give k d w).dropRoc (coreOfThread k)) :
    ∃ t', (u.advance k).thread? k = some t' ∧ t'.pc = s.pcAfter k ∧ t'.status = .ready ∧ ∀ m, d = .v m → t'.getV m.val = w := by
  obtain ⟨hd, -, -, -, hpc, -⟩ := t.setD_spec d w
  have h1 : (s.give k d w).thread? k = some (t.setD d w) := by rw [State.give, State.thread_modThread, ht, Option.map_some]
  have h2 : u.thread? k = some (t.setD d w) := by rcases hu with rfl | rfl <;> exact h1
  have hafter : u.pcAfter k = s.pcAfter k := by
    simp only [State.pcAfter, h2, ht, hpc]
    rcases hu with rfl | rfl <;> rfl
  obtain ⟨t', hthr, hpc', hst, hv, -⟩ := State.goTo_thread (u.pcAfter k) h2
  exact ⟨t', hthr, hpc'.trans hafter, hst, fun m hm => (Thread.getV_congr hv _).trans (hd m hm)⟩

/-! ### Waiting -/

/-- A wait on a phase that has completed returns at once, as an acquire (R102). -/
theorem State.waitOn_done {m p : Nat} (hp : phaseDone (s.hasp (haspKey (coreOfThread k) m)).phase p = true) :
    s.waitOn k m p d = .ok ((s.give k d ((s.hasp (haspKey (coreOfThread k) m)).doneStatus p)).dropRoc (coreOfThread k)) := by
  simp only [State.waitOn, hp, if_true]
  rfl

/-- A wait that neither a stop nor a surrender routine takes blocks its thread, and changes nothing else (R102, R170). -/
theorem State.waitOn_blocks {m p : Nat} (ht : s.thread? k = some t) (hp : phaseDone (s.hasp (haspKey (coreOfThread k) m)).phase p = false)
    (hs : s.stops k = false) (he : s.routineEntry k t = none) :
    let u := State.laneFinish k (s.waitOn k m p d)
    u = { s with threads := u.threads } ∧ (u.thread? k).map (·.status) = some (.hwait m p d (s.pcAfter k)) := by
  have h1 : (s.modThread k fun t => { t with status := .hwait m p d (s.pcAfter k) }).thread? k =
      some { t with status := .hwait m p d (s.pcAfter k) } := by rw [State.thread_modThread, ht, Option.map_some]
  have he' : (s.modThread k fun t => { t with status := .hwait m p d (s.pcAfter k) }).routineEntry k
      { t with status := .hwait m p d (s.pcAfter k) } = none := he
  have htake : (s.modThread k fun t => { t with status := .hwait m p d (s.pcAfter k) }).takeBlocked k =
      s.modThread k fun t => { t with status := .hwait m p d (s.pcAfter k) } := by
    simp only [State.takeBlocked, h1, he']
  simp only [State.waitOn, hp, hs, htake, Bool.false_eq_true, if_false, State.laneFinish]
  refine ⟨rfl, ?_⟩
  rw [State.thread_modThread, h1]
  rfl

/-! ### What the instructions do on a hasp that the block holds -/

theorem Hasp.testStatus_pending {x : Hasp} {p : Nat} (hv : x.valid = true) (hp : phaseDone x.phase p = false) :
    x.testStatus p = BitVec.ofNat 32 x.phase.toNat := by
  simp only [Hasp.testStatus, hv, hp, haspStatus, boolNat, Bool.not_true, Bool.false_eq_true, if_false, Nat.zero_mul, Nat.zero_add]

theorem Hasp.testStatus_invalid {x : Hasp} (p : Nat) (hv : x.valid = false) : x.testStatus p = BitVec.ofNat 32 (2 ^ 30 + x.phase.toNat) := by
  simp only [Hasp.testStatus, hv, haspStatus, boolNat, Bool.not_false, Bool.false_eq_true, if_false, if_true, Nat.zero_mul, Nat.zero_add,
    Nat.one_mul, Nat.add_zero]

section Held

variable (hh : s.holdsHasp k h.val = true)

include hh

theorem exec_htest (hl : Lane s k t (LaneDst.regs d ++ LaneSrc.regs b)) :
    let x := s.hasp (haspKey (coreOfThread k) h.val)
    let p := (s.laneSrc k .int b).toNat % 2 ^ 16
    let u := s.give k d (x.testStatus p)
    exec (.htest d h b) s = .next ((if x.valid && phaseDone x.phase p then u.dropRoc (coreOfThread k) else u).advance k) := by
  refine (laneFrame_lane _ hl).trans ?_
  simp only [hh, Bool.not_true, Bool.false_eq_true, if_false]
  rfl

/-- A test of a phase that has completed is an acquire (R103). -/
theorem exec_htest_done (hl : Lane s k t (LaneDst.regs d ++ LaneSrc.regs b)) (hv : (s.hasp (haspKey (coreOfThread k) h.val)).valid = true)
    (hp : phaseDone (s.hasp (haspKey (coreOfThread k) h.val)).phase ((s.laneSrc k .int b).toNat % 2 ^ 16) = true) :
    exec (.htest d h b) s = .next (((s.give k d ((s.hasp (haspKey (coreOfThread k) h.val)).doneStatus
      ((s.laneSrc k .int b).toNat % 2 ^ 16))).dropRoc (coreOfThread k)).advance k) := by
  rw [exec_htest hh hl]
  simp only [Hasp.testStatus, hv, hp, Bool.not_true, Bool.and_self, Bool.false_eq_true, if_false, if_true]

/-- Of another phase, or of an invalid hasp, it is none (R103). -/
theorem exec_htest_undone (hl : Lane s k t (LaneDst.regs d ++ LaneSrc.regs b))
    (hn : ((s.hasp (haspKey (coreOfThread k) h.val)).valid &&
      phaseDone (s.hasp (haspKey (coreOfThread k) h.val)).phase ((s.laneSrc k .int b).toNat % 2 ^ 16)) = false) :
    exec (.htest d h b) s = .next ((s.give k d ((s.hasp (haspKey (coreOfThread k) h.val)).testStatus
      ((s.laneSrc k .int b).toNat % 2 ^ 16))).advance k) := by
  rw [exec_htest hh hl]
  simp only [hn, Bool.false_eq_true, if_false]

theorem exec_hwait (hl : Lane s k t (LaneDst.regs d ++ LaneSrc.regs b)) (hv : (s.hasp (haspKey (coreOfThread k) h.val)).valid = true) :
    exec (.hwait d h b) s = .next (State.laneFinish k (s.waitOn k h.val ((s.laneSrc k .int b).toNat % 2 ^ 16) d)) := by
  refine (laneFrame_lane _ hl).trans ?_
  simp only [hh, hv, Bool.not_true, Bool.or_self, Bool.false_eq_true, if_false]

theorem exec_hwaits {m p : Nat} (hl : Lane s k t (LaneDst.regs d ++ LaneSrc.regs b))
    (hq : s.seqPlace (coreOfThread k) h.val (s.laneSrc k .int b).toNat = some (m, p)) :
    exec (.hwaits d h b) s = .next (State.laneFinish k (s.waitOn k m p d)) := by
  refine (laneFrame_lane _ hl).trans ?_
  simp only [hh, hq, Bool.not_true, Bool.false_eq_true, if_false]

variable (hv : (s.hasp (haspKey (coreOfThread k) h.val)).valid = true) (hp : s.allPerformed k t.uid = true)

include hv hp

/-- HARR, once the thread's accesses are performed (R100). -/
theorem exec_harr (hl : Lane s k t (LaneDst.regs d)) : exec (.harr none d h) s = .next (State.laneFinish k (s.arriveAt k h.val h.val d)) := by
  refine (laneFrame_lane (rs := []) _ (by rwa [List.append_nil])).trans ?_
  simp only [hh, hv, hp, Bool.not_true, Bool.or_self, Bool.false_eq_true, if_false]

/-- The sequence form on no ring base is misuse (R100). -/
theorem exec_harr_unringed (hl : Lane s k t (LaneDst.regs d ++ LaneSrc.regs b))
    (hq : s.seqPlace (coreOfThread k) h.val (s.laneSrc k .int b).toNat = none) : exec (.harr (some b) d h) s = .next (s.laneTrap k (cHasp h.val)) := by
  refine (laneFrame_lane (rs := LaneSrc.regs b) _ hl).trans ?_
  simp only [hh, hv, hp, hq, Bool.not_true, Bool.or_self, Bool.false_eq_true, if_false]
  rfl

/-- On one it names a stage of the ring, whose current phase it must be (R100). -/
theorem exec_harr_stage {m p : Nat} (hl : Lane s k t (LaneDst.regs d ++ LaneSrc.regs b))
    (hq : s.seqPlace (coreOfThread k) h.val (s.laneSrc k .int b).toNat = some (m, p)) :
    exec (.harr (some b) d h) s = .next (if (s.hasp (haspKey (coreOfThread k) m)).phase.toNat = p then
      State.laneFinish k (s.arriveAt k m h.val d) else s.laneTrap k (cHasp h.val)) := by
  refine (laneFrame_lane (rs := LaneSrc.regs b) _ hl).trans ?_
  simp only [hh, hv, hp, hq, Bool.not_true, Bool.or_self, Bool.false_eq_true, if_false, bne_iff_ne, ne_eq, ite_not]
  split <;> rfl

end Held

/-! ### Arrivals -/

section Arrive

variable {m named : Nat}

/-- An arrival on a hasp that the band still joins is held (R128). -/
theorem State.arriveAt_joins {p : Nat} (hj : s.pendingJoin k m = some p) : s.arriveAt k m named d =
    let x := s.hasp (haspKey (coreOfThread k) m)
    .ok ((s.setHasp (haspKey (coreOfThread k) m) { x with heldArr := x.heldArr ++ [⟨some k, false⟩] }).give k d (BitVec.ofNat 32 p)) := by
  simp only [State.arriveAt, hj]
  rfl

/-- One past EXPECT_ARR is misuse (R100). -/
theorem State.arriveAt_past (hj : s.pendingJoin k m = none)
    (hx : (s.hasp (haspKey (coreOfThread k) m)).expArr < (s.hasp (haspKey (coreOfThread k) m)).arrived + 1) :
    s.arriveAt k m named d = .trap s (cHasp named) := by
  simp only [State.arriveAt, hj, hx, if_true]

/-- Within it it is counted, and the phase tried for completion (R100, R136). -/
theorem State.arriveAt_counts (hj : s.pendingJoin k m = none)
    (hx : (s.hasp (haspKey (coreOfThread k) m)).arrived + 1 ≤ (s.hasp (haspKey (coreOfThread k) m)).expArr) : s.arriveAt k m named d =
    let x := s.hasp (haspKey (coreOfThread k) m)
    .ok (((s.setHasp (haspKey (coreOfThread k) m) { x with arrived := x.arrived + 1, arr := x.arr ++ [k] }).give k d
      (BitVec.ofNat 32 x.phase.toNat)).tryComplete (coreOfThread k) m) := by
  simp only [State.arriveAt, hj, Nat.not_lt.2 hx, if_false]
  rfl

end Arrive

end LaneHasps

/-- Settles O14: by the fields of the status word, by what a test and a wait give, and by what completed waits leave. -/
theorem phaseJudgementAndStatusWord : Obligations.PhaseJudgementAndStatusWord := by
  refine ⟨fun h p hp => ⟨phaseDone_iff h.phase p, ?_⟩, fun h d b s k t hl hh => ?_, ?_⟩
  · intro bit w hw
    have hmem : p % 2 ^ 16 = p := Nat.mod_eq_of_lt hp
    have hdone : h.doneStatus p = haspStatus (h.spur.contains p) false true h.phase := by rw [Hasp.doneStatus, hmem]
    have htest := h.testStatus_eq p
    rw [hmem] at htest
    refine ⟨?_, ?_, fun hw => ?_, fun hw => ?_⟩
    · rcases hw with rfl | rfl
      · exact hdone ▸ (haspStatus_fields ..).1
      · exact htest ▸ (haspStatus_fields ..).1
    · rcases hw with rfl | rfl
      · exact hdone ▸ (haspStatus_fields ..).2.1
      · exact htest ▸ (haspStatus_fields ..).2.1
    · obtain ⟨-, -, h31, h30, h29⟩ := haspStatus_fields (h.spur.contains p) false true h.phase
      simp only [bit, hw, hdone, h31, h30, h29, List.contains_iff_mem, Bool.false_eq_true, not_false_eq_true, and_self]
    · obtain ⟨-, -, h31, h30, h29⟩ := haspStatus_fields (h.valid && phaseDone h.phase p && h.spur.contains p) (!h.valid)
        (h.valid && phaseDone h.phase p) h.phase
      simp only [bit, hw, htest, h31, h30, h29, List.contains_iff_mem, Bool.and_eq_true, Bool.not_eq_true', and_assoc, and_self]
  · intro H p gives waits
    have ht := hl.2.1
    have hgives (i : Instr) (w : Word) {u : State} (hu : u = s.give k d w ∨ u = (s.give k d w).dropRoc (coreOfThread k))
        (he : exec i s = .next (u.advance k)) : gives i w := ⟨_, he, State.give_goes ht d w hu⟩
    refine ⟨hgives _ _ ?_ (exec_htest hh hl), fun hv hp => hgives _ _ (.inr rfl) ?_, fun hv hp hs he => ⟨_, exec_hwait hh hl hv, ?_⟩,
      fun m q hq => ⟨fun hp => hgives _ _ (.inr rfl) ?_, fun hp hs he => ⟨_, exec_hwaits hh hl hq, ?_⟩⟩⟩
    · split
      · exact .inr rfl
      · exact .inl rfl
    · rw [exec_hwait hh hl hv, State.waitOn_done hp]
      rfl
    · exact (State.waitOn_blocks ht hp hs he).2
    · rw [exec_hwaits hh hl hq, State.waitOn_done hp]
      rfl
    · exact (State.waitOn_blocks ht hp hs he).2
  · intro s c n hr k t p d nxt ht hc hst h
    refine ⟨fun hp => ?_, fun hp => State.wakeDone_other hr ht (.inr fun p' d' nxt' hst' => ?_)⟩
    · obtain ⟨t', ht', hpc, hrd, hd, -⟩ := State.wakeDone_wakes hr ht hc hst hp
      exact ⟨t', ht', hpc, hrd, hd⟩
    · rw [hst, TStatus.hwait.injEq] at hst'
      exact hst'.2.1 ▸ hp

/-- Settles O15: instruction by instruction, on a hasp that the block holds. -/
theorem haspInstructionResults : Obligations.HaspInstructionResults := by
  intro h d b s k t c H give arrived canArrive hh
  refine ⟨fun hl hv hp hc => ?_, fun p hl hv hp hj => ?_, fun m p hl hv hp hq hcur hc => ?_, fun hl hv => ⟨fun hp => ⟨?_, ?_⟩, fun hp => ?_,
    fun hp hs he => ⟨_, exec_hwait hh hl hv, State.waitOn_blocks hl.2.1 hp hs he⟩⟩, fun hl hv => ?_, fun m p hl hq => ⟨fun hp => ?_,
    fun hp hs he => ⟨_, exec_hwaits hh hl hq, State.waitOn_blocks hl.2.1 hp hs he⟩⟩, fun ofs s1 va acc hl hr => ⟨fun hf => ?_, fun hf hu => ?_,
    fun hf hu => ?_⟩⟩
  · rw [exec_harr hh hv hp hl, State.arriveAt_counts hc.1 hc.2]
    rfl
  · rw [exec_harr hh hv hp hl, State.arriveAt_joins hj]
    rfl
  · rw [exec_harr_stage hh hv hp hl hq, if_pos hcur, State.arriveAt_counts hc.1 hc.2]
    rfl
  · rw [exec_hwait hh hl hv, State.waitOn_done hp]
    rfl
  · rw [exec_htest_done hh hl hv hp]
    rfl
  · rw [exec_htest_undone hh hl (by rw [hp, Bool.and_false]), Hasp.testStatus_pending hv hp]
    rfl
  · rw [exec_htest_undone hh hl (by rw [hv, Bool.false_and]), Hasp.testStatus_invalid _ hv]
    rfl
  · rw [exec_hwaits hh hl hq, State.waitOn_done hp]
    rfl
  all_goals
    rw [exec_hmon_accesses ofs hl hh, State.laneAccess_reaches _ hr]
  · rw [if_pos hf]
    rfl
  · rw [if_neg (ne_true_of_eq_false hf), if_pos hu]
    rfl
  · rw [if_neg (ne_true_of_eq_false hf), if_neg (Nat.not_le.2 hu)]
    rfl

/-- A thread that can execute with some registers named can with fewer. -/
theorem lane_of_subset {s : State} {k : Nat} {t : Thread} {ns ms : List Nat} (h : Lane s k t ms) (hsub : ns ⊆ ms) : Lane s k t ns := by
  obtain ⟨hcur, ht, hb, hbad⟩ := h
  refine ⟨hcur, ht, fun n hn => hb n (hsub hn), List.any_eq_false.2 fun n hn => List.any_eq_false.1 hbad n (hsub hn)⟩

section Misuse

variable {s : State} {k : Nat} {t : Thread} {h : Fin 32} {d : LaneDst} {b : LaneSrc} {seq : Option LaneSrc}

/-- A hasp that the block does not hold is misuse in each form (R99). -/
theorem exec_hasp_unheld (hw : Lane s k t (LaneDst.regs d ++ LaneSrc.regs b)) (ha : Lane s k t (LaneDst.regs d ++ (seq.map LaneSrc.regs).getD []))
    (hh : s.holdsHasp k h.val = false) (i : Instr) (hi : i ∈ [.harr seq d h, .hwait d h b, .hwaits d h b, .htest d h b] ∨ ∃ ofs, i = .hmon d h b ofs) :
    exec i s = .next (s.laneTrap k (cHasp h.val)) := by
  simp only [List.mem_cons, List.not_mem_nil, or_false] at hi
  obtain (rfl | rfl | rfl | rfl) | ⟨ofs, rfl⟩ := hi
  · refine (laneFrame_lane _ ha).trans ?_
    simp only [hh, Bool.not_false, Bool.true_or, if_true]
    rfl
  all_goals
    refine (laneFrame_lane _ hw).trans ?_
    simp only [hh, Bool.not_false, Bool.true_or, if_true]
    rfl

/-- A ring base is valid, a ring, and its base (R142). -/
theorem State.seqPlace_none {c n : Nat} (hr : (s.hasp (haspKey c n)).valid = false ∨ (s.hasp (haspKey c n)).rbase = false) (q : Nat) :
    s.seqPlace c n q = none := by
  have hst : (s.hasp (haspKey c n)).stages = none := by
    rcases hr with hr | hr <;> simp only [Hasp.stages, hr, Bool.false_and, Bool.and_false, Bool.false_eq_true, if_false]
  rw [State.seqPlace, hst, Option.map_none]

/-- HWAITS of a hasp that is no ring base is misuse (R102). -/
theorem exec_hwaits_unringed (hw : Lane s k t (LaneDst.regs d ++ LaneSrc.regs b)) (hh : s.holdsHasp k h.val = true)
    (hr : (s.hasp (haspKey (coreOfThread k) h.val)).valid = false ∨ (s.hasp (haspKey (coreOfThread k) h.val)).rbase = false) :
    exec (.hwaits d h b) s = .next (s.laneTrap k (cHasp h.val)) := by
  refine (laneFrame_lane _ hw).trans ?_
  simp only [hh, State.seqPlace_none hr, Bool.not_true, Bool.false_eq_true, if_false]
  rfl

end Misuse

/-- Settles O16: each misuse is met before anything is counted. -/
theorem haspMisuseTraps : Obligations.HaspMisuseTraps := by
  intro h d b seq s k t c H misuse hl
  have hw : Lane s k t (LaneDst.regs d ++ LaneSrc.regs b) := lane_of_subset hl (List.subset_append_left _ _)
  have ha : Lane s k t (LaneDst.regs d ++ (seq.map LaneSrc.regs).getD []) := lane_of_subset hl fun n hn => by
    rcases List.mem_append.1 hn with hn | hn
    · exact List.mem_append_left _ (List.mem_append_left _ hn)
    · exact List.mem_append_right _ hn
  have hd : Lane s k t (LaneDst.regs d) := lane_of_subset hw (List.subset_append_left _ _)
  refine ⟨fun hh => ?_, fun hh hv => ⟨?_, ?_, exec_hwaits_unringed hw hh (.inl hv)⟩, fun hh hv hp hj hx => ?_,
    fun hh hv hr hp => ⟨exec_harr_unringed hh hv hp hw (State.seqPlace_none (.inr hr) _), exec_hwaits_unringed hw hh (.inr hr)⟩,
    fun m p hh hv hp hq hne => ?_⟩
  · have hall := exec_hasp_unheld hw ha hh
    exact ⟨hall _ (.inl (by simp)), hall _ (.inl (by simp)), hall _ (.inl (by simp)), hall _ (.inl (by simp)), fun ofs => hall _ (.inr ⟨ofs, rfl⟩)⟩
  · refine (laneFrame_lane _ ha).trans ?_
    simp only [H, c] at hv
    simp only [hv, Bool.not_false, Bool.or_true, if_true]
    rfl
  · refine (laneFrame_lane _ hw).trans ?_
    simp only [H, c] at hv
    simp only [hv, Bool.not_false, Bool.or_true, if_true]
    rfl
  · rw [exec_harr hh hv hp hd, State.arriveAt_past hj hx]
    rfl
  · rw [exec_harr_stage hh hv hp hw hq, if_neg hne]
    rfl

end Sys2Proof.Machine
end

section
/-! What completes a phase and what it leaves; what an invalidation wakes (R102, R136, R143, R144). -/

namespace Sys2Proof.Machine

/-! ### Invalidation -/

section Invalidate

variable {s : State} {c n : Nat}

/-- Does a thread wait on hasp n? -/
def Thread.waitsOn (t : Thread) (n : Nat) : Bool :=
  match t.status with
  | .hwait m _ _ _ => m == n
  | _ => false

/-- A hasp is no longer valid, and watched by nothing (R143). -/
def State.unarmed (s : State) (c n : Nat) : State :=
  (s.setHasp (haspKey c n) { s.hasp (haspKey c n) with valid := false, moncnt := 0 }).disarm (haspKey c n)

theorem State.invalidate_eq (s : State) (c n : Nat) :
    s.invalidate c n = (mkeys s.threads fun k t => coreOfThread k == c && t.waitsOn n).foldl
      (fun s' k => s'.wake k (haspStatus false true false (s.hasp (haspKey c n)).phase) false) (s.unarmed c n) := rfl

theorem State.invalidate_hasps (s : State) (c n : Nat) : (s.invalidate c n).hasps = (s.unarmed c n).hasps := by
  rw [State.invalidate_eq]
  exact State.foldl_keeps State.hasps (f := fun s' k => s'.wake k _ false) (fun s' k => by rw [State.wake_frame]) _ _

theorem State.invalidate_watches (s : State) (c n : Nat) : (s.invalidate c n).watches = (s.unarmed c n).watches := by
  rw [State.invalidate_eq]
  exact State.foldl_keeps State.watches (f := fun s' k => s'.wake k _ false) (fun s' k => by rw [State.wake_frame]) _ _

/-- Is thread k, resident as t, among those that an invalidation wakes? -/
theorem mem_invalidate {k : Nat} {t : Thread} (hr : Rising s.threads) (ht : s.thread? k = some t) :
    (k ∈ mkeys s.threads fun k t => coreOfThread k == c && t.waitsOn n) ↔ coreOfThread k = c ∧ t.waitsOn n = true := by
  rw [mem_mkeys hr, show mget s.threads k = some t from ht]
  simp only [Option.some_inj, exists_eq_left', Bool.and_eq_true, beq_iff_eq]

/-- A thread that waits on the hasp goes on with INV in its destination (R102, R143). -/
theorem State.invalidate_wakes {k p : Nat} {t : Thread} {d : LaneDst} {nxt : Addr} (hr : Rising s.threads) (ht : s.thread? k = some t)
    (hc : coreOfThread k = c) (hst : t.status = .hwait n p d nxt) : ∃ t', (s.invalidate c n).thread? k = some t' ∧ t'.pc = nxt ∧
      t'.status = .ready ∧ (∀ m, d = .v m → t'.getV m.val = BitVec.ofNat 32 (2 ^ 30 + (s.hasp (haspKey c n)).phase.toNat)) ∧
      ∀ m : Fin 160, d ≠ .v m → t'.getV m.val = t.getV m.val := by
  have hw : t.waitsOn n = true := by simp only [Thread.waitsOn, hst, beq_self_eq_true]
  have hinv : haspStatus false true false (s.hasp (haspKey c n)).phase = BitVec.ofNat 32 (2 ^ 30 + (s.hasp (haspKey c n)).phase.toNat) := by
    simp only [haspStatus, boolNat, Bool.false_eq_true, if_false, if_true, Nat.zero_mul, Nat.zero_add, Nat.one_mul, Nat.add_zero]
  obtain ⟨s', hs', hfold⟩ := State.foldl_thread_named
    (f := fun s' k => s'.wake k (haspStatus false true false (s.hasp (haspKey c n)).phase) false) (fun s k j hj => State.wake_thread_other _ _ _ hj)
    (nodup_mkeys hr _) ((mem_invalidate hr ht).2 ⟨hc, hw⟩) (s.unarmed c n)
  obtain ⟨t', ht', hpc, hrd, hv⟩ := State.wake_thread (hs'.trans ht) hst (haspStatus false true false (s.hasp (haspKey c n)).phase) false
  exact ⟨t', by rw [State.invalidate_eq, hfold, ht'], hpc, hrd, hinv ▸ Thread.woken_regs hv⟩

/-- Every other thread is as before. -/
theorem State.invalidate_other {k : Nat} {t : Thread} (hr : Rising s.threads) (ht : s.thread? k = some t)
    (hn : coreOfThread k ≠ c ∨ ∀ p d nxt, t.status ≠ .hwait n p d nxt) : (s.invalidate c n).thread? k = some t := by
  rw [State.invalidate_eq, State.foldl_thread_other (fun s k j hj => State.wake_thread_other _ _ _ hj) _]
  · exact ht
  rw [mem_invalidate hr ht, not_and]
  intro hc
  have hn' := hn.resolve_left (not_not.2 hc)
  unfold Thread.waitsOn
  split
  next m p d nxt hst =>
    rw [beq_iff_eq]
    exact fun hm => hn' p d nxt (hm ▸ hst)
  next => exact Bool.false_ne_true

end Invalidate

/-! ### One completion -/

/-- VALID, ARRIVED = EXPECT_ARR, and every active source has landed its bytes (R136). -/
theorem Hasp.ready_iff (h : Hasp) :
    h.ready = true ↔ h.valid = true ∧ h.arrived = h.expArr ∧ ∀ i : Fin 4, h.slots[i].act = true → h.slots[i].landed = h.slots[i].expect := by
  have hslots : (h.slots.toList.all fun x => !x.act || x.landed == x.expect) = true ↔
      ∀ i : Fin 4, h.slots[i].act = true → h.slots[i].landed = h.slots[i].expect := by
    rw [List.all_eq_true]
    constructor
    · intro hall i hact
      have hi : (!h.slots[i].act || h.slots[i].landed == h.slots[i].expect) = true := hall _ (Vector.mem_toList_iff.2 (Vector.getElem_mem i.isLt))
      rw [hact] at hi
      exact beq_iff_eq.1 hi
    · intro hall x hx
      obtain ⟨i, hi, rfl⟩ := List.mem_iff_getElem.1 hx
      rw [Vector.length_toList] at hi
      have := hall ⟨i, hi⟩
      rw [Vector.getElem_toList]
      cases hact : h.slots[i].act
      · rfl
      · exact beq_iff_eq.2 (this hact)
  rw [Hasp.ready, Bool.and_eq_true, Bool.and_eq_true, beq_iff_eq, hslots, and_assoc]

/-- The spurious phases after a completion (R104). -/
theorem Hasp.complete_spur (h : Hasp) :
    (∀ p, p ≠ h.phase.toNat → (p ∈ h.complete.spur ↔ p ∈ h.spur)) ∧ (h.phase.toNat ∈ h.complete.spur ↔ h.spurNow = true) := by
  unfold Hasp.complete
  cases h.spurNow <;> simp +contextual

/-- The held arrivals that a completion counts, up to the new EXPECT_ARR, and those that stay held (R136). -/
theorem Hasp.complete_held (h : Hasp) :
    h.complete.arrived = min h.heldArr.length (h.expArr + h.nextd).toNat ∧ h.complete.heldArr = h.heldArr.drop h.complete.arrived := ⟨rfl, rfl⟩

theorem Hasp.doneStatus_toNat (h : Hasp) (p : Nat) :
    (h.doneStatus p).toNat = (if p % 2 ^ 16 ∈ h.spur then 2 ^ 31 else 0) + 2 ^ 29 + h.phase.toNat := by
  rw [Hasp.doneStatus, haspStatus_toNat]
  by_cases hp : p % 2 ^ 16 ∈ h.spur
  · rw [List.contains_iff_mem.2 hp, if_pos hp]
    simp only [boolNat, if_true, Bool.false_eq_true, if_false, Nat.one_mul, Nat.zero_mul, Nat.add_zero]
  · rw [Bool.eq_false_iff.2 (mt List.contains_iff_mem.1 hp), if_neg hp]
    simp only [boolNat, if_true, Bool.false_eq_true, if_false, Nat.one_mul, Nat.zero_mul, Nat.add_zero]

/-! ### The strands that wait on a phase that has completed -/

section WakeStrands

variable {s : State} {c n q : Nat}

/-- What wakeStrands does to one strand. -/
def State.wakeStrand (h : Hasp) (c n : Nat) (s : State) (q : Nat) : State :=
  let x := s.strand q
  match x.status with
  | .wait m p nxt =>
    if m == n && phaseDone h.phase p then (s.setStrand q { x with status := .run, pc := nxt }).dropRoc c else s
  | _ => s

theorem State.wakeStrands_eq (s : State) (c n : Nat) :
    s.wakeStrands c n = State.wakeStrand (s.hasp (haspKey c n)) c n (State.wakeStrand (s.hasp (haspKey c n)) c n s (2 * c)) (2 * c + 1) := rfl

theorem State.wakeStrand_hasps (h : Hasp) (s : State) (q : Nat) : (s.wakeStrand h c n q).hasps = s.hasps := by
  unfold State.wakeStrand
  dsimp only
  split
  · split <;> rfl
  · rfl

theorem State.wakeStrand_rising (h : Hasp) (q : Nat) (hr : Rising s.strands) : Rising (s.wakeStrand h c n q).strands := by
  unfold State.wakeStrand
  dsimp only
  split
  · split
    · exact rising_sput _ _ _ hr
    · exact hr
  · exact hr

theorem State.wakeStrand_other (h : Hasp) (s : State) {q j : Nat} (hj : j ≠ q) : (s.wakeStrand h c n q).strand j = s.strand j := by
  unfold State.wakeStrand
  dsimp only
  split
  · split
    · exact State.strand_setStrand_other _ _ hj
    · rfl
  · rfl

/-- A strand that waits on a phase of the hasp goes on where it has completed (R144). -/
theorem State.wakeStrand_same (h : Hasp) {p : Nat} {nxt : Addr} (hr : Rising s.strands) (hst : (s.strand q).status = .wait n p nxt) :
    (s.wakeStrand h c n q).strand q = if phaseDone h.phase p then { s.strand q with status := .run, pc := nxt } else s.strand q := by
  simp only [State.wakeStrand, hst, beq_self_eq_true, Bool.true_and]
  split
  · exact State.strand_setStrand _ _ _ hr
  · rfl

theorem State.wakeStrands_strand {p : Nat} {nxt : Addr} (hr : Rising s.strands) (hq : q / 2 = c) (hst : (s.strand q).status = .wait n p nxt) :
    (s.wakeStrands c n).strand q =
      if phaseDone (s.hasp (haspKey c n)).phase p then { s.strand q with status := .run, pc := nxt } else s.strand q := by
  have hcase : q = 2 * c ∨ q = 2 * c + 1 := by omega
  rw [State.wakeStrands_eq]
  rcases hcase with rfl | rfl
  · rw [State.wakeStrand_other _ _ (by omega), State.wakeStrand_same _ hr hst]
  · have hother := State.wakeStrand_other (n := n) (c := c) (s.hasp (haspKey c n)) s (show 2 * c + 1 ≠ 2 * c by omega)
    rw [State.wakeStrand_same _ (State.wakeStrand_rising _ _ hr) (hother ▸ hst), hother]

theorem State.wakeStrands_hasps (s : State) (c n : Nat) : (s.wakeStrands c n).hasps = s.hasps := by
  rw [State.wakeStrands_eq, State.wakeStrand_hasps, State.wakeStrand_hasps]

end WakeStrands

/-! ### try_complete -/

section TryComplete

variable {s : State} {c n : Nat}

/-- A band's joins at the phase that begins end (R128). -/
theorem State.endJoins_band {b : Nat} {y : Band} (hb : s.band? b = some y) (hc : coreOfBand b = c) :
    (s.endJoins c n).band? b =
      some { y with joins := y.joins.filter fun j => !(j.1 == n && j.2 == (s.hasp (haspKey c n)).phase.toNat) } := by
  rw [State.endJoins, State.band?, mget_mmap, show mget s.bands b = some y from hb]
  simp only [hc, beq_self_eq_true, if_true, Option.map_some]

/-- One completion of a phase that is ready (R136). -/
def State.completeOnce (s : State) (c n : Nat) : State :=
  (((s.setHasp (haspKey c n) (s.hasp (haspKey c n)).complete).endJoins c n).wakeDone c n).wakeStrands c n

theorem State.completeOnce_hasps (s : State) (c n : Nat) :
    (s.completeOnce c n).hasps = (s.setHasp (haspKey c n) (s.hasp (haspKey c n)).complete).hasps := by
  rw [State.completeOnce, State.wakeStrands_hasps, State.wakeDone_hasps]
  rfl

theorem State.completeOnce_hasp (hr : Rising s.hasps) : (s.completeOnce c n).hasp (haspKey c n) = (s.hasp (haspKey c n)).complete := by
  rw [State.hasp, State.completeOnce_hasps]
  exact State.hasp_setHasp _ _ _ hr

/-- A completion uses up the held arrivals that it counts. -/
theorem State.completeOnce_held (hr : Rising s.hasps) : ((s.completeOnce c n).hasp (haspKey c n)).heldArr.length +
    (s.hasp (haspKey c n)).complete.arrived = (s.hasp (haspKey c n)).heldArr.length := by
  rw [State.completeOnce_hasp hr, (Hasp.complete_held _).2, List.length_drop, (Hasp.complete_held _).1]
  exact Nat.sub_add_cancel (Nat.min_le_left ..)

theorem State.completeOnce_rising (hr : Rising s.hasps) : Rising (s.completeOnce c n).hasps := by
  rw [State.completeOnce_hasps]
  exact rising_sput _ _ _ hr

theorem State.completeLoop_succ (c n k : Nat) (s : State) : State.completeLoop c n (k + 1) s =
    if (s.hasp (haspKey c n)).ready then
      if 0 < (s.hasp (haspKey c n)).complete.arrived then State.completeLoop c n k (s.completeOnce c n) else s.completeOnce c n
    else s := rfl

/-- Each completion but the last uses up held arrivals, so that more repetitions than their number change nothing. -/
theorem State.completeLoop_enough (k : Nat) : ∀ (j : Nat) (s : State), Rising s.hasps → (s.hasp (haspKey c n)).heldArr.length < k →
    (s.hasp (haspKey c n)).heldArr.length < j → State.completeLoop c n k s = State.completeLoop c n j s := by
  induction k with
  | zero => exact fun _ _ _ hk => absurd hk (Nat.not_lt_zero _)
  | succ k ih =>
    intro j s hr hk hj
    obtain ⟨j, rfl⟩ := Nat.exists_eq_succ_of_ne_zero (Nat.ne_zero_of_lt hj)
    rw [State.completeLoop_succ, Nat.succ_eq_add_one, State.completeLoop_succ]
    split
    · split
      next hcounts =>
        have hlen := State.completeOnce_held (n := n) (c := c) hr
        exact ih j _ (State.completeOnce_rising hr) (by omega) (by omega)
      next => rfl
    · rfl

theorem State.tryComplete_unready (h : (s.hasp (haspKey c n)).ready = false) : s.tryComplete c n = s := by
  rw [State.tryComplete, State.completeLoop_succ, h, if_neg Bool.false_ne_true]

/-- A phase that is ready completes, and the next is tried where a held arrival was counted (R136). -/
theorem State.tryComplete_ready (hr : Rising s.hasps) (h : (s.hasp (haspKey c n)).ready = true) : s.tryComplete c n =
    if 0 < (s.hasp (haspKey c n)).complete.arrived then (s.completeOnce c n).tryComplete c n else s.completeOnce c n := by
  rw [State.tryComplete, State.completeLoop_succ, if_pos h]
  split
  next hcounts =>
    have hlen := State.completeOnce_held (n := n) (c := c) hr
    exact State.completeLoop_enough _ _ _ (State.completeOnce_rising hr) (by omega) (Nat.lt_succ_self _)
  next => rfl

end TryComplete

/-- Settles O26: by what an invalidation wakes, by the fields that a completion leaves, and by what try_complete then does. -/
theorem phaseCompletionAndInvalidation : Obligations.PhaseCompletionAndInvalidation := by
  refine ⟨fun s c n hr ht => ⟨?_, ?_, fun k t p d nxt => State.invalidate_wakes ht, fun k t => State.invalidate_other ht⟩, fun h => ?_⟩
  · rw [State.hasp, State.invalidate_hasps]
    exact State.hasp_setHasp _ _ _ hr
  · rw [State.invalidate_watches]
    rfl
  refine ⟨h.ready_iff, ?_⟩
  intro x e
  refine ⟨?_, rfl, rfl, rfl, rfl, rfl, rfl, rfl, fun he => ?_, rfl, fun i => ?_, fun he => ?_, ?_, h.complete_spur.1, h.complete_spur.2,
    ?_, ?_, fun s c n b y => State.endJoins_band, ?_, fun p => ?_, ?_⟩
  · exact BitVec.toNat_add ..
  · exact Int.toNat_of_nonneg he
  · exact Vector.getElem_map ..
  · rw [h.complete_held.1, Nat.cast_min, Int.toNat_of_nonneg he]
  · rw [h.complete_held.2]
    exact List.take_append_drop ..
  · rintro s c n rfl hn
    exact State.tryComplete_unready hn
  · rintro s c n hr rfl hy
    exact State.tryComplete_ready hr hy
  · rintro s c n hr rfl
    exact ⟨fun k t p d nxt => State.wakeDone_wakes hr, fun k t => State.wakeDone_other hr⟩
  · exact h.doneStatus_toNat p
  · rintro s c n q p nxt hr rfl hq hst
    exact State.wakeStrands_strand hr hq hst

end Sys2Proof.Machine
end

section
/-! EXIT, BRK and TRAP; what an exit frees (R109, R110, R193). -/

namespace Sys2Proof.Machine

open Sys2Proof.Says

/-! ### How a thread ends -/

section Exits

variable {s : State} {k : Nat} {t : Thread}

/-- A thread as its EXIT leaves it (R109). -/
def Thread.exit (t : Thread) : Thread :=
  { t with status := .exited, parked := none, halted := false, haltReq := false, stepping := false, trapMode := false }

/-- A thread that the trap of thread k holds goes on (R109). -/
def Thread.letGo (t : Thread) (k : Nat) : Thread := if t.heldBy == some k then { t with heldBy := none } else t

/-- A band without a thread in its PM (R28, R109). -/
def Band.without (b : Band) (k : Nat) : Band := { b with s := b.s.set 31 (b.s[31] &&& ~~~ (1#32 <<< laneOfThread k)) }

/-- A thread that is counted in no membership ends: its slot, and its band, before they are freed (R109). -/
def State.exited (s : State) (k : Nat) : State :=
  let s := (s.modThread k Thread.exit).modBand (bandOfThread k) fun b => b.without k
  { s with threads := mmap s.threads fun _ u => u.letGo k }

theorem State.exited_threads (s : State) (k : Nat) : (s.exited k).threads = mmap (mmod s.threads k Thread.exit) fun _ u => u.letGo k := rfl

theorem Thread.exit_letGo (t : Thread) (k : Nat) : t.exit.letGo k = { t.exit with heldBy := if t.heldBy = some k then none else t.heldBy } := by
  simp only [Thread.letGo, Thread.exit, beq_iff_eq]
  split <;> rfl

theorem State.leaveMembership_uncounted (ht : s.thread? k = some t) (hc : t.counted = false) : s.leaveMembership k = s := by
  unfold State.leaveMembership
  split
  next u b hu hb =>
    rw [ht, Option.some_inj] at hu
    rw [← hu, hc, if_neg Bool.false_ne_true]
  next => rfl

theorem State.stepDone_frame (s : State) (c : Nat) (p : Bool) : s.stepDone c p = { s with cores := (s.stepDone c p).cores } := by
  cases p <;> rfl

theorem State.endThread_uncounted (ht : s.thread? k = some t) (hs : t.status ≠ .exited) (hc : t.counted = false) :
    s.endThread k = ((s.stepDone (coreOfThread k) t.stepping).exited k).reapThread k := by
  have ht' : (s.stepDone (coreOfThread k) t.stepping).thread? k = some t := by
    rw [State.stepDone_frame]
    exact ht
  have hs' : (t.status == TStatus.exited) = false := beq_eq_false_iff_ne.2 hs
  simp only [State.endThread, ht, hs', Bool.false_eq_true, if_false, State.leaveMembership_uncounted ht' hc]
  rfl

theorem State.exited_thread (ht : s.thread? k = some t) : (s.exited k).thread? k = some (t.exit.letGo k) := by
  rw [State.thread?, State.exited_threads, mget_mmap, mget_mmod_same, show mget s.threads k = some t from ht]
  rfl

/-- The others are there still. -/
theorem State.exited_resident {j : Nat} (hj : j ≠ k) : ((s.exited k).thread? j).isSome = (s.thread? j).isSome := by
  rw [State.thread?, State.exited_threads, mget_mmap, Option.isSome_map, mget_mmod_other _ _ hj]
  rfl

theorem State.exited_band {b : Band} (hb : s.band? (bandOfThread k) = some b) : (s.exited k).band? (bandOfThread k) = some (b.without k) :=
  (mget_mmod_same ..).trans (congrArg _ hb)

theorem State.exited_threads_rising (hr : Rising s.threads) : Rising (s.exited k).threads := by
  rw [State.exited_threads]
  exact rising_mmap (rising_mmod hr _ _) _

theorem State.exited_bands_rising (hr : Rising s.bands) : Rising (s.exited k).bands := rising_mmod hr _ _

end Exits

/-! ### What is freed -/

section Frees

variable {s : State} {k : Nat} {t : Thread}

/-- A task's completion changes no thread and no band. -/
theorem State.relaunch_threads_bands (s : State) (j time : Nat) : (s.relaunch j time).threads = s.threads ∧ (s.relaunch j time).bands = s.bands := by
  unfold State.relaunch
  split
  · exact ⟨rfl, rfl⟩
  · split <;> exact ⟨rfl, rfl⟩

theorem State.completeTask_threads_bands (s : State) (j : Nat) : (s.completeTask j).threads = s.threads ∧ (s.completeTask j).bands = s.bands := by
  unfold State.completeTask
  split
  · exact ⟨rfl, rfl⟩
  · dsimp only
    split
    · split
      · exact ⟨rfl, rfl⟩
      · exact State.relaunch_threads_bands ..
    · exact ⟨rfl, rfl⟩

/-- A freed frame is gone, and no thread with it (R193). -/
theorem State.freeBand_threads_bands (s : State) (b : Nat) :
    (s.freeBand b).threads = s.threads ∧ ((s.band? b).isSome = true → (s.freeBand b).bands = mdel s.bands b) := by
  unfold State.freeBand
  split
  next hb => exact ⟨rfl, fun h => by rw [hb] at h; exact absurd h Bool.false_ne_true⟩
  next =>
    dsimp only
    split
    · split
      · split
        · split
          · exact ⟨(State.completeTask_threads_bands ..).1, fun _ => (State.completeTask_threads_bands ..).2⟩
          · exact ⟨rfl, fun _ => rfl⟩
        · exact ⟨rfl, fun _ => rfl⟩
      · exact ⟨(State.completeTask_threads_bands ..).1, fun _ => (State.completeTask_threads_bands ..).2⟩
    · exact ⟨rfl, fun _ => rfl⟩

/-- Has the band of thread k another resident thread? -/
def State.shared (s : State) (k : Nat) : Prop := ∃ j, j ≠ k ∧ bandOfThread j = bandOfThread k ∧ (s.thread? j).isSome = true

theorem many_iff {α : Type} {m : Table α} (hr : Rising m) (p : Nat → Bool) : many m (fun j _ => p j) = true ↔ ∃ j, p j = true ∧ (mget m j).isSome = true := by
  simp only [many, List.any_eq_true, Option.isSome_iff_exists]
  constructor
  · rintro ⟨⟨j, a⟩, hm, hp⟩
    exact ⟨j, hp, a, (mem_iff_mget hr).1 hm⟩
  · rintro ⟨j, hp, a, ha⟩
    exact ⟨(j, a), (mem_iff_mget hr).2 ha, hp⟩

/-- After its slot is freed, does its band have a thread? -/
theorem State.shared_iff (hr : Rising s.threads) : many (mdel s.threads k) (fun j _ => bandOfThread j == bandOfThread k) = true ↔ s.shared k := by
  rw [many_iff (rising_mdel k hr) fun j => bandOfThread j == bandOfThread k]
  refine exists_congr fun j => ?_
  by_cases hj : j = k
  · subst hj
    simp [mget_mdel_same _ hr]
  · rw [mget_mdel_other _ hj, beq_iff_eq]
    exact ⟨fun h => ⟨hj, h⟩, And.right⟩

variable (ht : s.thread? k = some t) (hs : t.status = .exited)

include ht hs

theorem State.reapThread_quiet (hq : t.quiet = true) (hr : Rising s.threads) :
    (s.reapThread k).thread? k = none ∧ (s.shared k → (s.reapThread k).bands = s.bands) ∧
      (¬ s.shared k → (s.band? (bandOfThread k)).isSome = true → (s.reapThread k).bands = mdel s.bands (bandOfThread k)) := by
  have hreap : s.reapThread k = if many (mdel s.threads k) (fun j _ => bandOfThread j == bandOfThread k) then { s with threads := mdel s.threads k }
      else { s with threads := mdel s.threads k }.freeBand (bandOfThread k) := by
    simp only [State.reapThread, ht, hs, hq, beq_self_eq_true, Bool.and_self, if_true]
  obtain ⟨hthr, hbands⟩ := { s with threads := mdel s.threads k }.freeBand_threads_bands (bandOfThread k)
  rw [hreap]
  by_cases h : s.shared k
  · rw [if_pos ((State.shared_iff hr).2 h)]
    exact ⟨mget_mdel_same _ hr, fun _ => rfl, fun hn => absurd h hn⟩
  · rw [if_neg (mt (State.shared_iff hr).1 h)]
    exact ⟨(congrArg (mget · k) hthr).trans (mget_mdel_same _ hr), fun hn => absurd hn h, fun _ hb => hbands hb⟩

omit hs in
theorem State.reapThread_busy (hq : t.quiet = false) : s.reapThread k = s := by
  simp only [State.reapThread, ht, hq, Bool.and_false, Bool.false_eq_true, if_false]

end Frees

/-! ### BRK -/

/-- A halt keeps its thread's pc. -/
theorem State.haltThread_thread {s : State} {k : Nat} {t : Thread} (ht : s.thread? k = some t) :
    (s.haltThread k).thread? k = some { t with halted := true, haltReq := false, stepping := false } := by
  simp only [State.haltThread, ht]
  exact mget_mput_same ..

section Brk

variable {s : State} {k : Nat} {t : Thread}

theorem exec_brk_traps (hl : Lane s k t []) (hr : (s.part (s.partOf k)).right = false) : exec .brk s = .next (s.laneTrap k ⟨9, 0, 0⟩) := by
  refine (laneFrame_reads _ hl).trans ?_
  simp only [hr, Bool.not_false, if_true]
  rfl

theorem exec_brk_passes (hl : Lane s k t []) (hr : (s.part (s.partOf k)).right = true) (hb : t.brkSkip = true) :
    exec .brk s = .next (s.goTo k (nextClause t.pc)) := by
  refine (laneFrame_reads _ hl).trans ?_
  simp only [hr, hb, Bool.not_true, Bool.false_eq_true, if_false, if_true]
  rfl

theorem exec_brk_halts (hl : Lane s k t []) (hr : (s.part (s.partOf k)).right = true) (hb : t.brkSkip = false) :
    exec .brk s = .next (State.laneFinish k (.stay ((s.haltThread k).modThread k fun t => { t with brkSkip := true }))) := by
  refine (laneFrame_reads _ hl).trans ?_
  simp only [hr, hb, Bool.not_true, Bool.false_eq_true, if_false]

end Brk

/-- Settles O18: EXIT, BRK and TRAP by the lane frame; an exit by what is left before the slot is freed, and by what is then freed. -/
theorem exitBreakTrap : Obligations.ExitBreakTrap := by
  refine ⟨fun n s k t hl => ⟨⟨_, laneFrame_reads _ hl, rfl, rfl, rfl⟩, exec_brk_traps hl, fun hr hb =>
    ⟨_, { t with halted := true, haltReq := false, stepping := false, brkSkip := true }, exec_brk_halts hl hr hb, ?_, rfl, rfl⟩,
    exec_brk_passes hl, laneFrame_reads _ hl⟩, fun s k t ht hs hc hr => ?_⟩
  · simp only [State.laneFinish, State.thread_modThread, State.haltThread_thread hl.2.1, Option.map_some, Bool.not_true, Bool.and_false,
      Bool.false_and, Bool.false_eq_true, if_false]
  · rw [State.endThread_uncounted ht hs hc]
    have hframe := s.stepDone_frame (coreOfThread k) t.stepping
    generalize s.stepDone (coreOfThread k) t.stepping = v at hframe
    have hthreads : v.threads = s.threads := by rw [hframe]
    have hbands : v.bands = s.bands := by rw [hframe]
    have hband (b : Band) (hb : s.band? (bandOfThread k) = some b) : (v.exited k).band? (bandOfThread k) = some (b.without k) :=
      State.exited_band ((congrArg (mget · (bandOfThread k)) hbands).trans hb)
    have hthr : (v.exited k).thread? k = some { t.exit with heldBy := if t.heldBy = some k then none else t.heldBy } :=
      (State.exited_thread ((congrArg (mget · k) hthreads).trans ht)).trans (congrArg some (t.exit_letGo k))
    have hother (j : Nat) (hj : j ≠ k) : ((v.exited k).thread? j).isSome = (s.thread? j).isSome :=
      (State.exited_resident hj).trans (congrArg (fun m => (mget m j).isSome) hthreads)
    refine ⟨fun hq => ?_, fun hq => ?_⟩
    · obtain ⟨hgone, hkept, hfreed⟩ := State.reapThread_quiet hthr rfl hq (State.exited_threads_rising (hthreads ▸ hr))
      refine ⟨hgone, fun hrb b hb => ⟨fun ⟨j, hj, hjb, hjs⟩ => ?_, fun hno => ?_⟩⟩
      · rw [State.band?, hkept ⟨j, hj, hjb, (hother j hj).trans hjs⟩]
        exact hband b hb
      · have hno' : ¬ (v.exited k).shared k := fun ⟨j, hj, hjb, hjs⟩ => by
          rw [hother j hj, hno j hj hjb] at hjs
          exact Bool.false_ne_true hjs
        rw [State.band?, hfreed hno' (by rw [hband b hb]; rfl)]
        exact mget_mdel_same _ (State.exited_bands_rising (hbands ▸ hrb))
    · rw [State.reapThread_busy hthr hq]
      exact ⟨hthr, hband⟩

end Sys2Proof.Machine
end

section
/-! The completions of CONT and ENQ (R111, R112, R289). -/

namespace Sys2Proof.Machine

open Sys2Proof.Says

section Records

variable {s : State} {o : Op}

/-- The ENTRY of a record, and its reserved bits, in its first word (R111). -/
theorem recEntry_eq (w : Word) : recEntry w = w.toNat / 32 := by
  have hw := w.isLt
  rw [recEntry, bits, show 31 + 1 - 5 = 27 from rfl]
  omega

/-- The clause that a record names (R111). -/
def State.recTarget (s : State) (o : Op) : Addr := s.codeBase o.inst o.n o.va + BitVec.ofNat 56 (32 * ((o.words.headD 0).toNat / 32))

/-- A record with reserved bits, or with an ENTRY outside the code, is bad (R111; log 67). -/
theorem State.contAct_bad (h : (o.words.headD 0).toNat / 2 % 2 ^ 4 ≠ 0 ∨ s.inCode o.inst (s.recTarget o) = false) : s.contAct o = (2, s) := by
  have hbad : (bits (o.words.headD 0).toNat 4 1 != 0 || !s.inCode o.inst (s.recTarget o)) = true := by
    rcases h with h | h
    · rw [show (bits (o.words.headD 0).toNat 4 1 != 0) = true from bne_iff_ne.2 h, Bool.true_or]
    · rw [h, Bool.not_false, Bool.or_true]
  rw [State.recTarget, ← recEntry_eq] at hbad
  simp only [State.contAct, hbad, if_true]

/-- A good one of a run that goes on, with no re-fire pending, is accepted where there is room for it (R111, R210). -/
theorem State.contAct_good (h0 : (o.words.headD 0).toNat / 2 % 2 ^ 4 = 0) (hc : s.cancelled o.inst = false)
    (hf : ((s.task? o.task).any (·.refire.isSome)) = false) (hin : s.inCode o.inst (s.recTarget o) = true) :
    (s.poolRoom o.inst = none → s.contAct o = (1, s)) ∧
      ∀ sp, s.poolRoom o.inst = some sp → s.contAct o = (0, s.acceptRec ⟨o.inst, o.n, o.va, (o.words.headD 0).toNat / 32⟩
        ⟨o.words, o.task, s.taint o.task, sp, o.va⟩) := by
  have hgood : (bits (o.words.headD 0).toNat 4 1 != 0 || !s.inCode o.inst (s.recTarget o)) = false := by
    rw [hin, show (bits (o.words.headD 0).toNat 4 1 != 0) = false from bne_eq_false_iff_eq.2 h0]
    rfl
  rw [State.recTarget, ← recEntry_eq] at hgood
  simp only [State.contAct, hgood, hc, hf, Bool.or_self, Bool.false_eq_true, if_false, ← recEntry_eq]
  exact ⟨fun h => by rw [h], fun sp h => by rw [h]⟩

end Records

section Completions

variable {s : State} {id : Nat} {o : Op}

/-- A status word reaches the destination of an operation, which is then over (R111, R112). -/
def State.reports (s : State) (id : Nat) (o : Op) (st : Nat) : State := (s.opDeliver o fun t => t.setD o.d (BitVec.ofNat 32 st)).opDone id o

theorem exec_enqComplete (hd : Due s id o) (hk : o.kind = .enq) (hp : s.pause = false) :
    exec (.enqComplete id) s = .next ((s.enqAct (s.part o.part).parent o.va o.words).2.reports id o (s.enqAct (s.part o.part).parent o.va o.words).1) := by
  refine (opFrame_due hd _).trans ?_
  simp only [hk, hp, beq_self_eq_true, Bool.not_false, Bool.and_self, if_true]
  rfl

section Enq

variable {lp1 a : Nat} {ws : List Word}

/-- No queue, one without a spill area, or one that is not enabled (R289). -/
theorem State.enqAct_none (h : 1024 ≤ a ∨ (s.queue (1024 * lp1 + a)).splog2 = 0 ∨ (s.queue (1024 * lp1 + a)).state = 0) :
    s.enqAct lp1 a ws = (3, s) := by
  unfold State.enqAct
  by_cases ha : 1024 ≤ a
  · rw [if_pos ha]
  · have hq : ((s.queue (1024 * lp1 + a)).splog2 == 0 || (s.queue (1024 * lp1 + a)).state == 0) = true := by
      simpa only [Bool.or_eq_true, beq_iff_eq] using h.resolve_left ha
    simp only [ha, hq, if_false, if_true]

variable (ha : a < 1024) (hsp : (s.queue (1024 * lp1 + a)).splog2 ≠ 0) (hst : (s.queue (1024 * lp1 + a)).state ≠ 0)

include ha hsp hst

/-- An entry goes into the queue where that has room, into its spill area where that has, and else nowhere (R289). -/
theorem State.enqAct_queue : s.enqAct lp1 a ws =
    let q := s.queue (1024 * lp1 + a)
    if 4 * q.words.length < 2 ^ q.qlog2 then (0, s.appendWords (1024 * lp1 + a) ws)
    else if (q.words.filter (·.place.spilled)).length < 2 * 2 ^ q.splog2 then (1, s.spillEntry (1024 * lp1 + a) ws)
    else (2, s) := by
  have hq : ((s.queue (1024 * lp1 + a)).splog2 == 0 || (s.queue (1024 * lp1 + a)).state == 0) = false := by
    rw [beq_eq_false_iff_ne.2 hsp, beq_eq_false_iff_ne.2 hst]
    rfl
  simp only [State.enqAct, Nat.not_le.2 ha, hq, Bool.false_eq_true, if_false]

end Enq

/-- A summary of thread k's block may have waited for its record (R172). -/
def State.summed (s : State) (k : Nat) : State :=
  match s.blockOf k with
  | some n => (s.endSummary n).settle
  | none => s

theorem exec_contComplete (hd : Due s id o) (hk : o.kind = .cont) (hp : s.pause = false) :
    exec (.contComplete id) s = .next (((s.contAct o).2.reports id o (s.contAct o).1).summed o.thread) := by
  refine (opFrame_due hd _).trans ?_
  simp only [hk, hp, beq_self_eq_true, Bool.not_false, Bool.and_self, if_true]
  rfl

end Completions

/-- Settles O20: a record's and an entry's outcome, case by case, and its status delivered. -/
theorem contAndEnqComplete : Obligations.ContAndEnqComplete := by
  intro s id o hd
  refine ⟨fun hk hp st u hact => ?_, fun _ => State.contAct_bad, fun _ h0 hc hf hin => State.contAct_good h0 hc hf hin, fun hk hp => ?_⟩
  · have hexec := exec_contComplete hd hk hp
    rw [hact] at hexec
    exact hexec
  · intro lp1 q done
    have hexec (st : Nat) (u : State) (hact : s.enqAct lp1 o.va o.words = (st, u)) : exec (.enqComplete id) s = done st u := by
      rw [exec_enqComplete hd hk hp, show s.enqAct (s.part o.part).parent o.va o.words = (st, u) from hact]
      rfl
    refine ⟨fun h => hexec 3 _ (State.enqAct_none h), fun ha hsp hst hroom => hexec 0 _ ?_, fun ha hsp hst hfull hroom => hexec 1 _ ?_,
      fun ha hsp hst hfull hsfull => hexec 2 _ ?_⟩
    · exact (State.enqAct_queue ha hsp hst).trans (if_pos hroom)
    · exact (State.enqAct_queue ha hsp hst).trans ((if_neg (Nat.not_lt.2 hfull)).trans (if_pos hroom))
    · exact (State.enqAct_queue ha hsp hst).trans ((if_neg (Nat.not_lt.2 hfull)).trans (if_neg (Nat.not_lt.2 hsfull)))

end Sys2Proof.Machine
end

section
/-! The rendezvous of the uniform instructions (R113, R115, R117). -/

namespace Sys2Proof.Machine

open Sys2Proof.Says

/-- The instruction's meaning is the uniform frame of some body. -/
def RunsUniform (i : Instr) : Prop := ∃ body : State → Party → List Nat → Res, ∀ s, exec i s = uniFrame s body

section Frames

variable {i : Instr}

theorem RunsUniform.of_meaning (g : State → Out) {body : State → Party → List Nat → Res} (hi : ∀ s, exec i s = g s)
    (hg : ∀ s, g s = uniFrame s body) : RunsUniform i := ⟨body, fun s => (hi s).trans (hg s)⟩

theorem RunsUniform.of_unary {f : Word → Word} {d : UniDst} {a : UniSrc} (hi : ∀ s, exec i s = uniUnary f d a s) : RunsUniform i :=
  .of_meaning _ hi fun _ => by rw [uniUnary]

theorem RunsUniform.of_binary {f : Word → Word → Word} {d : UniDst} {a b : UniSrc} (hi : ∀ s, exec i s = uniBinary f d a b s) :
    RunsUniform i := .of_meaning _ hi fun _ => by rw [uniBinary]

/-- An engine instruction is a uniform one that asks for its engine first (R145, R201). -/
theorem RunsUniform.of_engine (g : State → Out) {q : Seq} {body : State → Party → List Nat → Nat → Block → Res} (hi : ∀ s, exec i s = g s)
    (hg : ∀ s, g s = engineFrame s q body) : RunsUniform i :=
  .of_meaning g hi fun s => by rw [hg, engineFrame, engineFrameOf]

/-- A copy asks for its layout record in the same frame (R164). -/
theorem RunsUniform.of_copy (g : State → Out) {kind : CopyKind} {cnt : Option (Fin 32)} {ab : Ab} {d a : UniSrc} {ofs : BitVec 22} {b : Fin 32}
    (hi : ∀ s, exec i s = g s) (hg : ∀ s, g s = copyFrame kind cnt ab d a ofs b s) : RunsUniform i :=
  .of_meaning g hi fun s => by rw [hg, copyFrame, engineFrameOf]

/-- A setup instruction of a hasp checks it first (R138). -/
theorem RunsUniform.of_hasp (g : State → Out) {n : Nat} {m : Bool} {body : State → Party → Nat → Res} (hi : ∀ s, exec i s = g s)
    (hg : ∀ s, g s = haspFrame s n m body) : RunsUniform i :=
  .of_meaning g hi fun s => by rw [hg, haspFrame]

/-- A YIELD checks the routine first (R172). -/
theorem RunsUniform.of_yield (g : State → Out) {body : State → Nat → Block → List Nat → State} (hi : ∀ s, exec i s = g s)
    (hg : ∀ s, g s = yieldFrame s body) : RunsUniform i :=
  .of_meaning g hi fun s => by rw [hg, yieldFrame]

theorem RunsUniform.of_tret (g : State → Out) {skip : Bool} (hi : ∀ s, exec i s = g s) (hg : ∀ s, g s = tretFrame s skip) : RunsUniform i :=
  .of_meaning g hi fun s => by rw [hg, tretFrame]

end Frames

/-- The scalar and control instructions run in the uniform frame (R118 to R144). -/
theorem runsUniform_of_scalar {i : Instr} (hi : isUniformScalar i = true) : RunsUniform i := by
  cases i with
  | sadd | ssub | smul | smin | smax | sand | sor | sxor | sshl | sshr | ssar => exact .of_binary fun _ => rfl
  | scmp cc u d a b => exact .of_binary (f := fun x y => boolWord (icmpVal cc u x y)) fun _ => rfl
  | smov | spopc => exact .of_unary fun _ => rfl
  | ssel d a b c => exact .of_meaning (execSsel d a b c) (fun _ => rfl) fun _ => by rw [execSsel]
  | smovi d imm => exact .of_meaning (execSmovi d imm) (fun _ => rfl) fun _ => by rw [execSmovi]
  | sbra imm => exact .of_meaning (execSbra imm) (fun _ => rfl) fun _ => by rw [execSbra]
  | sbrz a imm => exact .of_meaning (execSbrz a imm) (fun _ => rfl) fun _ => by rw [execSbrz]
  | sbrnz a imm => exact .of_meaning (execSbrnz a imm) (fun _ => rfl) fun _ => by rw [execSbrnz]
  | sloop d imm => exact .of_meaning (execSloop d imm) (fun _ => rfl) fun _ => by rw [execSloop]
  | sdone => exact .of_meaning execSdone (fun _ => rfl) fun _ => by rw [execSdone]
  | grow d h a => exact .of_meaning (execGrow d h a) (fun _ => rfl) fun _ => by rw [execGrow]
  | shrink a => exact .of_meaning (execShrink a) (fun _ => rfl) fun _ => by rw [execShrink]
  | attach d a b => exact .of_meaning (execAttach d a b) (fun _ => rfl) fun _ => by rw [execAttach]
  | detach d => exact .of_meaning (execDetach d) (fun _ => rfl) fun _ => by rw [execDetach]
  | fork seq d imm => exact .of_meaning (execFork seq d imm) (fun _ => rfl) fun _ => by rw [execFork]
  | srd seq d n => exact .of_meaning (execSrd seq d n) (fun _ => rfl) fun _ => by rw [execSrd]
  | swr seq n a => exact .of_meaning (execSwr seq n a) (fun _ => rfl) fun _ => by rw [execSwr]
  | sharr h => exact .of_meaning (execSharr h) (fun _ => rfl) fun _ => by rw [execSharr]
  | shwait h a => exact .of_meaning (execShwait h a) (fun _ => rfl) fun _ => by rw [execShwait]
  | hinit h a => exact .of_hasp (execHinit h a) (fun _ => rfl) fun _ => by rw [execHinit]
  | hsrc h k a b => exact .of_hasp (execHsrc h k a b) (fun _ => rfl) fun _ => by rw [execHsrc]
  | hsrcClr h k => exact .of_hasp (execHsrcClr h k) (fun _ => rfl) fun _ => by rw [execHsrcClr]
  | hexp h k a b => exact .of_hasp (execHexp h k a b) (fun _ => rfl) fun _ => by rw [execHexp]
  | hring h a b => exact .of_hasp (execHring h a b) (fun _ => rfl) fun _ => by rw [execHring]
  | hinv h => exact .of_hasp (execHinv h) (fun _ => rfl) fun _ => by rw [execHinv]
  | _ => exact nomatch hi

/-- Every uniform instruction does: those of the engines, the surrender and the system too (R113, R145, R172, R176). -/
theorem runsUniform_of_isUniform {i : Instr} (hi : isUniform i = true) : RunsUniform i := by
  by_cases hs : isUniformScalar i = true
  · exact runsUniform_of_scalar hs
  cases i with
  | mxld fmt p ab a ofs d b => exact .of_engine (execMxld fmt p ab a ofs d b) (fun _ => rfl) fun _ => by rw [execMxld]
  | mxsw p => exact .of_engine (execMxsw p) (fun _ => rfl) fun _ => by rw [execMxsw]
  | mxscW p t a => exact .of_engine (execMxscW p t a) (fun _ => rfl) fun _ => by rw [execMxscW]
  | mxscA a ofs => exact .of_engine (execMxscA a ofs) (fun _ => rfl) fun _ => by rw [execMxscA]
  | mxscANone => exact .of_engine execMxscANone (fun _ => rfl) fun _ => by rw [execMxscANone]
  | mxmm fmt u ab a ofs d b => exact .of_engine (execMxmm fmt u ab a ofs d b) (fun _ => rfl) fun _ => by rw [execMxmm]
  | accz d b => exact .of_engine (execAccz d b) (fun _ => rfl) fun _ => by rw [execAccz]
  | accld bf16 acq ab a ofs d b => exact .of_engine (execAccld bf16 acq ab a ofs d b) (fun _ => rfl) fun _ => by rw [execAccld]
  | accmv bf16 rel ab a ofs d b => exact .of_engine (execAccmv bf16 rel ab a ofs d b) (fun _ => rfl) fun _ => by rw [execAccmv]
  | accmvAdd rel ab a ofs d b => exact .of_engine (execAccmvAdd rel ab a ofs d b) (fun _ => rfl) fun _ => by rw [execAccmvAdd]
  | cpt cnt ab d a ofs b => exact .of_copy (execCpt cnt ab d a ofs b) (fun _ => rfl) fun _ => by rw [execCpt]
  | cpg cnt ab d a ofs b => exact .of_copy (execCpg cnt ab d a ofs b) (fun _ => rfl) fun _ => by rw [execCpg]
  | cps cnt ab d a ofs b => exact .of_copy (execCps cnt ab d a ofs b) (fun _ => rfl) fun _ => by rw [execCps]
  | cpz cnt ab d a ofs => exact .of_copy (execCpz cnt ab d a ofs) (fun _ => rfl) fun _ => by rw [execCpz]
  | surr d imm a => exact .of_meaning (execSurr d imm a) (fun _ => rfl) fun _ => by rw [execSurr]
  | yieldDone => exact .of_yield execYieldDone (fun _ => rfl) fun _ => by rw [execYieldDone]
  | yieldSumm => exact .of_yield execYieldSumm (fun _ => rfl) fun _ => by rw [execYieldSumm]
  | yieldRefuse => exact .of_yield execYieldRefuse (fun _ => rfl) fun _ => by rw [execYieldRefuse]
  | rclq d => exact .of_meaning (execRclq d) (fun _ => rfl) fun _ => by rw [execRclq]
  | tretRedo => exact .of_tret execTretRedo (fun _ => rfl) fun _ => by rw [execTretRedo]
  | tretSkip => exact .of_tret execTretSkip (fun _ => rfl) fun _ => by rw [execTretSkip]
  | snop => exact .of_meaning execSnop (fun _ => rfl) fun _ => by rw [execSnop]
  | sbrk => exact .of_meaning execSbrk (fun _ => rfl) fun _ => by rw [execSbrk]
  | sadd | ssub | smul | smin | smax | sand | sor | sxor | sshl | sshr | ssar | scmp | ssel | smov | smovi | spopc => exact absurd rfl hs
  | sbra | sbrz | sbrnz | sloop | sdone | grow | shrink | attach | detach | fork | srd | swr => exact absurd rfl hs
  | hinit | hsrc | hsrcClr | hexp | hring | hinv | sharr | shwait => exact absurd rfl hs
  | _ => exact nomatch hi

section Rendezvous

variable {s : State} {k : Nat} {t : Thread}

/-- While another thread of P is still to come, the thread arrives and no more (R113). -/
theorem rendezvous_waiting (body : State → List Nat → Res) (ht : s.thread? k = some t) (hm : t.trapMode = false) (hp : s.inPm k = true)
    (hk : (s.arrive k).meeting k = .waiting) : rendezvous s k body = s.arrive k := by
  simp [rendezvous, ht, hm, hp, hk]

/-- Threads at different points trap as a band (R115). -/
theorem rendezvous_mismatch {ks : List Nat} (body : State → List Nat → Res) (ht : s.thread? k = some t) (hm : t.trapMode = false)
    (hp : s.inPm k = true) (hk : (s.arrive k).meeting k = .mismatch ks) : rendezvous s k body = (s.arrive k).bandTrap ks ⟨1, 2, 0⟩ 2 := by
  simp [rendezvous, ht, hm, hp, hk]

/-- The scalar pipe takes the first band in its order that has not held in this clk, once the clk's group has issued and where the pipe has not
executed in it (R117). -/
theorem State.pipeFree_iff {first : Nat} {rest : List Nat} (ht : s.thread? k = some t) (hm : t.trapMode = false)
    (ho : (s.pipeOrder (coreOfThread k)).filter (fun b => !(s.core (coreOfThread k)).tried.contains b) = first :: rest) :
    s.pipeFree k = true ↔
      (∀ j ∈ s.issue, coreOfThread j ≠ coreOfThread k) ∧ (s.core (coreOfThread k)).pipeAt ≠ s.clk + 1 ∧ first = bandOfThread k := by
  simp only [State.pipeFree, ht, Option.any_some, hm, Bool.false_or, ho, List.head?_cons, Bool.and_eq_true, List.all_eq_true, bne_iff_ne,
    beq_iff_eq, Option.some_inj, and_assoc]

end Rendezvous

/-- Settles O21: every uniform instruction runs in the uniform frame, whose rendezvous waits, takes its turn at the pipe, or traps. -/
theorem rendezvousWaitsAndMismatches : Obligations.RendezvousWaitsAndMismatches := by
  intro i s k t hi ⟨hc, ht⟩ hm hp
  obtain ⟨body, hbody⟩ := runsUniform_of_isUniform hi
  have hruns := (hbody s).trans (uniFrame_runs body hc ht)
  refine ⟨fun hk => ?_, fun ks hk => ?_, fun ks hk hf => ?_, fun first rest ho => ?_⟩
  · rw [hruns, rendezvous_waiting _ ht hm hp hk]
  · rw [hruns, rendezvous_mismatch _ ht hm hp hk]
  · rw [hruns, rendezvous_waits _ ht hm hp hk hf]
  · have harrived : (s.arrive k).thread? k = some { t with status := .arrived } := by rw [State.arrive, State.thread_modThread, ht]; rfl
    exact State.pipeFree_iff harrived hm ho

end Sys2Proof.Machine
end

section
/-! The setup instructions of hasps (R138 to R143). -/

namespace Sys2Proof.Machine

open Sys2Proof.Says

/-! ### The frame -/

/-- A party's block holds hasp n: what an instruction asks that allows a membership hasp (R138). -/
theorem State.partyHasp_held_iff (s : State) (p : Party) (n : Nat) :
    (s.partyHasp p n).1 = true ↔ (!(s.partyHasp p n).1 || ((s.partyHasp p n).2 && !true)) = false := by simp

/-- And it is no membership hasp: what one asks that allows none (R138). -/
theorem State.partyHasp_own_iff (s : State) (p : Party) (n : Nat) :
    s.partyHasp p n = (true, false) ↔ (!(s.partyHasp p n).1 || ((s.partyHasp p n).2 && !false)) = false := by simp [Prod.ext_iff]

/-- A setup instruction whose hasp must be `held`, and whose operands must meet `rest`, does `good`, and traps as misuse where either fails (R138). -/
theorem uniformDoes_of_hasp {i : Instr} {n : Nat} {m : Bool} {body : State → Party → Nat → Res} {means : State → Party → List Nat → Res → Prop}
    {held : State → Party → Prop} (hi : ∀ s, exec i s = haspFrame s n m body)
    (hheld : ∀ s p, held s p ↔ (!(s.partyHasp p n).1 || ((s.partyHasp p n).2 && !m)) = false)
    (hb : ∀ s p ks r, means s p ks r → ∃ (rest : Prop) (good : Res), (rest → body s p p.core = good) ∧
      (¬ rest → body s p p.core = .trap s (cHasp n)) ∧
      ((¬ (held s p ∧ rest) ∧ r = .trap s (cHasp n)) ∨ ((held s p ∧ rest) ∧ r = good))) : UniformDoes i means := by
  refine uniformDoes_of_body hi fun s p ks r hm => ?_
  obtain ⟨rest, good, hgood, hbad, hr⟩ := hb s p ks r hm
  by_cases hh : held s p
  · simp only [(hheld s p).1 hh, Bool.false_eq_true, if_false]
    rcases hr with ⟨hno, rfl⟩ | ⟨⟨_, hrest⟩, rfl⟩
    · exact hbad fun hrest => hno ⟨hh, hrest⟩
    · exact hgood hrest
  · simp only [Bool.eq_true_of_not_eq_false (mt (hheld s p).2 hh), if_true]
    rcases hr with ⟨_, rfl⟩ | ⟨⟨hyes, _⟩, _⟩
    · rfl
    · exact absurd hyes hh

/-! ### Writing a hasp twice -/

theorem mput_mput {α : Type} (m : Table α) (k : Nat) (x y : α) : mput (mput m k x) k y = mput m k y := by
  induction m with
  | nil => simp [mput]
  | cons q m ih =>
    obtain ⟨j, a⟩ := q
    rcases Nat.lt_trichotomy k j with h | rfl | h
    · simp [mput, h]
    · simp [mput]
    · simp [mput, Nat.not_lt.2 h.le, h.ne, ih]

theorem Hasp.ne_zero_of_valid {x : Hasp} (h : x.valid = true) : x ≠ Hasp.zero := by
  rintro rfl
  exact Bool.false_ne_true h

/-- A valid hasp is what is read after it is written, whatever the order of the table. -/
theorem State.hasp_setHasp_of_valid (s : State) (k : Nat) {x : Hasp} (h : x.valid = true) : (s.setHasp k x).hasp k = x := by
  simp [State.hasp, sget, sput, Hasp.ne_zero_of_valid h]

theorem State.setHasp_setHasp_of_valid (s : State) (k : Nat) {x y : Hasp} (hx : x.valid = true) (hy : y.valid = true) :
    (s.setHasp k x).setHasp k y = s.setHasp k y := by
  simp [State.setHasp, sput, Hasp.ne_zero_of_valid hx, Hasp.ne_zero_of_valid hy, mput_mput]

/-! ### Rings -/

/-- An invalidation reaches the hasp itself and, of a ring, what are still stages of it (R143). -/
theorem State.mem_ringOf (s : State) (c n m : Nat) :
    let x (n : Nat) : Hasp := s.hasp (haspKey c n)
    m ∈ s.ringOf c n ↔ ((x n).ring = false ∧ m = n) ∨
      ((x n).ring = true ∧ (x n).rhead ≤ m ∧ m ≤ (x n).rhead + (x n).rstg ∧
        (m = n ∨ ((x m).ring = true ∧ (x m).rstg = (x n).rstg ∧ (x m).rhead = (x n).rhead))) := by
  intro x
  cases hring : (x n).ring with
  | false => simp [State.ringOf, show (s.hasp (haspKey c n)).ring = false from hring]
  | true =>
    have hrange : m ∈ (List.range ((x n).rstg + 1)).map (· + (x n).rhead) ↔ (x n).rhead ≤ m ∧ m ≤ (x n).rhead + (x n).rstg := by
      rw [List.mem_map]
      exact ⟨fun ⟨a, ha, hm⟩ => by rw [List.mem_range] at ha; omega, fun ⟨hlo, hhi⟩ => ⟨m - (x n).rhead, by rw [List.mem_range]; omega, by omega⟩⟩
    simp only [State.ringOf, show (s.hasp (haspKey c n)).ring = true from hring, if_true, List.mem_filter, Bool.or_eq_true, Bool.and_eq_true,
      beq_iff_eq, and_assoc]
    rw [hrange]
    simp [x, and_assoc]

/-! ### The instructions -/

section Instructions

variable (h : Fin 32) (i : Fin 4) (a b : UniSrc)

/-- A stage of a ring that is set up (R139, R142). -/
def State.stage (s : State) (c head k e n : Nat) : State :=
  s.setHasp (haspKey c n) { (s.hasp (haspKey c n)).init e with ring := true, rbase := n == head, rstg := k - 1, rhead := head }

theorem State.initHasp_stage (s : State) (c head k e n : Nat) :
    (s.initHasp c n e).setHasp (haspKey c n)
      { (s.initHasp c n e).hasp (haspKey c n) with ring := true, rbase := n == head, rstg := k - 1, rhead := head } =
      s.stage c head k e n := by
  have hread : (s.initHasp c n e).hasp (haspKey c n) = (s.hasp (haspKey c n)).init e := State.hasp_setHasp_of_valid _ _ rfl
  rw [hread]
  exact State.setHasp_setHasp_of_valid _ _ rfl rfl

theorem hinit_does : UniformDoes (.hinit h a) fun s p _ r =>
    ∃ w s1, s.uniSrc p false a = (w, s1) ∧
      let ok := s.partyHasp p h.val = (true, false) ∧ w.toNat ≤ 4095
      (¬ ok ∧ r = .trap s (cHasp h.val)) ∨ (ok ∧ r = .ok ((s1.invalidateRing p.core h.val).initHasp p.core h.val w.toNat)) := by
  refine uniformDoes_of_hasp (fun s => show execHinit h a s = _ from rfl) (fun s p => s.partyHasp_own_iff p h.val) ?_
  rintro s p ks r ⟨w, s1, hw, hm⟩
  refine ⟨w.toNat ≤ 4095, _, fun hle => ?_, fun hgt => ?_, hm⟩
  · simp only [hw, Nat.not_lt.2 hle, if_false]
  · simp only [hw, Nat.not_le.1 hgt, if_true]

theorem hsrc_does : UniformDoes (.hsrc h i a b) fun s p _ r =>
    ∃ x s1 y s2, s.uniSrc p false a = (x, s1) ∧ s1.uniSrc p false b = (y, s2) ∧
      let o := s.hasp (haspKey p.core h.val)
      let ok := (s.partyHasp p h.val).1 = true ∧ o.valid = true ∧ x.toNat / 2 ^ 17 = 0 ∧ x.toNat % 2 ^ 7 < 96 ∧ y.toNat < 2 ^ 24
      (¬ ok ∧ r = .trap s (cHasp h.val)) ∨
        (ok ∧ r = .ok (s2.setHasp (haspKey p.core h.val) (o.setSlot i ⟨true, x.toNat, y.toNat, 0⟩))) := by
  refine uniformDoes_of_hasp (fun s => show execHsrc h i a b s = _ from rfl) (fun s p => s.partyHasp_held_iff p h.val) ?_
  rintro s p ks r ⟨x, s1, y, s2, hx, hy, hm⟩
  have hhi : bits x.toNat 31 17 = x.toNat / 2 ^ 17 := Nat.mod_eq_of_lt (by have := x.isLt; omega)
  have hlo : bits x.toNat 6 0 = x.toNat % 2 ^ 7 := by simp [bits]
  refine ⟨_, _, fun hok => ?_, fun hno => ?_, hm⟩
  · simp only [hx, hy, hhi, hlo]
    refine if_neg ?_
    simpa [and_assoc] using hok
  · simp only [hx, hy, hhi, hlo]
    refine if_pos (by_contra fun hc => hno ?_)
    simpa [and_assoc] using hc

theorem hsrcClr_does : UniformDoes (.hsrcClr h i) fun s p _ r =>
    let o := s.hasp (haspKey p.core h.val)
    let ok := (s.partyHasp p h.val).1 = true ∧ o.valid = true
    (¬ ok ∧ r = .trap s (cHasp h.val)) ∨ (ok ∧ r = .ok ((s.setHasp (haspKey p.core h.val)
      (o.setSlot i { o.slots[i] with act := false })).tryComplete p.core h.val)) := by
  refine uniformDoes_of_hasp (fun s => show execHsrcClr h i s = _ from rfl) (fun s p => s.partyHasp_held_iff p h.val) ?_
  intro s p ks r hm
  refine ⟨_, _, fun hv => ?_, fun hv => ?_, hm⟩
  · simp only [hv, Bool.not_true, Bool.false_eq_true, if_false]
  · simp only [Bool.eq_false_iff.2 hv, Bool.not_false, if_true]

theorem hexp_does : UniformDoes (.hexp h i a b) fun s p _ r =>
    ∃ x s1 y s2, s.uniSrc p false a = (x, s1) ∧ s1.uniSrc p false b = (y, s2) ∧
      let o := s.hasp (haspKey p.core h.val)
      let q := o.slots[i]
      let ok := (s.partyHasp p h.val).1 = true ∧ o.valid = true ∧ (x ≠ 0 → q.act = true) ∧ (y ≠ 0 → (s.partyHasp p h.val).2 = false) ∧
        q.expect + x.toNat < 2 ^ 24 ∧ o.expArr + y.toNat ≤ 4095
      (¬ ok ∧ r = .trap s (cHasp h.val)) ∨ (ok ∧ r = .ok ((s2.setHasp (haspKey p.core h.val)
        ({ o with expArr := o.expArr + y.toNat }.setSlot i { q with expect := q.expect + x.toNat })).tryComplete p.core h.val)) := by
  refine uniformDoes_of_hasp (fun s => show execHexp h i a b s = _ from rfl) (fun s p => s.partyHasp_held_iff p h.val) ?_
  rintro s p ks r ⟨x, s1, y, s2, hx, hy, hm⟩
  refine ⟨_, _, fun hok => ?_, fun hno => ?_, hm⟩
  · simp only [hx, hy]
    refine if_neg ?_
    simpa [and_assoc, imp_iff_not_or] using hok
  · simp only [hx, hy]
    refine if_pos (by_contra fun hc => hno ?_)
    simpa [and_assoc, imp_iff_not_or] using hc

theorem hring_does : UniformDoes (.hring h a b) fun s p _ r =>
    ∃ x s1 y s2, s.uniSrc p false a = (x, s1) ∧ s1.uniSrc p false b = (y, s2) ∧
      let k := x.toNat
      let stages := (List.range k).map (· + h.val)
      let ok := s.partyHasp p h.val = (true, false) ∧ 1 ≤ k ∧ k ≤ 8 ∧ h.val + k - 1 ≤ 31 ∧ y.toNat ≤ 4095 ∧
        ∀ n ∈ stages, s.partyHasp p n = (true, false)
      (¬ ok ∧ r = .trap s (cHasp h.val)) ∨ (ok ∧ r = .ok (stages.foldl (fun u n => u.stage p.core h.val k y.toNat n)
        (stages.foldl (fun u n => u.invalidateRing p.core n) s2))) := by
  refine uniformDoes_of_hasp (fun s => show execHring h a b s = _ from rfl) (fun s p => s.partyHasp_own_iff p h.val) ?_
  rintro s p ks r ⟨x, s1, y, s2, hx, hy, hm⟩
  refine ⟨_, _, fun hok => ?_, fun hno => ?_, hm⟩
  · simp only [hx, hy, State.initHasp_stage]
    refine if_neg ?_
    simpa [and_assoc, Prod.ext_iff, Nat.one_le_iff_ne_zero] using hok
  · simp only [hx, hy]
    refine if_pos (by_contra fun hc => hno ?_)
    simpa [and_assoc, Prod.ext_iff, Nat.one_le_iff_ne_zero] using hc

theorem hinv_does : UniformDoes (.hinv h) fun s p _ r =>
    (s.partyHasp p h.val ≠ (true, false) ∧ r = .trap s (cHasp h.val)) ∨
      (s.partyHasp p h.val = (true, false) ∧ r = .ok (s.invalidateRing p.core h.val)) := by
  refine uniformDoes_of_hasp (fun s => show execHinv h s = _ from rfl) (fun s p => s.partyHasp_own_iff p h.val) ?_
  intro s p ks r hm
  exact ⟨True, _, fun _ => rfl, fun hno => absurd trivial hno, by simpa only [and_true] using hm⟩

end Instructions

/-- Settles O25: each setup instruction checks its hasp, then its operands, and does what its clause gives. -/
theorem haspSetupResults : Obligations.HaspSetupResults := by
  intro h i a b H put fresh done misuse
  exact ⟨hinit_does h a, hsrc_does h i a b, hsrcClr_does h i, hexp_does h i a b, hring_does h a b, hinv_does h, State.mem_ringOf⟩

end Sys2Proof.Machine
end

section
/-! Where the elements of a box lie, and where landed bytes are counted (R140, R165, R167). -/

namespace Sys2Proof.Machine

open Sys2Proof.Says

/-! ### Rows of a box -/

section Rows

variable {r : LRec} {i1 i2 i3 i4 : Nat}

theorem LRec.ext_pos (r : LRec) (k : Nat) : 0 < r.ext k := Nat.lt_of_lt_of_le Nat.zero_lt_one (Nat.le_max_left ..)

theorem LRec.size_pos (r : LRec) : 0 < r.size := Nat.two_pow_pos _

/-- The row of a box whose indexes in dimensions 1 to 4 are given (R165). -/
def LRec.rowOf (r : LRec) (i1 i2 i3 i4 : Nat) : Nat := i1 + r.ext 1 * (i2 + r.ext 2 * (i3 + r.ext 3 * i4))

theorem LRec.rowIdx_rowOf (h1 : i1 < r.ext 1) (h2 : i2 < r.ext 2) (h3 : i3 < r.ext 3) :
    r.rowIdx (r.rowOf i1 i2 i3 i4) = [i1, i2, i3, i4] := by
  have e1 : r.rowOf i1 i2 i3 i4 / r.ext 1 = i2 + r.ext 2 * (i3 + r.ext 3 * i4) := by
    rw [LRec.rowOf, Nat.add_mul_div_left _ _ (r.ext_pos 1), Nat.div_eq_of_lt h1, Nat.zero_add]
  have e2 : r.rowOf i1 i2 i3 i4 / (r.ext 1 * r.ext 2) = i3 + r.ext 3 * i4 := by
    rw [← Nat.div_div_eq_div_mul, e1, Nat.add_mul_div_left _ _ (r.ext_pos 2), Nat.div_eq_of_lt h2, Nat.zero_add]
  have e3 : r.rowOf i1 i2 i3 i4 / (r.ext 1 * r.ext 2 * r.ext 3) = i4 := by
    rw [← Nat.div_div_eq_div_mul, e2, Nat.add_mul_div_left _ _ (r.ext_pos 3), Nat.div_eq_of_lt h3, Nat.zero_add]
  have m1 : r.rowOf i1 i2 i3 i4 % r.ext 1 = i1 := by rw [LRec.rowOf, Nat.add_mul_mod_self_left, Nat.mod_eq_of_lt h1]
  rw [LRec.rowIdx, e1, e2, e3, m1, Nat.add_mul_mod_self_left, Nat.mod_eq_of_lt h2, Nat.add_mul_mod_self_left, Nat.mod_eq_of_lt h3]

theorem LRec.rowOf_lt (h1 : i1 < r.ext 1) (h2 : i2 < r.ext 2) (h3 : i3 < r.ext 3) (h4 : i4 < r.ext 4) : r.rowOf i1 i2 i3 i4 < r.rows := by
  rw [LRec.rows, Nat.mul_assoc, Nat.mul_assoc]
  exact Nat.add_mul_lt_mul_of_lt_of_lt h1 (Nat.add_mul_lt_mul_of_lt_of_lt h2 (Nat.add_mul_lt_mul_of_lt_of_lt h3 h4))

end Rows

/-! ### Elements -/

section Elements

variable (r : LRec) (coords : List Int) (gs : List (Nat × Int)) (row i0 : Nat)

theorem LRec.sliceOfs_plain (h : r.swz = 0) : r.sliceOfs row i0 = row * r.pitch + i0 * r.size := by simp [LRec.sliceOfs, h]

/-- A swizzle exchanges the 16-byte chunks of a group of n by the row's number (R165). -/
theorem LRec.sliceOfs_swizzled (h : r.swz ≠ 0) :
    let o := row * r.pitch + i0 * r.size
    let n := 64 * 2 ^ r.swz / 16
    let c := o / 16 % n
    (r.sliceOfs row i0 : Int) = o + 16 * (((c ^^^ (row % n) : Nat) : Int) - c) := by
  intro o n c
  have hn : 4 * 2 ^ r.swz = n := by omega
  have hle : 16 * c ≤ o := by
    have := Nat.mod_le (o / 16) n
    have := Nat.div_mul_le_self o 16
    omega
  have hs : r.sliceOfs row i0 = o - 16 * c + 16 * (c ^^^ (row % n)) := by
    simp only [LRec.sliceOfs, beq_eq_false_iff_ne.2 h, Bool.false_eq_true, if_false, hn]
    rfl
  rw [hs, Nat.cast_add, Nat.cast_sub hle, Nat.cast_mul, Nat.cast_mul]
  ring

/-- The address of the tensor element that lies at a box index (R165). -/
theorem LRec.tensorVa_eq : (r.tensorVa coords gs i0 : Int) =
    (r.base + (coords.getD 0 0 + i0) * 2 ^ r.esz + (gs.map fun g => g.2 * r.stride.getD g.1 0).sum) % 2 ^ 56 := by
  have hsum (t : Int) : gs.foldl (fun t g => t + g.2 * r.stride.getD g.1 0) t = t + (gs.map fun g => g.2 * r.stride.getD g.1 0).sum := by
    induction gs generalizing t with
    | nil => simp
    | cons g gs ih => simp only [List.foldl_cons, ih, List.map_cons, List.sum_cons, add_assoc]
  rw [LRec.tensorVa, hsum, zero_add, Int.toNat_of_nonneg (Int.emod_nonneg _ (by decide)), LRec.size, Nat.cast_pow, Nat.cast_ofNat]

/-- The elements of a row that lie in the tensor (R165). -/
theorem LRec.mem_rowSpan : ((r.rowSpan coords gs).1 ≤ i0 ∧ i0 < (r.rowSpan coords gs).2) ↔
    i0 < r.ext 0 ∧ 0 ≤ coords.getD 0 0 + i0 ∧ coords.getD 0 0 + i0 < (r.bound.getD 0 0 : Nat) ∧
      ∀ g ∈ gs, 0 ≤ g.2 ∧ g.2 < (r.bound.getD g.1 0 : Nat) := by
  have hall : (gs.all fun g => decide (0 ≤ g.2) && decide (g.2 < (r.bound.getD g.1 0 : Nat))) = true ↔
      ∀ g ∈ gs, 0 ≤ g.2 ∧ g.2 < (r.bound.getD g.1 0 : Nat) := by
    simp only [List.all_eq_true, Bool.and_eq_true, decide_eq_true_eq]
  unfold LRec.rowSpan
  split
  case isTrue h =>
    dsimp only
    exact ⟨fun ⟨hlo, hhi⟩ => ⟨by omega, by omega, by omega, hall.1 h⟩, fun ⟨hbox, hlo, hhi, _⟩ => by omega⟩
  case isFalse h =>
    have hn := mt hall.2 h
    exact ⟨fun hlt => absurd hlt.2 (Nat.not_lt_zero _), fun hin => absurd hin.2.2.2 hn⟩

/-- The row, the element and the byte that a byte of the box is (R165). -/
theorem LRec.byteAt_of_row {k : Nat} (hi : i0 < r.ext 0) (hk : k < r.size) :
    r.byteAt (row * r.rowBytes + i0 * r.size + k) = (row, i0, k) := by
  have hin : i0 * r.size + k < r.rowBytes := by
    rw [Nat.add_comm, Nat.mul_comm, LRec.rowBytes, Nat.mul_comm (r.ext 0)]
    exact Nat.add_mul_lt_mul_of_lt_of_lt hk hi
  have hrow : (row * r.rowBytes + i0 * r.size + k) / r.rowBytes = row := by
    rw [Nat.add_assoc, Nat.mul_comm, Nat.mul_add_div (Nat.zero_lt_of_lt hin), Nat.div_eq_of_lt hin, Nat.add_zero]
  have hofs : (row * r.rowBytes + i0 * r.size + k) % r.rowBytes = i0 * r.size + k := by
    rw [Nat.add_assoc, Nat.mul_add_mod_self_right, Nat.mod_eq_of_lt hin]
  have helem : (i0 * r.size + k) / r.size = i0 := by
    rw [Nat.mul_comm, Nat.mul_add_div r.size_pos, Nat.div_eq_of_lt hk, Nat.add_zero]
  have hbyte : (row * r.rowBytes + i0 * r.size + k) % r.size = k := by
    rw [LRec.rowBytes, ← Nat.mul_assoc, ← Nat.add_mul, Nat.mul_add_mod_self_right, Nat.mod_eq_of_lt hk]
  rw [LRec.byteAt, hrow, hofs, helem, hbyte]

end Elements

/-! ### Bytes -/

section Bytes

variable {r : LRec} {row i0 k : Nat}

/-- A byte of an element lies in the box (R165). -/
theorem LRec.byte_lt_total (hrow : row < r.rows) (hi : i0 < r.ext 0) (hk : k < r.size) : row * r.rowBytes + i0 * r.size + k < r.total := by
  have hin : k + r.size * i0 < r.size * r.ext 0 := Nat.add_mul_lt_mul_of_lt_of_lt hk hi
  have hall : k + r.size * i0 + r.size * r.ext 0 * row < r.size * r.ext 0 * r.rows := Nat.add_mul_lt_mul_of_lt_of_lt hin hrow
  calc row * r.rowBytes + i0 * r.size + k = k + r.size * i0 + r.size * r.ext 0 * row := by rw [LRec.rowBytes]; ring
    _ < r.size * r.ext 0 * r.rows := hall
    _ = r.total := by rw [LRec.total, LRec.rowBytes]; ring

theorem LRec.sliceAt_of_row (hi : i0 < r.ext 0) (hk : k < r.size) :
    r.sliceAt (row * r.rowBytes + i0 * r.size + k) = r.sliceOfs row i0 + k := by simp only [LRec.sliceAt, r.byteAt_of_row row i0 hi hk]

theorem LRec.tensorAt_of_row (coords : List Int) (rows : Nat → List (Nat × Int)) (hi : i0 < r.ext 0) (hk : k < r.size) :
    r.tensorAt coords rows (row * r.rowBytes + i0 * r.size + k) =
      if (r.rowSpan coords (rows row)).1 ≤ i0 ∧ i0 < (r.rowSpan coords (rows row)).2 then some (r.tensorVa coords (rows row) i0 + k) else none := by
  simp only [LRec.tensorAt, r.byteAt_of_row row i0 hi hk, Bool.and_eq_true, decide_eq_true_eq]

end Bytes

/-! ### Landed bytes -/

section Landed

variable {s : State} {hk src n : Nat}

/-- Is slot i of a hasp active, with a source (R140)? -/
def Hasp.names (h : Hasp) (src : Nat) (i : Fin 4) : Prop := h.slots[i].act = true ∧ h.slots[i].src = src

/-- Bytes that no active slot of a valid hasp names are counted nowhere (R167). -/
theorem State.landOn_uncounted (h : (s.hasp hk).valid = false ∨ ∀ i, ¬ (s.hasp hk).names src i) : s.landOn hk src n = (none, s) := by
  unfold State.landOn
  dsimp only
  split
  next i hi =>
    have hact : (s.hasp hk).names src i := by simpa [Hasp.names] using List.find?_some hi
    rw [h.resolve_right fun hno => hno i hact, Bool.false_and, if_neg Bool.false_ne_true]
  next => rfl

/-- The first of the numbers below m that a test finds is the least that passes it. -/
theorem find_finRange_of_least {m : Nat} {p : Fin m → Bool} {i : Fin m} (hi : p i = true) (hl : ∀ j, j < i → p j = false) :
    (List.finRange m).find? p = some i := by
  rw [List.find?_eq_some_iff_getElem]
  exact ⟨hi, i, by simp, by simp, fun j hj => by simpa using hl ⟨j, hj.trans i.isLt⟩ hj⟩

/-- Otherwise the lowest-numbered such slot counts them (R140; log 94). -/
theorem State.landOn_counted {i : Fin 4} (hn : n ≠ 0) (hv : (s.hasp hk).valid = true) (hi : (s.hasp hk).names src i)
    (hl : ∀ j, j < i → ¬ (s.hasp hk).names src j) (hroom : (s.hasp hk).slots[i].landed + n < 2 ^ 24) :
    s.landOn hk src n = (some ⟨hk, i.val, (s.hasp hk).phase, n⟩, (s.setHasp hk { s.hasp hk with
      slots := (s.hasp hk).slots.set i { (s.hasp hk).slots[i] with landed := (s.hasp hk).slots[i].landed + n } }).tryComplete (hk / 32) (hk % 32)) := by
  have hfind : (List.finRange 4).find? (fun i => (s.hasp hk).slots[i].act && (s.hasp hk).slots[i].src == src) = some i :=
    find_finRange_of_least (by simpa [Hasp.names] using hi) fun j hj => by simpa [Hasp.names] using hl j hj
  simp only [State.landOn, hfind, hv, bne_iff_ne.2 hn, Bool.and_self, if_true, Nat.mod_eq_of_lt hroom]

end Landed

/-- Settles O33: the digits of a row, the swizzle of its chunks, the bytes of its elements, and the slot that a source's bytes find. -/
theorem boxElementsAndLandedBytes : Obligations.BoxElementsAndLandedBytes := by
  refine ⟨?_, fun s hk src n _ hn => ⟨State.landOn_uncounted, fun i hv hi hl => State.landOn_counted hn hv hi hl⟩⟩
  intro r coords gs i0 i1 i2 i3 i4 h1 h2 h3 h4 row o
  have hrow : row < r.rows := LRec.rowOf_lt h1 h2 h3 h4
  exact ⟨LRec.rowIdx_rowOf h1 h2 h3, hrow, r.sliceOfs_plain row i0, r.sliceOfs_swizzled row i0, r.tensorVa_eq coords gs i0,
    r.mem_rowSpan coords gs i0, fun k rows hi hk =>
    ⟨LRec.byte_lt_total hrow hi hk, LRec.sliceAt_of_row hi hk, LRec.tensorAt_of_row coords rows hi hk⟩⟩

end Sys2Proof.Machine
end

section
/-! ATTACH, DETACH, FORK, SRD and SWR: what each judges, and in which order (R127, R129, R132, R133). -/

namespace Sys2Proof.Machine

open Sys2Proof.Says

/-! ### ATTACH and DETACH -/

theorem attach_bandDoes (d : UniDst) (a b : UniSrc) : BandDoes (.attach d a b) fun s k _ r =>
    ∃ na s1 nb s2 x, s.uniSrc (.band k) false a = (na, s1) ∧ s1.uniSrc (.band k) false b = (nb, s2) ∧ s2.band? k = some x ∧
      let target := s2.attachTarget k x (na.toNat % 2 ^ 16) nb.toNat
      let m := popcount 32 x.pm.toNat
      let joinOk (n : Nat) : Bool := (s2.hasp (haspKey (coreOfBand k) n)).joinOk m
      ((s2.inRoutine (.band k) = true ∧ r = .trap s ⟨1, 0, 0⟩) ∨
        (s2.inRoutine (.band k) = false ∧ x.block ≠ none ∧ r = .ok (s2.setUni (.band k) d 4)) ∨
        (s2.inRoutine (.band k) = false ∧ x.block = none ∧ target = none ∧ r = .ok (s2.setUni (.band k) d 1)) ∨
        ∃ blk y, s2.inRoutine (.band k) = false ∧ x.block = none ∧ target = some blk ∧ s2.block? blk = some y ∧
          y.core = coreOfBand k ∧ y.node = na.toNat % 2 ^ 16 ∧ y.blockId = nb.toNat ∧ y.inst = x.inst ∧ y.part = x.part ∧
          ((y.maxBands ≤ s2.nband blk ∧ r = .ok (s2.setUni (.band k) d 2)) ∨
            (s2.nband blk < y.maxBands ∧ y.rstate ≠ .held ∧ r = .ok (s2.setUni (.band k) d 3)) ∨
            (s2.nband blk < y.maxBands ∧ y.rstate = .held ∧ (∀ n ∈ y.membNums, joinOk n = true) ∧
              r = .ok ((s2.attachBand k blk x y).setUni (.band k) d 0)) ∨
            (s2.nband blk < y.maxBands ∧ y.rstate = .held ∧ ∃ n, y.membNums.find? (fun n => !joinOk n) = some n ∧
              r = .trap s ⟨7, n, 0⟩))) := by
  refine bandDoes_of_body (fun s => show execAttach d a b s = _ from rfl) (fun _ _ _ => rfl) ?_
  rintro s k ks r ⟨na, s1, nb, s2, x, ha, hb, hx, hm⟩
  simp only [ha, hb, hx]
  rcases hm with ⟨hr, rfl⟩ | ⟨hr, hblk, rfl⟩ | ⟨hr, hblk, ht, rfl⟩ | ⟨blk, y, hr, hblk, ht, hy, -, -, -, -, -, hm⟩
  · simp only [hr, if_true, cIllegal]
  · simp only [hr, Bool.false_eq_true, if_false, Option.isSome_iff_ne_none.2 hblk, if_true]
  · simp only [hr, hblk, ht, Option.isSome_none, Bool.false_eq_true, if_false]
  simp only [hr, hblk, ht, hy, Option.isSome_none, Bool.false_eq_true, if_false]
  rcases hm with ⟨hfull, rfl⟩ | ⟨hroom, hst, rfl⟩ | ⟨hroom, hst, hall, rfl⟩ | ⟨hroom, hst, n, hn, rfl⟩
  · simp only [hfull, if_true]
  · simp only [Nat.not_le.2 hroom, if_false, bne_iff_ne.2 hst, if_true]
  · have hnone : y.membNums.find? (fun n => !(s2.hasp (haspKey (coreOfBand k) n)).joinOk (popcount 32 x.pm.toNat)) = none :=
      List.find?_eq_none.2 fun n hn => by simpa using hall n hn
    simp only [Nat.not_le.2 hroom, if_false, hst, bne_self_eq_false, Bool.false_eq_true, hnone]
  · simp only [Nat.not_le.2 hroom, if_false, hst, bne_self_eq_false, Bool.false_eq_true, hn, cHasp]

theorem detach_bandDoes (d : UniDst) : BandDoes (.detach d) fun s k _ r =>
    (∃ x blk y, s.band? k = some x ∧ s.blockOfParty (.band k) = some (blk, y) ∧
      ((s.inRoutine (.band k) = true ∧ r = .trap s ⟨1, 0, 0⟩) ∨
        (s.inRoutine (.band k) = false ∧ (∀ n ∈ y.membNums, s.leaveOk k x n = true) ∧
          r = .ok ((s.detachBand k x y).setUni (.band k) d 0).settle) ∨
        (s.inRoutine (.band k) = false ∧ ∃ n, y.membNums.find? (fun n => !s.leaveOk k x n) = some n ∧ r = .trap s ⟨7, n, 0⟩))) ∨
    (s.blockOfParty (.band k) = none ∧ r = .ok (s.setUni (.band k) d 1)) := by
  refine bandDoes_of_body (fun s => show execDetach d s = _ from rfl) (fun _ _ _ => rfl) ?_
  rintro s k ks r (⟨x, blk, y, hx, hy, hm⟩ | ⟨hout, rfl⟩)
  · simp only [hx, hy]
    rcases hm with ⟨hr, rfl⟩ | ⟨hr, hall, rfl⟩ | ⟨hr, n, hn, rfl⟩
    · simp only [hr, if_true, cIllegal]
    · have hnone : y.membNums.find? (fun n => !s.leaveOk k x n) = none :=
        List.find?_eq_none.2 fun n hn => by simpa using hall n hn
      simp only [hr, Bool.false_eq_true, if_false, hnone]
    · simp only [hr, Bool.false_eq_true, if_false, hn, cHasp]
  · cases hx : s.band? k <;> simp only [hx, hout]

/-! ### FORK, SRD and SWR -/

theorem fork_bandDoes (seq : Seq) (d : UniDst) (imm : Word) : BandDoes (.fork seq d imm) fun s b ks r =>
    ((s.inRoutine (.band b) = true ∨ s.blockOfParty (.band b) = none) ∧ r = .trap s ⟨1, 0, 0⟩) ∨
    ∃ x blk y, s.band? b = some x ∧ s.blockOfParty (.band b) = some (blk, y) ∧ s.inRoutine (.band b) = false ∧
      let q := seqKey (coreOfBand b) seq
      ((y.hasEngine seq = false ∧ r = .trap s ⟨1, 4, 0⟩) ∨
        (y.hasEngine seq = true ∧ (s.strand q).status ≠ .idle ∧ r = .ok (s.setUni (.band b) d 1)) ∨
        (y.hasEngine seq = true ∧ (s.strand q).status = .idle ∧
          r = .ok ((s.setStrand q { Strand.zero with
            s := x.s.set 31 0, pc := clauseTarget (s.partyPc (.band b) ks) imm, status := .run, block := blk,
            band := s.spValue (.band b) 2, nband := s.spValue (.band b) 3, forker := some b
            forkAt := s.clk + 1 }).setUni (.band b) d 0))) := by
  refine bandDoes_of_body (fun s => show execFork seq d imm s = _ from rfl) (fun _ _ _ => rfl) ?_
  rintro s b ks r (⟨hr | hout, rfl⟩ | ⟨x, blk, y, hx, hy, hr, hm⟩)
  · simp only [hr, if_true, cIllegal]
  · cases hx : s.band? b <;> simp only [hx, hout, cIllegal, ite_self]
  simp only [hr, hx, hy, Bool.false_eq_true, if_false]
  rcases hm with ⟨he, rfl⟩ | ⟨he, hst, rfl⟩ | ⟨he, hst, rfl⟩
  · simp only [he, Bool.not_false, if_true]
  · simp only [he, Bool.not_true, Bool.false_eq_true, if_false, bne_iff_ne.2 hst, if_true]
  · simp only [he, Bool.not_true, Bool.false_eq_true, if_false, hst, bne_self_eq_false]

/-- A strand does not begin in the clk of its FORK (R132). -/
theorem State.strandFree_forked {s : State} {q : Nat} (h : (s.strand q).forkAt = s.clk + 1) : s.strandFree q = false := by
  simp [State.strandFree, h]

theorem srd_does (seq : Seq) (d : UniDst) (n : Fin 32) : UniformDoes (.srd seq d n) fun s p _ r =>
    (ownFile p seq = false ∧ r = .ok (s.setUni p d (s.strand (seqKey p.core seq)).s[n])) ∨
    (ownFile p seq = true ∧ r = .trap s ⟨1, 0, 0⟩) := by
  refine uniformDoes_of_body (fun s => show execSrd seq d n s = _ from rfl) ?_
  rintro s p ks r (⟨ho, rfl⟩ | ⟨ho, rfl⟩)
  · simp only [ho, Bool.false_eq_true, if_false]
  · simp only [ho, if_true, cIllegal]

theorem Strand.wroteNow_iff (y : Strand) (clk n : Nat) : y.wroteNow clk n = true ↔ y.wroteAt = clk + 1 ∧ y.wrote.getLsbD n = true := by
  rw [Strand.wroteNow, Bool.and_eq_true, beq_iff_eq, bitAt_toNat]

theorem State.uniSrc_time (s : State) (p : Party) (f : Bool) (a : UniSrc) : (s.uniSrc p f a).2.clk = s.clk := by
  cases a with
  | s n => rfl
  | k n => rfl
  | sp n =>
    cases p with
    | band b =>
      simp only [State.uniSrc]
      split
      · rfl
      · split <;> rfl
    | strand q =>
      simp only [State.uniSrc]
      split
      · rfl
      · split
        · rfl
        · split <;> rfl

theorem swr_does (seq : Seq) (n : Fin 32) (a : UniSrc) : UniformDoes (.swr seq n a) fun s p _ r =>
    let w := (s.uniSrc p false a).1
    let u := (s.uniSrc p false a).2
    let q := seqKey p.core seq
    let own : Prop := (u.strand q).wroteAt = s.clk + 1 ∧ (u.strand q).wrote.getLsbD n.val = true
    (ownFile p seq = false ∧ ¬ own ∧ r = .ok (u.setStrand q ((u.strand q).setS n.val w))) ∨ (ownFile p seq = false ∧ own ∧ r = .ok u) ∨
    (ownFile p seq = true ∧ r = .trap s ⟨1, 0, 0⟩) := by
  refine uniformDoes_of_body (fun s => show execSwr seq n a s = _ from rfl) ?_
  rintro s p ks r hm
  simp only [← State.uniSrc_time s p false a, ← Strand.wroteNow_iff] at hm
  rcases hm with ⟨ho, hown, rfl⟩ | ⟨ho, hown, rfl⟩ | ⟨ho, rfl⟩
  · simp only [ho, hown, Bool.false_eq_true, if_false]
  · simp only [ho, hown, Bool.false_eq_true, if_false, if_true]
  · simp only [ho, if_true, cIllegal]

end Sys2Proof.Machine
end

section
/-! Joining a block and leaving one (R126 to R129, R295, R299). -/

namespace Sys2Proof.Machine

open Sys2Proof.Says

/-! ### Joining -/

section Joining

variable {s : State} {c : Nat} {ns : List Nat}

theorem haspKey_inj {c n m : Nat} : haspKey c n = haspKey c m ↔ n = m := Nat.add_left_cancel_iff

theorem Block.membNums_nodup (y : Block) : y.membNums.Nodup := List.nodup_range.filter _

/-- Each of some hasps of a core changed by f. -/
def State.eachHasp (s : State) (c : Nat) (ns : List Nat) (f : Hasp → Hasp) : State :=
  ns.foldl (fun s n => s.setHasp (haspKey c n) (f (s.hasp (haspKey c n)))) s

theorem State.eachHasp_other (f : Hasp → Hasp) {j : Nat} (hj : ∀ n ∈ ns, j ≠ haspKey c n) : (s.eachHasp c ns f).hasp j = s.hasp j := by
  unfold State.eachHasp
  induction ns generalizing s with
  | nil => rfl
  | cons n ns ih =>
    rw [List.forall_mem_cons] at hj
    rw [List.foldl_cons, ih hj.2, State.hasp_setHasp_other _ _ hj.1]

theorem State.eachHasp_named (f : Hasp → Hasp) (hr : Rising s.hasps) (hnd : ns.Nodup) {n : Nat} (hn : n ∈ ns) :
    (s.eachHasp c ns f).hasp (haspKey c n) = f (s.hasp (haspKey c n)) := by
  unfold State.eachHasp
  induction ns generalizing s with
  | nil => exact absurd hn List.not_mem_nil
  | cons m ns ih =>
    obtain ⟨hm, hnd⟩ := List.nodup_cons.1 hnd
    rw [List.foldl_cons]
    rcases List.mem_cons.1 hn with rfl | hn
    · refine (State.eachHasp_other (ns := ns) f fun j hj h => hm ?_).trans (State.hasp_setHasp _ _ _ hr)
      rwa [haspKey_inj.1 h]
    · have hne : haspKey c n ≠ haspKey c m := fun h => hm (haspKey_inj.1 h ▸ hn)
      rw [ih (rising_sput _ _ _ hr) hnd hn, State.hasp_setHasp_other _ _ hne]

theorem State.eachHasp_frame (f : Hasp → Hasp) : s.eachHasp c ns f = { s with hasps := (s.eachHasp c ns f).hasps } := by
  unfold State.eachHasp
  induction ns generalizing s with
  | nil => rfl
  | cons n ns ih =>
    rw [List.foldl_cons, ih]
    rfl

theorem State.mergeTask_hasps (s : State) (k into : Nat) : (s.mergeTask k into).hasps = s.hasps := by
  unfold State.mergeTask
  split <;> rfl

/-- A merge renames tasks in what bands hold of records alone (R295). -/
theorem State.mergeTask_bands (s : State) (k into : Nat) : (s.mergeTask k into).bands = s.bands ∨
    ∃ f : PoolRec → PoolRec, (s.mergeTask k into).bands = mmap s.bands fun _ b => { b with recs := b.recs.map f } := by
  unfold State.mergeTask
  split
  · exact .inl rfl
  · exact .inr ⟨_, rfl⟩

theorem State.mergeTask_band {k into b : Nat} {z : Band} (hz : s.band? b = some z) (hrecs : z.recs = []) :
    (s.mergeTask k into).band? b = some z := by
  rcases s.mergeTask_bands k into with h | ⟨f, h⟩
  · exact (congrArg (mget · b) h).trans hz
  · rw [State.band?, h, mget_mmap, show mget s.bands b = some z from hz, Option.map_some, hrecs, List.map_nil, ← hrecs]

variable {b blk : Nat} {x : Band} {y : Block}

theorem State.attachBand_hasp (s : State) (b blk : Nat) (x : Band) (y : Block) (j : Nat) : (s.attachBand b blk x y).hasp j =
    (s.eachHasp (coreOfBand b) y.membNums fun h => h.join (popcount 32 x.pm.toNat)).hasp j :=
  congrArg (sget Hasp.zero · j) (State.mergeTask_hasps ..)

/-- What a band is after it has joined a block (R127). -/
theorem State.attachBand_band (blk : Nat) (y : Block) (hx : s.band? b = some x) : ∃ z, (s.attachBand b blk x y).band? b = some z ∧
    z.block = some blk ∧ z.mb = popcount 32 x.pm.toNat ∧ z.task = y.task ∧ z.isRec = false ∧ z.recs = [] ∧ z.s = x.s ∧ z.budget = x.budget ∧
      z.joins = s.joinsOf (coreOfBand b) y := by
  have hjoined : (s.eachHasp (coreOfBand b) y.membNums fun h => h.join (popcount 32 x.pm.toNat)).band? b = some x := by
    rw [State.eachHasp_frame]
    exact hx
  exact ⟨_, State.mergeTask_band ((State.band_modBand ..).trans (congrArg (Option.map _) hjoined)) rfl, rfl, rfl, rfl, rfl, rfl, rfl, rfl, rfl⟩

/-- The joins that stay pending (R127, R128). -/
theorem State.mem_joinsOf (s : State) (c n p : Nat) (y : Block) : (n, p) ∈ s.joinsOf c y ↔
    n ∈ y.membNums ∧ ¬ ((s.hasp (haspKey c n)).expArr = 0 ∧ (s.hasp (haspKey c n)).arrived = 0) ∧
      p = ((s.hasp (haspKey c n)).phase + 1).toNat := by
  have hone (m : Nat) : (if (s.hasp (haspKey c m)).expArr == 0 && (s.hasp (haspKey c m)).arrived == 0 then none
      else some (m, ((s.hasp (haspKey c m)).phase + 1).toNat)) = some (n, p) ↔
      m = n ∧ ¬ ((s.hasp (haspKey c n)).expArr = 0 ∧ (s.hasp (haspKey c n)).arrived = 0) ∧ p = ((s.hasp (haspKey c n)).phase + 1).toNat := by
    simp only [Bool.and_eq_true, beq_iff_eq]
    split
    case isTrue hb =>
      refine ⟨nofun, ?_⟩
      rintro ⟨rfl, hn, -⟩
      exact absurd hb hn
    case isFalse hb =>
      rw [Option.some_inj, Prod.mk.injEq]
      constructor
      · rintro ⟨rfl, rfl⟩
        exact ⟨rfl, hb, rfl⟩
      · rintro ⟨rfl, -, rfl⟩
        exact ⟨rfl, rfl⟩
  simp only [State.joinsOf, List.mem_filterMap, hone]
  exact ⟨fun ⟨m, hm, hmn, h⟩ => ⟨hmn ▸ hm, h⟩, fun ⟨hn, h⟩ => ⟨n, hn, rfl, h⟩⟩

/-- Joining a hasp whose phase has not begun, and one whose phase has (R127). -/
theorem Hasp.join_begins {h : Hasp} (m : Nat) (hb : h.expArr = 0 ∧ h.arrived = 0) : h.join m = { h with expArr := m } := by
  simp [Hasp.join, hb.1, hb.2]

theorem Hasp.join_begun {h : Hasp} (m : Nat) (hb : ¬ (h.expArr = 0 ∧ h.arrived = 0)) : h.join m = { h with nextd := h.nextd + m } :=
  if_neg (by simpa using hb)

end Joining

/-! ### Leaving -/

section Leaving

variable {s : State} {b n : Nat} {x : Band}

/-- A band whose join is pending leaves the change to come (R129). -/
theorem State.leaveHaspBand_pending (hj : ∃ p, (n, p) ∈ x.joins) :
    let c := coreOfBand b
    let h := s.hasp (haspKey c n)
    s.leaveHaspBand b x n = (s.setHasp (haspKey c n) { h with
      heldArr := h.heldArr.filter (fun a => a.thread.all fun j => bandOfThread j != b), nextd := h.nextd - x.mb }).tryComplete c n := by
  have hany : x.joins.any (·.1 == n) = true := by
    obtain ⟨p, hp⟩ := hj
    exact List.any_eq_true.2 ⟨_, hp, beq_self_eq_true n⟩
  exact if_pos hany

/-- One that is counted takes its arrivals out of the phase, and out of those to come (R129). -/
theorem State.leaveHaspBand_counted (hj : ∀ p, (n, p) ∉ x.joins) :
    let c := coreOfBand b
    let h := s.hasp (haspKey c n)
    let k := (h.arr.filter fun j => bandOfThread j == b).length
    s.leaveHaspBand b x n = (s.setHasp (haspKey c n) { h with
      expArr := ((h.expArr : Int) - ((x.mb : Int) - k)).toNat, nextd := h.nextd - k
      arr := h.arr.filter (fun j => bandOfThread j != b) }).tryComplete c n := by
  have hany : ¬ x.joins.any (·.1 == n) = true := by
    rw [List.any_eq_true]
    rintro ⟨⟨m, p⟩, hp, hm⟩
    exact hj p (beq_iff_eq.1 hm ▸ hp)
  exact if_neg hany

/-- A band has left its block, in a task of its own (R129, R295). -/
def State.leftBlock (s : State) (b : Nat) (x : Band) : State :=
  let id := s.nextId
  let t : Task := ⟨.detached x.task, x.inst, x.node, dieOfCore (coreOfBand b), [], [], [x.task], [], none, false, false, false, false, [], [], []⟩
  let s := { s with nextId := id + 1, tasks := mput s.tasks id t }
  let s := s.modBand b fun x => { x with block := none, pos := 0, mb := 0, grow := none, joins := [], task := id }
  let s := s.modCore (coreOfBand b) fun c => { c with growQ := c.growQ.filter (· != b) }
  { s with threads := mmap s.threads fun k t => if bandOfThread k == b then { t with counted := false } else t }

theorem State.detachBand_eq (s : State) (b : Nat) (x : Band) (y : Block) :
    let v := y.membNums.foldl (fun s n => s.leaveHaspBand b x n) s
    s.detachBand b x y =
      if ((v.leftBlock b x).task? x.task).any (·.refire.isSome) then (v.leftBlock b x).stopOffspring v.nextId else v.leftBlock b x := rfl

theorem State.leftBlock_task_new (s : State) (b : Nat) (x : Band) : ∃ t, (s.leftBlock b x).task? s.nextId = some t ∧
    t.kind = .detached x.task ∧ t.parents = [x.task] ∧ t.stopped = false := ⟨_, mget_mput_same .., rfl, rfl, rfl⟩

theorem State.leftBlock_task_other (s : State) (b : Nat) (x : Band) {j : Nat} (hj : j ≠ s.nextId) : (s.leftBlock b x).task? j = s.task? j :=
  mget_mput_other _ _ hj

theorem State.leftBlock_band {z : Band} (x : Band) (hz : s.band? b = some z) : (s.leftBlock b x).band? b =
    some { z with block := none, pos := 0, mb := 0, grow := none, joins := [], task := s.nextId } :=
  (mget_mmod_same ..).trans (congrArg (Option.map _) hz)

theorem State.leftBlock_thread {j : Nat} {t : Thread} (b : Nat) (x : Band) (ht : s.thread? j = some t) : (s.leftBlock b x).thread? j =
    some { t with counted := if bandOfThread j = b then false else t.counted } := by
  have hthreads : (s.leftBlock b x).threads = mmap s.threads fun k t => if bandOfThread k == b then { t with counted := false } else t := rfl
  rw [State.thread?, hthreads, mget_mmap, show mget s.threads j = some t from ht, Option.map_some]
  by_cases hj : bandOfThread j = b
  · simp only [hj, beq_self_eq_true, if_true]
  · simp only [beq_eq_false_iff_ne.2 hj, Bool.false_eq_true, if_false, hj]

/-- Where no re-fire of the block's task is pending, the band goes on in its own (R295). -/
theorem State.detachBand_goes_on {y : Block} :
    let v := y.membNums.foldl (fun s n => s.leaveHaspBand b x n) s
    (v.task? x.task).any (·.refire.isSome) = false → x.task ≠ v.nextId → s.detachBand b x y = v.leftBlock b x := by
  intro v hno hne
  rw [State.detachBand_eq, State.leftBlock_task_other _ _ _ hne, if_neg (Bool.eq_false_iff.1 hno)]

/-- Where one is, the band stops (R299). -/
theorem State.detachBand_stops {y : Block} :
    let v := y.membNums.foldl (fun s n => s.leaveHaspBand b x n) s
    (v.task? x.task).any (·.refire.isSome) = true → x.task ≠ v.nextId → s.detachBand b x y = (v.leftBlock b x).stopOffspring v.nextId := by
  intro v hyes hne
  rw [State.detachBand_eq, State.leftBlock_task_other _ _ _ hne, if_pos hyes]

end Leaving

/-! ### Tasks that stay -/

section Stays

variable (s : State) (j : Nat)

/-- Is there a task of a number? -/
def State.hasTask : Bool := (s.task? j).isSome

theorem State.hasTask_of_tasks {s u : State} (h : u.tasks = s.tasks) (j : Nat) : u.hasTask j = s.hasTask j :=
  congrArg (fun m => (mget m j).isSome) h

theorem State.hasTask_modTask (k : Nat) (f : Task → Task) : (s.modTask k f).hasTask j = s.hasTask j := by
  by_cases hj : j = k
  · subst hj
    rw [State.hasTask, State.task?, State.modTask_tasks, mget_mmod_same, Option.isSome_map]
    rfl
  · rw [State.hasTask, State.task?, State.modTask_tasks, mget_mmod_other _ _ hj]
    rfl

theorem State.completeOnce_tasks (c n : Nat) : (s.completeOnce c n).tasks = s.tasks := by
  have hstrand (h : Hasp) (s : State) (q : Nat) : (s.wakeStrand h c n q).tasks = s.tasks := by
    unfold State.wakeStrand
    dsimp only
    split
    · split <;> rfl
    · rfl
  have hwake (s : State) : (s.wakeDone c n).tasks = s.tasks := by
    rw [State.wakeDone_eq]
    exact State.foldl_keeps State.tasks (f := State.wakeFrom _) (fun s k => by rw [State.wakeFrom_frame]) _ s
  rw [State.completeOnce, State.wakeStrands_eq, hstrand, hstrand, hwake]
  rfl

theorem State.tryComplete_tasks (c n : Nat) : (s.tryComplete c n).tasks = s.tasks := by
  unfold State.tryComplete
  induction (s.hasp (haspKey c n)).heldArr.length + 1 generalizing s with
  | zero => rfl
  | succ k ih =>
    rw [State.completeLoop_succ]
    split
    · split
      · rw [ih, State.completeOnce_tasks]
      · exact State.completeOnce_tasks s c n
    · rfl

theorem State.leaveHasp_tasks (k n : Nat) : (s.leaveHasp k n).tasks = s.tasks := by
  unfold State.leaveHasp
  dsimp only
  split
  · rfl
  · split <;> exact State.tryComplete_tasks ..

theorem State.leaveMembership_tasks (k : Nat) : (s.leaveMembership k).tasks = s.tasks := by
  unfold State.leaveMembership
  split
  · split
    · exact State.foldl_keeps State.tasks (f := fun s n => s.leaveHasp k n) (fun s n => s.leaveHasp_tasks k n) _ s
    · rfl
  · rfl

theorem State.relaunch_tasks (k time : Nat) : (s.relaunch k time).tasks = s.tasks := by
  unfold State.relaunch
  split
  · rfl
  · split <;> rfl

theorem State.completeTask_hasTask (k : Nat) : (s.completeTask k).hasTask j = s.hasTask j := by
  unfold State.completeTask
  split
  · rfl
  · dsimp only
    split
    · split
      · exact State.hasTask_modTask ..
      · exact (State.hasTask_of_tasks (State.relaunch_tasks ..) j).trans (State.hasTask_modTask ..)
    · exact State.hasTask_modTask ..

theorem State.freeBand_hasTask (b : Nat) : (s.freeBand b).hasTask j = s.hasTask j := by
  unfold State.freeBand
  split
  · rfl
  · dsimp only
    split
    · split
      · split
        · split
          · exact State.completeTask_hasTask ..
          · exact State.hasTask_modTask ..
        · rfl
      · exact State.completeTask_hasTask ..
    · rfl

theorem State.reapThread_hasTask (k : Nat) : (s.reapThread k).hasTask j = s.hasTask j := by
  unfold State.reapThread
  split
  · rfl
  · dsimp only
    split
    · split
      · rfl
      · exact State.freeBand_hasTask ..
    · rfl

theorem State.endThread_hasTask (k : Nat) : (s.endThread k).hasTask j = s.hasTask j := by
  unfold State.endThread
  split
  next => rfl
  next t ht =>
    split
    · rfl
    · refine (State.reapThread_hasTask ..).trans (State.hasTask_of_tasks ?_ j)
      refine (State.leaveMembership_tasks ..).trans ?_
      rw [State.stepDone_frame]

theorem State.stopBand_hasTask (b : Nat) : (s.stopBand b).hasTask j = s.hasTask j := by
  refine (State.foldl_keeps (fun s => s.hasTask j) (fun s k => s.endThread_hasTask j k) _ _).trans (State.hasTask_of_tasks ?_ j)
  rw [State.stepDone_frame]
  rfl

theorem State.stopBandsOf_hasTask (k : Nat) : (s.stopBandsOf k).hasTask j = s.hasTask j :=
  State.foldl_keeps (fun s => s.hasTask j) (fun s b => s.stopBand_hasTask j b) _ _

/-- A task that stops with what re-fired it stays, stopped and mute (R299). -/
theorem State.stopOffspring_task (h : s.hasTask j = true) :
    ∃ t, (s.stopOffspring j).task? j = some t ∧ t.stopped = true ∧ t.mute = true := by
  have hheld : ((s.stopBandsOf j).discardHeld j).hasTask j = true := by
    rw [State.discardHeld, State.hasTask_modTask, ← h, ← State.stopBandsOf_hasTask s j j]
    rfl
  obtain ⟨t, ht⟩ := Option.isSome_iff_exists.1 hheld
  exact ⟨_, (mget_mmod_same ..).trans (congrArg (Option.map _) ht), rfl, rfl⟩

end Stays

end Sys2Proof.Machine
end

section
/-! What ATTACH, DETACH, FORK, SRD and SWR do (R127 to R133, R137, R171). -/

namespace Sys2Proof.Machine

open Sys2Proof.Says

/-- Settles O24: what each instruction judges, in order; what joining a block and leaving one change; and that the task of a band that leaves stays,
also where it stops at once. -/
theorem attachDetachForkResults : Obligations.AttachDetachForkResults := by
  refine ⟨fun d a b => ⟨attach_bandDoes d a b, detach_bandDoes d⟩, ?_, ?_, fun seq d imm n a =>
    ⟨fork_bandDoes seq d imm, fun s q => State.strandFree_forked, srd_does seq d n, swr_does seq n a⟩⟩
  · intro s b blk x y hx _ hr c m u H begins
    have hnamed {n : Nat} (hn : n ∈ y.membNums) : u.hasp (haspKey c n) = (H n).join m :=
      (State.attachBand_hasp s b blk x y _).trans (State.eachHasp_named _ hr y.membNums_nodup hn)
    refine ⟨fun n hn => ⟨fun hb => (hnamed hn).trans (Hasp.join_begins m hb), fun hb => (hnamed hn).trans (Hasp.join_begun m hb)⟩,
      fun j hj => (State.attachBand_hasp s b blk x y j).trans (State.eachHasp_other _ hj), ?_⟩
    obtain ⟨z, hz, hblk, hmb, htask, hrec, hrecs, hs, hbudget, hjoins⟩ := State.attachBand_band blk y hx
    exact ⟨z, hz, hblk, hmb, htask, hrec, hrecs, hs, hbudget, fun n p => hjoins ▸ State.mem_joinsOf s c n p y⟩
  · intro s b n x y c h k
    refine ⟨State.leaveHaspBand_pending, State.leaveHaspBand_counted, fun hno _ hne => ?_, fun hyes hne _ => ?_⟩
    · rw [State.detachBand_goes_on hno hne]
      exact ⟨rfl, fun z => State.leftBlock_band x, State.leftBlock_task_new _ b x, fun j t => State.leftBlock_thread b x⟩
    · rw [State.detachBand_stops hyes hne]
      obtain ⟨t, ht, -⟩ := State.leftBlock_task_new (y.membNums.foldl (fun s n => s.leaveHaspBand b x n) s) b x
      exact State.stopOffspring_task _ _ (Option.isSome_iff_exists.2 ⟨t, ht⟩)

end Sys2Proof.Machine
end

section
/-! The read of a layout record that may not be sent yet (R164, R222, R357): what the copy instructions' statement leaves out. -/

namespace Sys2Proof.Machine

open Sys2Proof.Says

/-- A thread that stands at a copy instruction, and its block, which holds the copy engine. -/
def farThread : Thread := Thread.start 0 4 0
def farBlock : Block :=
  ⟨0, 0, 0, 0, 0, 0, 0, false, 0, 0, false, true, 1, 0, 0, none, .held, none, 0, 0, 0, false, 0, 0, 0, false, false, false, false⟩

/-- The thread executes. Its window 0 is the slices of package 1, to which plane 0 alone leads, and an acquiring load of it is still to be
performed. -/
def farCopy : State :=
  let band := Band.start [] 1 160 0 0 0 0 0 0 0
  let s : State := { State.reset with
    cur := .thread 0
    present := [1]
    planes := 1
    threads := [(0, farThread)]
    bands := [(0, { band with block := some 1, s := band.s.set 28 0x3FC0001 })]
    blocks := [(1, farBlock)]
    nextId := 6 }
  { s with ops := [(5, { s.blankOp 0 farThread (.ld .u32) with ord := .acq .blk, n := 4 })] }

/-- The first byte of the first slice of package 1, as an address and as a place. -/
def farVa : Nat := 0x00FF000040000000
def farAcc : Acc := ⟨.remote 1 farVa false, false, 0, none⟩

/-- What the statement says that the copy leaves: the read of its record as operation 6, which has noted no plane. -/
def farAsked : State :=
  let s := farCopy.arrive 0
  let o := s.layoutOp (.band 0 0) (.layout .cpz none .a (.k 0) 0 (.band 0 0)) farBlock 0 4 farVa farAcc [(0, 0)] []
  { s with nextId := 7, ops := mput s.ops 6 o }.sendReady

/-- The plane that operation 6 has noted after an instruction. -/
def planeOfSix : Out → Option Nat
  | .next u => (mget u.ops 6).bind (·.plane)
  | _ => none

theorem farCopy_meets : MeetsAs farCopy 0 farThread [0] := ⟨by decide, by decide, by decide⟩

theorem farCopy_partyVa : (met farCopy 0 farThread).partyVa (.band 0) 0 = .ok farVa := by decide

/-- The acquiring load keeps the record's read from being sent, and the read stands with the plane that it noted as it entered the table (R358). -/
theorem exec_farCopy_plane : planeOfSix (exec (.cpz none .a (.k 0) (.k 0) 0) farCopy) = farCopy.planeFor 1 farVa := rfl

/-- The one live plane carries what is sent to package 1, whatever the hash of R358. -/
theorem farCopy_planeFor : farCopy.planeFor 1 farVa ≠ none := by
  have hlive : farCopy.planesAt farCopy.clk = [0] := by decide
  simp [State.planeFor, State.planeAt, hlive, Nat.mod_one]

/-- Refutes O31: a record of another package is read by an operation that notes its message's plane as it enters the table, also while an earlier
acquire keeps it from being sent; the statement's operation notes none. -/
theorem not_copyInstructionsAndTheirLayout : ¬ Obligations.CopyInstructionsAndTheirLayout := by
  rintro ⟨hcopies, -⟩
  obtain ⟨-, -, -, -, hcpz, -⟩ := hcopies none .a (.k 0) (.k 0) 0 0
  have hsays : exec (.cpz none .a (.k 0) (.k 0) 0) farCopy = .next (State.bandFinish [0] (.stay (farAsked.piped 0 false true))) := by
    refine hcpz farCopy 0 farThread [0] (.stay farAsked) ⟨rfl, rfl⟩ farCopy_meets ?_
    -- the engine has room for the copy
    refine .inr ⟨1, farBlock, rfl, .inr (.inr ⟨rfl, by decide, rfl, .stay farAsked, ?_, rfl⟩)⟩
    -- no record's read of the band is open, and the address is formed
    refine .inr ⟨rfl, 0, farCopy.arrive 0, rfl, .inr (.inr ⟨farVa, rfl, farCopy_partyVa, ?_⟩)⟩
    -- its place is in package 1, and it passes the checks there
    exact .inr (.inr ⟨farCopy.arrive 0, farAcc, rfl, .inr (.inr ⟨rfl, rfl, rfl⟩)⟩)
  exact farCopy_planeFor (exec_farCopy_plane.symm.trans (congrArg planeOfSix hsays))

end Sys2Proof.Machine
end

section
/-! The bytes of a copy as they land (R148, R149, R166 to R168, R217). -/

namespace Sys2Proof.Machine

open Sys2Proof.Says

/-! ### Which bytes land -/

/-- The bytes lo to lo + n - 1 of a copy that have not landed may do so now; the last ones of a release wait for what it orders (R148). -/
def State.copyMay (s : State) (id lo n : Nat) (c : Cmd) (r : LRec) : Prop :=
  s.cmdRuns id c = true ∧ lo + n ≤ r.total ∧ c.rest lo n ≠ [] ∧ (c.rel = true → c.lastBytes r lo n = true → s.relLeft id c = false)

/-- The rows of a CPG whose index entries a part of it needs, beside its own one on each side (R166, R217). -/
def copyRows (kind : CopyKind) (r : LRec) (lo n : Nat) : List Nat :=
  if kind = .cpg then (List.range r.rows).filter fun i => decide (lo / r.rowBytes ≤ i + 1) && decide (i ≤ (lo + n) / r.rowBytes) else []

/-- The latch of a copy with those entries, and where in the tensor each of its bytes lies. -/
def State.copyLatch (s : State) (lo n : Nat) (c : Cmd) (kind : CopyKind) (r : LRec) (ix : Nat) : Table Byte :=
  s.readIndex c r ix (copyRows kind r lo n)

def State.copyAt (s : State) (lo n : Nat) (c : Cmd) (kind : CopyKind) (r : LRec) (coords : List Int) (ix : Nat) : Nat → Option Nat :=
  r.tensorAt coords (copyRow kind r coords (s.copyLatch lo n c kind r ix))

/-- Does a part split no word that the copy writes (R217)? -/
def State.copyWhole (s : State) (lo n : Nat) (c : Cmd) (kind : CopyKind) (r : LRec) (coords : List Int) (ix : Nat) : Prop :=
  wordWhole (if kind = .cps then s.copyAt lo n c kind r coords ix else fun j => some (r.sliceAt j)) r.total lo n = true

/-- Has no index entry that a part needs an error that no code corrects (R363)? -/
def State.copyIndexOk (s : State) (lo n : Nat) (c : Cmd) (kind : CopyKind) (r : LRec) (ix : Nat) : Prop :=
  ∀ i ∈ copyRows kind r lo n, ∀ g, s.indexHome c ix (4 * (i % r.ext 1)) = some g → s.homeBad g = false

/-- The rows of a part that leave a slice or reach host memory fail so (R149; log 26). -/
def State.copyBad (s : State) (lo n : Nat) (c : Cmd) (kind : CopyKind) (r : LRec) (coords : List Int) (ix : Nat) : Option Nat :=
  s.gatherBad c r coords (copyRow kind r coords (s.copyLatch lo n c kind r ix))
    ((copyRows kind r lo n).filter fun i => decide (lo < (i + 1) * r.rowBytes) && decide (i * r.rowBytes < lo + n))

section Landing

variable {s : State} {id lo n dst ix : Nat} {c : Cmd} {kind : CopyKind} {ws : List Word} {coords : List Int} {cnt : Option Nat}

/-- The two checks of the event. -/
theorem State.copyMay_iff (s : State) (id lo n : Nat) (c : Cmd) (r : LRec) :
    s.copyMay id lo n c r ↔ (!s.cmdRuns id c || decide (r.total < lo + n) || (c.rest lo n).isEmpty) = false ∧
      (c.rel && c.lastBytes r lo n && s.relLeft id c) = false := by
  simp only [State.copyMay, Bool.or_eq_false_iff, Bool.not_eq_false', decide_eq_false_iff_not, Nat.not_lt, List.isEmpty_eq_false_iff, and_assoc,
    Bool.and_eq_false_imp, Bool.and_eq_true, and_imp]

theorem State.copyLanded_not (hc : mget s.cmds id = some c) (hk : c.kind = .copy kind ws dst coords ix cnt)
    (hno : ¬ s.copyMay id lo n c (lrecOf ws)) (f : Fate) : s.copyLanded id lo n f = s := by
  rw [State.copyMay_iff, not_and_or, Bool.not_eq_false, Bool.not_eq_false] at hno
  simp only [State.copyLanded, hc, hk]
  rcases hno with hno | hno
  · rw [if_pos hno]
  · rw [if_pos hno, ite_self]

theorem State.copyLanded_may (hc : mget s.cmds id = some c) (hk : c.kind = .copy kind ws dst coords ix cnt)
    (hmay : s.copyMay id lo n c (lrecOf ws)) (f : Fate) :
    s.copyLanded id lo n f = State.cmdApply id c State.settle ((if c.acq then s.dropRoc c.core else s).copyPart id lo n c f) := by
  rw [State.copyMay_iff] at hmay
  obtain ⟨hfirst, hlast⟩ := hmay
  simp only [State.copyLanded, hc, hk, hfirst, hlast, Bool.false_eq_true, if_false]

/-! ### What a part comes to -/

theorem State.copyPart_refused {l : Loc} (hk : c.kind = .copy kind ws dst coords ix cnt) (hbox : s.boxLoc c dst = some l)
    (href : s.refusedAt c.core c.part l = true) (f : Fate) :
    s.copyPart id lo n c f = .done ((s.failCmd id .refused).modCmd id fun c => { c with got := [(0, (lrecOf ws).total)] }) := by
  simp only [State.copyPart, hk, hbox, Option.any_some, href, if_true]

section Own

variable {box : Loc} (hk : c.kind = .copy kind ws dst coords ix cnt) (hbox : s.boxLoc c dst = some box) (hown : s.refusedAt c.core c.part box = false)

include hbox hown in
/-- A part of a copy whose box is not refused, which splits no word and whose index entries are sound, passes the three checks. -/
theorem State.copyPart_passes (hwhole : s.copyWhole lo n c kind (lrecOf ws) coords ix) (hok : s.copyIndexOk lo n c kind (lrecOf ws) ix)
    (refused splits struck out : CmdOut) :
    (if (s.boxLoc c dst).any fun l => s.refusedAt c.core c.part l then refused
      else if !wordWhole (if kind == .cps then s.copyAt lo n c kind (lrecOf ws) coords ix else fun j => some ((lrecOf ws).sliceAt j))
        (lrecOf ws).total lo n then splits
      else if kind == .cpg && (copyRows kind (lrecOf ws) lo n).any fun i => (s.indexHome c ix (4 * (i % (lrecOf ws).ext 1))).any s.homeBad then struck
      else out) = out := by
  have hsound : ((copyRows kind (lrecOf ws) lo n).any fun i => (s.indexHome c ix (4 * (i % (lrecOf ws).ext 1))).any s.homeBad) = false := by
    simp only [List.any_eq_false, Option.any_eq_true, not_exists, not_and, Bool.not_eq_true]
    exact hok
  simp only [State.copyWhole] at hwhole
  simp only [hbox, Option.any_some, hown, beq_iff_eq, hwhole, hsound, Bool.not_true, Bool.and_false, Bool.false_eq_true, if_false]

include hk hbox hown

theorem State.copyPart_splits (hsplit : ¬ s.copyWhole lo n c kind (lrecOf ws) coords ix) (f : Fate) : s.copyPart id lo n c f = .wait s := by
  simp only [State.copyWhole, State.copyAt, State.copyLatch, copyRows, Bool.not_eq_true] at hsplit
  simp only [State.copyPart, hk, hbox, Option.any_some, hown, beq_iff_eq, hsplit, Bool.false_eq_true, if_false, if_true, Bool.not_false]

theorem State.copyPart_cpz (hwhole : s.copyWhole lo n c kind (lrecOf ws) coords ix) (hz : kind = .cpz) (f : Fate) :
    s.copyPart id lo n c f =
      .done (s.landBox id c dst cnt (c.rest lo n) ((c.rest lo n).map fun j => ((lrecOf ws).sliceAt j, 0)) f) := by
  subst hz
  rw [State.copyPart, hk]
  exact State.copyPart_passes hbox hown hwhole (fun _ h => absurd h List.not_mem_nil) _ _ _ _

theorem State.copyPart_cps (hwhole : s.copyWhole lo n c kind (lrecOf ws) coords ix) (hs : kind = .cps) {d o : Nat} (hb : box = .slice d o) (f : Fate) :
    s.copyPart id lo n c f =
      s.bytesOut id c (lrecOf ws) (s.copyAt lo n c kind (lrecOf ws) coords ix) (.ok (d * 2097152 + o)) cnt lo n f := by
  subst hs
  rw [State.copyPart, hk]
  refine (State.copyPart_passes hbox hown hwhole (fun _ h => absurd h List.not_mem_nil) _ _ _ _).trans ?_
  simp only [hbox, hb]
  rfl

theorem State.copyPart_stops (hwhole : s.copyWhole lo n c kind (lrecOf ws) coords ix) (hok : s.copyIndexOk lo n c kind (lrecOf ws) ix)
    (hg : kind = .cpg) {e : Nat} (hbad : s.copyBad lo n c kind (lrecOf ws) coords ix = some e) (f : Fate) :
    s.copyPart id lo n c f = .stop s (cAccess e) := by
  subst hg
  rw [State.copyPart, hk]
  refine (State.copyPart_passes hbox hown hwhole hok _ _ _ _).trans ?_
  rw [State.copyBad, State.copyLatch, copyRows, if_pos rfl] at hbad
  simp only [beq_self_eq_true, if_true, hbad]

theorem State.copyPart_fetches (hwhole : s.copyWhole lo n c kind (lrecOf ws) coords ix) (hok : s.copyIndexOk lo n c kind (lrecOf ws) ix)
    (hg : kind = .cpt ∨ kind = .cpg) (hbad : s.copyBad lo n c kind (lrecOf ws) coords ix = none) (f : Fate) :
    s.copyPart id lo n c f = (s.latch id (s.copyLatch lo n c kind (lrecOf ws) ix)).bytesIn id
      { c with latched := s.copyLatch lo n c kind (lrecOf ws) ix } (lrecOf ws) (s.copyAt lo n c kind (lrecOf ws) coords ix) dst cnt lo n f := by
  rcases hg with rfl | rfl
  · rw [State.copyPart, hk]
    exact State.copyPart_passes hbox hown hwhole hok _ _ _ _
  · rw [State.copyPart, hk]
    refine (State.copyPart_passes hbox hown hwhole hok _ _ _ _).trans ?_
    rw [State.copyBad, State.copyLatch, copyRows, if_pos rfl] at hbad
    simp only [beq_self_eq_true, if_true, hbad]
    rfl

end Own
/-! ### Bytes read and written -/

/-- The tensor bytes that a part reads have come: they land, and what lies outside the tensor is zero (R166). -/
theorem State.bytesIn_lands {r : LRec} {at? : Nat → Option Nat} {l hi : Nat} {u : State} {m : Table Byte} (hl : l = wordLow at? 3 lo)
    (hh : hi = if lo + n < r.total then wordHigh at? 3 (lo + n) else r.total)
    (hread : Fetches s id c (((List.range (hi - l)).map (l + ·)).filterMap fun j =>
      if (decide (lo ≤ j) && decide (j < lo + n) && c.has j) = true then none else (at? j).map fun a => (j, a)) u m) (f : Fate) :
    s.bytesIn id c r at? dst cnt lo n f =
      .done ((u.latch id (m.filter fun x => decide (2 ^ 60 ≤ x.1) || decide (x.1 < lo) || decide (lo + n ≤ x.1))).landBox id c dst cnt
        (c.rest lo n) ((c.rest lo n).map fun j => (r.sliceAt j, if (at? j).isSome then sget 0 m j else 0)) f) := by
  subst hl hh
  rw [State.bytesIn]
  exact hread _

/-- What a command comes to by a write of its bytes. -/
def WAcc.outcome : WAcc → CmdOut
  | .go s _ => .done s
  | .halt o => o

/-- The bytes of a box in a slice go to the tensor where they lie in it; those that are skipped count too (R166, R167). -/
theorem State.bytesOut_writes {r : LRec} {at? : Nat → Option Nat} {l hi g : Nat} {u : State} {lost : Bool} {f : Fate}
    (hl : l = wordLow (fun j => some (r.sliceAt j)) 3 lo)
    (hh : hi = if lo + n < r.total then wordHigh (fun j => some (r.sliceAt j)) 3 (lo + n) else r.total) :
    let need := ((List.range (hi - l)).map (l + ·)).filter fun j => !c.has j && (mget c.latched j).isNone
    let m := need.foldl (fun m j => mput m j (s.byte (g + r.sliceAt j))) c.latched
    let val (j : Nat) : Byte := (mget m j).getD (s.byte (g + r.sliceAt j))
    let count (s : State) (js : List Nat) (lost : Bool) : State := if lost then s else s.countLanded id c cnt c.core js.length
    let skip := (c.rest lo n).filter fun j => (at? j).isNone
    let unit (j : Nat) : Option (Nat × Nat × Byte) := (at? j).map fun a => (j, a, val j)
    (∀ j ∈ need, s.homeBad (g + r.sliceAt j) = false) →
    (count ((s.latch id m).gotUnits id skip) skip false).cmdWrite id c ((c.rest lo n).filterMap unit)
      (fun ln => ((List.range r.total).filter fun j => (at? j).any fun a => a / 64 == ln).filterMap unit) false f count = .go u lost →
    s.bytesOut id c r at? (.ok g) cnt lo n f = .done u := by
  subst hl hh
  intro need m val count skip unit hsound hwrite
  have hgood : (need.any fun j => s.homeBad (g + r.sliceAt j)) = false := by
    simpa only [List.any_eq_false, Bool.not_eq_true] using hsound
  refine (if_neg (by rw [Bool.not_eq_true]; exact hgood)).trans ?_
  exact congrArg WAcc.outcome hwrite

theorem State.landBox_slice {d o : Nat} (h : s.boxLoc c dst = some (.slice d o)) (js : List Nat) (xs : List (Nat × Byte)) :
    s.landBox id c dst cnt js xs .performed =
      ((xs.foldl (fun u x => u.writeHome (d * 2097152 + o + x.1) [x.2]) s).gotUnits id js).countLanded id c cnt d js.length := by
  rw [State.landBox, h]
  rfl

/-- A box of another package gets its bytes as messages, and counts them there; they may be refused, or lost with a plane (R149, R357, R358). -/
theorem State.landBox_remote {pk va : Nat} {g : Bool} (h : s.boxLoc c dst = some (.remote pk va g)) (js : List Nat) (xs : List (Nat × Byte)) :
    s.landBox id c dst cnt js xs .performed = (s.sendBytes c pk va cnt xs).gotUnits id js ∧
    s.landBox id c dst cnt js xs .refused = (s.failCmd id .refused).gotUnits id js ∧
    s.landBox id c dst cnt js xs .lost =
      if (xs.all fun x => s.lostSince c.since pk (va + x.1)) = true then (s.failCmd id .lost).gotUnits id js else s := by
  refine ⟨?_, ?_, ?_⟩ <;> rw [State.landBox, h]

/-! ### Rows that fail, and words that are split -/

theorem State.gatherBad_eq_none_iff (s : State) (c : Cmd) (r : LRec) (coords : List Int) (gs : Nat → List (Nat × Int)) (rows : List Nat) :
    s.gatherBad c r coords gs rows = none ↔ ∀ i ∈ rows, (r.rowSpan coords (gs i)).1 < (r.rowSpan coords (gs i)).2 →
      s.rangeBadIn (s.blockSpace c.block) c.core (r.tensorVa coords (gs i) (r.rowSpan coords (gs i)).1)
        (((r.rowSpan coords (gs i)).2 - (r.rowSpan coords (gs i)).1) * r.size) false = none := by
  simp only [State.gatherBad, List.findSome?_eq_none_iff, ite_eq_right_iff]

/-- Do bytes j - 1 and j of a copy lie in one word (R217)? -/
theorem joined_iff (at? : Nat → Option Nat) (j : Nat) :
    joined at? j = true ↔ j ≠ 0 ∧ ∃ a b, at? (j - 1) = some a ∧ at? j = some b ∧ a / 4 = b / 4 := by
  unfold joined
  rw [Bool.and_eq_true, bne_iff_ne]
  refine and_congr_right fun _ => ?_
  cases at? (j - 1) <;> cases at? j <;> simp

theorem wordWhole_iff (at? : Nat → Option Nat) (total lo n : Nat) :
    let splits (j : Nat) : Prop := j ≠ 0 ∧ ∃ a b, at? (j - 1) = some a ∧ at? j = some b ∧ a / 4 = b / 4
    wordWhole at? total lo n = true ↔ ¬ splits lo ∧ (lo + n = total ∨ ¬ splits (lo + n)) := by
  intro splits
  simp only [splits, ← joined_iff, wordWhole, Bool.and_eq_true, Bool.or_eq_true, Bool.not_eq_true', beq_iff_eq, Bool.not_eq_true]

end Landing

/-- Settles O32: what may not land changes nothing; of what may, a copy's part is judged and then performed, kind by kind. -/
theorem copyRowsLand : Obligations.CopyRowsLand := by
  refine ⟨?_, fun s id c dst cnt js xs => ⟨fun d o h => State.landBox_slice h js xs, fun pk va g h => State.landBox_remote h js xs⟩,
    State.gatherBad_eq_none_iff, wordWhole_iff⟩
  intro s id lo n c kind ws dst coords ix cnt hc hk r js may s1 rows m at? slot land hits
  have hland : may → ∀ f, land f = .next (State.cmdApply id c State.settle (s1.copyPart id lo n c f)).pumpSaves := fun hmay f =>
    congrArg (fun u : State => Host.Outcome.next u.pumpSaves) (State.copyLanded_may hc hk hmay f)
  refine ⟨fun f hno => ?_, fun l f hmay hbox href => ?_, fun box hmay hbox hown => ?_⟩
  · exact congrArg (fun u : State => Host.Outcome.next u.pumpSaves) (State.copyLanded_not hc hk hno f)
  · rw [hland hmay, State.copyPart_refused hk hbox href]
    rfl
  intro whole indexOk
  refine ⟨fun f hsplit => ?_, fun hwhole hz f => ?_, fun hwhole hok hg e f hbad => ?_, fun hwhole hok hg hbad l hi u m' ⟨hlo, hhi⟩ hread f => ?_,
    fun hwhole hs d o hb l hi u lost f ⟨hlo, hhi⟩ hsound hwrite => ?_⟩
  · rw [hland hmay, State.copyPart_splits hk hbox hown hsplit]
    rfl
  · rw [hland hmay, State.copyPart_cpz hk hbox hown hwhole hz]
    rfl
  · rw [hland hmay, State.copyPart_stops hk hbox hown hwhole hok hg hbad]
    rfl
  · rw [hland hmay, State.copyPart_fetches hk hbox hown hwhole hok hg hbad]
    exact congrArg (fun w : CmdOut => Host.Outcome.next (State.cmdApply id c State.settle w).pumpSaves) (State.bytesIn_lands hlo hhi hread f)
  · rw [hland hmay, State.copyPart_cps hk hbox hown hwhole hs hb]
    exact congrArg (fun w : CmdOut => Host.Outcome.next (State.cmdApply id c State.settle w).pumpSaves)
      (State.bytesOut_writes hlo hhi hsound hwrite)

end Sys2Proof.Machine
end

section
/-! SURR, RCLQ and the three YIELDs (R169 to R174, R194, R320). -/

namespace Sys2Proof.Machine

open Sys2Proof.Says

/-! ### SURR and RCLQ -/

/-- SURR's bound, by what its operand is (R169). -/
theorem surrBound_illegal {n : Nat} (h : n ≠ 0 ∧ (n < 64 ∨ 65535 < n)) : surrBound n = none := by
  have hrange : ¬ (64 ≤ n ∧ n ≤ 65535) := by omega
  simp [surrBound, h.1, hrange]

theorem surrBound_legal {w : Word} (h : ¬ (w.toNat ≠ 0 ∧ (w.toNat < 64 ∨ 65535 < w.toNat))) :
    surrBound w.toNat = some (if w = 0 then 2048 else w.toNat) := by
  by_cases h0 : w = 0
  · simp [surrBound, h0]
  · have hpos : w.toNat ≠ 0 := fun hz => h0 (BitVec.eq_of_toNat_eq hz)
    have hrange : 64 ≤ w.toNat ∧ w.toNat ≤ 65535 := by omega
    simp only [surrBound, beq_iff_eq, hpos, hrange, decide_true, Bool.and_self, h0, if_true, if_false]

theorem surr_bandDoes (d : UniDst) (imm : Word) (a : UniSrc) : BandDoes (.surr d imm a) fun s b ks r =>
    (s.blockOfParty (.band b) = none ∧ r = .trap s ⟨1, 0, 0⟩) ∨
    ∃ n x w s1, s.blockOfParty (.band b) = some (n, x) ∧ s.uniSrc (.band b) false a = (w, s1) ∧
      let bad := s.inRoutine (.band b) = true ∨ (w.toNat ≠ 0 ∧ (w.toNat < 64 ∨ 65535 < w.toNat))
      ((bad ∧ r = .trap s ⟨1, 0, 0⟩) ∨
        (¬ bad ∧ x.lease = 2 ∧ r = .ok ((s1.modBlock n fun y => { y with
          surr := some ⟨clauseTarget (s.partyPc (.band b) ks) imm, if w = 0 then 2048 else w.toNat⟩ }).setUni (.band b) d 0)) ∨
        (¬ bad ∧ x.lease ≠ 2 ∧ r = .ok (s1.setUni (.band b) d 1))) := by
  refine bandDoes_of_body (fun s => show execSurr d imm a s = _ from rfl) (fun _ _ _ => rfl) ?_
  rintro s b ks r (⟨hfree, rfl⟩ | ⟨n, x, w, s1, hblk, hw, hm⟩)
  · simp only [hfree, cIllegal]
  simp only [hblk, hw]
  rcases hm with ⟨hin | hw, rfl⟩ | ⟨hok, hl, rfl⟩ | ⟨hok, hl, rfl⟩
  · simp only [hin, if_true, cIllegal]
  · simp only [surrBound_illegal hw, cIllegal, ite_self]
  all_goals
    rw [not_or, Bool.not_eq_true] at hok
    simp only [hok.1, surrBound_legal hok.2, hl, beq_iff_eq, Bool.false_eq_true, if_true, if_false]

/-- RCLQ's word is the sum of its fields (R174). -/
theorem rclqWord_eq (x : Block) (queued : Nat) :
    let bit (b : Bool) : Nat := if b then 1 else 0
    rclqWord x queued = BitVec.ofNat 32 (min queued 4 + 8 * bit (x.rstate == .routine) + 16 * min x.used 7 + 128 * min x.rlim 7 +
      1024 * bit (x.lease == 2) + 2048 * bit x.surr.isSome) := by
  simp only [rclqWord, boolNat]
  congr 1
  omega

theorem rclq_does (d : UniDst) : UniformDoes (.rclq d) fun s p _ r =>
    (s.blockOfParty p = none ∧ r = .ok (s.setUni p d 0)) ∨
    ∃ n x, s.blockOfParty p = some (n, x) ∧ r = .ok (s.setUni p d (rclqWord x (s.core x.core).recallQ.length)) := by
  refine uniformDoes_of_body (fun s => show execRclq d s = _ from rfl) ?_
  rintro s p ks r (⟨hfree, rfl⟩ | ⟨n, x, hblk, rfl⟩)
  · simp only [hfree]
  · simp only [hblk]

/-! ### The YIELDs -/

/-- Do the threads ks meet at a YIELD inside a routine: their band runs one, and each has entered it (R172)? -/
def State.yields (s : State) (b : Nat) (ks : List Nat) : Prop :=
  s.inRoutine (.band b) = true ∧ ∀ k ∈ ks, ∃ t, s.thread? k = some t ∧ t.resume ≠ none

/-- The check that the frame of a YIELD makes. -/
theorem State.yields_iff (s : State) (b : Nat) (ks : List Nat) :
    s.yields b ks ↔ (s.inRoutine (.band b) && ks.all fun k => (s.thread? k).any (·.resume.isSome)) = true := by
  simp [State.yields, Option.any_eq_true, Option.isSome_iff_ne_none]

/-- A YIELD's effect as the scalar pipe executes it, though no thread goes on past it (R117, R172). -/
def State.yielded (s u : State) (ks : List Nat) : Res :=
  .stay (u.piped (ks.headD 0) (ks.any fun k => (s.thread? k).any fun t => t.trapMode) false)

/-- What a YIELD does: outside a routine it traps, past the routine's bound its core is saved, and otherwise it has its own effect (R171, R172). -/
theorem yield_bandDoes {i : Instr} {body : State → Nat → Block → List Nat → State} (hi : ∀ s, exec i s = yieldFrame s body) :
    BandDoes i fun s b ks r => (¬ s.yields b ks ∧ r = .trap s ⟨1, 0, 0⟩) ∨
      (s.yields b ks ∧ ∃ n x, s.blockOfParty (.band b) = some (n, x) ∧ x.spent s.clk = true ∧ r = s.yielded (s.beginSave x.core).settle ks) ∨
      (s.yields b ks ∧ ∃ n x, s.blockOfParty (.band b) = some (n, x) ∧ x.spent s.clk = false ∧ r = s.yielded (body s n x ks) ks) := by
  refine bandDoes_of_body hi (fun _ _ _ => rfl) ?_
  rintro s b ks r (⟨hout, rfl⟩ | ⟨hin, n, x, hblk, hspent, rfl⟩ | ⟨hin, n, x, hblk, hspent, rfl⟩)
  · rw [State.yields_iff, Bool.not_eq_true] at hout
    cases hblk : s.blockOfParty (.band b) with
    | none => rfl
    | some p => simp only [hout, Bool.false_eq_true, if_false, cIllegal]
  · rw [State.yields_iff] at hin
    simp only [hblk, hin, hspent, if_true, State.yielded]
  · rw [State.yields_iff] at hin
    simp only [hblk, hin, hspent, Bool.false_eq_true, if_true, if_false, State.yielded]

/-- The routine had reached its bound before this clk (R171). -/
theorem Block.spent_iff (x : Block) (clk : Nat) :
    x.spent clk = true ↔
      (x.surr.map (·.bound)).getD 2048 ≤ (if x.countAt = clk + 1 then x.count - 1 else x.count) ∧ x.summ = false := by
  simp [Block.spent, Block.bound]

/-- A band's instruction that does what `means` says does so too of anything stronger. -/
theorem bandDoes_mono {i : Instr} {means strong : State → Nat → List Nat → Res → Prop} (h : BandDoes i means)
    (hs : ∀ s b ks r, strong s b ks r → means s b ks r) : BandDoes i strong := by
  obtain ⟨hout, hband, hstrand⟩ := h
  exact ⟨hout, fun s k t ks r hr hm hq => hband s k t ks r hr hm (hs _ _ _ _ hq), hstrand⟩

/-- Settles O34: SURR by its bound and its core's lease, RCLQ by its word, and each YIELD by the routine and its bound, then by its own effect. -/
theorem surrenderAndYieldOutcomes : Obligations.SurrenderAndYieldOutcomes := by
  refine ⟨fun d imm a => ⟨surr_bandDoes d imm a, ?_⟩, ?_⟩
  · simpa only [rclqWord_eq] using rclq_does d
  intro routine ran out spent late
  have hlate : ∀ s b ks r, late s b ks r → s.yields b ks ∧ ∃ n x, s.blockOfParty (.band b) = some (n, x) ∧ x.spent s.clk = true ∧
      r = s.yielded (s.beginSave x.core).settle ks := by
    rintro s b ks r ⟨hin, n, x, hblk, hspent, hr⟩
    exact ⟨hin, n, x, hblk, (x.spent_iff s.clk).2 hspent, hr⟩
  have hearly : ∀ s x, ¬ spent s x → x.spent s.clk = false := fun s x h => Bool.eq_false_iff.2 (mt (x.spent_iff s.clk).1 h)
  refine ⟨bandDoes_mono (yield_bandDoes fun s => show execYieldDone s = _ from rfl) fun s b ks r hm => hm.imp_right (Or.imp (hlate s b ks r) ?_),
    bandDoes_mono (yield_bandDoes fun s => show execYieldSumm s = _ from rfl) fun s b ks r hm => hm.imp_right (Or.imp (hlate s b ks r) ?_),
    bandDoes_mono (yield_bandDoes fun s => show execYieldRefuse s = _ from rfl) fun s b ks r hm => hm.imp_right (Or.imp (hlate s b ks r) ?_)⟩
  · rintro ⟨hin, n, x, hblk, hspent, rfl⟩
    refine ⟨hin, n, x, hblk, hearly s x hspent, ?_⟩
    simp only [recallWord, Nat.mul_comm 16, Nat.mul_comm 2]
    rfl
  · rintro ⟨hin, n, x, hblk, hspent, rfl⟩
    exact ⟨hin, n, x, hblk, hearly s x hspent, rfl⟩
  · rintro ⟨hin, n, x, hblk, hspent, ⟨hleft, rfl⟩ | ⟨hused, rfl⟩⟩
    · exact ⟨hin, n, x, hblk, hearly s x hspent, by rw [if_pos hleft]; rfl⟩
    · exact ⟨hin, n, x, hblk, hearly s x hspent, by rw [if_neg (Nat.not_lt.2 hused)]; rfl⟩

end Sys2Proof.Machine
end

section
/-! TRET, SNOP and SBRK (R176 to R179, R369). -/

namespace Sys2Proof.Machine

open Sys2Proof.Says

/-! ### Threads that go on -/

/-- A thread with another ready time and count of clauses. -/
def Thread.timed (t : Thread) (r c : Nat) : Thread := { t with readyAt := r, clauses := c }

/-- The end of a clause changes nothing else (R196). -/
theorem Thread.endClause_eq (t : Thread) (clk : Nat) (yld : Bool) : ∃ r c, t.endClause clk yld = t.timed r c := by
  unfold Thread.endClause
  split
  · exact ⟨_, _, rfl⟩
  · exact ⟨t.readyAt, _, rfl⟩

theorem Thread.goneTo_heldBy (t : Thread) (pc : Addr) (clk : Nat) (yld : Bool) : (t.goneTo pc clk yld).heldBy = t.heldBy := by
  obtain ⟨r, c, h⟩ := Thread.endClause_eq { t with pc := pc, status := .ready, bpSkip := false, brkSkip := false, heldOn := none } clk yld
  simp only [Thread.goneTo, h]
  split_ifs <;> rfl

theorem State.goneTo_thread {s : State} {k : Nat} {t : Thread} (pc : Addr) (h : s.thread? k = some t) :
    (s.modThread k fun t => t.goneTo pc s.clk (s.headerAt (s.instOf k) t.pc).yld).thread? k =
      some (t.goneTo pc s.clk (s.headerAt (s.instOf k) t.pc).yld) := by
  rw [State.thread_modThread, h, Option.map_some]

/-- A thread that no halt waits for is, as it goes on, its own continuation. -/
theorem State.goTo_thread_unhalted {s : State} {k : Nat} {t : Thread} (pc : Addr) (h : s.thread? k = some t) (hr : t.haltReq = false) :
    (s.goTo k pc).thread? k = some (t.goneTo pc s.clk (s.headerAt (s.instOf k) t.pc).yld) := by
  rw [State.goTo, State.settleHalt_none (State.goneTo_thread pc h), State.goneTo_thread pc h]
  obtain ⟨-, -, -, -, -, -, -, -, -, -, -, -, -, hreq⟩ := t.goneTo_kept pc s.clk (s.headerAt (s.instOf k) t.pc).yld
  exact hreq.trans hr

/-- Going on leaves who holds a thread as it was. -/
theorem State.goTo_thread_heldBy {s : State} {k : Nat} {t t' : Thread} (pc : Addr) (h : s.thread? k = some t)
    (h' : (s.goTo k pc).thread? k = some t') : t'.heldBy = t.heldBy := by
  rcases State.settleHalt_thread (State.goneTo_thread pc h) with hs | hs
  · rw [Option.some.inj (h'.symm.trans hs), Thread.goneTo_heldBy]
  · rw [Option.some.inj (h'.symm.trans hs)]
    exact Thread.goneTo_heldBy ..

/-! ### The return from a trap -/

/-- The thread that returns continues at redo or skip (R176). -/
def Thread.returned (skip : Bool) (t : Thread) : Thread :=
  { t with trapMode := false, pc := if skip then t.trapPt.skip else t.trapPt.redo, status := .ready, bpSkip := false }

/-- A thread that a trap held is let go; one of a trap at a rendezvous passes under skip (R176). -/
def State.freeHeld (pt : TrapPoint) (skip : Bool) (s : State) (j : Nat) : State :=
  let u := s.modThread j fun x => { x with heldBy := none }
  if pt.src == 1 && skip then u.goTo j pt.skip else u

/-- The threads that thread k's trap holds. -/
def State.heldFor (s : State) (k : Nat) : List Nat := mkeys s.threads fun _ x => x.heldBy == some k

theorem State.returnTrap_eq {s : State} {k : Nat} {t : Thread} (h : s.thread? k = some t) (skip : Bool) :
    s.returnTrap k skip = (s.heldFor k).foldl (State.freeHeld t.trapPt skip) (s.modThread k (Thread.returned skip)) := by
  have hmod : (s.modThread k fun x => { x with
      trapMode := false, pc := if skip then t.trapPt.skip else t.trapPt.redo, status := .ready, bpSkip := false }) =
      s.modThread k (Thread.returned skip) := by
    have hk : mget s.threads k = some t := h
    simp only [State.modThread, mmod, hk, Thread.returned]
  simp only [State.returnTrap, h, hmod]
  rfl

section Held

variable {s : State} {j : Nat} {x : Thread} (pt : TrapPoint) (skip : Bool)

theorem State.freeHeld_thread_other (s : State) (i j : Nat) (h : j ≠ i) : (s.freeHeld pt skip i).thread? j = s.thread? j := by
  unfold State.freeHeld
  split
  · rw [State.goTo_thread_other _ _ h, State.thread_modThread_other _ _ h]
  · rw [State.thread_modThread_other _ _ h]

/-- Under redo, and after a trap at no rendezvous, it stays where it stands. -/
theorem State.freeHeld_stays (h : s.thread? j = some x) (hs : skip = false ∨ pt.src ≠ 1) :
    (s.freeHeld pt skip j).thread? j = some { x with heldBy := none } := by
  have hno : ¬ (pt.src == 1 && skip) = true := by
    rw [Bool.and_eq_true, beq_iff_eq]
    rintro ⟨hsrc, hskip⟩
    rcases hs with hs | hs
    · exact Bool.false_ne_true (hs.symm.trans hskip)
    · exact hs hsrc
  rw [State.freeHeld, if_neg hno, State.thread_modThread, h, Option.map_some]

/-- Under skip it passes the rendezvous (R176). -/
theorem State.freeHeld_passes (h : s.thread? j = some x) (hskip : skip = true) (hsrc : pt.src = 1) :
    ∃ y, (s.freeHeld pt skip j).thread? j = some y ∧ y.heldBy = none ∧ y.pc = pt.skip ∧ y.status = .ready ∧ y.v = x.v ∧ y.f = x.f ∧
      y.rs = x.rs ∧ y.trapMode = x.trapMode ∧ (x.haltReq = false → y.haltReq = false) := by
  have hfree : (s.modThread j fun x => { x with heldBy := none }).thread? j = some { x with heldBy := none } := by
    rw [State.thread_modThread, h, Option.map_some]
  have hpass : s.freeHeld pt skip j = (s.modThread j fun x => { x with heldBy := none }).goTo j pt.skip := by
    rw [State.freeHeld, if_pos (by rw [hsrc, hskip]; rfl)]
  obtain ⟨y, hy, hpc, hst, hv, hf, hrs, -, -, hmode, -⟩ := State.goTo_thread pt.skip hfree
  refine ⟨y, hpass ▸ hy, State.goTo_thread_heldBy _ hfree hy, hpc, hst, hv, hf, hrs, hmode, fun hr => ?_⟩
  rw [Option.some.inj (hy.symm.trans (State.goTo_thread_unhalted pt.skip hfree hr))]
  obtain ⟨-, -, -, -, -, -, -, -, -, -, -, -, -, hreq⟩ := Thread.goneTo_kept { x with heldBy := none } pt.skip _ _
  exact hreq.trans hr

end Held

section Returns

variable {s : State} {k : Nat} {t : Thread} (skip : Bool)

theorem State.nodup_heldFor (hr : Rising s.threads) (k : Nat) : (s.heldFor k).Nodup := nodup_mkeys hr _

theorem State.mem_heldFor (hr : Rising s.threads) {j : Nat} {x : Thread} (h : s.thread? j = some x) : j ∈ s.heldFor k ↔ x.heldBy = some k := by
  rw [State.heldFor, mem_mkeys hr, show mget s.threads j = some x from h]
  simp only [Option.some_inj, exists_eq_left', beq_iff_eq]

/-- The thread that returns, also where its own trap held it. -/
theorem State.returnTrap_self (hr : Rising s.threads) (h : s.thread? k = some t) (hq : t.haltReq = false) :
    ∃ t', (s.returnTrap k skip).thread? k = some t' ∧ t'.trapMode = false ∧ t'.pc = (if skip then t.trapPt.skip else t.trapPt.redo) ∧
      t'.status = .ready ∧ t'.haltReq = false := by
  have hback : (s.modThread k (Thread.returned skip)).thread? k = some (t.returned skip) := by rw [State.thread_modThread, h, Option.map_some]
  rw [State.returnTrap_eq h]
  by_cases hk : k ∈ s.heldFor k
  · obtain ⟨s', hs', hfold⟩ := State.foldl_thread_named (State.freeHeld_thread_other t.trapPt skip) (State.nodup_heldFor hr k) hk
      (s.modThread k (Thread.returned skip))
    rw [hback] at hs'
    rw [hfold]
    by_cases hpass : skip = true ∧ t.trapPt.src = 1
    · obtain ⟨hskip, hsrc⟩ := hpass
      obtain ⟨y, hy, -, hpc, hst, -, -, -, hmode, hreq⟩ := State.freeHeld_passes t.trapPt skip hs' hskip hsrc
      exact ⟨y, hy, hmode, by rw [hpc, hskip, if_pos rfl], hst, hreq hq⟩
    · have hstay : skip = false ∨ t.trapPt.src ≠ 1 := by
        rw [← Bool.not_eq_true]
        exact not_and_or.1 hpass
      exact ⟨_, State.freeHeld_stays t.trapPt skip hs' hstay, rfl, rfl, rfl, hq⟩
  · exact ⟨_, (State.foldl_thread_other (State.freeHeld_thread_other t.trapPt skip) hk _).trans hback, rfl, rfl, rfl, hq⟩

/-- A thread that its trap does not hold stays as it is. -/
theorem State.returnTrap_other (hr : Rising s.threads) (h : s.thread? k = some t) {j : Nat} {x : Thread} (hj : j ≠ k)
    (hx : s.thread? j = some x) (hn : x.heldBy ≠ some k) : (s.returnTrap k skip).thread? j = some x := by
  rw [State.returnTrap_eq h, State.foldl_thread_other (State.freeHeld_thread_other t.trapPt skip) (mt (State.mem_heldFor hr hx).1 hn),
    State.thread_modThread_other _ _ hj, hx]

/-- One that it holds is let go. -/
theorem State.returnTrap_held (hr : Rising s.threads) (h : s.thread? k = some t) {j : Nat} {x : Thread} (hj : j ≠ k)
    (hx : s.thread? j = some x) (hheld : x.heldBy = some k) :
    ∃ s' : State, s'.thread? j = some x ∧ (s.returnTrap k skip).thread? j = (s'.freeHeld t.trapPt skip j).thread? j := by
  obtain ⟨s', hs', hfold⟩ := State.foldl_thread_named (State.freeHeld_thread_other t.trapPt skip) (State.nodup_heldFor hr k)
    ((State.mem_heldFor hr hx).2 hheld) (s.modThread k (Thread.returned skip))
  exact ⟨s', hs'.trans ((State.thread_modThread_other _ _ hj).trans hx), by rw [State.returnTrap_eq h, hfold]⟩

/-! ### TRET -/

theorem exec_tret_frame (s : State) (skip : Bool) : exec (if skip then .tretSkip else .tretRedo) s = tretFrame s skip := by
  cases skip <;> rfl

/-- TRET in trap mode: its clause ends, the trap's return is made, and the thread, which is in no trap mode, is held at nothing (R116, R176). -/
theorem exec_tret (hr : Runs s k t) (hm : t.trapMode = true) (skip : Bool) :
    ∃ r c, exec (if skip then .tretSkip else .tretRedo) s =
      .next ((((s.setThread k (t.timed r c)).returnTrap k skip).settleHalt k).modThread k Thread.holdAlone) := by
  obtain ⟨hcur, ht⟩ := hr
  obtain ⟨r, c, hend⟩ := t.endClause_eq s.clk (s.headerAt (s.instOf k) t.pc).yld
  refine ⟨r, c, ?_⟩
  rw [exec_tret_frame, tretFrame, uniFrame_runs _ hcur ht, rendezvous_trapMode _ ht hm]
  simp only [ht, hm, hend, if_true]
  rfl

/-- A thread out of trap mode that no halt waits for is as the return left it. -/
theorem State.tretDone_self {t' : Thread} (h : s.thread? k = some t') (hm : t'.trapMode = false) (hq : t'.haltReq = false) :
    ((s.settleHalt k).modThread k Thread.holdAlone).thread? k = some t' := by
  rw [State.settleHalt_none h hq, State.thread_modThread, h, Option.map_some]
  simp only [Thread.holdAlone, hm, Bool.false_and, Bool.false_eq_true, if_false]

theorem State.tretDone_other {j : Nat} (hj : j ≠ k) :
    ((s.settleHalt k).modThread k Thread.holdAlone).thread? j = s.thread? j := by
  rw [State.thread_modThread_other _ _ hj, State.settleHalt_thread_other _ hj]

end Returns

section NoneHeld

variable {s : State} {k : Nat} {t : Thread}

theorem mem_of_mget {α : Type} {m : Table α} {k : Nat} {a : α} (h : mget m k = some a) : (k, a) ∈ m := by
  induction m with
  | nil => cases h
  | cons q m ih =>
    obtain ⟨j, b⟩ := q
    rw [mget_cons] at h
    split at h
    next hjk =>
      rw [hjk, Option.some.inj h]
      exact List.mem_cons_self
    next => exact List.mem_cons_of_mem _ (ih h)

theorem State.heldFor_eq_nil_iff : s.heldFor k = [] ↔ ∀ p ∈ s.threads, p.2.heldBy ≠ some k := by
  simp [State.heldFor, mkeys]

/-- A change of the thread that none is held for leaves none held for it. -/
theorem State.heldFor_setThread {x : Thread} (h : s.heldFor k = []) (ht : s.thread? k = some t) (hx : x.heldBy = t.heldBy) :
    (s.setThread k x).heldFor k = [] := by
  rw [State.heldFor_eq_nil_iff] at h ⊢
  intro p hp
  rcases mem_mput hp with rfl | hp
  · rw [hx]
    exact h _ (mem_of_mget ht)
  · exact h p hp

/-- Where its trap holds none, TRET changes only the thread that returns (R176). -/
theorem tret_alone (hr : Runs s k t) (hm : t.trapMode = true) (hq : t.haltReq = false) (hnone : s.heldFor k = []) (skip : Bool) :
    ∃ u t', exec (if skip then .tretSkip else .tretRedo) s = .next u ∧ OnlyThread s u k t ∧ u.thread? k = some t' ∧ t'.trapMode = false ∧
      t'.pc = (if skip then t.trapPt.skip else t.trapPt.redo) ∧ t'.status = .ready ∧ t'.v = t.v ∧ t'.f = t.f ∧ t'.rs = t.rs ∧
      t'.fstat = t.fstat ∧ t'.trapstat = t.trapstat := by
  obtain ⟨r, c, hexec⟩ := exec_tret hr hm skip
  have hret : (s.setThread k (t.timed r c)).returnTrap k skip =
      (s.setThread k (t.timed r c)).modThread k (Thread.returned skip) := by
    rw [State.returnTrap_eq (s.thread_setThread k _), State.heldFor_setThread (x := t.timed r c) hnone hr.2 rfl, List.foldl_nil]
  have hself : ((s.setThread k (t.timed r c)).modThread k (Thread.returned skip)).thread? k =
      some (Thread.returned skip (t.timed r c)) := by rw [State.thread_modThread, State.thread_setThread, Option.map_some]
  rw [hret] at hexec
  refine ⟨_, _, hexec, ⟨?_, fun j hj => ?_, fun _ => ?_, fun a => ?_⟩, State.tretDone_self hself rfl hq, rfl, rfl, rfl, rfl, rfl, rfl, rfl, rfl⟩
  · rw [State.settleHalt_none hself hq]; rfl
  · rw [State.tretDone_other hj, State.thread_modThread_other _ _ hj, State.thread_setThread_other s _ hj]
  · rw [State.settleHalt_none hself hq]; rfl
  · rw [State.settleHalt_none hself hq]; rfl

end NoneHeld

section Held

variable {s : State} {k : Nat} {t : Thread}

/-- The thread that returns, and what the others are then: those that its trap held, let go or past the rendezvous, and the rest (R176). -/
theorem tret_held (hr : Runs s k t) (hm : t.trapMode = true) (hq : t.haltReq = false) (hrise : Rising s.threads) (skip : Bool) :
    ∃ u t', exec (if skip then .tretSkip else .tretRedo) s = .next u ∧ u.thread? k = some t' ∧ t'.trapMode = false ∧
      t'.pc = (if skip then t.trapPt.skip else t.trapPt.redo) ∧ t'.status = .ready ∧
      ∀ j x, s.thread? j = some x → j ≠ k →
        (x.heldBy ≠ some k → u.thread? j = some x) ∧
        (x.heldBy = some k → (skip = false ∨ t.trapPt.src ≠ 1) → u.thread? j = some { x with heldBy := none }) ∧
        (x.heldBy = some k → skip = true → t.trapPt.src = 1 → ∃ y, u.thread? j = some y ∧ y.heldBy = none ∧ y.pc = t.trapPt.skip ∧
          y.status = .ready ∧ y.v = x.v ∧ y.f = x.f ∧ y.rs = x.rs) := by
  obtain ⟨r, c, hexec⟩ := exec_tret hr hm skip
  have hend := s.thread_setThread k (t.timed r c)
  have hrise' : Rising (s.setThread k (t.timed r c)).threads := rising_mput _ _ hrise
  obtain ⟨t', ht', hmode, hpc, hst, hq'⟩ := State.returnTrap_self skip hrise' hend hq
  refine ⟨_, t', hexec, State.tretDone_self ht' hmode hq', hmode, hpc, hst, fun j x hx hj => ?_⟩
  have hx' : (s.setThread k (t.timed r c)).thread? j = some x := (State.thread_setThread_other s _ hj).trans hx
  rw [State.tretDone_other hj]
  refine ⟨State.returnTrap_other skip hrise' hend hj hx', fun hheld hstay => ?_, fun hheld hskip hsrc => ?_⟩
  · obtain ⟨s', hs', hfree⟩ := State.returnTrap_held skip hrise' hend hj hx' hheld
    rw [hfree]
    exact State.freeHeld_stays _ _ hs' hstay
  · obtain ⟨s', hs', hfree⟩ := State.returnTrap_held skip hrise' hend hj hx' hheld
    obtain ⟨y, hy, hnone, hpc, hst, hv, hf, hrs, -⟩ := State.freeHeld_passes t.trapPt skip hs' hskip hsrc
    exact ⟨y, hfree.trans hy, hnone, hpc, hst, hv, hf, hrs⟩

end Held

section Outside

variable {s : State} {k : Nat} {t : Thread}

/-- The threads that have met are in trap mode as before. -/
theorem met_trapMode {j : Nat} {x : Thread} (h : s.thread? j = some x) : ((met s k t).thread? j).map (fun t => t.trapMode) = some x.trapMode := by
  unfold met
  split
  · rw [h, Option.map_some]
  · by_cases hj : j = k
    · subst hj
      rw [State.arrive, State.thread_modThread, h]
      rfl
    · rw [State.arrive, State.thread_modThread_other _ _ hj, h, Option.map_some]

/-- Out of trap mode TRET is an illegal instruction, at the rendezvous (R176). -/
theorem tret_outside {ks : List Nat} (hr : Runs s k t) (hm : t.trapMode = false) (hmeet : MeetsAs s k t ks) (hks : ks ≠ [])
    (hall : ∀ j ∈ ks, ∃ u, s.thread? j = some u ∧ u.trapMode = false) (skip : Bool) :
    exec (if skip then .tretSkip else .tretRedo) s = .next (((met s k t).piped k false false).bandTrap ks ⟨1, 0, 0⟩ 1) := by
  rw [exec_tret_frame, tretFrame, uniFrame_runs _ hr.1 hr.2, rendezvous_meets _ hr.2 hmeet, hm]
  obtain ⟨j, js, rfl⟩ := List.exists_cons_of_ne_nil hks
  obtain ⟨x, hx, hxm⟩ := hall j List.mem_cons_self
  obtain ⟨y, hy, hym⟩ := Option.map_eq_some_iff.1 (met_trapMode (k := k) (t := t) hx)
  simp only [hy, hym.trans hxm, Bool.false_eq_true, if_false]
  rfl

end Outside

theorem tret_strand {s : State} {q : Nat} (h : s.cur = .strand q) (skip : Bool) :
    exec (if skip then .tretSkip else .tretRedo) s = .next (s.strandTrap q ⟨1, 0, 0⟩) := by
  rw [exec_tret_frame, tretFrame, uniFrame_strand _ h]
  rfl

/-! ### SNOP and SBRK -/

theorem sbrk_does : UniformDoes .sbrk fun s p ks r =>
    match p with
    | .strand q =>
      let right := (s.part (s.partyPart (.strand q))).right
      (right = true ∧ (s.strand q).brkSkip = false ∧
        r = .stay ((s.haltStrand q).setStrand q { (s.haltStrand q).strand q with brkSkip := true })) ∨
      ((right = false ∨ (s.strand q).brkSkip = true) ∧ r = .ok s)
    | .band b =>
      let right := (s.part (s.partyPart (.band b))).right
      (right = false ∧ r = .trap s ⟨9, 1, 0⟩) ∨
        (right = true ∧ (∃ k ∈ ks, ∀ t, s.thread? k = some t → t.brkSkip = false) ∧
          r = .stay (ks.foldl (fun s k => (s.haltThread k).modThread k fun t => { t with brkSkip := true }) s)) ∨
        (right = true ∧ (∀ k ∈ ks, ∃ t, s.thread? k = some t ∧ t.brkSkip = true) ∧ r = .ok s) := by
  refine uniformDoes_of_body (fun s => show execSbrk s = _ from rfl) ?_
  rintro s (b | q) ks r hm
  · rcases hm with ⟨hright, rfl⟩ | ⟨hright, ⟨k, hk, hno⟩, rfl⟩ | ⟨hright, hall, rfl⟩
    · simp only [hright, Bool.not_false, if_true]
    · have hsome : ¬ (ks.all fun k => (s.thread? k).any fun t => t.brkSkip) = true := by
        rw [List.all_eq_true]
        intro h
        obtain ⟨t, ht, hskip⟩ := (Option.any_eq_true _ _).1 (h k hk)
        exact Bool.false_ne_true ((hno t ht).symm.trans hskip)
      simp only [hright, hsome, Bool.not_true, Bool.false_eq_true, if_false]
    · have hevery : (ks.all fun k => (s.thread? k).any fun t => t.brkSkip) = true := by
        rw [List.all_eq_true]
        intro k hk
        obtain ⟨t, ht, hskip⟩ := hall k hk
        rw [ht, Option.any_some, hskip]
      simp only [hright, hevery, Bool.not_true, Bool.false_eq_true, if_false, if_true]
  · rcases hm with ⟨hright, hskip, rfl⟩ | ⟨hright | hskip, rfl⟩
    · simp only [hright, hskip, Bool.not_false, Bool.and_self, if_true]
    · simp only [hright, Bool.false_and, Bool.false_eq_true, if_false]
    · simp only [hskip, Bool.not_true, Bool.and_false, Bool.false_eq_true, if_false]

/-- Settles O35: TRET in trap mode by what the trap held, outside it and in a strand by its trap; SNOP and SBRK by their bodies. -/
theorem trapReturnAndUniformBreak : Obligations.TrapReturnAndUniformBreak :=
  ⟨⟨fun _ _ _ hr hm hq hnone skip => tret_alone hr hm hq hnone skip,
    fun _ _ _ hr hm hq hrise skip => tret_held hr hm hq hrise skip,
    fun _ _ _ _ skip hr hm hmeet hks hall => tret_outside hr hm hmeet hks hall skip,
    fun _ _ skip h => tret_strand h skip,
    uniformDoes_of_body (fun s => show execSnop s = _ from rfl) fun _ _ _ _ h => h.symm⟩, sbrk_does⟩

end Sys2Proof.Machine
end

section
/-! A record bound for another partition than its slot's cores last ran (R314, R315, R330): what the statement on slots and recalls leaves out. -/

namespace Sys2Proof.Machine

open Sys2Proof.Says

/-- Core 0 last ran slot 0 for partition 1; the slot's record has since been made invalid (R315, R317). -/
def ranForOne : State := { State.reset with cores := [(0, { Core.zero with running := some 0, lastPart := some 1 })] }

/-- A record for a graph of partition 0 that names no core yet (R314). -/
def graphRecord : Bind := { Bind.zero with isGraph := true, weight := 1 }

/-- The record as slot 0 then holds it. -/
def graphRecordBound : Bind := { graphRecord with valid := true, boundAt := ranForOne.ns }

/-- A record that names no core is offered to none (R315). -/
theorem State.offerSlot_of_no_cores {s : State} {t : Nat} (h : (s.bind t).cores.toNat = 0) : s.offerSlot t = s :=
  List.foldl_fixed' (fun _ => if_neg (by simp [h, bitAt])) _

theorem State.offerSlot_graphRecord (s : State) (h : s.binds = []) :
    (s.setBind 0 graphRecordBound).offerSlot 0 = s.setBind 0 graphRecordBound := by
  refine State.offerSlot_of_no_cores ?_
  rw [State.bind_setBind s 0 _ (h ▸ trivial)]
  exact BitVec.toNat_zero

/-- Refutes O46: where slot 0 is bound anew for another partition, the core that ran it runs none from then on (R330), and the statement's clause
on `bound` leaves that core as it was. -/
theorem not_slotAndRecallEvents : ¬ Obligations.SlotAndRecallEvents := by
  intro h
  obtain ⟨-, -, hbound, -⟩ := h ranForOne 0 [] 0 0
  have hsays : ranForOne.bound 0 graphRecord false = (ranForOne.setBind 0 graphRecordBound).offerSlot 0 := hbound 0 graphRecord false
  have hdoes : ranForOne.bound 0 graphRecord false = ((ranForOne.leaveSlot 0 0).setBind 0 graphRecordBound).offerSlot 0 := rfl
  rw [hdoes, State.offerSlot_graphRecord _ rfl, State.offerSlot_graphRecord _ rfl] at hsays
  have hruns : none = some 0 := congrArg (fun s => (s.core 0).running) hsays
  cases hruns

end Sys2Proof.Machine
end

section
/-! Resume records (R196, R219, R246, R249, R359): which wait, which are dropped, and how what they match goes on or traps. -/

namespace Sys2Proof.Machine

open Sys2Proof.Says

/-! ### What arrives through no named link -/

section Frames

variable {s : State} {i : Instr}

/-- Behind any write that waits it waits too (R219, log 97). -/
theorem hostFrame_none_waits (body : State → Out) (h : s.waiting ≠ []) :
    hostFrame s none i body = .next { s with waiting := s.waiting ++ [(none, i)] } := by
  obtain ⟨x, rest, hx⟩ := List.exists_cons_of_ne_nil h
  have hbehind : s.linkWaits none = true := by simp [State.linkWaits, hx]
  rw [hostFrame, if_pos hbehind]

theorem hostFrame_free (link : Option (Fin 2)) (body : State → Out) (h : s.waiting = []) : hostFrame s link i body = body s := by
  have hfree : ¬ s.linkWaits link = true := by simp [State.linkWaits, h]
  rw [hostFrame, if_neg hfree]

/-- In the pause of an update it is kept (R359). -/
theorem portFrame_kept (body : State → State) (h : s.pause = true) : portFrame s i body = .next { s with input := s.input ++ [i] } :=
  if_pos h

theorem portFrame_open (body : State → State) (h : s.pause = false) : portFrame s i body = .next (body s) :=
  if_neg (Bool.eq_false_iff.1 h)

end Frames

/-! ### The record -/

section Records

variable {s : State} {p : Fin 16} {r : ResumeRec}

/-- A record whose ACT suits its row is resumed once nothing holds it back. -/
theorem exec_resumeRetry (h : r.act ≠ 1) : exec (.resumeRetry p r) s =
    hostFrame s none (.resumeRetry p r) fun s => portFrame s (.resumeRetry p r) fun s => s.resume p.val r :=
  if_neg h

theorem exec_resumeFail (h : r.act ≠ 0) : exec (.resumeFail p r) s =
    hostFrame s none (.resumeFail p r) fun s => portFrame s (.resumeFail p r) fun s => s.resume p.val r :=
  if_neg h

/-- It waits behind a host write that waits, and in a pause. -/
theorem record_kept {i : Instr} (hi : exec i s = hostFrame s none i fun s => portFrame s i fun s => s.resume p.val r) :
    (s.waiting ≠ [] → exec i s = .next { s with waiting := s.waiting ++ [(none, i)] }) ∧
    (s.waiting = [] → s.pause = true → exec i s = .next { s with input := s.input ++ [i] }) :=
  ⟨fun h => hi.trans (hostFrame_none_waits _ h), fun h hp => hi.trans ((hostFrame_free _ _ h).trans (portFrame_kept _ hp))⟩

theorem record_resumed {i : Instr} (hi : exec i s = hostFrame s none i fun s => portFrame s i fun s => s.resume p.val r)
    (h : s.waiting = [] ∧ s.pause = false) : exec i s = .next (s.resume p.val r) :=
  hi.trans ((hostFrame_free _ _ h.1).trans (portFrame_open _ h.2))

theorem State.resumeOk_iff : s.resumeOk p.val r = true ↔
    r.res0 = 0 ∧ r.res1 = 0 ∧ r.res2 = 0 ∧ r.res3 = 0 ∧ r.act.val ≤ 1 ∧ (s.part r.part.val).live = true ∧ (s.part r.part.val).parent = p.val := by
  simp only [State.resumeOk, Bool.and_eq_true, beq_iff_eq, decide_eq_true_eq, and_assoc]

theorem State.resume_dropped (h : ¬ s.resumeOk p.val r = true) : s.resume p.val r =
    s.event p.val ⟨7, 0, 0, 0, 0, 0, (resumeWords r).1, (resumeWords r).2.1, (resumeWords r).2.2⟩ := by
  simp only [State.resume, eq_false_of_ne_true h, Bool.not_false, if_true]

/-- With ACT 0 what it matches goes on (R249). -/
theorem State.resume_goes (h : s.resumeOk p.val r = true) (ha : r.act = 0) : s.resume p.val r =
    (s.matchedCmds r).foldl (fun s id => s.modCmd id fun c => { c with parked := none })
      ((s.matchedStrands r).foldl (fun s q => s.setStrand q { s.strand q with parked := none })
        ((s.matchedThreads r).foldl State.unparkThread s)) := by
  simp only [State.resume, h, ha, Bool.not_true, Bool.false_eq_true, if_false]
  rfl

/-- With ACT 1 it fails (R249). -/
theorem State.resume_fails (h : s.resumeOk p.val r = true) (ha : r.act = 1) : s.resume p.val r =
    ((s.matchedCmds r).foldl State.failStalled ((s.matchedStrands r).foldl State.failStrand
      ((s.matchedThreads r).foldl State.failThread s))).settle.pumpSaves := by
  simp only [State.resume, h, ha, Bool.not_true, Bool.false_eq_true, if_false]
  rfl

end Records

/-! ### A parked thread -/

section Parked

variable {s : State} {k : Nat} {t : Thread} {q : Park}

/-- A thread that is parked no more: ready since its fault, or still at the rendezvous at which it has arrived (R196, R246). -/
def Thread.unparked (t : Thread) (q : Park) : Thread :=
  { t with parked := none, readyAt := q.time, clauses := 0, status := if t.status = .arrived then .arrived else .ready }

/-- It goes on at its instruction, or is taken by the surrender routine that waits for it (R170). -/
theorem State.unparkThread_parked (ht : s.thread? k = some t) (hq : t.parked = some q) : s.unparkThread k =
    match s.routineEntry k (t.unparked q) with
    | some pc => (s.setThread k (t.unparked q)).enterRoutine k pc
    | none => (s.setThread k (t.unparked q)).settleWait k := by
  have hstatus : (if (t.status == .arrived) = true then TStatus.arrived else .ready) = if t.status = .arrived then .arrived else .ready := by
    simp only [beq_iff_eq]
  simp only [State.unparkThread, ht, hq, hstatus]
  rfl

theorem State.settleWait_none (ht : s.thread? k = some t) (h : t.haltReq = false) : s.settleWait k = s := by
  rw [State.settleWait, State.settleHalt_none ht h, ite_self]

theorem State.unparkThread_goes (ht : s.thread? k = some t) (hq : t.parked = some q) (he : s.routineEntry k (t.unparked q) = none)
    (hh : t.haltReq = false) : s.unparkThread k = s.setThread k (t.unparked q) := by
  rw [State.unparkThread_parked ht hq, he]
  exact State.settleWait_none (State.thread_setThread ..) hh

theorem State.unparkThread_enters {pc : Addr} (ht : s.thread? k = some t) (hq : t.parked = some q)
    (he : s.routineEntry k (t.unparked q) = some pc) : s.unparkThread k = (s.setThread k (t.unparked q)).enterRoutine k pc := by
  rw [State.unparkThread_parked ht hq, he]

/-- One that fails is ready since its fault, and traps: for its band at a rendezvous, at the boundary in a clause fetch, else at its slot (R35, R249). -/
theorem State.failThread_parked (ht : s.thread? k = some t) (hq : t.parked = some q) :
    let u := s.modThread k fun t => { t with parked := none, readyAt := q.time, clauses := 0 }
    s.failThread k =
      if t.status = .arrived then u.bandTrap (u.rendezvousP k) ⟨5, 7, 0⟩ 1
      else if slotOf t.pc = 0 then u.takeTrap k (BitVec.ofNat 32 (5 * 2 ^ 27 + 7 * 2 ^ 16)) ⟨t.pc, nextClause t.pc, 0⟩
      else u.laneTrap k ⟨5, 7, 0⟩ := by
  intro u
  have hu : (s.modThread k fun t => { t with parked := none, readyAt := (t.parked.map (·.time)).getD t.readyAt, clauses := 0 }) = u := by
    simp only [u, State.modThread_eq_setThread _ ht, hq, Option.map_some, Option.getD_some]
  simp only [State.failThread, ht, hu, beq_iff_eq]
  rfl

end Parked

/-- Settles O45: both rows run one frame around the record's resumption, which drops it, lets what it matches go on, or fails it. -/
theorem resumeRecords : Obligations.ResumeRecords := by
  intro s p r ok kept free dropped
  have hok : s.resumeOk p.val r = true ↔ ok := State.resumeOk_iff
  have hone : r.act = 1 → r.act ≠ 0 := fun h => by rw [h]; decide
  have hzero : r.act = 0 → r.act ≠ 1 := fun h => by rw [h]; decide
  refine ⟨fun ha => record_kept (exec_resumeRetry ha), fun ha => record_kept (exec_resumeFail ha), fun ha => if_pos ha, fun ha => if_pos ha,
    fun hf hn ha => ?_, fun hf hn ha => ?_, fun hf ho ha => ?_, fun hf ho ha => ?_, fun k t q ht hq => ⟨?_, ?_⟩, fun k t q ht hq => ?_⟩
  · rw [record_resumed (exec_resumeFail ha) hf, State.resume_dropped (mt hok.1 hn)]
  · rw [record_resumed (exec_resumeRetry ha) hf, State.resume_dropped (mt hok.1 hn)]
  · rw [record_resumed (exec_resumeRetry (hzero ha)) hf, State.resume_goes (hok.2 ho) ha]
  · rw [record_resumed (exec_resumeFail (hone ha)) hf, State.resume_fails (hok.2 ho) ha]
  · exact State.unparkThread_goes ht hq
  · exact fun pc => State.unparkThread_enters ht hq
  · have hfail := State.failThread_parked ht hq
    exact ⟨fun ha => by rw [hfail, if_pos ha], fun ha hs => by rw [hfail, if_neg ha, if_pos hs], fun ha hs => by rw [hfail, if_neg ha, if_neg hs]⟩

end Sys2Proof.Machine
end

section
/-! Blocks, runs and bands start and end (R199, R203, R211 to R213, R286, R288, R321). -/

namespace Sys2Proof.Machine

open Sys2Proof.Says

/-! ### Tables searched -/

section Search

variable {α : Type} {m : Table α} {f : Nat → α → Bool}

theorem mkeys_eq_nil : mkeys m f = [] ↔ ∀ x ∈ m, f x.1 x.2 = false := by
  simp only [mkeys, List.map_eq_nil_iff, List.filter_eq_nil_iff, Bool.not_eq_true]

theorem many_eq_false : many m f = false ↔ ∀ x ∈ m, f x.1 x.2 = false := by
  simp only [many, List.any_eq_false, Bool.not_eq_true]

end Search

/-! ### BLOCK_START -/

section Starts

variable {s : State} {c t : Nat} {e : ReadyEntry}

/-- The core's slot is its running one, where that is valid and binds it (R314, R315). -/
theorem State.slotHere_eq_some : s.slotHere c = some t ↔
    (s.core c).running = some t ∧ (s.bind t).valid = true ∧ bitAt (s.bind t).cores.toNat c = true := by
  simp only [State.slotHere, Option.filter_eq_some_iff, Bool.and_eq_true]

/-- A slot's runs are those of its record's graph, in its partition (R199). -/
theorem State.mem_instsOf {n : Nat} : n ∈ s.instsOf t ↔ ∃ x ∈ s.insts, x.1 = n ∧ (s.bind t).isGraph = true ∧ x.2.lp1 = (s.bind t).lp1 ∧
    x.2.handle = (s.bind t).handle ∧ x.2.part = (s.bind t).part := by
  simp only [State.instsOf, mkeys, List.mem_map, List.mem_filter, Bool.and_eq_true, beq_iff_eq, and_assoc]
  exact exists_congr fun x => and_congr_right fun _ => ⟨fun ⟨hg, hl, hh, hp, hn⟩ => ⟨hn, hg, hl, hh, hp⟩, fun ⟨hn, hg, hl, hh, hp⟩ => ⟨hg, hl, hh, hp, hn⟩⟩

/-- What can be placed on a core is of a run of its slot. -/
theorem State.canPlace_run (ht : s.slotHere c = some t) (h : s.canPlace c e = true) : e.inst ∈ s.instsOf t := by
  unfold State.canPlace at h
  rw [ht] at h
  split at h
  · next hslot =>
    cases hslot
    simp only [Bool.and_eq_true, List.contains_eq_mem, decide_eq_true_eq] at h
    tauto
  · exact nomatch h

/-- The next entry is the first that can start here, unless an earlier one can start anywhere (R288). -/
theorem State.nextReady_first (h : s.ready.find? (fun e => s.canPlace c e) = some e)
    (hd : ∀ d ∈ s.ready.takeWhile (· != e), ∀ k < Config.cores, s.canPlace k d = false) : s.nextReady c = some e := by
  have hnone : ((s.ready.takeWhile (· != e)).any fun d => (List.range Config.cores).any fun k => s.canPlace k d) = false := by
    simp only [List.any_eq_false, List.any_eq_true, List.mem_range, not_exists, not_and, Bool.not_eq_true]
    exact hd
  simp only [State.nextReady, h, hnone, Bool.false_eq_true, if_false]

theorem exec_blockStart_shut (h : s.coreOpen c = false) : exec (.blockStart c) s = .next s :=
  if_pos (by rw [h]; rfl)

/-- A saved context goes before every new block (R321). -/
theorem exec_blockStart_restores {x : Saved} (ho : s.coreOpen c = true) (ht : (s.takeSlot c).slotHere c = some t)
    (hx : (s.takeSlot c).saved.find? (fun x => ((s.takeSlot c).instsOf t).contains x.inst && (s.takeSlot c).mayRestore t c x) = some x) :
    exec (.blockStart c) s = .next ((s.takeSlot c).restoreContext t c x) := by
  change execBlockStart c s = _
  simp only [execBlockStart, ho, ht, hx, Bool.not_true, Bool.false_eq_true, if_false]

theorem exec_blockStart_starts {l : Launch} (ho : s.coreOpen c = true) (ht : (s.takeSlot c).slotHere c = some t)
    (hx : (s.takeSlot c).saved.find? (fun x => ((s.takeSlot c).instsOf t).contains x.inst && (s.takeSlot c).mayRestore t c x) = none)
    (he : (s.takeSlot c).nextReady c = some e) (hl : (s.takeSlot c).launchOf e = some l) :
    exec (.blockStart c) s = .next ((s.takeSlot c).startBlock c t e l) := by
  change execBlockStart c s = _
  simp only [execBlockStart, ho, ht, hx, he, hl, Bool.not_true, Bool.false_eq_true, if_false]

end Starts

/-! ### BLOCK_END -/

section Ends

variable {s : State} {n : Nat} {b : Block}

/-- A task's writes are out once each is performed, in the egress hold buffer, or discarded without having been sent (R333). -/
theorem State.writesOut_iff {k : Nat} : s.writesOut k = true ↔ ∀ x ∈ s.ops, x.2.task = k → x.2.kind.stores = true →
    x.2.done = true ∨ x.2.egress = true ∨ (x.2.void = true ∧ x.2.sent = false) := by
  rw [State.writesOut, Bool.not_eq_true', many_eq_false]
  refine forall₂_congr fun x _ => ?_
  rw [← Bool.not_eq_true]
  simp only [Bool.and_eq_true, beq_iff_eq, Bool.not_eq_true']
  cases x.2.done <;> cases x.2.egress <;> simp [imp_iff_not_or, or_assoc]

/-- A block may end when it holds no band, strand and command, and its writes are out (R203). -/
theorem State.blockOver_iff (hb : s.block? n = some b) : s.blockOver n = true ↔ s.bandsOf n = [] ∧ s.strandsOf n = [] ∧ (∀ x ∈ s.cmds, x.2.block ≠ n) ∧
    ∀ x ∈ s.ops, x.2.task = b.task → x.2.kind.stores = true → x.2.done = true ∨ x.2.egress = true ∨ (x.2.void = true ∧ x.2.sent = false) := by
  simp only [State.blockOver, hb, Option.all_some, Bool.and_eq_true, List.isEmpty_iff, Bool.not_eq_true', many_eq_false, beq_eq_false_iff_ne,
    State.writesOut_iff, and_assoc, ne_eq]

theorem exec_blockEnd_holds (hb : s.block? n = some b) (h : s.blockOver n = false) : exec (.blockEnd n) s = .next s := by
  change execBlockEnd n s = _
  simp only [execBlockEnd, State.endBlock, hb, h, Bool.not_false, if_true]

/-- A block that no fault stops closes with its task complete (R203). -/
theorem State.closeBlock_completes (hf : b.faulted = false) (hs : b.stopping = false) :
    let v := (maskNums b.hasps).foldl (fun s h => s.invalidate b.core h) s
    let w := { v with
      blocks := mdel v.blocks n
      strands := mmap v.strands fun _ x => if x.block == n then { x with block := 0, forker := none } else x }
    s.closeBlock n b = (w.completeTask b.task).countEnd b := by
  simp only [State.closeBlock, hf, hs, Bool.or_self, Bool.false_eq_true, if_false]

/-- While its core is saved, the save goes on (R323). -/
theorem exec_blockEnd_saving (hb : s.block? n = some b) (h : s.blockOver n = true) (hv : (s.core b.core).saving = true) :
    exec (.blockEnd n) s = .next ((s.closeBlock n b).pumpSave b.core).settle := by
  change execBlockEnd n s = _
  simp only [execBlockEnd, State.endBlock, hb, h, hv, Bool.not_true, Bool.false_eq_true, if_false, if_true]

theorem exec_blockEnd_held (hb : s.block? n = some b) (h : s.blockOver n = true) (hv : (s.core b.core).saving = false) (hr : b.rstate = .held) :
    exec (.blockEnd n) s = .next (s.closeBlock n b).settle := by
  have hheld : (b.rstate != .held) = false := by rw [hr]; rfl
  change execBlockEnd n s = _
  simp only [execBlockEnd, State.endBlock, hb, h, hv, hheld, Bool.not_true, Bool.false_and, Bool.false_eq_true, if_false]

end Ends

/-! ### Runs -/

section Runs

variable {s : State} {n : Nat} {i : Inst}

theorem exec_instanceComplete_holds (hi : s.inst? n = some i) (h : i.ended = true ∨ s.instDone n i = false) :
    exec (.instanceComplete n) s = .next s := by
  have hstays : (i.ended || !s.instDone n i) = true := by simpa using h
  change execInstanceComplete n s = _
  simp only [execInstanceComplete, hi, hstays, if_true]

/-- A run that is done ends, and notifies if it was to and is not cancelled (R286, R290). -/
theorem exec_instanceComplete_ends (hi : s.inst? n = some i) (he : i.ended = false) (hd : s.instDone n i = true) :
    let u := s.modInst n fun i => { i with ended := true }
    exec (.instanceComplete n) s = .next (if i.notify = true ∧ i.cancelled = false
      then u.event i.lp1 ⟨3, 0, i.handle, n, 0, 0, 0, 0, 0⟩ else u) := by
  intro u
  change execInstanceComplete n s = _
  simp only [execInstanceComplete, hi, he, hd, Bool.not_true, Bool.or_self, Bool.false_eq_true, if_false, Bool.and_eq_true, Bool.not_eq_true', u]

end Runs

/-! ### Bands of records -/

section Records

variable {s : State}

/-- A partial band is released once its window has run since its first record (R211). -/
theorem exec_gatheringWindowExpiry {key : GatherKey} {b : PartialBand} (h : s.pool.find? (fun x => x.key == key) = some b) :
    exec (.gatheringWindowExpiry key) s =
      if s.clk < b.since + ((s.graphOf key.inst).map (·.win)).getD Config.defaultWindow then .next s else .next (s.releaseBand b) := by
  change execGatheringWindowExpiry key s = _
  simp only [execGatheringWindowExpiry, h]

/-- A released band starts on the lowest core with room, with its node's arguments (R212, R213). -/
theorem exec_recordBandStart {n c t b : Nat} {r : RelBand} {l : Launch} {args : List Word} {u : State} (hr : s.nextReleased n = some r)
    (hl : s.launchOf ⟨0, 0, n, r.key.node, none⟩ = some l) (hc : ((List.range Config.cores).find? fun c => s.canPlaceRecs c r l) = some c)
    (ht : s.slotHere c = some t) (hb : (s.freeFrames c).head? = some b) (ha : s.readArgs t ⟨0, 0, n, r.key.node, none⟩ l = some (args, u)) :
    exec (.recordBandStart n) s =
      .next (({ u with released := u.released.erase r }.beginContext c t).placeRecs b t n r.key.node r.key.role l args r.old r.recs) := by
  change execRecordBandStart n s = _
  simp only [execRecordBandStart, hr, hl, hc, ht, hb, ha]

end Records

/-- Settles O41: each of the five events by the branch that its condition takes. -/
theorem blockAndRunEvents : Obligations.BlockAndRunEvents := by
  intro s c
  refine ⟨exec_blockStart_shut, fun ho t ht => ⟨fun x hx => exec_blockStart_restores ho ht hx, fun e l hx he hd hl =>
      exec_blockStart_starts ho ht hx (State.nextReady_first he hd) hl⟩,
    fun t e ht he => ?_, fun n b hb => ⟨State.blockOver_iff hb, exec_blockEnd_holds hb, fun h hf hs => ?_⟩,
    fun n i hi => ⟨exec_instanceComplete_holds hi, exec_instanceComplete_ends hi⟩,
    fun key b hb => ⟨fun h => (exec_gatheringWindowExpiry hb).trans (if_pos h), fun h => (exec_gatheringWindowExpiry hb).trans (if_neg (Nat.not_lt.2 h))⟩,
    fun n r l t b args u hr hl hc hp hd ht hb ha => exec_recordBandStart hr hl ?_ ht hb ha⟩
  · obtain ⟨-, hvalid, hbit⟩ := State.slotHere_eq_some.1 ht
    obtain ⟨x, hx, hn, -, hlp1, hhandle, hpart⟩ := State.mem_instsOf.1 (State.canPlace_run ht he)
    exact ⟨hvalid, hbit, x, hx, hn, hpart, hlp1, hhandle⟩
  · intro v w e
    have hclose : s.closeBlock n b = e := State.closeBlock_completes hf hs
    exact ⟨fun hv => hclose ▸ exec_blockEnd_saving hb h hv, fun hv hr => hclose ▸ exec_blockEnd_held hb h hv hr⟩
  · exact List.find?_range_eq_some.2 ⟨hp, List.mem_range.2 hc, fun d h => by rw [hd d h]; rfl⟩

end Sys2Proof.Machine
end

section
/-! Every step answers (R195, R197): what needs an agent runs in the frame of its kind, and an event needs none. -/

namespace Sys2Proof.Machine

open Sys2Proof.Says

/-- The outcome is a next state. -/
def Answers (o : Out) : Prop := ∃ u, o = .next u

theorem Answers.next (u : State) : Answers (.next u) := ⟨u, rfl⟩

theorem answers_ite {c : Prop} [Decidable c] {a b : Out} (ha : Answers a) (hb : Answers b) : Answers (if c then a else b) := by
  split <;> assumption

/-! ### The agents of lane and uniform words -/

/-- The instruction answers for a resident thread and for a strand, and stops without either (log 3). -/
def AnswersToParty (i : Instr) : Prop :=
  ∀ s, (∀ k t, Runs s k t → Answers (exec i s)) ∧ (∀ q, s.cur = .strand q → Answers (exec i s)) ∧
    ((∀ k t, ¬ Runs s k t) → (∀ q, s.cur ≠ .strand q) → exec i s = .fault .noAgent)

/-- Whether an instruction answers is known from the agent: a resident thread, a slot without one, a strand, or any other. -/
theorem answersToParty_of_cases {i : Instr} (hthread : ∀ s k t, Runs s k t → Answers (exec i s))
    (habsent : ∀ s k, s.cur = .thread k → s.thread? k = none → exec i s = .fault .noAgent)
    (hstrand : ∀ s q, s.cur = .strand q → Answers (exec i s)) (hnobody : ∀ s, s.cur = .nobody → exec i s = .fault .noAgent)
    (hstream : ∀ s id, s.cur = .stream id → exec i s = .fault .noAgent) : AnswersToParty i := by
  intro s
  refine ⟨hthread s, hstrand s, fun hno hnot => ?_⟩
  cases hc : s.cur with
  | nobody => exact hnobody s hc
  | thread k =>
    cases ht : s.thread? k with
    | none => exact habsent s k hc ht
    | some t => exact absurd ⟨hc, ht⟩ (hno k t)
  | strand q => exact absurd hc (hnot q)
  | stream id => exact hstream s id hc

/-- A lane instruction of one thread. -/
theorem RunsAlone.answers {i : Instr} (h : RunsAlone i) : AnswersToParty i := by
  obtain ⟨-, rs, body, -, hi⟩ := h
  refine answersToParty_of_cases (fun s k t ⟨hc, ht⟩ => ?_) (fun s k hc ht => ?_) (fun s q hc => ⟨_, (hi s).trans (laneFrame_strand _ hc)⟩)
    (fun s hc => ?_) fun s id hc => ?_
  · rw [hi, laneFrame, hc]
    simp only [ht]
    split <;> exact .next _
  · simp only [hi, laneFrame, hc, ht]
  · simp only [hi, laneFrame, hc]
  · simp only [hi, laneFrame, hc]

/-- A lane instruction that is a band operation. -/
theorem RunsAsBand.answers {i : Instr} (h : RunsAsBand i) : AnswersToParty i := by
  obtain ⟨-, rs, body, -, hi⟩ := h
  refine answersToParty_of_cases (fun s k t ⟨hc, ht⟩ => ?_) (fun s k hc ht => ?_) (fun s q hc => ⟨_, (hi s).trans (bandLaneFrame_strand _ hc)⟩)
    (fun s hc => ?_) fun s id hc => ?_
  · rw [hi, bandLaneFrame, hc]
    simp only [ht]
    split <;> exact .next _
  · simp only [hi, bandLaneFrame, hc, ht]
  · simp only [hi, bandLaneFrame, hc]
  · simp only [hi, bandLaneFrame, hc]

theorem RunsUniform.answers {i : Instr} (h : RunsUniform i) : AnswersToParty i := by
  obtain ⟨body, hi⟩ := h
  refine answersToParty_of_cases (fun s k t hr => ⟨_, (hi s).trans (uniFrame_runs body hr.1 hr.2)⟩) (fun s k hc ht => ?_)
    (fun s q hc => ⟨_, (hi s).trans (uniFrame_strand body hc)⟩) (fun s hc => ?_) fun s id hc => ?_
  · simp only [hi, uniFrame, hc, ht]
  · simp only [hi, uniFrame, hc]
  · simp only [hi, uniFrame, hc]

/-- CLAUSE_START has no word, and the agents of a lane word (R13, R118). -/
theorem clauseStart_answers : AnswersToParty .clauseStart := by
  have hi (s : State) : exec .clauseStart s = execClauseStart s := rfl
  refine answersToParty_of_cases (fun s k t ⟨hc, ht⟩ => ?_) (fun s k hc ht => ?_) (fun s q hc => ?_) (fun s hc => ?_) fun s id hc => ?_
  · rw [hi, execClauseStart, hc]
    simp only [ht]
    exact answers_ite (.next _) (answers_ite (.next _) (answers_ite (.next _) (.next _)))
  · simp only [hi, execClauseStart, hc, ht]
  · rw [hi, execClauseStart, hc]
    exact answers_ite (.next _) (.next _)
  · simp only [hi, execClauseStart, hc]
  · simp only [hi, execClauseStart, hc]

/-! ### Commands -/

/-- The instruction's meaning is the frame of a command of n words. -/
def RunsInStream (i : Instr) : Prop := ∃ (n : Nat) (body : State → StreamId → Space → CRes), ∀ s, exec i s = cmdFrame s n body

theorem RunsInStream.of_meaning {i : Instr} (g : State → Out) {n : Nat} {body : State → StreamId → Space → CRes} (hi : ∀ s, exec i s = g s)
    (hg : ∀ s, g s = cmdFrame s n body) : RunsInStream i := ⟨n, body, fun s => (hi s).trans (hg s)⟩

theorem RunsInStream.of_registers {i : Instr} {f : DWord → DWord → DWord} {d a : CReg} {y : COp} (hi : ∀ s, exec i s = regCmd f d a y s) :
    RunsInStream i := .of_meaning _ hi fun _ => by rw [regCmd]

/-- Every command runs in the frame of its stream (R266, R278). -/
theorem runsInStream_of_isCommand {i : Instr} (hi : isCommand i = true) : RunsInStream i := by
  cases i with
  | cadd | csub | cand | cor | cshl | cshr => exact .of_registers fun _ => rfl
  | cli d w => exact .of_meaning (execCli d w) (fun _ => rfl) fun _ => by rw [execCli]
  | cliU d w => exact .of_meaning (execCliU d w) (fun _ => rfl) fun _ => by rw [execCliU]
  | cliHi d w => exact .of_meaning (execCliHi d w) (fun _ => rfl) fun _ => by rw [execCliHi]
  | cld o d a x => exact .of_meaning (execCld o d a x) (fun _ => rfl) fun _ => by rw [execCld]
  | cst o a x b => exact .of_meaning (execCst o a x b) (fun _ => rfl) fun _ => by rw [execCst]
  | cbr c a b w => exact .of_meaning (execCbr c a b w) (fun _ => rfl) fun _ => rfl
  | cjmp w => exact .of_meaning (execCjmp w) (fun _ => rfl) fun _ => rfl
  | ccall w => exact .of_meaning (execCcall w) (fun _ => rfl) fun _ => rfl
  | cret => exact .of_meaning execCret (fun _ => rfl) fun _ => rfl
  | cloop d w => exact .of_meaning (execCloop d w) (fun _ => rfl) fun _ => rfl
  | launch d a b => exact .of_meaning (execLaunch d a b) (fun _ => rfl) fun _ => by rw [execLaunch]
  | graph d a h f x => exact .of_meaning (execGraph d a h f x) (fun _ => rfl) fun _ => by rw [execGraph]
  | cwaitNode d a => exact .of_meaning (execCwaitNode d a) (fun _ => rfl) fun _ => by rw [execCwaitNode]
  | cwaitInst d a => exact .of_meaning (execCwaitInst d a) (fun _ => rfl) fun _ => by rw [execCwaitInst]
  | cwaitMem d a b => exact .of_meaning (execCwaitMem d a b) (fun _ => rfl) fun _ => by rw [execCwaitMem]
  | cwaitTime d b => exact .of_meaning (execCwaitTime d b) (fun _ => rfl) fun _ => by rw [execCwaitTime]
  | amend w g d a b => exact .of_meaning (execAmend w g d a b) (fun _ => rfl) fun _ => by rw [execAmend]
  | signal v e a w => exact .of_meaning (execSignal v e a w) (fun _ => rfl) fun _ => by rw [execSignal]
  | cfence => exact .of_meaning execCfence (fun _ => rfl) fun _ => by rw [execCfence]
  | ctime d => exact .of_meaning (execCtime d) (fun _ => rfl) fun _ => by rw [execCtime]
  | chalt => exact .of_meaning execChalt (fun _ => rfl) fun _ => by rw [execChalt]
  | _ => exact nomatch hi

/-- A command answers to a stream, and stops without one. -/
theorem RunsInStream.answers {i : Instr} (h : RunsInStream i) (s : State) :
    (∀ id, s.cur = .stream id → Answers (exec i s)) ∧ ((∀ id, s.cur ≠ .stream id) → exec i s = .fault .noAgent) := by
  obtain ⟨n, body, hi⟩ := h
  rw [hi]
  cases hc : s.cur with
  | stream id =>
    refine ⟨fun _ _ => ?_, fun hno => absurd rfl (hno id)⟩
    rw [cmdFrame, hc]
    dsimp only
    split <;> exact .next _
  | nobody => exact ⟨nofun, fun _ => by simp only [cmdFrame, hc]⟩
  | thread k => exact ⟨nofun, fun _ => by simp only [cmdFrame, hc]⟩
  | strand q => exact ⟨nofun, fun _ => by simp only [cmdFrame, hc]⟩

/-! ### The frames of events -/

section Frames

variable {s : State} {i : Instr}

theorem opFrame_answers (id : Nat) (body : Op → State) : Answers (opFrame s id body) := by
  unfold opFrame
  split <;> exact .next _

theorem portFrame_answers (body : State → State) : Answers (portFrame s i body) := answers_ite (.next _) (.next _)

theorem hostFrame_answers {link : Option (Fin 2)} {body : State → Out} (h : ∀ u, Answers (body u)) : Answers (hostFrame s link i body) :=
  answers_ite (.next _) (h s)

theorem rdmaFrame_answers (p : RdmaPkt) (u : State) : Answers (rdmaFrame s p u) := answers_ite (.next _) (.next _)

end Frames

/-! ### Events with conditions -/

section Conditions

variable (s : State)

theorem execCwaitConditionMet_answers (id : StreamId) : Answers (execCwaitConditionMet id s) := by
  unfold execCwaitConditionMet
  split <;> exact .next _

theorem execMonitorFire_answers (w : Nat) (lost : Bool) : Answers (execMonitorFire w lost s) := by
  unfold execMonitorFire
  split
  · exact .next _
  · exact answers_ite (.next _) (.next _)

theorem execGrowGrant_answers (c : Nat) : Answers (execGrowGrant c s) := by
  unfold execGrowGrant
  split
  · exact .next _
  · split
    · exact .next _
    · split
      · exact .next _
      · exact answers_ite (.next _) (answers_ite (.next _) (.next _))

theorem execBlockStart_answers (c : Nat) : Answers (execBlockStart c s) := by
  refine answers_ite (.next _) ?_
  dsimp only
  split
  · exact .next _
  · split
    · exact .next _
    · split
      · exact .next _
      · split <;> exact .next _

theorem execInstanceComplete_answers (n : Nat) : Answers (execInstanceComplete n s) := by
  unfold execInstanceComplete
  split
  · exact .next _
  · exact answers_ite (.next _) (.next _)

theorem execGatheringWindowExpiry_answers (key : GatherKey) : Answers (execGatheringWindowExpiry key s) := by
  unfold execGatheringWindowExpiry
  split
  · exact .next _
  · exact answers_ite (.next _) (.next _)

theorem execRecordBandStart_answers (n : Nat) : Answers (execRecordBandStart n s) := by
  unfold execRecordBandStart
  split
  · exact .next _
  · dsimp only
    split
    · exact .next _
    · split
      · exact .next _
      · split
        · split <;> exact .next _
        · exact .next _

theorem execRegistrationResult_answers (p : Fin 16) (place : Addr × Nat) : Answers (execRegistrationResult p place s) := by
  unfold execRegistrationResult
  split
  · exact .next _
  · refine answers_ite (.next _) ?_
    dsimp only
    split <;> exact .next _

theorem execBindRecordWrite_answers (slot : Fin 128) (words : List Word) : Answers (execBindRecordWrite slot words s) := by
  unfold execBindRecordWrite
  dsimp only
  exact answers_ite (answers_ite (.next _) (.next _)) (answers_ite (.next _) (answers_ite (.next _) (.next _)))

theorem execSliceEnd_answers (c : Nat) : Answers (execSliceEnd c s) := by
  unfold execSliceEnd
  split
  · exact .next _
  · refine answers_ite (.next _) ?_
    split
    · exact .next _
    · exact answers_ite (.next _) (answers_ite (.next _) (.next _))

theorem execStarvationBind_answers (p : Fin 16) (isGraph : Bool) (handle : Nat) : Answers (execStarvationBind p isGraph handle s) := by
  unfold execStarvationBind
  dsimp only
  split
  · exact .next _
  · exact answers_ite (.next _) (.next _)

theorem execRoutineBoundExpiry_answers (c : Nat) : Answers (execRoutineBoundExpiry c s) := by
  unfold execRoutineBoundExpiry
  split
  · exact answers_ite (.next _) (.next _)
  · exact .next _

theorem execFinishBoundExpiry_answers (c : Nat) : Answers (execFinishBoundExpiry c s) := by
  unfold execFinishBoundExpiry
  split
  · exact answers_ite (.next _) (.next _)
  · exact .next _

theorem execFrameGrant_answers (p : Fin 16) (frame : Nat) : Answers (execFrameGrant p frame s) := by
  unfold execFrameGrant
  split <;> exact .next _

theorem execPatrolScrub_answers (line : Nat) (found : ScrubFind) : Answers (execPatrolScrub line found s) := by
  refine answers_ite (.next _) ?_
  cases found with
  | clean => exact .next _
  | corrected => exact .next _
  | uncorrectable => exact answers_ite (.next _) (.next _)

theorem execTuiturWrite_answers (m : Msg) : Answers (execTuiturWrite m s) := by
  unfold execTuiturWrite
  split <;> exact .next _

theorem execTuiturResponse_answers (m : Msg) : Answers (execTuiturResponse m s) := by
  refine answers_ite (.next _) ?_
  split <;> exact .next _

theorem execTuiturAck_answers (m : Msg) : Answers (execTuiturAck m s) := by
  unfold execTuiturAck
  split
  · exact .next _
  · exact answers_ite (answers_ite (.next _) (.next _)) (answers_ite (.next _) (.next _))

theorem execTuiturCopyData_answers (m : Msg) : Answers (execTuiturCopyData m s) := by
  unfold execTuiturCopyData
  split
  · exact .next _
  · exact answers_ite (.next _) (.next _)

theorem execRdmaCompletion_answers (qp : Nat) (data : List Byte) (ok : Bool) : Answers (execRdmaCompletion qp data ok s) := by
  unfold execRdmaCompletion
  split
  · exact .next _
  · split <;> exact .next _

theorem execUpdateTakeover_answers : Answers (execUpdateTakeover s) := by
  unfold execUpdateTakeover
  split
  · exact .next _
  · exact answers_ite (.next _) (answers_ite (.next _) (.next _))

theorem execStallSample_answers (c : Nat) : Answers (execStallSample c s) := by
  refine answers_ite (.next _) ?_
  dsimp only
  split
  · exact .next _
  · split <;> exact .next _

/-- A register write is performed, or kept in a pause where it is a port's (R219, R359). -/
theorem State.registerWritten_answers (link : Fin 2) (r : RegAddr) (n : Nat) (w : BitVec 128) : Answers (s.registerWritten link r n w) := by
  unfold State.registerWritten
  refine answers_ite ?_ ?_
  · cases r <;> exact .next _
  · cases r with
    | block p ofs => exact .next _
    | pf0 ofs =>
      dsimp only
      split <;> exact .next _
    | port p ofs | pf0Port p ofs => exact portFrame_answers _

end Conditions

/-- No event needs an agent, but for CLAUSE_START. -/
theorem event_answers {i : Instr} (h : isEvent i = true) (hs : i ≠ .clauseStart) (s : State) : Answers (exec i s) := by
  cases i with
  | clauseStart => exact absurd rfl hs
  | loadComplete | loadRefusedOrLost | storeComplete | atomicComplete | cpaComplete | fenceComplete | gconfComplete | contComplete
  | enqComplete | grdComplete | layoutRecordRead => exact opFrame_answers _ _
  | resumeRetry | resumeFail => exact answers_ite (.next _) (hostFrame_answers fun _ => portFrame_answers _)
  | tailWrite | launchWord => exact hostFrame_answers fun _ => portFrame_answers _
  | launchFrame => exact answers_ite (.next _) (portFrame_answers _)
  | gclrStart | register | unregister | tlbInvalidate => exact hostFrame_answers fun _ => .next _
  | bar4Read => exact answers_ite (.next _) (answers_ite (.next _) (hostFrame_answers fun _ => .next _))
  | bar4Write => exact answers_ite (.next _) (hostFrame_answers fun _ => .next _)
  | registerWrite => exact answers_ite (.next _) (hostFrame_answers fun _ => State.registerWritten_answers ..)
  | rdmaWrite | rdmaWriteWithImmediate | rdmaRead => exact rdmaFrame_answers _ _
  | gclrDone | tlbInvalidateDone | standbyTakeover | skewMeasure | linkDead => exact answers_ite (.next _) (.next _)
  | liveUpdate | debugRightRevoke => exact answers_ite (.next _) (answers_ite (.next _) (.next _))
  | bindRecordWrite => exact execBindRecordWrite_answers ..
  | cwaitConditionMet => exact execCwaitConditionMet_answers ..
  | monitorFire => exact execMonitorFire_answers ..
  | growGrant => exact execGrowGrant_answers ..
  | blockStart => exact execBlockStart_answers ..
  | instanceComplete => exact execInstanceComplete_answers ..
  | gatheringWindowExpiry => exact execGatheringWindowExpiry_answers ..
  | recordBandStart => exact execRecordBandStart_answers ..
  | registrationResult => exact execRegistrationResult_answers ..
  | sliceEnd => exact execSliceEnd_answers ..
  | starvationBind => exact execStarvationBind_answers ..
  | routineBoundExpiry => exact execRoutineBoundExpiry_answers ..
  | finishBoundExpiry => exact execFinishBoundExpiry_answers ..
  | frameGrant => exact execFrameGrant_answers ..
  | patrolScrub => exact execPatrolScrub_answers ..
  | tuiturWrite => exact execTuiturWrite_answers ..
  | tuiturResponse => exact execTuiturResponse_answers ..
  | tuiturAck => exact execTuiturAck_answers ..
  | tuiturCopyData => exact execTuiturCopyData_answers ..
  | rdmaCompletion => exact execRdmaCompletion_answers ..
  | updateTakeover => exact execUpdateTakeover_answers ..
  | stallSample => exact execStallSample_answers ..
  | copyBytesLanded | engineCommandComplete | blockEnd | queueEnable | queueDisable | queueRestart | queueSwapReadback | unbind
  | recallCommand | frameScrub => exact .next _
  | tuiturRead | tuiturAtomic | tuiturGradedWrite | tuiturRefire | tuiturCancelToken | linkRejoin | roceDoorbell => exact .next _
  | reset | recoveryAppend | recoveryCommitA | recoveryCommitB | recoveryReset | throttle | throttleEnd | thermalShutdown
  | inServiceSelfTestFailure | spdmRequest => exact .next _
  | debugHalt | debugResume | debugStep | debugReadRegister | debugWriteRegister | debugHaltAll | debugResumeAll | debugRightGrant
  | debugHitRead => exact .next _
  | _ => exact nomatch h

/-- Settles O51: each kind of word runs in the frame of its agents, and every branch of an event ends in a next state. -/
theorem everyStepAnswers : Obligations.EveryStepAnswers := by
  intro i s
  refine ⟨fun he hs => event_answers he hs s, fun h => ?_, fun hc => (runsInStream_of_isCommand hc).answers s⟩
  have hparty : AnswersToParty i := by
    rcases h with hl | hu | rfl
    · exact (frame_of_lane hl).elim RunsAlone.answers RunsAsBand.answers
    · exact (runsUniform_of_isUniform hu).answers
    · exact clauseStart_answers
  exact hparty s

end Sys2Proof.Machine
end
